-- ==== Sys2Proof/Word.lean ====
section
/-! DEFINITION. The machine's word, byte and register-field types, and the plain names by which
steps of the machine refer to places, contexts, queues and streams. -/

namespace Sys2Proof

/-- A 64-bit register, address or operand. -/
abbrev Word := BitVec 64

/-- One byte of memory. -/
abbrev Byte := BitVec 8

/-- A register field (R33): bit 5 chooses the bank, bits 4:0 the register. -/
abbrev Reg := BitVec 6

/-- A core of a device; `core` is a CORE value (R9). -/
structure CoreId where
  peer : Nat
  core : Nat
  deriving DecidableEq, Repr

/-- A slot of a core (R10). -/
structure Place where
  peer : Nat
  core : Nat
  slot : Nat
  deriving DecidableEq, Repr

/-- A context of a device, by its 14-bit id (R22). -/
structure CtxId where
  peer : Nat
  id : Nat
  deriving DecidableEq, Repr

/-- A packet stream (R182, R221): FS between devices, DS between districts of device `peer`. -/
structure StreamKey where
  fabric : Bool
  peer : Nat
  src : Nat
  dst : Nat
  ctx : Nat
  deriving DecidableEq, Repr

/-- A queue in which packets wait (R210, part XQ). -/
inductive XQ where
  | crossing (peer dist : Nat)
  | homeIn (peer dist qtr : Nat)
  | handlerIn (peer core : Nat)
  | fabTx (peer plane : Nat)
  | fabRx (peer plane : Nat)
  | shaping (peer ctx site : Nat)
  | window (k : StreamKey)
  /-- where a packet waits whose first queue does not take it: the output of its district (R233) -/
  | source (peer dist : Nat)
  deriving DecidableEq, Repr

/-- An external write (R220): one that no region's commit makes. -/
inductive ExtWrite where
  /-- a buffered write of a command, by its place among those that are still to be performed -/
  | command (cid n : Nat)
  /-- a write from the host port, at a physical address of a device's memory -/
  | host (pa : Nat) (bytes : List Byte)
  deriving DecidableEq, Repr

/-- A detected error (R151). -/
inductive Ecc where
  | corrected (peer : Nat)
  /-- an uncorrectable error in committed memory, by line number -/
  | line (n : Nat)
  /-- an uncorrectable error in a slot's private registers, its region buffer, or data that its
  uncommitted region read -/
  | slot (p : Place)
  /-- an uncorrectable error in state that belongs to a context: checkpoint, shared register, table -/
  | context (c : CtxId)
  deriving DecidableEq, Repr

/-- One island's sensor reading: island number and temperature in units of 1/16 degree. -/
structure Reading where
  island : Nat
  temp : Int
  deriving DecidableEq, Repr

/-- The four parts of a CORE value (R9). -/
def coreDist (c : Nat) : Nat := c / 1024 % 8
def coreQtr (c : Nat) : Nat := c / 256 % 4
def coreGrp (c : Nat) : Nat := c / 4 % 64
def coreIdx (c : Nat) : Nat := c % 256

/-- A CORE value that names a core: its group is at most 47 (R9). -/
def coreOk (c : Nat) : Bool := decide (c < 8192) && decide (coreGrp c ≤ 47)

end Sys2Proof
end

