-- ==== Sys2Proof/Syntax.lean ====
section
/-! DEFINITION. The instruction set, whole: one constructor for each row of spec/opcode_table.json.
The first 271 rows are 32-bit instruction words (R31 to R39); their operands are the word's fields.
The other 97 rows are steps of the machine, of the host or of time (spec/95_what_each_step_holds.md);
their operands are plain data that says which packet, command, context or record the step is about. -/

namespace Sys2Proof

inductive Instr where
  /-- ADD R80: Adds two registers, wrapping, at .d or .w width. -/
  | add (w : Bool) (d a b : Reg)
  /-- SUB R80: Subtracts b from a, wrapping. -/
  | sub (w : Bool) (d a b : Reg)
  /-- ADDV R81: Adds and traps OVERFLOW when the exact sum leaves the signed range, leaving d unchanged. -/
  | addv (w : Bool) (d a b : Reg)
  /-- SUBV R81: Subtracts and traps OVERFLOW when the exact difference leaves the signed range. -/
  | subv (w : Bool) (d a b : Reg)
  /-- MUL R80: Writes the low n bits of the signed product. -/
  | mul (w : Bool) (d a b : Reg)
  /-- MULH R80: Writes the high n bits of the exact signed product. -/
  | mulh (w : Bool) (d a b : Reg)
  /-- MULHU R80: Writes the high n bits of the exact unsigned product. -/
  | mulhu (w : Bool) (d a b : Reg)
  /-- MADD R80: Adds the low n bits of a times b to d, wrapping. -/
  | madd (w : Bool) (d a b : Reg)
  /-- DIV R82: Signed division truncating toward zero, with fixed results for zero divisor and MIN by −1. -/
  | div (w : Bool) (d a b : Reg)
  /-- DIVU R82: Unsigned division; divisor zero gives all ones. -/
  | divu (w : Bool) (d a b : Reg)
  /-- REM R82: Signed remainder with the dividend's sign; divisor zero returns the dividend. -/
  | rem (w : Bool) (d a b : Reg)
  /-- REMU R82: Unsigned remainder; divisor zero returns the dividend. -/
  | remu (w : Bool) (d a b : Reg)
  /-- DIVV R82: Signed division that traps DIVZERO or OVERFLOW instead of returning a fixed value. -/
  | divv (w : Bool) (d a b : Reg)
  /-- ABS R80: Writes the absolute value, with ABS of MIN giving MIN. -/
  | abs (w : Bool) (d a : Reg)
  /-- MIN R80: Writes the signed smaller operand. -/
  | min (w : Bool) (d a b : Reg)
  /-- MAX R80: Writes the signed larger operand. -/
  | max (w : Bool) (d a b : Reg)
  /-- MINU R80: Writes the unsigned smaller operand. -/
  | minu (w : Bool) (d a b : Reg)
  /-- MAXU R80: Writes the unsigned larger operand. -/
  | maxu (w : Bool) (d a b : Reg)
  /-- AND R80: Bitwise AND. -/
  | and (w : Bool) (d a b : Reg)
  /-- OR R80: Bitwise OR. -/
  | or (w : Bool) (d a b : Reg)
  /-- XOR R80: Bitwise XOR. -/
  | xor (w : Bool) (d a b : Reg)
  /-- ANDN R80: Bitwise a AND NOT b. -/
  | andn (w : Bool) (d a b : Reg)
  /-- SHL R83: Shifts left by the low bits of b. -/
  | shl (w : Bool) (d a b : Reg)
  /-- SHR R83: Shifts right logically by the low bits of b. -/
  | shr (w : Bool) (d a b : Reg)
  /-- SRA R83: Shifts right arithmetically by the low bits of b. -/
  | sra (w : Bool) (d a b : Reg)
  /-- ROL R83: Rotates left within n bits. -/
  | rol (w : Bool) (d a b : Reg)
  /-- CLZ R83: Counts leading zeros. -/
  | clz (w : Bool) (d a : Reg)
  /-- CTZ R83: Counts trailing zeros. -/
  | ctz (w : Bool) (d a : Reg)
  /-- POPC R83: Counts one bits. -/
  | popc (w : Bool) (d a : Reg)
  /-- BREV R83: Reverses the bit order within n bits. -/
  | brev (w : Bool) (d a : Reg)
  /-- SEQ R84: Writes 1 when the operands are equal, else 0. -/
  | seq (w : Bool) (d a b : Reg)
  /-- SNE R84: Writes 1 when the operands differ, else 0. -/
  | sne (w : Bool) (d a b : Reg)
  /-- SLT R84: Writes 1 when a is signed-less than b. -/
  | slt (w : Bool) (d a b : Reg)
  /-- SLTU R84: Writes 1 when a is unsigned-less than b. -/
  | sltu (w : Bool) (d a b : Reg)
  /-- SEL R84: Selects a or b by the condition held in d and writes it to d. -/
  | sel (w : Bool) (d a b : Reg)
  /-- ADDI R85: Adds a sign-extended 13-bit immediate. -/
  | addi (d a : Reg) (imm : BitVec 13)
  /-- ANDI R85: ANDs with a sign-extended immediate. -/
  | andi (d a : Reg) (imm : BitVec 13)
  /-- ORI R85: ORs with a sign-extended immediate. -/
  | ori (d a : Reg) (imm : BitVec 13)
  /-- XORI R85: XORs with a sign-extended immediate. -/
  | xori (d a : Reg) (imm : BitVec 13)
  /-- SLTI R85: Writes 1 when a is signed-less than the immediate. -/
  | slti (d a : Reg) (imm : BitVec 13)
  /-- SHLI R86: Shifts left by an immediate amount. -/
  | shli (w : Bool) (d a : Reg) (amt : BitVec 6)
  /-- SHRI R86: Shifts right logically by an immediate amount. -/
  | shri (w : Bool) (d a : Reg) (amt : BitVec 6)
  /-- SRAI R86: Shifts right arithmetically by an immediate amount. -/
  | srai (w : Bool) (d a : Reg) (amt : BitVec 6)
  /-- BFX R87: Extracts a bit field zero-extended. -/
  | bfx (d a : Reg) (width1 pos : BitVec 6)
  /-- BFXS R87: Extracts a bit field sign-extended. -/
  | bfxs (d a : Reg) (width1 pos : BitVec 6)
  /-- BFI R87: Inserts the low bits of a into a field of d. -/
  | bfi (d a : Reg) (width1 pos : BitVec 6)
  /-- LI R88: Loads a sign-extended 19-bit immediate. -/
  | li (d : Reg) (imm : BitVec 19)
  /-- LIH R88: Shifts d left by 19 and ORs in the immediate. -/
  | lih (d : Reg) (imm : BitVec 19)
  /-- ADDPC R88: Writes PC plus a word offset. -/
  | addpc (d : Reg) (imm : BitVec 19)
  /-- LDL R46: Reads 8 bytes of pool words of the image's text. -/
  | ldl (d : Reg) (imm : BitVec 19)
  /-- FADD R37: FP addition with RNE. -/
  | fadd (p : Bool) (d a b : Reg)
  /-- FSUB R37: FP subtraction with RNE. -/
  | fsub (p : Bool) (d a b : Reg)
  /-- FMUL R37: FP multiplication with RNE. -/
  | fmul (p : Bool) (d a b : Reg)
  /-- FDIV R37: FP division with RNE. -/
  | fdiv (p : Bool) (d a b : Reg)
  /-- FMADD R37: Fused d plus a times b with one rounding. -/
  | fmadd (p : Bool) (d a b : Reg)
  /-- FMIN R37: FP minimum with −0 below +0 and NaN rules. -/
  | fmin (p : Bool) (d a b : Reg)
  /-- FMAX R37: FP maximum. -/
  | fmax (p : Bool) (d a b : Reg)
  /-- FABS R37: Clears the sign bit. -/
  | fabs (p : Bool) (d a : Reg)
  /-- FNEG R37: Inverts the sign bit. -/
  | fneg (p : Bool) (d a : Reg)
  /-- FSQRT R37: Correctly rounded square root. -/
  | fsqrt (p : Bool) (d a : Reg)
  /-- FCMPEQ R37: Writes 1 when the FP operands are equal. -/
  | fcmpeq (p : Bool) (d a b : Reg)
  /-- FCMPLT R37: Writes 1 when a is less than b. -/
  | fcmplt (p : Bool) (d a b : Reg)
  /-- FCMPLE R37: Writes 1 when a is at most b. -/
  | fcmple (p : Bool) (d a b : Reg)
  /-- FCVTIF R37: Converts a signed 64-bit integer to FP. -/
  | fcvtif (p : Bool) (d a : Reg)
  /-- FCVTFI R37: Converts FP to a saturated signed integer toward zero. -/
  | fcvtfi (p : Bool) (d a : Reg)
  /-- FCVTW R37: Converts between FP64 and FP32. -/
  | fcvtw (p : Bool) (d a : Reg)
  /-- FMVIF R37: Moves integer bits to an FP register. -/
  | fmvif (p : Bool) (d a : Reg)
  /-- FMVFI R37: Moves FP register bits to an integer register. -/
  | fmvfi (p : Bool) (d a : Reg)
  /-- BEQ R89: Branches when a equals b. -/
  | beq (a b : Reg) (off : BitVec 13)
  /-- BNE R89: Branches when a differs from b. -/
  | bne (a b : Reg) (off : BitVec 13)
  /-- BLT R89: Branches when a is signed-less than b. -/
  | blt (a b : Reg) (off : BitVec 13)
  /-- BGE R89: Branches when a is signed-at-least b. -/
  | bge (a b : Reg) (off : BitVec 13)
  /-- BLTU R89: Branches when a is unsigned-less than b. -/
  | bltu (a b : Reg) (off : BitVec 13)
  /-- BGEU R89: Branches when a is unsigned-at-least b. -/
  | bgeu (a b : Reg) (off : BitVec 13)
  /-- J R90: Jumps to PC plus a word offset. -/
  | j (off : BitVec 25)
  /-- CALL R91: Pushes a window frame and jumps to PC plus offset. -/
  | call (off : BitVec 25)
  /-- LOOP R66: Sets a hardware loop level with a register count. -/
  | loop (lvl : Bool) (a : Reg) (off : BitVec 18)
  /-- LOOPI R66: Sets a hardware loop level with an immediate count. -/
  | loopi (lvl : Bool) (n : BitVec 6) (off : BitVec 18)
  /-- RPT R69: Captures a repeat frame and replays it count times with staggered registers. -/
  | rpt (len1 : BitVec 4) (mask : BitVec 3) (stp : BitVec 5) (a : Reg)
  /-- CSRR R96: Reads a control register. -/
  | csrr (d : Reg) (csr : BitVec 13)
  /-- CSRW R96: Writes a control register after its checks. -/
  | csrw (a : Reg) (csr : BitVec 13)
  /-- CSRS R96: Sets bits of a control register. -/
  | csrs (a : Reg) (csr : BitVec 13)
  /-- CSRC R96: Clears bits of a control register. -/
  | csrc (a : Reg) (csr : BitVec 13)
  /-- NOP R107: Occupies one issue position and changes nothing. -/
  | nop
  /-- ERET R73: Returns from a trap, restoring loop levels and resuming at TPC or the replay. -/
  | eret
  /-- BRK R105: Raises a BREAK trap. -/
  | brk
  /-- QUIT R108: Commits the region, releases streams and claims, and retires the thread. -/
  | quit
  /-- JR R90: Jumps to the address in a. -/
  | jr (a : Reg)
  /-- CALLR R91: Pushes a window frame and jumps to the address in a. -/
  | callr (a : Reg)
  /-- RET R91: Restores the window and PC from the top frame, committing below the opening depth. -/
  | ret
  /-- LBRK R68: Clears a loop level. -/
  | lbrk (lvl : Bool)
  /-- WFLUSH R95: Writes every frame not yet in the window area and stalls until done. -/
  | wflush
  /-- LD_B_SX R100: Loads a byte sign-extended. -/
  | ldBSx (d a : Reg) (la : BitVec 4) (off : BitVec 9)
  /-- LD_B_ZX R100: Loads a byte zero-extended. -/
  | ldBZx (d a : Reg) (la : BitVec 4) (off : BitVec 9)
  /-- LD_H_SX R100: Loads a half-word sign-extended. -/
  | ldHSx (d a : Reg) (la : BitVec 4) (off : BitVec 9)
  /-- LD_H_ZX R100: Loads a half-word zero-extended. -/
  | ldHZx (d a : Reg) (la : BitVec 4) (off : BitVec 9)
  /-- LD_W_SX R100: Loads a word sign-extended. -/
  | ldWSx (d a : Reg) (la : BitVec 4) (off : BitVec 9)
  /-- LD_W_ZX R100: Loads a word zero-extended. -/
  | ldWZx (d a : Reg) (la : BitVec 4) (off : BitVec 9)
  /-- LD_D R100: Loads 8 bytes, migrating for a far .m access. -/
  | ldD (d a : Reg) (la : BitVec 4) (off : BitVec 9)
  /-- LDX_B_SX R99: Indexed byte load, sign-extended. -/
  | ldxBSx (d a b : Reg) (la : BitVec 4)
  /-- LDX_B_ZX R99: Indexed byte load, zero-extended. -/
  | ldxBZx (d a b : Reg) (la : BitVec 4)
  /-- LDX_H_SX R99: Indexed half-word load, sign-extended. -/
  | ldxHSx (d a b : Reg) (la : BitVec 4)
  /-- LDX_H_ZX R99: Indexed half-word load, zero-extended. -/
  | ldxHZx (d a b : Reg) (la : BitVec 4)
  /-- LDX_W_SX R99: Indexed word load, sign-extended. -/
  | ldxWSx (d a b : Reg) (la : BitVec 4)
  /-- LDX_W_ZX R99: Indexed word load, zero-extended. -/
  | ldxWZx (d a b : Reg) (la : BitVec 4)
  /-- LDX_D R99: Indexed 8-byte load. -/
  | ldxD (d a b : Reg) (la : BitVec 4)
  /-- ST_B R101: Buffers a byte store in the region. -/
  | stB (d a : Reg) (off : BitVec 9)
  /-- ST_H R101: Buffers a half-word store. -/
  | stH (d a : Reg) (off : BitVec 9)
  /-- ST_W R101: Buffers a word store. -/
  | stW (d a : Reg) (off : BitVec 9)
  /-- ST_D R101: Buffers an 8-byte store. -/
  | stD (d a : Reg) (off : BitVec 9)
  /-- STX_B R101: Indexed byte store. -/
  | stxB (d a b : Reg)
  /-- STX_H R101: Indexed half-word store. -/
  | stxH (d a b : Reg)
  /-- STX_W R101: Indexed word store. -/
  | stxW (d a b : Reg)
  /-- STX_D R101: Indexed 8-byte store. -/
  | stxD (d a b : Reg)
  /-- LDP R239: Loads 16 bytes into an even register pair in one access. -/
  | ldp (d : BitVec 5) (a : Reg) (la : BitVec 4) (off : BitVec 9)
  /-- STP R239: Buffers a 16-byte store of a register pair. -/
  | stp (d : BitVec 5) (a : Reg) (off : BitVec 9)
  /-- LDA_W R240: Acquiring word load. -/
  | ldaW (d a b : Reg) (la : BitVec 4)
  /-- LDA_D R240: Acquiring 8-byte load. -/
  | ldaD (d a b : Reg) (la : BitVec 4)
  /-- STL_W R241: Buffered word store-release carrying its stream's count. -/
  | stlW (d a b : Reg)
  /-- STL_D R241: Buffered 8-byte store-release. -/
  | stlD (d a b : Reg)
  /-- STL_G_W R224: Word release held until every earlier packet of the slot is acknowledged. -/
  | stlGW (d a b : Reg)
  /-- STL_G_D R224: 8-byte global release. -/
  | stlGD (d a b : Reg)
  /-- LDF_B_SX R242: Non-migrating byte fetch, sign-extended. -/
  | ldfBSx (d a b : Reg) (la : BitVec 4)
  /-- LDF_B_ZX R242: Non-migrating byte fetch, zero-extended. -/
  | ldfBZx (d a b : Reg) (la : BitVec 4)
  /-- LDF_H_SX R242: Non-migrating half-word fetch, sign-extended. -/
  | ldfHSx (d a b : Reg) (la : BitVec 4)
  /-- LDF_H_ZX R242: Non-migrating half-word fetch, zero-extended. -/
  | ldfHZx (d a b : Reg) (la : BitVec 4)
  /-- LDF_W_SX R242: Non-migrating word fetch, sign-extended. -/
  | ldfWSx (d a b : Reg) (la : BitVec 4)
  /-- LDF_W_ZX R242: Non-migrating word fetch, zero-extended. -/
  | ldfWZx (d a b : Reg) (la : BitVec 4)
  /-- LDF_D R242: Non-migrating 8-byte fetch. -/
  | ldfD (d a b : Reg) (la : BitVec 4)
  /-- PREF R243: Prefetch hint that may fill a cache line or request a page. -/
  | pref (a b : Reg)
  /-- AADD R245: Atomic add returning the old value. -/
  | aadd (w : Bool) (d a b : Reg) (la : BitVec 4)
  /-- AAND R245: Atomic AND returning the old value. -/
  | aand (w : Bool) (d a b : Reg) (la : BitVec 4)
  /-- AOR R245: Atomic OR returning the old value. -/
  | aor (w : Bool) (d a b : Reg) (la : BitVec 4)
  /-- AXOR R245: Atomic XOR returning the old value. -/
  | axor (w : Bool) (d a b : Reg) (la : BitVec 4)
  /-- AMIN R245: Atomic signed minimum. -/
  | amin (w : Bool) (d a b : Reg) (la : BitVec 4)
  /-- AMAX R245: Atomic signed maximum. -/
  | amax (w : Bool) (d a b : Reg) (la : BitVec 4)
  /-- AMINU R245: Atomic unsigned minimum. -/
  | aminu (w : Bool) (d a b : Reg) (la : BitVec 4)
  /-- AMAXU R245: Atomic unsigned maximum. -/
  | amaxu (w : Bool) (d a b : Reg) (la : BitVec 4)
  /-- AADD_P R246: Posted atomic add, buffered and sent at commit. -/
  | aaddP (w : Bool) (a b : Reg)
  /-- AAND_P R246: Posted atomic AND. -/
  | aandP (w : Bool) (a b : Reg)
  /-- AOR_P R246: Posted atomic OR. -/
  | aorP (w : Bool) (a b : Reg)
  /-- AXOR_P R246: Posted atomic XOR. -/
  | axorP (w : Bool) (a b : Reg)
  /-- AMIN_P R246: Posted atomic signed minimum. -/
  | aminP (w : Bool) (a b : Reg)
  /-- AMAX_P R246: Posted atomic signed maximum. -/
  | amaxP (w : Bool) (a b : Reg)
  /-- AMINU_P R246: Posted atomic unsigned minimum. -/
  | aminuP (w : Bool) (a b : Reg)
  /-- AMAXU_P R246: Posted atomic unsigned maximum. -/
  | amaxuP (w : Bool) (a b : Reg)
  /-- ASWP R245: Atomic swap returning the old value. -/
  | aswp (w : Bool) (d a b : Reg) (la : BitVec 4)
  /-- ACAS R245: Atomic compare-and-swap with d as compare value. -/
  | acas (w : Bool) (d a b : Reg) (la : BitVec 4)
  /-- AFADD R245: Atomic FP add with RNE returning the old value. -/
  | afadd (w : Bool) (d a b : Reg) (la : BitVec 4)
  /-- AFMIN R245: Atomic FP minimum. -/
  | afmin (w : Bool) (d a b : Reg) (la : BitVec 4)
  /-- AFMAX R245: Atomic FP maximum. -/
  | afmax (w : Bool) (d a b : Reg) (la : BitVec 4)
  /-- ASWP_P R246: Posted atomic swap. -/
  | aswpP (w : Bool) (a b : Reg)
  /-- ACAS_P R246: Posted compare-and-swap reading d as compare value. -/
  | acasP (w : Bool) (d a b : Reg)
  /-- AFADD_P R246: Posted atomic FP add. -/
  | afaddP (w : Bool) (a b : Reg)
  /-- AFMIN_P R246: Posted atomic FP minimum. -/
  | afminP (w : Bool) (a b : Reg)
  /-- AFMAX_P R246: Posted atomic FP maximum. -/
  | afmaxP (w : Bool) (a b : Reg)
  /-- RGN R247: Commits the current region and opens an explicit region with a timestamp. -/
  | rgn (a : Reg)
  /-- CMT R247: Commits and opens an implicit untimed region. -/
  | cmt
  /-- ABRT R247: Aborts the current region without counting. -/
  | abrt
  /-- RGNQ R248: Returns the region word. -/
  | rgnq (d : Reg)
  /-- FENCE R223: Stalls until the slot's accesses in district or device scope are performed. -/
  | fence (dist : Bool)
  /-- FENCEP R223: Stalls until every fabric packet the slot sent is acknowledged. -/
  | fencep
  /-- IFENCE R228: Drops the slot's fetched words so later fetches see current text. -/
  | ifence
  /-- LFENCE R227: At commit drops the context's layout-record copies. -/
  | lfence
  /-- TFENCE R250: At commit drops cached translations of the context. -/
  | tfence
  /-- QFENCE R226: Orders commands of the named queues after those already in them. -/
  | qfence (mask : BitVec 6)
  /-- VFENCE R298: Stalls until the slot's committed vector commands complete. -/
  | vfence
  /-- VWAIT R298: Stalls until every vector command of the core present at issue completes. -/
  | vwait
  /-- GO R251: Commits and migrates the thread to the district holding the address. -/
  | go (a : Reg)
  /-- GOHOME R252: Commits and moves the thread to its aperture or launch core. -/
  | gohome
  /-- AMSG R253: Buffers an active message that runs a handler on a core of the quarter. -/
  | amsg (a b : Reg)
  /-- BARSET R256: At commit sets a barrier's expected count and STAT flag. -/
  | barset (a b : Reg)
  /-- BARREG R256: Registers the thread with its core on a barrier. -/
  | barreg (a : Reg)
  /-- BARA R256: Makes one barrier arrival at commit. -/
  | bara (a : Reg)
  /-- BARW R256: Commits and waits until the barrier phase differs from b. -/
  | barw (a b : Reg)
  /-- BARAW R256: Arrives at commit, then waits as BARW. -/
  | baraw (a b : Reg)
  /-- JSET R256: Buffered store of a value to a join counter. -/
  | jset (a b : Reg)
  /-- JDEC R256: Buffered saturating decrement of a join counter. -/
  | jdec (a : Reg)
  /-- JWAIT R256: Commits and waits until the join counter reads 0, donating the slot for its own grid. -/
  | jwait (a : Reg)
  /-- RLOCK R260: Locks the covering range entry into one of the slot's locked entries. -/
  | rlock (a : Reg)
  /-- RUNLK R260: Releases the locked entry covering a. -/
  | runlk (a : Reg)
  /-- RPRE R260: Fills the range TLB and range cache for a. -/
  | rpre (a : Reg)
  /-- LATEQ R261: Returns the slot's late-reply count. -/
  | lateq (d : Reg)
  /-- SLK R261: Sets the slot's slack for issued packets. -/
  | slk (n : BitVec 12)
  /-- SLK_ONCE R51: Gives the next issued instruction a one-time slack value. -/
  | slkOnce (n : BitVec 12)
  /-- TRAP R105: Raises a software trap with the immediate as TVAL. -/
  | trap (imm : BitVec 19)
  /-- PRESENT R164: Presents a warrant, slip, certificate or declaration from program memory. -/
  | present (d a b : Reg) (la : BitVec 4)
  /-- WSPLIT R167: Carves a child warrant from the holder's grant. -/
  | wsplit (d a b : Reg) (la : BitVec 4)
  /-- WDELEG R168: Writes a child's slip and posts it to the doorway event ring. -/
  | wdeleg (d a b : Reg) (la : BitVec 4)
  /-- WACCEPT R166: Presents a slip with an argument and the acceptor's doorway. -/
  | waccept (d a b : Reg) (la : BitVec 4)
  /-- WSURR R169: Surrenders the whole context or part of its grant. -/
  | wsurr (d a b : Reg) (la : BitVec 4)
  /-- WAMEND R171: Applies a signed resize or new-code amendment to a root. -/
  | wamend (d a b : Reg) (la : BitVec 4)
  /-- WQRY R172: Reads one item of the context's or a child's warrant state. -/
  | wqry (d a b : Reg) (la : BitVec 4)
  /-- CAPRD R173: Reads a capability-table entry or header in one update-free interval. -/
  | caprd (d a b : Reg) (la : BitVec 4)
  /-- DTIME R174: Returns device time when its uncertainty is within a bound. -/
  | dtime (d a : Reg) (la : BitVec 4)
  /-- TNONCE R175: Draws a fresh outstanding nonce and writes it. -/
  | tnonce (d a : Reg) (la : BitVec 4)
  /-- CKPT R176: Writes a thread image of the issuing thread. -/
  | ckpt (d a b : Reg) (la : BitVec 4)
  /-- EVWAIT R178: Commits and waits for one matching event, writing its record. -/
  | evwait (d a b : Reg) (la : BitVec 4)
  /-- EVPOST R179: Buffers a program event posted to a slot at commit. -/
  | evpost (a b : Reg)
  /-- RLIMQ R180: Reads a bandwidth limiter's level or rate. -/
  | rlimq (d a : Reg) (la : BitVec 4)
  /-- EVRD R303: Commits and takes the oldest held completion record. -/
  | evrd (d a : Reg) (la : BitVec 4)
  /-- SCFG R263: Takes or re-bases a stream engine with a base and configuration. -/
  | scfg (d a b : Reg) (la : BitVec 4)
  /-- SBND R264: Gives a held engine its bounds from a record. -/
  | sbnd (d a b : Reg) (la : BitVec 4)
  /-- SMAP R265: Maps a held engine onto a stream name. -/
  | smap (d a b : Reg) (la : BitVec 4)
  /-- SUNMAP R265: Unmaps a stream name and releases its engine. -/
  | sunmap (d a : Reg) (la : BitVec 4)
  /-- SQRY R289: Returns a stream engine's state word. -/
  | sqry (d a : Reg) (la : BitVec 4)
  /-- VADD R293: Vector elementwise addition command. -/
  | vadd (sd sa sb : BitVec 2) (a b : Reg)
  /-- VSUB R293: Vector elementwise subtraction command. -/
  | vsub (sd sa sb : BitVec 2) (a b : Reg)
  /-- VMUL R266: Vector elementwise multiplication command. -/
  | vmul (sd sa sb : BitVec 2) (a b : Reg)
  /-- VFMA R293: Vector fused multiply-add command. -/
  | vfma (sd sa sb : BitVec 2) (a b : Reg)
  /-- VFMS R293: Vector fused multiply-subtract command. -/
  | vfms (sd sa sb : BitVec 2) (a b : Reg)
  /-- VDIV R293: Vector division command. -/
  | vdiv (sd sa sb : BitVec 2) (a b : Reg)
  /-- VMIN R293: Vector minimum command. -/
  | vmin (sd sa sb : BitVec 2) (a b : Reg)
  /-- VMAX R293: Vector maximum command. -/
  | vmax (sd sa sb : BitVec 2) (a b : Reg)
  /-- VABS R293: Vector absolute value command. -/
  | vabs (sd sa : BitVec 2) (a b : Reg)
  /-- VCVT R294: Vector type conversion command. -/
  | vcvt (sd sa : BitVec 2) (a b : Reg)
  /-- VCMP R293: Vector comparison command writing all-ones masks. -/
  | vcmp (sd sa sb : BitVec 2) (a b : Reg)
  /-- VSEL R293: Vector select command. -/
  | vsel (sd sa sb : BitVec 2) (a b : Reg)
  /-- VAND R293: Vector bitwise AND command. -/
  | vand (sd sa sb : BitVec 2) (a b : Reg)
  /-- VOR R293: Vector bitwise OR command. -/
  | vor (sd sa sb : BitVec 2) (a b : Reg)
  /-- VXOR R293: Vector bitwise XOR command. -/
  | vxor (sd sa sb : BitVec 2) (a b : Reg)
  /-- VSHL R293: Vector shift-left command. -/
  | vshl (sd sa sb : BitVec 2) (a b : Reg)
  /-- VSHR R293: Vector shift-right command. -/
  | vshr (sd sa sb : BitVec 2) (a b : Reg)
  /-- VIOTA R293: Vector command writing a plus the element index. -/
  | viota (sd : BitVec 2) (a b : Reg)
  /-- VSHOP R295: Vector butterfly shuffle-and-operate command. -/
  | vshop (sd sa : BitVec 2) (a b : Reg)
  /-- VEXP2 R296: Vector base-2 exponential command. -/
  | vexp2 (sd sa : BitVec 2) (a b : Reg)
  /-- VLOG2 R296: Vector base-2 logarithm command. -/
  | vlog2 (sd sa : BitVec 2) (a b : Reg)
  /-- VRCP R296: Vector reciprocal command. -/
  | vrcp (sd sa : BitVec 2) (a b : Reg)
  /-- VRSQ R296: Vector reciprocal square root command. -/
  | vrsq (sd sa : BitVec 2) (a b : Reg)
  /-- VSQRT R296: Vector square root command. -/
  | vsqrt (sd sa : BitVec 2) (a b : Reg)
  /-- VSIN R296: Vector sine command. -/
  | vsin (sd sa : BitVec 2) (a b : Reg)
  /-- VCOS R296: Vector cosine command. -/
  | vcos (sd sa : BitVec 2) (a b : Reg)
  /-- VTANH R296: Vector hyperbolic tangent command. -/
  | vtanh (sd sa : BitVec 2) (a b : Reg)
  /-- CPY R268: Engine command copying bytes between VAs with a completion record. -/
  | cpy (d a b : Reg) (q : BitVec 2) (ct : BitVec 5)
  /-- CPY2D R300: Engine command copying rows under a 2-D layout record. -/
  | cpy2d (d a b : Reg) (q : BitVec 2) (ct : BitVec 5)
  /-- GATH R301: Engine gather under an index layout record. -/
  | gath (d a b : Reg) (q : BitVec 2) (ct : BitVec 5)
  /-- SCAT R301: Engine scatter under an index layout record. -/
  | scat (d a b : Reg) (q : BitVec 2) (ct : BitVec 5)
  /-- COLL R302: Collective engine reduction of source vectors. -/
  | coll (d a b : Reg) (q : BitVec 2) (ct : BitVec 5)
  /-- QMAKE R305: Makes a queue in scratch and returns its handle. -/
  | qmake (d a b : Reg) (la : BitVec 4)
  /-- QENQ R306: Enqueues a payload at a queue's tail. -/
  | qenq (d a b : Reg) (la : BitVec 4)
  /-- QDEQ R306: Dequeues the head record, or a stage record through a role handle. -/
  | qdeq (d a b : Reg) (la : BitVec 4)
  /-- QSTEAL R306: Takes the record at a queue's tail. -/
  | qsteal (d a b : Reg) (la : BitVec 4)
  /-- QDERIV R307: Derives a handle with a subset of rights. -/
  | qderiv (d a b : Reg) (la : BitVec 4)
  /-- QDEST R307: Destroys a queue and raises its generation. -/
  | qdest (d a : Reg) (la : BitVec 4)
  /-- QSTAT R307: Reads a queue or role value. -/
  | qstat (d a b : Reg) (la : BitVec 4)
  /-- GOVSET R308: Binds or unbinds a district pipeline governor. -/
  | govset (d a b : Reg) (la : BitVec 4)
  /-- MMA R340: Matrix command forming cd := cs + A·B. -/
  | mma (cd cs : BitVec 3) (oa ob : BitVec 5)
  /-- MMAZ R340: Matrix command forming cd := A·B. -/
  | mmaz (cd : BitVec 3) (oa ob : BitVec 5)
  /-- MZERO R340: Matrix command zeroing an accumulator tile. -/
  | mzero (cd : BitVec 3)
  /-- MCLAIM R313: Claims operand slots and tiles for the issuing slot. -/
  | mclaim (d a b : Reg) (la : BitVec 4)
  /-- MREL R337: Releases claims at commit after earlier commands complete. -/
  | mrel (d a b : Reg) (la : BitVec 4)
  /-- MFMT R313: Sets a matrix format register after validation. -/
  | mfmt (d a b : Reg) (la : BitVec 4)
  /-- MSCL R313: Sets SCLA or SCLB. -/
  | mscl (d a b : Reg) (la : BitVec 4)
  /-- MLDT R338: Matrix command loading a tile into operand slots. -/
  | mldt (o : BitVec 5) (a b : Reg)
  /-- MTRN R338: Matrix command loading a transposed tile. -/
  | mtrn (o : BitVec 5) (a b : Reg)
  /-- MRD R339: Matrix command writing an accumulator tile in FMTC. -/
  | mrd (c : BitVec 2) (a b : Reg)
  /-- MCVT R342: Matrix command converting a scratch array into a format with scales. -/
  | mcvt (d a b : Reg) (la : BitVec 4)
  /-- MGEMM R314: Macro-op command running a whole tiled product under a layout record. -/
  | mgemm (d a b : Reg) (la : BitVec 4)
  /-- MSEQQ R344: Reads a matrix queue or claim item. -/
  | mseqq (d a : Reg) (la : BitVec 4)
  /-- MBURST R345: Declares a burst of MMA steps and warms the unit. -/
  | mburst (a : Reg)
  /-- MWAIT R317: Stalls until the slot's committed matrix commands complete. -/
  | mwait
  /-- LAUNCH R348: Commits and launches a kernel from a header. -/
  | launch (d a : Reg) (la : BitVec 4)
  /-- WNEXT R373: Finishes the current item and claims another of the same launch. -/
  | wnext (d : Reg) (la : BitVec 4)
  /-- SPAWN R374: Commits and requests one thread on a target core. -/
  | spawn (d a b : Reg) (la : BitVec 4)
  /-- HMERGE R350: Merges a gain delta into a key of a heap kernel. -/
  | hmerge (d a b : Reg) (la : BitVec 4)
  /-- HADD R376: Adds a gain delta to a key that is present. -/
  | hadd (d a b : Reg) (la : BitVec 4)
  /-- HQRY R377: Reads one heap item at the summary heap. -/
  | hqry (d a b : Reg) (la : BitVec 4)
  /-- HCLOSE R379: Forces a heap kernel to close. -/
  | hclose (d a : Reg) (la : BitVec 4)
  /-- HDRAIN R353: Writes and removes pending keys of a closed kernel. -/
  | hdrain (d a b : Reg) (la : BitVec 4)
  /-- SRRD R353: Reads SRR halves or the kernel flags. -/
  | srrd (d a b : Reg) (la : BitVec 4)
  /-- HTOP R378: Returns the key the next dispatch would take. -/
  | htop (d a : Reg) (la : BitVec 4)
  /-- COMMIT_REGION R214: Commits a region once its conditions hold, performing stores and sending packets and commands. -/
  | commitRegion (p : Place)
  /-- TOKEN_STEP R216: Gives the context's commit token to a waiting region, pinning it. -/
  | tokenStep (p : Place)
  /-- PIN_BUDGET R62: A pinned region reaching PINB plus one cycles faults fatally. -/
  | pinBudget (p : Place)
  /-- RESULT_ARRIVAL R57: A long-latency result arrives and its destination is written. -/
  | resultArrival (pkt : Nat)
  /-- REMOTE_PERFORM R212: A non-local load or result-returning atomic is performed at its home in one step. -/
  | remotePerform (pkt : Nat)
  /-- PERFORM_PACKET R222: A stream packet or release is performed at its target home. -/
  | performPacket (pkt : Nat)
  /-- ACKNOWLEDGEMENT R182: A packet's acknowledgement reaches its source, ending fences and holds that wait on it. -/
  | acknowledgement (pkt : Nat) (lost : Bool)
  /-- RETRANSMIT R183: An unacknowledged fabric packet is resent 8 µs after its last transmission. -/
  | retransmit (pkt : Nat)
  /-- EXTERNAL_WRITE R220: A write no commit makes is performed, aborting readers of the line. -/
  | externalWrite (src : ExtWrite)
  /-- COMMAND_START R225: The oldest command of a queue starts once its predecessor completed and no QFENCE holds it. -/
  | commandStart (cid : Nat)
  /-- COMMAND_READ R225: A started command reads memory at a step of its own. -/
  | commandRead (cid n : Nat)
  /-- COMMAND_COMPLETE R225: A command completes, its record enters the event path and its barrier arrival is made. -/
  | commandComplete (cid : Nat)
  /-- LP_COPY R227: The machine copies a committed layout record into LP. -/
  | lpCopy (c : CtxId) (pa : Nat)
  /-- QUEUE_ENTRY R274: A committed command waiting in pool lines enters its queue as room frees. -/
  | queueEntry (c : CoreId)
  /-- EVENT_STORE_ENTRY R177: Held events and records enter the event store in refusal order as room frees. -/
  | eventStoreEntry (c : CtxId)
  /-- SLACK_DECREMENT R231: A waiting packet's slack falls by one per 32 reference cycles, setting the late bit at zero. -/
  | slackDecrement (pkt : Nat)
  /-- QUEUE_SERVICE R230: A queue serves its least-slack packet. -/
  | queueService (q : XQ)
  /-- LIMITER_ADMIT R365: A token bucket admits a waiting request when its level suffices. -/
  | limiterAdmit (pkt : Nat)
  /-- TRANSMIT R235: A free plane transmitter sends the least-slack packet. -/
  | transmit (peer plane tx : Nat)
  /-- LINK_REPLAY R209: A packet with a link CRC error is replayed. -/
  | linkReplay (pkt : Nat)
  /-- HOLD_RELEASE_SIGNAL R209: A receiver's hold or release signal arrives on the reverse fibre. -/
  | holdReleaseSignal (peer plane dst : Nat) (hold : Bool)
  /-- WINDOW_SPILL R64: The hardware spills a window frame in an idle position. -/
  | windowSpill (p : Place)
  /-- WINDOW_FILL R64: The hardware fills a non-resident frame from the window area. -/
  | windowFill (p : Place)
  /-- WALK_COMPLETE R202: A range or page walk completes and serves the waiting slots. -/
  | walkComplete (p : Place) (va : Word)
  /-- PAGE_ARRIVAL R204: A non-resident page becomes resident and the parked region re-runs. -/
  | pageArrival (c : CtxId) (page : Nat)
  /-- PAGE_RESPONSE R158: A host page response is applied or dropped for a stale generation. -/
  | pageResponse (c : CtxId) (fn gen page : Nat) (bytes : List Byte)
  /-- MIGRATION_DEPART R195: A granted migration commits, writes frames, frees the slot and sends its message. -/
  | migrationDepart (p : Place)
  /-- MIGRATION_ARRIVAL R197: A migrating thread is placed in its reserved slot and performs its access. -/
  | migrationArrival (m : Nat)
  /-- ACTIVE_MESSAGE R191: Slot 15 takes the next message of the handler queue and runs it. -/
  | activeMessage (c : CoreId)
  /-- HANDLER_INSTRUCTION_LIMIT R254: A handler reaching its 65th instruction is ended with a fault. -/
  | handlerInstructionLimit (c : CoreId)
  /-- BARRIER_ARRIVAL R257: An arrival reaches its barrier and counts toward E. -/
  | barrierArrival (pkt : Nat)
  /-- STATISTICS_GATHER R332: A STAT barrier reads and zeroes the context's event counters. -/
  | statisticsGather (c : CtxId) (bar : Nat)
  /-- STATISTICS_FLIP R332: The STAT barrier flips after its record has been written. -/
  | statisticsFlip (c : CtxId) (bar : Nat)
  /-- TEAM_PLACEMENT R23: The distributor takes up the next team and chooses its district. -/
  | teamPlacement (c : CtxId) (kernel : Nat)
  /-- ITEM_DISTRIBUTION R24: An item of a placed team starts in a free general slot. -/
  | itemDistribution (c : CtxId) (kernel dist : Nat)
  /-- DONOR_RESUME R28: The parent resumes in its slot at the first item boundary after its counter completes. -/
  | donorResume (p : Place)
  /-- DISPATCH R351: A heap dispatches its top entry into a free bound slot. -/
  | dispatch (c : CtxId) (kernel : Nat)
  /-- HEAP_UPDATE R350: A heap operation is applied as one step at the summary heap. -/
  | heapUpdate (pkt : Nat)
  /-- SPAWN_ACCEPT R358: The target quarter accepts or refuses a spawn and reserves slot and store entry. -/
  | spawnAccept (pkt : Nat)
  /-- ENGINE_SELECT R277: A free engine takes the least-slack started head and serves a piece. -/
  | engineSelect (peer dist qtr kind : Nat)
  /-- SLICE_SELECT R276: A free lane group chooses a core by credit and takes a slice. -/
  | sliceSelect (peer dist qtr grp : Nat)
  /-- MGEMM_STEP R315: The sequencer completes one MMA step of an MGEMM. -/
  | mgemmStep (c : CoreId)
  /-- MGEMM_DRAIN R315: The sequencer drains an output tile to C. -/
  | mgemmDrain (c : CoreId)
  /-- BURST_EXPIRY R345: A declared burst ends after 4,096 idle cycles. -/
  | burstExpiry (c : CoreId)
  /-- RAMP_DOWN_END R345: The matrix unit's ramp-down cycles end. -/
  | rampDownEnd (c : CoreId)
  /-- GOVERNOR_LEND R287: The governor lends a group to a stage whose high trigger is pending. -/
  | governorLend (peer dist pipe stage : Nat)
  /-- GOVERNOR_RETURN R287: The governor returns a lent group on a low trigger. -/
  | governorReturn (peer dist pipe stage : Nat)
  /-- QUEUE_OPERATION R285: A queue controller performs a queue operation. -/
  | queueOperation (pkt : Nat)
  /-- QUEUE_SWAP_IN R285: A queue is swapped in from its header, writing back another. -/
  | queueSwapIn (c : CtxId) (qid : Nat)
  /-- THERMAL_SAMPLE R366: Island sensors are sampled every 1 µs and the ranking registers update. -/
  | thermalSample (peer : Nat) (readings : List Reading)
  /-- FREQUENCY_STEP R366: An island's frequency moves one step every 10 µs by temperature. -/
  | frequencyStep (peer island : Nat)
  /-- MODULE_POWER_STEP R366: Module power over 3.8 kW averaged over 1 ms lowers every compute island. -/
  | modulePowerStep (peer milliwatts : Nat)
  /-- DROOP R366: A voltage droop stretches the island's clock. -/
  | droop (peer island cycles : Nat)
  /-- THERMAL_DISPLACEMENT R369: A hot island displaces one eligible thread every 10 µs. -/
  | thermalDisplacement (peer island : Nat)
  /-- DISPLACEMENT_ARRIVAL R145: A displaced thread arrives at its target core. -/
  | displacementArrival (m : Nat)
  /-- SLOT_RECLAIM R135: A slot is reclaimed from a victim by region-restart pre-emption. -/
  | slotReclaim (victim : CtxId)
  /-- SLOT_RETURN R135: A freed slot is returned and a pre-empted thread resumes. -/
  | slotReturn (c : CtxId)
  /-- STOP_COMPLETE R143: All threads reach restart points and the context leaves STOPPING. -/
  | stopComplete (c : CtxId)
  /-- CONTEXT_EXPIRY R126: DTIME − DUNC passes not_after and the context expires. -/
  | contextExpiry (c : CtxId)
  /-- ECC_ERROR R151: A detected memory or register error is corrected, re-run or faults the context. -/
  | eccError (e : Ecc)
  /-- WARRANT R120: A presented warrant is checked and builds a context. -/
  | warrant (peer fn record image : Nat) (tag : Word)
  /-- DELEGATION_SLIP R121: A presented slip builds a context from a child warrant. -/
  | delegationSlip (peer fn record : Nat) (tag : Word)
  /-- TIME_CERTIFICATE R124: A presented time certificate sets DTIME and DUNC. -/
  | timeCertificate (peer fn record : Nat) (tag : Word)
  /-- CAPACITY_DECLARATION R131: A presented declaration sets sell ratios and limits. -/
  | capacityDeclaration (peer fn record : Nat) (tag : Word)
  /-- ENROLMENT R118: A Zilkor-signed record fills an operator key slot. -/
  | enrolment (peer fn record : Nat) (tag : Word)
  /-- REVOCATION R118: A Zilkor-signed record empties an operator key slot. -/
  | revocation (peer fn record : Nat) (tag : Word)
  /-- DOORWAY_LAUNCH R153: A launch-ring entry acts as a LAUNCH of the named context. -/
  | doorwayLaunch (peer fn ctx header : Nat) (tag : Word)
  /-- REDEEM_REQUEST R127: The home peer handles a redeem request for a serial. -/
  | redeemRequest (m : Nat)
  /-- REDEEM_REPLY R128: A grant or denial reaches the presenting device. -/
  | redeemReply (m : Nat)
  /-- REDEMPTION_COMMIT R127: The home turns a reservation into redemption. -/
  | redemptionCommit (m : Nat)
  /-- REDEMPTION_CANCEL R127: The home removes a reservation. -/
  | redemptionCancel (m : Nat)
  /-- REDEEM_TIMEOUT R128: No answer within 10^6 ns refuses with WARRANT_HOME_UNREACHABLE. -/
  | redeemTimeout (peer pres : Nat)
  /-- RESERVATION_HOLD_EXPIRY R128: A reservation of a departed device becomes a redemption after 10 s. -/
  | reservationHoldExpiry (home key serial requester : Nat)
  /-- RING_REGISTER_WRITE R152: A ring base or size write is applied or ignored with DSTAT.RING set. -/
  | ringRegisterWrite (peer fn reg : Nat) (v : Word)
  /-- REGISTER_WRITE R152: A write to a doorway register with no behaviour of its own. -/
  | registerWrite (peer fn reg : Nat) (v : Word)
  /-- NONCEREQ R154: Writing 1 issues a fresh outstanding nonce. -/
  | noncereq (peer : Nat) (v : Word)
  /-- HOST_PARK R154: The host's park command stops a context to PARKED. -/
  | hostPark (c : CtxId)
  /-- HOST_RESUME R154: The host's resume command returns a parked context to LIVE. -/
  | hostResume (c : CtxId)
  /-- HOST_SURRENDER R154: The host's surrender command surrenders a context. -/
  | hostSurrender (c : CtxId)
  /-- HOST_LIVE_MIGRATE R154: The host's live-migrate command moves a context to a peer. -/
  | hostLiveMigrate (c : CtxId) (target : Nat)
  /-- LIVE_MIGRATION_IMAGE R149: A target builds and resumes a context from a live-migration image. -/
  | liveMigrationImage (c : CtxId) (target : Nat)
  /-- VF_ENABLE_CLEAR R156: Clearing VF Enable orphans each function's attached contexts. -/
  | vfEnableClear (peer : Nat)
  /-- FUNCTION_LEVEL_RESET R156: Resetting one virtual function orphans its contexts. -/
  | functionLevelReset (peer fn : Nat)
  /-- VF_ENABLE R157: A virtual function is enabled. -/
  | vfEnable (peer fn : Nat)
  /-- ORPHAN_TIMEOUT R157: OHOLD lapses and the orphaned context is surrendered. -/
  | orphanTimeout (c : CtxId)
  /-- TIME_ADOPTION R125: Every 2^30 ns the device may adopt a peer's better time. -/
  | timeAdoption (peer other rt : Nat)
  /-- DEVICE_RESET R159: Device reset starts bring-up. -/
  | deviceReset (peer : Nat)
  /-- SELF_TEST_COMPLETE R159: Built-in self-test ends, passing or listing failed blocks. -/
  | selfTestComplete (peer : Nat) (failed : List Nat)
  /-- PEER_UP R159: A plane finishes training to a peer, which reaches peer up. -/
  | peerUp (peer other : Nat)
  /-- LINK_LOSS R159: A link is lost and the peer leaves peer up while it retrains. -/
  | linkLoss (peer other : Nat)
  /-- ILLEGAL_INSTRUCTION R40: A word with an unallocated major or function code, a non-zero must-be-zero field or an out-of-range field issues and faults ILLEGAL. -/
  | illegalInstruction (word : BitVec 32)
  /-- FETCH_FAULT R41: A slot's instruction fetch fails NONCANONICAL, NOMAP, PERM or EXDATA and traps before any word is decoded. -/
  | fetchFault (code : Nat) (va : Word)
  /-- TIME_EXCHANGE R125: A time-exchange message with a peer is answered, or its reply arrives and the device adopts the peer's time if it is better. -/
  | timeExchange (peer other rt : Nat)
  /-- MEMBER_EXTENT_UPDATE R201: A device learns the changed grant extents of another member of the warrant. -/
  | memberExtentUpdate (c : CtxId) (other : Nat)
  /-- ERHEAD_WRITE R152: The host advances ERHEAD, freeing event-ring entries so that waiting events are written and ring entries are taken again. -/
  | erheadWrite (peer fn : Nat) (v : Word)
  /-- LIVE_MIGRATION_RELEASE R149: After the target has resumed a live-migrated context, the source releases everything without a surrender event. -/
  | liveMigrationRelease (c : CtxId)
  /-- PAGE_MOVE_COMPLETE R136: A migration-engine move of a page out of HBM to tier-2 or the spill reserve completes, and a pending decrease or reclamation takes effect. -/
  | pageMoveComplete (c : CtxId) (page : Nat)
  deriving DecidableEq, Repr

end Sys2Proof
end

