-- ==== Sys2Proof/WellFormed.lean ====
section
/-! DEFINITION. The ranges that an instruction's fields must keep (R40 (5)). A field's width is its
type; what is left to check is said here. `ldp` and `stp` hold the pair's number, so that an odd register
cannot be written; likewise `mldt` and `mtrn` hold an operand slot and `mrd` a tile. -/

namespace Sys2Proof

/-- A shift amount fits its width: below 32 at .w (R36). -/
def shiftOk (w : Bool) (amt : BitVec 6) : Bool := !w || decide (amt.toNat < 32)

/-- A bit field lies within 64 bits: pos + width ≤ 64, the field holding width − 1 (R36). -/
def fieldOk (width1 pos : BitVec 6) : Bool := decide (pos.toNat + width1.toNat + 1 ≤ 64)

/-- The accumulator tiles are c0 to c3 (R39). -/
def tileOk (c : BitVec 3) : Bool := decide (c.toNat ≤ 3)

/-- Every field of the instruction is in range. The steps of the machine have no fields to check. -/
def wellFormed : Instr → Bool
  | .shli w _ _ amt => shiftOk w amt
  | .shri w _ _ amt => shiftOk w amt
  | .srai w _ _ amt => shiftOk w amt
  | .bfx _ _ width1 pos => fieldOk width1 pos
  | .bfxs _ _ width1 pos => fieldOk width1 pos
  | .bfi _ _ width1 pos => fieldOk width1 pos
  | .loop _ _ off => decide (off ≠ 0)
  | .loopi _ _ off => decide (off ≠ 0)
  | .qfence mask => decide (mask ≠ 0)
  | .mma cd cs _ _ => tileOk cd && tileOk cs
  | .mmaz cd _ _ => tileOk cd
  | .mzero cd => tileOk cd
  | _ => true

end Sys2Proof
end

