-- ==== Sys2Proof/Decode.lean ====
section
/-! DEFINITION. Decoding instruction words (R31 to R40) and the encoder beside it, both from the tables
of spec/03_formats_and_assembly.md. A word is a natural number below 2^32; its bits are numbered from the
least significant. A word that the tables do not allocate is rejected with the clause of R40 it breaks.
Lean's compiler numbers at most 245 constructors that hold fields; the instruction set has more, so a definition
that builds one of the later instructions is marked noncomputable: the kernel evaluates it all the same. -/

namespace Sys2Proof

/-- Why a word is no instruction: the clauses of R40. -/
inductive DecodeErr where
  /-- R40 (1), (2): major 0x00, 0x7F or unallocated -/
  | unallocatedMajor
  /-- R40 (3): an unallocated function code -/
  | unallocatedFunction
  /-- R40 (4): a field that must be zero is not -/
  | reservedNonzero
  /-- R40 (5): an out-of-range field -/
  | outOfRange
  /-- fewer than four bytes -/
  | truncated
  deriving DecidableEq, Repr

/-- The field of `n` bits whose lowest bit is bit `lo`, as a number. -/
def fld (w lo n : Nat) : Nat := w / 2 ^ lo % 2 ^ n

/-- The field of `n` bits from bit `lo`. -/
def bits (n w lo : Nat) : BitVec n := BitVec.ofNat n (w / 2 ^ lo)

/-- The register field from bit `lo` (R33). -/
def reg (w lo : Nat) : Reg := bits 6 w lo

/-- Bit `lo`. -/
def bit (w lo : Nat) : Bool := w / 2 ^ lo % 2 == 1

/-- Bits that must be zero (R40 (4)), each a lowest bit and a count. -/
def zero (w : Nat) (zs : List (Nat × Nat)) (i : Instr) : Except DecodeErr Instr :=
  if zs.all (fun z => fld w z.1 z.2 == 0) then .ok i else .error .reservedNonzero

/-- ALU major 0x01 (R36). -/
def decodeAlu (w : Nat) : Except DecodeErr Instr :=
  match fld w 0 6 with
  | 0 => .ok (.add (bit w 6) (reg w 19) (reg w 13) (reg w 7))
  | 1 => .ok (.sub (bit w 6) (reg w 19) (reg w 13) (reg w 7))
  | 2 => .ok (.addv (bit w 6) (reg w 19) (reg w 13) (reg w 7))
  | 3 => .ok (.subv (bit w 6) (reg w 19) (reg w 13) (reg w 7))
  | 4 => .ok (.mul (bit w 6) (reg w 19) (reg w 13) (reg w 7))
  | 5 => .ok (.mulh (bit w 6) (reg w 19) (reg w 13) (reg w 7))
  | 6 => .ok (.mulhu (bit w 6) (reg w 19) (reg w 13) (reg w 7))
  | 7 => .ok (.madd (bit w 6) (reg w 19) (reg w 13) (reg w 7))
  | 8 => .ok (.div (bit w 6) (reg w 19) (reg w 13) (reg w 7))
  | 9 => .ok (.divu (bit w 6) (reg w 19) (reg w 13) (reg w 7))
  | 10 => .ok (.rem (bit w 6) (reg w 19) (reg w 13) (reg w 7))
  | 11 => .ok (.remu (bit w 6) (reg w 19) (reg w 13) (reg w 7))
  | 12 => .ok (.divv (bit w 6) (reg w 19) (reg w 13) (reg w 7))
  | 13 => zero w [(7, 6)] (.abs (bit w 6) (reg w 19) (reg w 13))
  | 14 => .ok (.min (bit w 6) (reg w 19) (reg w 13) (reg w 7))
  | 15 => .ok (.max (bit w 6) (reg w 19) (reg w 13) (reg w 7))
  | 16 => .ok (.minu (bit w 6) (reg w 19) (reg w 13) (reg w 7))
  | 17 => .ok (.maxu (bit w 6) (reg w 19) (reg w 13) (reg w 7))
  | 18 => .ok (.and (bit w 6) (reg w 19) (reg w 13) (reg w 7))
  | 19 => .ok (.or (bit w 6) (reg w 19) (reg w 13) (reg w 7))
  | 20 => .ok (.xor (bit w 6) (reg w 19) (reg w 13) (reg w 7))
  | 21 => .ok (.andn (bit w 6) (reg w 19) (reg w 13) (reg w 7))
  | 22 => .ok (.shl (bit w 6) (reg w 19) (reg w 13) (reg w 7))
  | 23 => .ok (.shr (bit w 6) (reg w 19) (reg w 13) (reg w 7))
  | 24 => .ok (.sra (bit w 6) (reg w 19) (reg w 13) (reg w 7))
  | 25 => .ok (.rol (bit w 6) (reg w 19) (reg w 13) (reg w 7))
  | 26 => zero w [(7, 6)] (.clz (bit w 6) (reg w 19) (reg w 13))
  | 27 => zero w [(7, 6)] (.ctz (bit w 6) (reg w 19) (reg w 13))
  | 28 => zero w [(7, 6)] (.popc (bit w 6) (reg w 19) (reg w 13))
  | 29 => zero w [(7, 6)] (.brev (bit w 6) (reg w 19) (reg w 13))
  | 30 => .ok (.seq (bit w 6) (reg w 19) (reg w 13) (reg w 7))
  | 31 => .ok (.sne (bit w 6) (reg w 19) (reg w 13) (reg w 7))
  | 32 => .ok (.slt (bit w 6) (reg w 19) (reg w 13) (reg w 7))
  | 33 => .ok (.sltu (bit w 6) (reg w 19) (reg w 13) (reg w 7))
  | 34 => .ok (.sel (bit w 6) (reg w 19) (reg w 13) (reg w 7))
  | _ => .error .unallocatedFunction

/-- Shift-immediate major 0x07 (R36). -/
def decodeShiftImm (w : Nat) : Except DecodeErr Instr :=
  match fld w 7 2 with
  | 0 => zero w [(9, 4)] (.shli (bit w 6) (reg w 19) (reg w 13) (bits 6 w 0))
  | 1 => zero w [(9, 4)] (.shri (bit w 6) (reg w 19) (reg w 13) (bits 6 w 0))
  | 2 => zero w [(9, 4)] (.srai (bit w 6) (reg w 19) (reg w 13) (bits 6 w 0))
  | _ => .error .unallocatedFunction

/-- FP scalar major 0x0F (R37). -/
def decodeFp (w : Nat) : Except DecodeErr Instr :=
  match fld w 0 6 with
  | 0 => .ok (.fadd (bit w 6) (reg w 19) (reg w 13) (reg w 7))
  | 1 => .ok (.fsub (bit w 6) (reg w 19) (reg w 13) (reg w 7))
  | 2 => .ok (.fmul (bit w 6) (reg w 19) (reg w 13) (reg w 7))
  | 3 => .ok (.fdiv (bit w 6) (reg w 19) (reg w 13) (reg w 7))
  | 4 => .ok (.fmadd (bit w 6) (reg w 19) (reg w 13) (reg w 7))
  | 5 => .ok (.fmin (bit w 6) (reg w 19) (reg w 13) (reg w 7))
  | 6 => .ok (.fmax (bit w 6) (reg w 19) (reg w 13) (reg w 7))
  | 7 => zero w [(7, 6)] (.fabs (bit w 6) (reg w 19) (reg w 13))
  | 8 => zero w [(7, 6)] (.fneg (bit w 6) (reg w 19) (reg w 13))
  | 9 => zero w [(7, 6)] (.fsqrt (bit w 6) (reg w 19) (reg w 13))
  | 10 => .ok (.fcmpeq (bit w 6) (reg w 19) (reg w 13) (reg w 7))
  | 11 => .ok (.fcmplt (bit w 6) (reg w 19) (reg w 13) (reg w 7))
  | 12 => .ok (.fcmple (bit w 6) (reg w 19) (reg w 13) (reg w 7))
  | 13 => zero w [(7, 6)] (.fcvtif (bit w 6) (reg w 19) (reg w 13))
  | 14 => zero w [(7, 6)] (.fcvtfi (bit w 6) (reg w 19) (reg w 13))
  | 15 => zero w [(7, 6)] (.fcvtw (bit w 6) (reg w 19) (reg w 13))
  | 16 => zero w [(7, 6)] (.fmvif (bit w 6) (reg w 19) (reg w 13))
  | 17 => zero w [(7, 6)] (.fmvfi (bit w 6) (reg w 19) (reg w 13))
  | _ => .error .unallocatedFunction

/-- Control major 0x1F (R39). -/
def decodeControl (w : Nat) : Except DecodeErr Instr :=
  match fld w 0 7 with
  | 0 => zero w [(7, 18)] .nop
  | 1 => zero w [(7, 18)] .eret
  | 2 => zero w [(7, 18)] .brk
  | 3 => zero w [(7, 18)] .quit
  | 4 => zero w [(7, 6), (19, 6)] (.jr (reg w 13))
  | 5 => zero w [(7, 6), (19, 6)] (.callr (reg w 13))
  | 6 => zero w [(7, 18)] .ret
  | 7 => zero w [(8, 17)] (.lbrk (bit w 7))
  | 8 => zero w [(7, 18)] .wflush
  | _ => .error .unallocatedFunction

/-- LDX major 0x27 (R38). -/
def decodeLdx (w : Nat) : Except DecodeErr Instr :=
  match fld w 0 3 with
  | 0 => .ok (.ldxBSx (reg w 19) (reg w 13) (reg w 7) (bits 4 w 3))
  | 1 => .ok (.ldxBZx (reg w 19) (reg w 13) (reg w 7) (bits 4 w 3))
  | 2 => .ok (.ldxHSx (reg w 19) (reg w 13) (reg w 7) (bits 4 w 3))
  | 3 => .ok (.ldxHZx (reg w 19) (reg w 13) (reg w 7) (bits 4 w 3))
  | 4 => .ok (.ldxWSx (reg w 19) (reg w 13) (reg w 7) (bits 4 w 3))
  | 5 => .ok (.ldxWZx (reg w 19) (reg w 13) (reg w 7) (bits 4 w 3))
  | 6 => .ok (.ldxD (reg w 19) (reg w 13) (reg w 7) (bits 4 w 3))
  | _ => .error .unallocatedFunction

/-- STX major 0x2C (R38). -/
def decodeStx (w : Nat) : Except DecodeErr Instr :=
  match fld w 0 3 with
  | 0 => zero w [(3, 4)] (.stxB (reg w 19) (reg w 13) (reg w 7))
  | 1 => zero w [(3, 4)] (.stxH (reg w 19) (reg w 13) (reg w 7))
  | 2 => zero w [(3, 4)] (.stxW (reg w 19) (reg w 13) (reg w 7))
  | 3 => zero w [(3, 4)] (.stxD (reg w 19) (reg w 13) (reg w 7))
  | _ => .error .unallocatedFunction

/-- Acquire and release major 0x2F (R38). -/
def decodeAcqRel (w : Nat) : Except DecodeErr Instr :=
  match fld w 0 3 with
  | 0 => .ok (.ldaW (reg w 19) (reg w 13) (reg w 7) (bits 4 w 3))
  | 1 => .ok (.ldaD (reg w 19) (reg w 13) (reg w 7) (bits 4 w 3))
  | 2 => zero w [(3, 4)] (.stlW (reg w 19) (reg w 13) (reg w 7))
  | 3 => zero w [(3, 4)] (.stlD (reg w 19) (reg w 13) (reg w 7))
  | 4 => zero w [(3, 4)] (.stlGW (reg w 19) (reg w 13) (reg w 7))
  | 5 => zero w [(3, 4)] (.stlGD (reg w 19) (reg w 13) (reg w 7))
  | _ => .error .unallocatedFunction

/-- LDF major 0x30 (R38). -/
def decodeLdf (w : Nat) : Except DecodeErr Instr :=
  match fld w 0 3 with
  | 0 => .ok (.ldfBSx (reg w 19) (reg w 13) (reg w 7) (bits 4 w 3))
  | 1 => .ok (.ldfBZx (reg w 19) (reg w 13) (reg w 7) (bits 4 w 3))
  | 2 => .ok (.ldfHSx (reg w 19) (reg w 13) (reg w 7) (bits 4 w 3))
  | 3 => .ok (.ldfHZx (reg w 19) (reg w 13) (reg w 7) (bits 4 w 3))
  | 4 => .ok (.ldfWSx (reg w 19) (reg w 13) (reg w 7) (bits 4 w 3))
  | 5 => .ok (.ldfWZx (reg w 19) (reg w 13) (reg w 7) (bits 4 w 3))
  | 6 => .ok (.ldfD (reg w 19) (reg w 13) (reg w 7) (bits 4 w 3))
  | _ => .error .unallocatedFunction

/-- PREF major 0x31 (R38). -/
def decodePref (w : Nat) : Except DecodeErr Instr :=
  match fld w 0 3 with
  | 0 => zero w [(3, 4), (19, 6)] (.pref (reg w 13) (reg w 7))
  | _ => .error .unallocatedFunction

/-- Integer atomic majors 0x38 and 0x39 (R38). -/
def decodeIntAtomic (w : Nat) : Except DecodeErr Instr :=
  match fld w 0 3 with
  | 0 => .ok (.aadd (bit w 25) (reg w 19) (reg w 13) (reg w 7) (bits 4 w 3))
  | 1 => .ok (.aand (bit w 25) (reg w 19) (reg w 13) (reg w 7) (bits 4 w 3))
  | 2 => .ok (.aor (bit w 25) (reg w 19) (reg w 13) (reg w 7) (bits 4 w 3))
  | 3 => .ok (.axor (bit w 25) (reg w 19) (reg w 13) (reg w 7) (bits 4 w 3))
  | 4 => .ok (.amin (bit w 25) (reg w 19) (reg w 13) (reg w 7) (bits 4 w 3))
  | 5 => .ok (.amax (bit w 25) (reg w 19) (reg w 13) (reg w 7) (bits 4 w 3))
  | 6 => .ok (.aminu (bit w 25) (reg w 19) (reg w 13) (reg w 7) (bits 4 w 3))
  | 7 => .ok (.amaxu (bit w 25) (reg w 19) (reg w 13) (reg w 7) (bits 4 w 3))
  | _ => .error .unallocatedFunction

/-- Posted integer atomic majors 0x3A and 0x3B (R38). -/
def decodeIntPosted (w : Nat) : Except DecodeErr Instr :=
  match fld w 0 3 with
  | 0 => zero w [(3, 4), (19, 6)] (.aaddP (bit w 25) (reg w 13) (reg w 7))
  | 1 => zero w [(3, 4), (19, 6)] (.aandP (bit w 25) (reg w 13) (reg w 7))
  | 2 => zero w [(3, 4), (19, 6)] (.aorP (bit w 25) (reg w 13) (reg w 7))
  | 3 => zero w [(3, 4), (19, 6)] (.axorP (bit w 25) (reg w 13) (reg w 7))
  | 4 => zero w [(3, 4), (19, 6)] (.aminP (bit w 25) (reg w 13) (reg w 7))
  | 5 => zero w [(3, 4), (19, 6)] (.amaxP (bit w 25) (reg w 13) (reg w 7))
  | 6 => zero w [(3, 4), (19, 6)] (.aminuP (bit w 25) (reg w 13) (reg w 7))
  | 7 => zero w [(3, 4), (19, 6)] (.amaxuP (bit w 25) (reg w 13) (reg w 7))
  | _ => .error .unallocatedFunction

/-- Swap and FP atomic majors 0x3C and 0x3D (R38). -/
def decodeSwapAtomic (w : Nat) : Except DecodeErr Instr :=
  match fld w 0 3 with
  | 0 => .ok (.aswp (bit w 25) (reg w 19) (reg w 13) (reg w 7) (bits 4 w 3))
  | 1 => .ok (.acas (bit w 25) (reg w 19) (reg w 13) (reg w 7) (bits 4 w 3))
  | 2 => .ok (.afadd (bit w 25) (reg w 19) (reg w 13) (reg w 7) (bits 4 w 3))
  | 3 => .ok (.afmin (bit w 25) (reg w 19) (reg w 13) (reg w 7) (bits 4 w 3))
  | 4 => .ok (.afmax (bit w 25) (reg w 19) (reg w 13) (reg w 7) (bits 4 w 3))
  | _ => .error .unallocatedFunction

/-- Posted swap and FP atomic majors 0x3E and 0x3F (R38). -/
def decodeSwapPosted (w : Nat) : Except DecodeErr Instr :=
  match fld w 0 3 with
  | 0 => zero w [(3, 4), (19, 6)] (.aswpP (bit w 25) (reg w 13) (reg w 7))
  | 1 => zero w [(3, 4)] (.acasP (bit w 25) (reg w 19) (reg w 13) (reg w 7))
  | 2 => zero w [(3, 4), (19, 6)] (.afaddP (bit w 25) (reg w 13) (reg w 7))
  | 3 => zero w [(3, 4), (19, 6)] (.afminP (bit w 25) (reg w 13) (reg w 7))
  | 4 => zero w [(3, 4), (19, 6)] (.afmaxP (bit w 25) (reg w 13) (reg w 7))
  | _ => .error .unallocatedFunction

/-- Region and fence major 0x40 (R39). -/
def decodeRegion (w : Nat) : Except DecodeErr Instr :=
  match fld w 0 7 with
  | 0 => zero w [(7, 6), (19, 6)] (.rgn (reg w 13))
  | 1 => zero w [(7, 18)] .cmt
  | 2 => zero w [(7, 18)] .abrt
  | 3 => zero w [(7, 12)] (.rgnq (reg w 19))
  | 8 => zero w [(8, 17)] (.fence (bit w 7))
  | 9 => zero w [(7, 18)] .fencep
  | 10 => zero w [(7, 18)] .ifence
  | 11 => zero w [(7, 18)] .lfence
  | 12 => zero w [(7, 18)] .tfence
  | 13 => zero w [(13, 12)] (.qfence (bits 6 w 7))
  | 14 => zero w [(7, 18)] .vfence
  | 15 => zero w [(7, 18)] .vwait
  | _ => .error .unallocatedFunction

/-- Migration major 0x41 (R39). -/
def decodeMigration (w : Nat) : Except DecodeErr Instr :=
  match fld w 0 7 with
  | 0 => zero w [(7, 6), (19, 6)] (.go (reg w 13))
  | 1 => zero w [(7, 18)] .gohome
  | 2 => zero w [(19, 6)] (.amsg (reg w 13) (reg w 7))
  | _ => .error .unallocatedFunction

/-- Barrier and join major 0x42 (R39). -/
def decodeBarrier (w : Nat) : Except DecodeErr Instr :=
  match fld w 0 7 with
  | 0 => zero w [(19, 6)] (.barset (reg w 13) (reg w 7))
  | 1 => zero w [(7, 6), (19, 6)] (.barreg (reg w 13))
  | 2 => zero w [(7, 6), (19, 6)] (.bara (reg w 13))
  | 3 => zero w [(19, 6)] (.barw (reg w 13) (reg w 7))
  | 4 => zero w [(19, 6)] (.baraw (reg w 13) (reg w 7))
  | 5 => zero w [(19, 6)] (.jset (reg w 13) (reg w 7))
  | 6 => zero w [(7, 6), (19, 6)] (.jdec (reg w 13))
  | 7 => zero w [(7, 6), (19, 6)] (.jwait (reg w 13))
  | _ => .error .unallocatedFunction

/-- Translation and slack-query major 0x43 (R39). -/
def decodeTranslation (w : Nat) : Except DecodeErr Instr :=
  match fld w 0 7 with
  | 0 => zero w [(7, 6), (19, 6)] (.rlock (reg w 13))
  | 1 => zero w [(7, 6), (19, 6)] (.runlk (reg w 13))
  | 2 => zero w [(7, 6), (19, 6)] (.rpre (reg w 13))
  | 3 => zero w [(7, 12)] (.lateq (reg w 19))
  | _ => .error .unallocatedFunction

/-- SLK major 0x44 (R39). -/
def decodeSlack (w : Nat) : Except DecodeErr Instr :=
  match fld w 12 1 with
  | 0 => zero w [(13, 12)] (.slk (bits 12 w 0))
  | 1 => zero w [(13, 12)] (.slkOnce (bits 12 w 0))
  | _ => .error .unallocatedFunction

/-- Warrant major 0x48 (R38). -/
def decodeWarrant (w : Nat) : Except DecodeErr Instr :=
  match fld w 0 3 with
  | 0 => .ok (.present (reg w 19) (reg w 13) (reg w 7) (bits 4 w 3))
  | 1 => .ok (.wsplit (reg w 19) (reg w 13) (reg w 7) (bits 4 w 3))
  | 2 => .ok (.wdeleg (reg w 19) (reg w 13) (reg w 7) (bits 4 w 3))
  | 3 => .ok (.waccept (reg w 19) (reg w 13) (reg w 7) (bits 4 w 3))
  | 4 => .ok (.wsurr (reg w 19) (reg w 13) (reg w 7) (bits 4 w 3))
  | 5 => .ok (.wamend (reg w 19) (reg w 13) (reg w 7) (bits 4 w 3))
  | 6 => .ok (.wqry (reg w 19) (reg w 13) (reg w 7) (bits 4 w 3))
  | 7 => .ok (.caprd (reg w 19) (reg w 13) (reg w 7) (bits 4 w 3))
  | _ => .error .unallocatedFunction

/-- Context and event major 0x49 (R38). -/
def decodeContext (w : Nat) : Except DecodeErr Instr :=
  match fld w 0 3 with
  | 0 => zero w [(7, 6)] (.dtime (reg w 19) (reg w 13) (bits 4 w 3))
  | 1 => zero w [(7, 6)] (.tnonce (reg w 19) (reg w 13) (bits 4 w 3))
  | 2 => .ok (.ckpt (reg w 19) (reg w 13) (reg w 7) (bits 4 w 3))
  | 3 => .ok (.evwait (reg w 19) (reg w 13) (reg w 7) (bits 4 w 3))
  | 4 => zero w [(3, 4), (19, 6)] (.evpost (reg w 13) (reg w 7))
  | 5 => zero w [(7, 6)] (.rlimq (reg w 19) (reg w 13) (bits 4 w 3))
  | 6 => zero w [(7, 6)] (.evrd (reg w 19) (reg w 13) (bits 4 w 3))
  | _ => .error .unallocatedFunction

/-- Stream major 0x50 (R38). -/
def decodeStream (w : Nat) : Except DecodeErr Instr :=
  match fld w 0 3 with
  | 0 => .ok (.scfg (reg w 19) (reg w 13) (reg w 7) (bits 4 w 3))
  | 1 => .ok (.sbnd (reg w 19) (reg w 13) (reg w 7) (bits 4 w 3))
  | 2 => .ok (.smap (reg w 19) (reg w 13) (reg w 7) (bits 4 w 3))
  | 3 => zero w [(7, 6)] (.sunmap (reg w 19) (reg w 13) (bits 4 w 3))
  | 4 => zero w [(7, 6)] (.sqry (reg w 19) (reg w 13) (bits 4 w 3))
  | _ => .error .unallocatedFunction

/-- Vector major 0x51 (R39). -/
def decodeVector (w : Nat) : Except DecodeErr Instr :=
  match fld w 18 7 with
  | 0 => .ok (.vadd (bits 2 w 16) (bits 2 w 14) (bits 2 w 12) (reg w 6) (reg w 0))
  | 1 => .ok (.vsub (bits 2 w 16) (bits 2 w 14) (bits 2 w 12) (reg w 6) (reg w 0))
  | 2 => .ok (.vmul (bits 2 w 16) (bits 2 w 14) (bits 2 w 12) (reg w 6) (reg w 0))
  | 3 => .ok (.vfma (bits 2 w 16) (bits 2 w 14) (bits 2 w 12) (reg w 6) (reg w 0))
  | 4 => .ok (.vfms (bits 2 w 16) (bits 2 w 14) (bits 2 w 12) (reg w 6) (reg w 0))
  | 5 => .ok (.vdiv (bits 2 w 16) (bits 2 w 14) (bits 2 w 12) (reg w 6) (reg w 0))
  | 6 => .ok (.vmin (bits 2 w 16) (bits 2 w 14) (bits 2 w 12) (reg w 6) (reg w 0))
  | 7 => .ok (.vmax (bits 2 w 16) (bits 2 w 14) (bits 2 w 12) (reg w 6) (reg w 0))
  | 8 => zero w [(12, 2)] (.vabs (bits 2 w 16) (bits 2 w 14) (reg w 6) (reg w 0))
  | 9 => zero w [(12, 2)] (.vcvt (bits 2 w 16) (bits 2 w 14) (reg w 6) (reg w 0))
  | 10 => .ok (.vcmp (bits 2 w 16) (bits 2 w 14) (bits 2 w 12) (reg w 6) (reg w 0))
  | 11 => .ok (.vsel (bits 2 w 16) (bits 2 w 14) (bits 2 w 12) (reg w 6) (reg w 0))
  | 12 => .ok (.vand (bits 2 w 16) (bits 2 w 14) (bits 2 w 12) (reg w 6) (reg w 0))
  | 13 => .ok (.vor (bits 2 w 16) (bits 2 w 14) (bits 2 w 12) (reg w 6) (reg w 0))
  | 14 => .ok (.vxor (bits 2 w 16) (bits 2 w 14) (bits 2 w 12) (reg w 6) (reg w 0))
  | 15 => .ok (.vshl (bits 2 w 16) (bits 2 w 14) (bits 2 w 12) (reg w 6) (reg w 0))
  | 16 => .ok (.vshr (bits 2 w 16) (bits 2 w 14) (bits 2 w 12) (reg w 6) (reg w 0))
  | 17 => zero w [(12, 4)] (.viota (bits 2 w 16) (reg w 6) (reg w 0))
  | 18 => zero w [(12, 2)] (.vshop (bits 2 w 16) (bits 2 w 14) (reg w 6) (reg w 0))
  | 19 => zero w [(12, 2)] (.vexp2 (bits 2 w 16) (bits 2 w 14) (reg w 6) (reg w 0))
  | 20 => zero w [(12, 2)] (.vlog2 (bits 2 w 16) (bits 2 w 14) (reg w 6) (reg w 0))
  | 21 => zero w [(12, 2)] (.vrcp (bits 2 w 16) (bits 2 w 14) (reg w 6) (reg w 0))
  | 22 => zero w [(12, 2)] (.vrsq (bits 2 w 16) (bits 2 w 14) (reg w 6) (reg w 0))
  | 23 => zero w [(12, 2)] (.vsqrt (bits 2 w 16) (bits 2 w 14) (reg w 6) (reg w 0))
  | 24 => zero w [(12, 2)] (.vsin (bits 2 w 16) (bits 2 w 14) (reg w 6) (reg w 0))
  | 25 => zero w [(12, 2)] (.vcos (bits 2 w 16) (bits 2 w 14) (reg w 6) (reg w 0))
  | 26 => zero w [(12, 2)] (.vtanh (bits 2 w 16) (bits 2 w 14) (reg w 6) (reg w 0))
  | _ => .error .unallocatedFunction

/-- Queue major 0x58 (R38). -/
noncomputable def decodeQueue (w : Nat) : Except DecodeErr Instr :=
  match fld w 0 3 with
  | 0 => .ok (.qmake (reg w 19) (reg w 13) (reg w 7) (bits 4 w 3))
  | 1 => .ok (.qenq (reg w 19) (reg w 13) (reg w 7) (bits 4 w 3))
  | 2 => .ok (.qdeq (reg w 19) (reg w 13) (reg w 7) (bits 4 w 3))
  | 3 => .ok (.qsteal (reg w 19) (reg w 13) (reg w 7) (bits 4 w 3))
  | 4 => .ok (.qderiv (reg w 19) (reg w 13) (reg w 7) (bits 4 w 3))
  | 5 => zero w [(7, 6)] (.qdest (reg w 19) (reg w 13) (bits 4 w 3))
  | 6 => .ok (.qstat (reg w 19) (reg w 13) (reg w 7) (bits 4 w 3))
  | 7 => .ok (.govset (reg w 19) (reg w 13) (reg w 7) (bits 4 w 3))
  | _ => .error .unallocatedFunction

/-- Matrix tile major 0x60 (R39). -/
noncomputable def decodeTile (w : Nat) : Except DecodeErr Instr :=
  match fld w 0 9 with
  | 0 => .ok (.mma (bits 3 w 22) (bits 3 w 19) (bits 5 w 14) (bits 5 w 9))
  | 1 => zero w [(19, 3)] (.mmaz (bits 3 w 22) (bits 5 w 14) (bits 5 w 9))
  | 2 => zero w [(9, 13)] (.mzero (bits 3 w 22))
  | _ => .error .unallocatedFunction

/-- Matrix data major 0x61 (R38). -/
noncomputable def decodeMatrixData (w : Nat) : Except DecodeErr Instr :=
  match fld w 0 3 with
  | 0 => .ok (.mclaim (reg w 19) (reg w 13) (reg w 7) (bits 4 w 3))
  | 1 => .ok (.mrel (reg w 19) (reg w 13) (reg w 7) (bits 4 w 3))
  | 2 => .ok (.mfmt (reg w 19) (reg w 13) (reg w 7) (bits 4 w 3))
  | 3 => .ok (.mscl (reg w 19) (reg w 13) (reg w 7) (bits 4 w 3))
  | 4 => zero w [(3, 4), (24, 1)] (.mldt (bits 5 w 19) (reg w 13) (reg w 7))
  | 5 => zero w [(3, 4), (24, 1)] (.mtrn (bits 5 w 19) (reg w 13) (reg w 7))
  | 6 => zero w [(3, 4), (21, 4)] (.mrd (bits 2 w 19) (reg w 13) (reg w 7))
  | 7 => .ok (.mcvt (reg w 19) (reg w 13) (reg w 7) (bits 4 w 3))
  | _ => .error .unallocatedFunction

/-- Matrix sequence major 0x62 (R38). -/
noncomputable def decodeMatrixSeq (w : Nat) : Except DecodeErr Instr :=
  match fld w 0 3 with
  | 0 => .ok (.mgemm (reg w 19) (reg w 13) (reg w 7) (bits 4 w 3))
  | 1 => zero w [(7, 6)] (.mseqq (reg w 19) (reg w 13) (bits 4 w 3))
  | 2 => zero w [(3, 10), (19, 6)] (.mburst (reg w 13))
  | 3 => zero w [(3, 22)] .mwait
  | _ => .error .unallocatedFunction

/-- Launch major 0x68 (R38). -/
noncomputable def decodeLaunch (w : Nat) : Except DecodeErr Instr :=
  match fld w 0 3 with
  | 0 => zero w [(7, 6)] (.launch (reg w 19) (reg w 13) (bits 4 w 3))
  | 1 => zero w [(7, 12)] (.wnext (reg w 19) (bits 4 w 3))
  | 2 => .ok (.spawn (reg w 19) (reg w 13) (reg w 7) (bits 4 w 3))
  | _ => .error .unallocatedFunction

/-- Heap major 0x69 (R38). -/
noncomputable def decodeHeap (w : Nat) : Except DecodeErr Instr :=
  match fld w 0 3 with
  | 0 => .ok (.hmerge (reg w 19) (reg w 13) (reg w 7) (bits 4 w 3))
  | 1 => .ok (.hadd (reg w 19) (reg w 13) (reg w 7) (bits 4 w 3))
  | 2 => .ok (.hqry (reg w 19) (reg w 13) (reg w 7) (bits 4 w 3))
  | 3 => zero w [(7, 6)] (.hclose (reg w 19) (reg w 13) (bits 4 w 3))
  | 4 => .ok (.hdrain (reg w 19) (reg w 13) (reg w 7) (bits 4 w 3))
  | 5 => .ok (.srrd (reg w 19) (reg w 13) (reg w 7) (bits 4 w 3))
  | 6 => zero w [(7, 6)] (.htop (reg w 19) (reg w 13) (bits 4 w 3))
  | _ => .error .unallocatedFunction

/-- The fields of a word of the majors up to 0x56, by its major opcode (R35), before the range checks. -/
def decodeEarly (w : Nat) : Except DecodeErr Instr :=
  match fld w 25 7 with
  | 0x01 => decodeAlu w
  | 0x02 => .ok (.addi (reg w 19) (reg w 13) (bits 13 w 0))
  | 0x03 => .ok (.andi (reg w 19) (reg w 13) (bits 13 w 0))
  | 0x04 => .ok (.ori (reg w 19) (reg w 13) (bits 13 w 0))
  | 0x05 => .ok (.xori (reg w 19) (reg w 13) (bits 13 w 0))
  | 0x06 => .ok (.slti (reg w 19) (reg w 13) (bits 13 w 0))
  | 0x07 => decodeShiftImm w
  | 0x08 => zero w [(12, 1)] (.bfx (reg w 19) (reg w 13) (bits 6 w 6) (bits 6 w 0))
  | 0x09 => zero w [(12, 1)] (.bfxs (reg w 19) (reg w 13) (bits 6 w 6) (bits 6 w 0))
  | 0x0A => zero w [(12, 1)] (.bfi (reg w 19) (reg w 13) (bits 6 w 6) (bits 6 w 0))
  | 0x0B => .ok (.li (reg w 19) (bits 19 w 0))
  | 0x0C => .ok (.lih (reg w 19) (bits 19 w 0))
  | 0x0D => .ok (.addpc (reg w 19) (bits 19 w 0))
  | 0x0E => .ok (.ldl (reg w 19) (bits 19 w 0))
  | 0x0F => decodeFp w
  | 0x10 => .ok (.beq (reg w 19) (reg w 13) (bits 13 w 0))
  | 0x11 => .ok (.bne (reg w 19) (reg w 13) (bits 13 w 0))
  | 0x12 => .ok (.blt (reg w 19) (reg w 13) (bits 13 w 0))
  | 0x13 => .ok (.bge (reg w 19) (reg w 13) (bits 13 w 0))
  | 0x14 => .ok (.bltu (reg w 19) (reg w 13) (bits 13 w 0))
  | 0x15 => .ok (.bgeu (reg w 19) (reg w 13) (bits 13 w 0))
  | 0x16 => .ok (.j (bits 25 w 0))
  | 0x17 => .ok (.call (bits 25 w 0))
  | 0x18 => .ok (.loop (bit w 24) (reg w 18) (bits 18 w 0))
  | 0x19 => .ok (.loopi (bit w 24) (bits 6 w 18) (bits 18 w 0))
  | 0x1A => zero w [(0, 7)] (.rpt (bits 4 w 21) (bits 3 w 18) (bits 5 w 13) (reg w 7))
  | 0x1B => zero w [(13, 6)] (.csrr (reg w 19) (bits 13 w 0))
  | 0x1C => zero w [(19, 6)] (.csrw (reg w 13) (bits 13 w 0))
  | 0x1D => zero w [(19, 6)] (.csrs (reg w 13) (bits 13 w 0))
  | 0x1E => zero w [(19, 6)] (.csrc (reg w 13) (bits 13 w 0))
  | 0x1F => decodeControl w
  | 0x20 => .ok (.ldBSx (reg w 19) (reg w 13) (bits 4 w 9) (bits 9 w 0))
  | 0x21 => .ok (.ldBZx (reg w 19) (reg w 13) (bits 4 w 9) (bits 9 w 0))
  | 0x22 => .ok (.ldHSx (reg w 19) (reg w 13) (bits 4 w 9) (bits 9 w 0))
  | 0x23 => .ok (.ldHZx (reg w 19) (reg w 13) (bits 4 w 9) (bits 9 w 0))
  | 0x24 => .ok (.ldWSx (reg w 19) (reg w 13) (bits 4 w 9) (bits 9 w 0))
  | 0x25 => .ok (.ldWZx (reg w 19) (reg w 13) (bits 4 w 9) (bits 9 w 0))
  | 0x26 => .ok (.ldD (reg w 19) (reg w 13) (bits 4 w 9) (bits 9 w 0))
  | 0x27 => decodeLdx w
  | 0x28 => zero w [(9, 4)] (.stB (reg w 19) (reg w 13) (bits 9 w 0))
  | 0x29 => zero w [(9, 4)] (.stH (reg w 19) (reg w 13) (bits 9 w 0))
  | 0x2A => zero w [(9, 4)] (.stW (reg w 19) (reg w 13) (bits 9 w 0))
  | 0x2B => zero w [(9, 4)] (.stD (reg w 19) (reg w 13) (bits 9 w 0))
  | 0x2C => decodeStx w
  | 0x2D => zero w [(19, 1)] (.ldp (bits 5 w 20) (reg w 13) (bits 4 w 9) (bits 9 w 0))
  | 0x2E => zero w [(9, 4), (19, 1)] (.stp (bits 5 w 20) (reg w 13) (bits 9 w 0))
  | 0x2F => decodeAcqRel w
  | 0x30 => decodeLdf w
  | 0x31 => decodePref w
  | 0x38 => decodeIntAtomic w
  | 0x39 => decodeIntAtomic w
  | 0x3A => decodeIntPosted w
  | 0x3B => decodeIntPosted w
  | 0x3C => decodeSwapAtomic w
  | 0x3D => decodeSwapAtomic w
  | 0x3E => decodeSwapPosted w
  | 0x3F => decodeSwapPosted w
  | 0x40 => decodeRegion w
  | 0x41 => decodeMigration w
  | 0x42 => decodeBarrier w
  | 0x43 => decodeTranslation w
  | 0x44 => decodeSlack w
  | 0x45 => zero w [(19, 6)] (.trap (bits 19 w 0))
  | 0x48 => decodeWarrant w
  | 0x49 => decodeContext w
  | 0x50 => decodeStream w
  | 0x51 => decodeVector w
  | 0x52 => .ok (.cpy (reg w 19) (reg w 13) (reg w 7) (bits 2 w 5) (bits 5 w 0))
  | 0x53 => .ok (.cpy2d (reg w 19) (reg w 13) (reg w 7) (bits 2 w 5) (bits 5 w 0))
  | 0x54 => .ok (.gath (reg w 19) (reg w 13) (reg w 7) (bits 2 w 5) (bits 5 w 0))
  | 0x55 => .ok (.scat (reg w 19) (reg w 13) (reg w 7) (bits 2 w 5) (bits 5 w 0))
  | 0x56 => .ok (.coll (reg w 19) (reg w 13) (reg w 7) (bits 2 w 5) (bits 5 w 0))
  | _ => .error .unallocatedMajor

/-- The fields of a word, by its major opcode (R35), before the range checks. -/
noncomputable def decodeFields (w : Nat) : Except DecodeErr Instr :=
  match fld w 25 7 with
  | 0x58 => decodeQueue w
  | 0x60 => decodeTile w
  | 0x61 => decodeMatrixData w
  | 0x62 => decodeMatrixSeq w
  | 0x68 => decodeLaunch w
  | 0x69 => decodeHeap w
  | _ => decodeEarly w

/-- The rows of the majors 0x58 to 0x69 (R38, R39): the bits that are fixed, and their values. -/
def lateRows : List (Nat × Nat) :=
  [(0xFE000007, 0xB0000000), (0xFE000007, 0xB0000001), (0xFE000007, 0xB0000002), (0xFE000007, 0xB0000003),
   (0xFE000007, 0xB0000004), (0xFE001F87, 0xB0000005), (0xFE000007, 0xB0000006), (0xFE000007, 0xB0000007),
   (0xFE0001FF, 0xC0000000), (0xFE3801FF, 0xC0000001), (0xFE3FFFFF, 0xC0000002), (0xFE000007, 0xC2000000),
   (0xFE000007, 0xC2000001), (0xFE000007, 0xC2000002), (0xFE000007, 0xC2000003), (0xFF00007F, 0xC2000004),
   (0xFF00007F, 0xC2000005), (0xFFE0007F, 0xC2000006), (0xFE000007, 0xC2000007), (0xFE000007, 0xC4000000),
   (0xFE001F87, 0xC4000001), (0xFFF81FFF, 0xC4000002), (0xFFFFFFFF, 0xC4000003), (0xFE001F87, 0xD0000000),
   (0xFE07FF87, 0xD0000001), (0xFE000007, 0xD0000002), (0xFE000007, 0xD2000000), (0xFE000007, 0xD2000001),
   (0xFE000007, 0xD2000002), (0xFE001F87, 0xD2000003), (0xFE000007, 0xD2000004), (0xFE000007, 0xD2000005),
   (0xFE001F87, 0xD2000006)]

/-- A word is an instruction: `decodeWord` answers one (R40). -/
def decodes (w : Nat) : Bool :=
  if 0x58 ≤ fld w 25 7 then
    lateRows.any (fun r => w &&& r.1 == r.2) && (fld w 25 7 != 0x60 || (decide (fld w 22 3 ≤ 3) && decide (fld w 19 3 ≤ 3)))
  else
    match decodeEarly w with
    | .ok i => wellFormed i
    | .error _ => false

/-- The instruction of a word: its fields, then the ranges of R40 (5). -/
noncomputable def decodeWord (w : Nat) : Except DecodeErr Instr :=
  match decodeFields w with
  | .ok i => if wellFormed i then .ok i else .error .outOfRange
  | .error e => .error e

/-- The number whose bytes, least significant first, are `bs` (R2). -/
def leNat : List Byte → Nat
  | [] => 0
  | b :: bs => b.toNat + 256 * leNat bs

/-- The `n` low bytes of `v`, least significant first (R2). -/
def leBytes : Nat → Nat → List Byte
  | 0, _ => []
  | n + 1, v => BitVec.ofNat 8 v :: leBytes n (v / 256)

/-- The instruction at the head of a byte list, and the bytes after it: four bytes, little-endian. -/
noncomputable def decodeBytes : List Byte → Except DecodeErr (Instr × List Byte)
  | b0 :: b1 :: b2 :: b3 :: rest =>
    match decodeWord (leNat [b0, b1, b2, b3]) with
    | .ok i => .ok (i, rest)
    | .error e => .error e
  | _ => .error .truncated

/-- The instruction this decoder reads from a table word of `nbits` bits. -/
noncomputable def decodeTableWord (nbits w : Nat) : Option Instr :=
  match decodeBytes (leBytes 4 (w % 2 ^ nbits)) with
  | .ok (i, _) => some i
  | .error _ => none

/-- The word of an instruction, from the same tables; the rows that are steps of the machine have none. -/
def encode : Instr → Option Nat
  | .add w d a b => some (0x02000000 + w.toNat * 0x40 + d.toNat * 0x80000 + a.toNat * 0x2000 + b.toNat * 0x80)
  | .sub w d a b => some (0x02000001 + w.toNat * 0x40 + d.toNat * 0x80000 + a.toNat * 0x2000 + b.toNat * 0x80)
  | .addv w d a b => some (0x02000002 + w.toNat * 0x40 + d.toNat * 0x80000 + a.toNat * 0x2000 + b.toNat * 0x80)
  | .subv w d a b => some (0x02000003 + w.toNat * 0x40 + d.toNat * 0x80000 + a.toNat * 0x2000 + b.toNat * 0x80)
  | .mul w d a b => some (0x02000004 + w.toNat * 0x40 + d.toNat * 0x80000 + a.toNat * 0x2000 + b.toNat * 0x80)
  | .mulh w d a b => some (0x02000005 + w.toNat * 0x40 + d.toNat * 0x80000 + a.toNat * 0x2000 + b.toNat * 0x80)
  | .mulhu w d a b => some (0x02000006 + w.toNat * 0x40 + d.toNat * 0x80000 + a.toNat * 0x2000 + b.toNat * 0x80)
  | .madd w d a b => some (0x02000007 + w.toNat * 0x40 + d.toNat * 0x80000 + a.toNat * 0x2000 + b.toNat * 0x80)
  | .div w d a b => some (0x02000008 + w.toNat * 0x40 + d.toNat * 0x80000 + a.toNat * 0x2000 + b.toNat * 0x80)
  | .divu w d a b => some (0x02000009 + w.toNat * 0x40 + d.toNat * 0x80000 + a.toNat * 0x2000 + b.toNat * 0x80)
  | .rem w d a b => some (0x0200000A + w.toNat * 0x40 + d.toNat * 0x80000 + a.toNat * 0x2000 + b.toNat * 0x80)
  | .remu w d a b => some (0x0200000B + w.toNat * 0x40 + d.toNat * 0x80000 + a.toNat * 0x2000 + b.toNat * 0x80)
  | .divv w d a b => some (0x0200000C + w.toNat * 0x40 + d.toNat * 0x80000 + a.toNat * 0x2000 + b.toNat * 0x80)
  | .abs w d a => some (0x0200000D + w.toNat * 0x40 + d.toNat * 0x80000 + a.toNat * 0x2000)
  | .min w d a b => some (0x0200000E + w.toNat * 0x40 + d.toNat * 0x80000 + a.toNat * 0x2000 + b.toNat * 0x80)
  | .max w d a b => some (0x0200000F + w.toNat * 0x40 + d.toNat * 0x80000 + a.toNat * 0x2000 + b.toNat * 0x80)
  | .minu w d a b => some (0x02000010 + w.toNat * 0x40 + d.toNat * 0x80000 + a.toNat * 0x2000 + b.toNat * 0x80)
  | .maxu w d a b => some (0x02000011 + w.toNat * 0x40 + d.toNat * 0x80000 + a.toNat * 0x2000 + b.toNat * 0x80)
  | .and w d a b => some (0x02000012 + w.toNat * 0x40 + d.toNat * 0x80000 + a.toNat * 0x2000 + b.toNat * 0x80)
  | .or w d a b => some (0x02000013 + w.toNat * 0x40 + d.toNat * 0x80000 + a.toNat * 0x2000 + b.toNat * 0x80)
  | .xor w d a b => some (0x02000014 + w.toNat * 0x40 + d.toNat * 0x80000 + a.toNat * 0x2000 + b.toNat * 0x80)
  | .andn w d a b => some (0x02000015 + w.toNat * 0x40 + d.toNat * 0x80000 + a.toNat * 0x2000 + b.toNat * 0x80)
  | .shl w d a b => some (0x02000016 + w.toNat * 0x40 + d.toNat * 0x80000 + a.toNat * 0x2000 + b.toNat * 0x80)
  | .shr w d a b => some (0x02000017 + w.toNat * 0x40 + d.toNat * 0x80000 + a.toNat * 0x2000 + b.toNat * 0x80)
  | .sra w d a b => some (0x02000018 + w.toNat * 0x40 + d.toNat * 0x80000 + a.toNat * 0x2000 + b.toNat * 0x80)
  | .rol w d a b => some (0x02000019 + w.toNat * 0x40 + d.toNat * 0x80000 + a.toNat * 0x2000 + b.toNat * 0x80)
  | .clz w d a => some (0x0200001A + w.toNat * 0x40 + d.toNat * 0x80000 + a.toNat * 0x2000)
  | .ctz w d a => some (0x0200001B + w.toNat * 0x40 + d.toNat * 0x80000 + a.toNat * 0x2000)
  | .popc w d a => some (0x0200001C + w.toNat * 0x40 + d.toNat * 0x80000 + a.toNat * 0x2000)
  | .brev w d a => some (0x0200001D + w.toNat * 0x40 + d.toNat * 0x80000 + a.toNat * 0x2000)
  | .seq w d a b => some (0x0200001E + w.toNat * 0x40 + d.toNat * 0x80000 + a.toNat * 0x2000 + b.toNat * 0x80)
  | .sne w d a b => some (0x0200001F + w.toNat * 0x40 + d.toNat * 0x80000 + a.toNat * 0x2000 + b.toNat * 0x80)
  | .slt w d a b => some (0x02000020 + w.toNat * 0x40 + d.toNat * 0x80000 + a.toNat * 0x2000 + b.toNat * 0x80)
  | .sltu w d a b => some (0x02000021 + w.toNat * 0x40 + d.toNat * 0x80000 + a.toNat * 0x2000 + b.toNat * 0x80)
  | .sel w d a b => some (0x02000022 + w.toNat * 0x40 + d.toNat * 0x80000 + a.toNat * 0x2000 + b.toNat * 0x80)
  | .addi d a imm => some (0x04000000 + d.toNat * 0x80000 + a.toNat * 0x2000 + imm.toNat)
  | .andi d a imm => some (0x06000000 + d.toNat * 0x80000 + a.toNat * 0x2000 + imm.toNat)
  | .ori d a imm => some (0x08000000 + d.toNat * 0x80000 + a.toNat * 0x2000 + imm.toNat)
  | .xori d a imm => some (0x0A000000 + d.toNat * 0x80000 + a.toNat * 0x2000 + imm.toNat)
  | .slti d a imm => some (0x0C000000 + d.toNat * 0x80000 + a.toNat * 0x2000 + imm.toNat)
  | .shli w d a amt => some (0x0E000000 + w.toNat * 0x40 + d.toNat * 0x80000 + a.toNat * 0x2000 + amt.toNat)
  | .shri w d a amt => some (0x0E000080 + w.toNat * 0x40 + d.toNat * 0x80000 + a.toNat * 0x2000 + amt.toNat)
  | .srai w d a amt => some (0x0E000100 + w.toNat * 0x40 + d.toNat * 0x80000 + a.toNat * 0x2000 + amt.toNat)
  | .bfx d a width1 pos => some (0x10000000 + d.toNat * 0x80000 + a.toNat * 0x2000 + width1.toNat * 0x40 + pos.toNat)
  | .bfxs d a width1 pos => some (0x12000000 + d.toNat * 0x80000 + a.toNat * 0x2000 + width1.toNat * 0x40 + pos.toNat)
  | .bfi d a width1 pos => some (0x14000000 + d.toNat * 0x80000 + a.toNat * 0x2000 + width1.toNat * 0x40 + pos.toNat)
  | .li d imm => some (0x16000000 + d.toNat * 0x80000 + imm.toNat)
  | .lih d imm => some (0x18000000 + d.toNat * 0x80000 + imm.toNat)
  | .addpc d imm => some (0x1A000000 + d.toNat * 0x80000 + imm.toNat)
  | .ldl d imm => some (0x1C000000 + d.toNat * 0x80000 + imm.toNat)
  | .fadd p d a b => some (0x1E000000 + p.toNat * 0x40 + d.toNat * 0x80000 + a.toNat * 0x2000 + b.toNat * 0x80)
  | .fsub p d a b => some (0x1E000001 + p.toNat * 0x40 + d.toNat * 0x80000 + a.toNat * 0x2000 + b.toNat * 0x80)
  | .fmul p d a b => some (0x1E000002 + p.toNat * 0x40 + d.toNat * 0x80000 + a.toNat * 0x2000 + b.toNat * 0x80)
  | .fdiv p d a b => some (0x1E000003 + p.toNat * 0x40 + d.toNat * 0x80000 + a.toNat * 0x2000 + b.toNat * 0x80)
  | .fmadd p d a b => some (0x1E000004 + p.toNat * 0x40 + d.toNat * 0x80000 + a.toNat * 0x2000 + b.toNat * 0x80)
  | .fmin p d a b => some (0x1E000005 + p.toNat * 0x40 + d.toNat * 0x80000 + a.toNat * 0x2000 + b.toNat * 0x80)
  | .fmax p d a b => some (0x1E000006 + p.toNat * 0x40 + d.toNat * 0x80000 + a.toNat * 0x2000 + b.toNat * 0x80)
  | .fabs p d a => some (0x1E000007 + p.toNat * 0x40 + d.toNat * 0x80000 + a.toNat * 0x2000)
  | .fneg p d a => some (0x1E000008 + p.toNat * 0x40 + d.toNat * 0x80000 + a.toNat * 0x2000)
  | .fsqrt p d a => some (0x1E000009 + p.toNat * 0x40 + d.toNat * 0x80000 + a.toNat * 0x2000)
  | .fcmpeq p d a b => some (0x1E00000A + p.toNat * 0x40 + d.toNat * 0x80000 + a.toNat * 0x2000 + b.toNat * 0x80)
  | .fcmplt p d a b => some (0x1E00000B + p.toNat * 0x40 + d.toNat * 0x80000 + a.toNat * 0x2000 + b.toNat * 0x80)
  | .fcmple p d a b => some (0x1E00000C + p.toNat * 0x40 + d.toNat * 0x80000 + a.toNat * 0x2000 + b.toNat * 0x80)
  | .fcvtif p d a => some (0x1E00000D + p.toNat * 0x40 + d.toNat * 0x80000 + a.toNat * 0x2000)
  | .fcvtfi p d a => some (0x1E00000E + p.toNat * 0x40 + d.toNat * 0x80000 + a.toNat * 0x2000)
  | .fcvtw p d a => some (0x1E00000F + p.toNat * 0x40 + d.toNat * 0x80000 + a.toNat * 0x2000)
  | .fmvif p d a => some (0x1E000010 + p.toNat * 0x40 + d.toNat * 0x80000 + a.toNat * 0x2000)
  | .fmvfi p d a => some (0x1E000011 + p.toNat * 0x40 + d.toNat * 0x80000 + a.toNat * 0x2000)
  | .beq a b off => some (0x20000000 + a.toNat * 0x80000 + b.toNat * 0x2000 + off.toNat)
  | .bne a b off => some (0x22000000 + a.toNat * 0x80000 + b.toNat * 0x2000 + off.toNat)
  | .blt a b off => some (0x24000000 + a.toNat * 0x80000 + b.toNat * 0x2000 + off.toNat)
  | .bge a b off => some (0x26000000 + a.toNat * 0x80000 + b.toNat * 0x2000 + off.toNat)
  | .bltu a b off => some (0x28000000 + a.toNat * 0x80000 + b.toNat * 0x2000 + off.toNat)
  | .bgeu a b off => some (0x2A000000 + a.toNat * 0x80000 + b.toNat * 0x2000 + off.toNat)
  | .j off => some (0x2C000000 + off.toNat)
  | .call off => some (0x2E000000 + off.toNat)
  | .loop lvl a off => some (0x30000000 + lvl.toNat * 0x1000000 + a.toNat * 0x40000 + off.toNat)
  | .loopi lvl n off => some (0x32000000 + lvl.toNat * 0x1000000 + n.toNat * 0x40000 + off.toNat)
  | .rpt len1 mask stp a => some (0x34000000 + len1.toNat * 0x200000 + mask.toNat * 0x40000 + stp.toNat * 0x2000 + a.toNat * 0x80)
  | .csrr d csr => some (0x36000000 + d.toNat * 0x80000 + csr.toNat)
  | .csrw a csr => some (0x38000000 + a.toNat * 0x2000 + csr.toNat)
  | .csrs a csr => some (0x3A000000 + a.toNat * 0x2000 + csr.toNat)
  | .csrc a csr => some (0x3C000000 + a.toNat * 0x2000 + csr.toNat)
  | .nop => some (0x3E000000)
  | .eret => some (0x3E000001)
  | .brk => some (0x3E000002)
  | .quit => some (0x3E000003)
  | .jr a => some (0x3E000004 + a.toNat * 0x2000)
  | .callr a => some (0x3E000005 + a.toNat * 0x2000)
  | .ret => some (0x3E000006)
  | .lbrk lvl => some (0x3E000007 + lvl.toNat * 0x80)
  | .wflush => some (0x3E000008)
  | .ldBSx d a la off => some (0x40000000 + d.toNat * 0x80000 + a.toNat * 0x2000 + la.toNat * 0x200 + off.toNat)
  | .ldBZx d a la off => some (0x42000000 + d.toNat * 0x80000 + a.toNat * 0x2000 + la.toNat * 0x200 + off.toNat)
  | .ldHSx d a la off => some (0x44000000 + d.toNat * 0x80000 + a.toNat * 0x2000 + la.toNat * 0x200 + off.toNat)
  | .ldHZx d a la off => some (0x46000000 + d.toNat * 0x80000 + a.toNat * 0x2000 + la.toNat * 0x200 + off.toNat)
  | .ldWSx d a la off => some (0x48000000 + d.toNat * 0x80000 + a.toNat * 0x2000 + la.toNat * 0x200 + off.toNat)
  | .ldWZx d a la off => some (0x4A000000 + d.toNat * 0x80000 + a.toNat * 0x2000 + la.toNat * 0x200 + off.toNat)
  | .ldD d a la off => some (0x4C000000 + d.toNat * 0x80000 + a.toNat * 0x2000 + la.toNat * 0x200 + off.toNat)
  | .ldxBSx d a b la => some (0x4E000000 + d.toNat * 0x80000 + a.toNat * 0x2000 + b.toNat * 0x80 + la.toNat * 0x8)
  | .ldxBZx d a b la => some (0x4E000001 + d.toNat * 0x80000 + a.toNat * 0x2000 + b.toNat * 0x80 + la.toNat * 0x8)
  | .ldxHSx d a b la => some (0x4E000002 + d.toNat * 0x80000 + a.toNat * 0x2000 + b.toNat * 0x80 + la.toNat * 0x8)
  | .ldxHZx d a b la => some (0x4E000003 + d.toNat * 0x80000 + a.toNat * 0x2000 + b.toNat * 0x80 + la.toNat * 0x8)
  | .ldxWSx d a b la => some (0x4E000004 + d.toNat * 0x80000 + a.toNat * 0x2000 + b.toNat * 0x80 + la.toNat * 0x8)
  | .ldxWZx d a b la => some (0x4E000005 + d.toNat * 0x80000 + a.toNat * 0x2000 + b.toNat * 0x80 + la.toNat * 0x8)
  | .ldxD d a b la => some (0x4E000006 + d.toNat * 0x80000 + a.toNat * 0x2000 + b.toNat * 0x80 + la.toNat * 0x8)
  | .stB d a off => some (0x50000000 + d.toNat * 0x80000 + a.toNat * 0x2000 + off.toNat)
  | .stH d a off => some (0x52000000 + d.toNat * 0x80000 + a.toNat * 0x2000 + off.toNat)
  | .stW d a off => some (0x54000000 + d.toNat * 0x80000 + a.toNat * 0x2000 + off.toNat)
  | .stD d a off => some (0x56000000 + d.toNat * 0x80000 + a.toNat * 0x2000 + off.toNat)
  | .stxB d a b => some (0x58000000 + d.toNat * 0x80000 + a.toNat * 0x2000 + b.toNat * 0x80)
  | .stxH d a b => some (0x58000001 + d.toNat * 0x80000 + a.toNat * 0x2000 + b.toNat * 0x80)
  | .stxW d a b => some (0x58000002 + d.toNat * 0x80000 + a.toNat * 0x2000 + b.toNat * 0x80)
  | .stxD d a b => some (0x58000003 + d.toNat * 0x80000 + a.toNat * 0x2000 + b.toNat * 0x80)
  | .ldp d a la off => some (0x5A000000 + d.toNat * 0x100000 + a.toNat * 0x2000 + la.toNat * 0x200 + off.toNat)
  | .stp d a off => some (0x5C000000 + d.toNat * 0x100000 + a.toNat * 0x2000 + off.toNat)
  | .ldaW d a b la => some (0x5E000000 + d.toNat * 0x80000 + a.toNat * 0x2000 + b.toNat * 0x80 + la.toNat * 0x8)
  | .ldaD d a b la => some (0x5E000001 + d.toNat * 0x80000 + a.toNat * 0x2000 + b.toNat * 0x80 + la.toNat * 0x8)
  | .stlW d a b => some (0x5E000002 + d.toNat * 0x80000 + a.toNat * 0x2000 + b.toNat * 0x80)
  | .stlD d a b => some (0x5E000003 + d.toNat * 0x80000 + a.toNat * 0x2000 + b.toNat * 0x80)
  | .stlGW d a b => some (0x5E000004 + d.toNat * 0x80000 + a.toNat * 0x2000 + b.toNat * 0x80)
  | .stlGD d a b => some (0x5E000005 + d.toNat * 0x80000 + a.toNat * 0x2000 + b.toNat * 0x80)
  | .ldfBSx d a b la => some (0x60000000 + d.toNat * 0x80000 + a.toNat * 0x2000 + b.toNat * 0x80 + la.toNat * 0x8)
  | .ldfBZx d a b la => some (0x60000001 + d.toNat * 0x80000 + a.toNat * 0x2000 + b.toNat * 0x80 + la.toNat * 0x8)
  | .ldfHSx d a b la => some (0x60000002 + d.toNat * 0x80000 + a.toNat * 0x2000 + b.toNat * 0x80 + la.toNat * 0x8)
  | .ldfHZx d a b la => some (0x60000003 + d.toNat * 0x80000 + a.toNat * 0x2000 + b.toNat * 0x80 + la.toNat * 0x8)
  | .ldfWSx d a b la => some (0x60000004 + d.toNat * 0x80000 + a.toNat * 0x2000 + b.toNat * 0x80 + la.toNat * 0x8)
  | .ldfWZx d a b la => some (0x60000005 + d.toNat * 0x80000 + a.toNat * 0x2000 + b.toNat * 0x80 + la.toNat * 0x8)
  | .ldfD d a b la => some (0x60000006 + d.toNat * 0x80000 + a.toNat * 0x2000 + b.toNat * 0x80 + la.toNat * 0x8)
  | .pref a b => some (0x62000000 + a.toNat * 0x2000 + b.toNat * 0x80)
  | .aadd w d a b la => some (0x70000000 + w.toNat * 0x2000000 + d.toNat * 0x80000 + a.toNat * 0x2000 + b.toNat * 0x80 + la.toNat * 0x8)
  | .aand w d a b la => some (0x70000001 + w.toNat * 0x2000000 + d.toNat * 0x80000 + a.toNat * 0x2000 + b.toNat * 0x80 + la.toNat * 0x8)
  | .aor w d a b la => some (0x70000002 + w.toNat * 0x2000000 + d.toNat * 0x80000 + a.toNat * 0x2000 + b.toNat * 0x80 + la.toNat * 0x8)
  | .axor w d a b la => some (0x70000003 + w.toNat * 0x2000000 + d.toNat * 0x80000 + a.toNat * 0x2000 + b.toNat * 0x80 + la.toNat * 0x8)
  | .amin w d a b la => some (0x70000004 + w.toNat * 0x2000000 + d.toNat * 0x80000 + a.toNat * 0x2000 + b.toNat * 0x80 + la.toNat * 0x8)
  | .amax w d a b la => some (0x70000005 + w.toNat * 0x2000000 + d.toNat * 0x80000 + a.toNat * 0x2000 + b.toNat * 0x80 + la.toNat * 0x8)
  | .aminu w d a b la => some (0x70000006 + w.toNat * 0x2000000 + d.toNat * 0x80000 + a.toNat * 0x2000 + b.toNat * 0x80 + la.toNat * 0x8)
  | .amaxu w d a b la => some (0x70000007 + w.toNat * 0x2000000 + d.toNat * 0x80000 + a.toNat * 0x2000 + b.toNat * 0x80 + la.toNat * 0x8)
  | .aaddP w a b => some (0x74000000 + w.toNat * 0x2000000 + a.toNat * 0x2000 + b.toNat * 0x80)
  | .aandP w a b => some (0x74000001 + w.toNat * 0x2000000 + a.toNat * 0x2000 + b.toNat * 0x80)
  | .aorP w a b => some (0x74000002 + w.toNat * 0x2000000 + a.toNat * 0x2000 + b.toNat * 0x80)
  | .axorP w a b => some (0x74000003 + w.toNat * 0x2000000 + a.toNat * 0x2000 + b.toNat * 0x80)
  | .aminP w a b => some (0x74000004 + w.toNat * 0x2000000 + a.toNat * 0x2000 + b.toNat * 0x80)
  | .amaxP w a b => some (0x74000005 + w.toNat * 0x2000000 + a.toNat * 0x2000 + b.toNat * 0x80)
  | .aminuP w a b => some (0x74000006 + w.toNat * 0x2000000 + a.toNat * 0x2000 + b.toNat * 0x80)
  | .amaxuP w a b => some (0x74000007 + w.toNat * 0x2000000 + a.toNat * 0x2000 + b.toNat * 0x80)
  | .aswp w d a b la => some (0x78000000 + w.toNat * 0x2000000 + d.toNat * 0x80000 + a.toNat * 0x2000 + b.toNat * 0x80 + la.toNat * 0x8)
  | .acas w d a b la => some (0x78000001 + w.toNat * 0x2000000 + d.toNat * 0x80000 + a.toNat * 0x2000 + b.toNat * 0x80 + la.toNat * 0x8)
  | .afadd w d a b la => some (0x78000002 + w.toNat * 0x2000000 + d.toNat * 0x80000 + a.toNat * 0x2000 + b.toNat * 0x80 + la.toNat * 0x8)
  | .afmin w d a b la => some (0x78000003 + w.toNat * 0x2000000 + d.toNat * 0x80000 + a.toNat * 0x2000 + b.toNat * 0x80 + la.toNat * 0x8)
  | .afmax w d a b la => some (0x78000004 + w.toNat * 0x2000000 + d.toNat * 0x80000 + a.toNat * 0x2000 + b.toNat * 0x80 + la.toNat * 0x8)
  | .aswpP w a b => some (0x7C000000 + w.toNat * 0x2000000 + a.toNat * 0x2000 + b.toNat * 0x80)
  | .acasP w d a b => some (0x7C000001 + w.toNat * 0x2000000 + d.toNat * 0x80000 + a.toNat * 0x2000 + b.toNat * 0x80)
  | .afaddP w a b => some (0x7C000002 + w.toNat * 0x2000000 + a.toNat * 0x2000 + b.toNat * 0x80)
  | .afminP w a b => some (0x7C000003 + w.toNat * 0x2000000 + a.toNat * 0x2000 + b.toNat * 0x80)
  | .afmaxP w a b => some (0x7C000004 + w.toNat * 0x2000000 + a.toNat * 0x2000 + b.toNat * 0x80)
  | .rgn a => some (0x80000000 + a.toNat * 0x2000)
  | .cmt => some (0x80000001)
  | .abrt => some (0x80000002)
  | .rgnq d => some (0x80000003 + d.toNat * 0x80000)
  | .fence dist => some (0x80000008 + dist.toNat * 0x80)
  | .fencep => some (0x80000009)
  | .ifence => some (0x8000000A)
  | .lfence => some (0x8000000B)
  | .tfence => some (0x8000000C)
  | .qfence mask => some (0x8000000D + mask.toNat * 0x80)
  | .vfence => some (0x8000000E)
  | .vwait => some (0x8000000F)
  | .go a => some (0x82000000 + a.toNat * 0x2000)
  | .gohome => some (0x82000001)
  | .amsg a b => some (0x82000002 + a.toNat * 0x2000 + b.toNat * 0x80)
  | .barset a b => some (0x84000000 + a.toNat * 0x2000 + b.toNat * 0x80)
  | .barreg a => some (0x84000001 + a.toNat * 0x2000)
  | .bara a => some (0x84000002 + a.toNat * 0x2000)
  | .barw a b => some (0x84000003 + a.toNat * 0x2000 + b.toNat * 0x80)
  | .baraw a b => some (0x84000004 + a.toNat * 0x2000 + b.toNat * 0x80)
  | .jset a b => some (0x84000005 + a.toNat * 0x2000 + b.toNat * 0x80)
  | .jdec a => some (0x84000006 + a.toNat * 0x2000)
  | .jwait a => some (0x84000007 + a.toNat * 0x2000)
  | .rlock a => some (0x86000000 + a.toNat * 0x2000)
  | .runlk a => some (0x86000001 + a.toNat * 0x2000)
  | .rpre a => some (0x86000002 + a.toNat * 0x2000)
  | .lateq d => some (0x86000003 + d.toNat * 0x80000)
  | .slk n => some (0x88000000 + n.toNat)
  | .slkOnce n => some (0x88001000 + n.toNat)
  | .trap imm => some (0x8A000000 + imm.toNat)
  | .present d a b la => some (0x90000000 + d.toNat * 0x80000 + a.toNat * 0x2000 + b.toNat * 0x80 + la.toNat * 0x8)
  | .wsplit d a b la => some (0x90000001 + d.toNat * 0x80000 + a.toNat * 0x2000 + b.toNat * 0x80 + la.toNat * 0x8)
  | .wdeleg d a b la => some (0x90000002 + d.toNat * 0x80000 + a.toNat * 0x2000 + b.toNat * 0x80 + la.toNat * 0x8)
  | .waccept d a b la => some (0x90000003 + d.toNat * 0x80000 + a.toNat * 0x2000 + b.toNat * 0x80 + la.toNat * 0x8)
  | .wsurr d a b la => some (0x90000004 + d.toNat * 0x80000 + a.toNat * 0x2000 + b.toNat * 0x80 + la.toNat * 0x8)
  | .wamend d a b la => some (0x90000005 + d.toNat * 0x80000 + a.toNat * 0x2000 + b.toNat * 0x80 + la.toNat * 0x8)
  | .wqry d a b la => some (0x90000006 + d.toNat * 0x80000 + a.toNat * 0x2000 + b.toNat * 0x80 + la.toNat * 0x8)
  | .caprd d a b la => some (0x90000007 + d.toNat * 0x80000 + a.toNat * 0x2000 + b.toNat * 0x80 + la.toNat * 0x8)
  | .dtime d a la => some (0x92000000 + d.toNat * 0x80000 + a.toNat * 0x2000 + la.toNat * 0x8)
  | .tnonce d a la => some (0x92000001 + d.toNat * 0x80000 + a.toNat * 0x2000 + la.toNat * 0x8)
  | .ckpt d a b la => some (0x92000002 + d.toNat * 0x80000 + a.toNat * 0x2000 + b.toNat * 0x80 + la.toNat * 0x8)
  | .evwait d a b la => some (0x92000003 + d.toNat * 0x80000 + a.toNat * 0x2000 + b.toNat * 0x80 + la.toNat * 0x8)
  | .evpost a b => some (0x92000004 + a.toNat * 0x2000 + b.toNat * 0x80)
  | .rlimq d a la => some (0x92000005 + d.toNat * 0x80000 + a.toNat * 0x2000 + la.toNat * 0x8)
  | .evrd d a la => some (0x92000006 + d.toNat * 0x80000 + a.toNat * 0x2000 + la.toNat * 0x8)
  | .scfg d a b la => some (0xA0000000 + d.toNat * 0x80000 + a.toNat * 0x2000 + b.toNat * 0x80 + la.toNat * 0x8)
  | .sbnd d a b la => some (0xA0000001 + d.toNat * 0x80000 + a.toNat * 0x2000 + b.toNat * 0x80 + la.toNat * 0x8)
  | .smap d a b la => some (0xA0000002 + d.toNat * 0x80000 + a.toNat * 0x2000 + b.toNat * 0x80 + la.toNat * 0x8)
  | .sunmap d a la => some (0xA0000003 + d.toNat * 0x80000 + a.toNat * 0x2000 + la.toNat * 0x8)
  | .sqry d a la => some (0xA0000004 + d.toNat * 0x80000 + a.toNat * 0x2000 + la.toNat * 0x8)
  | .vadd sd sa sb a b => some (0xA2000000 + sd.toNat * 0x10000 + sa.toNat * 0x4000 + sb.toNat * 0x1000 + a.toNat * 0x40 + b.toNat)
  | .vsub sd sa sb a b => some (0xA2040000 + sd.toNat * 0x10000 + sa.toNat * 0x4000 + sb.toNat * 0x1000 + a.toNat * 0x40 + b.toNat)
  | .vmul sd sa sb a b => some (0xA2080000 + sd.toNat * 0x10000 + sa.toNat * 0x4000 + sb.toNat * 0x1000 + a.toNat * 0x40 + b.toNat)
  | .vfma sd sa sb a b => some (0xA20C0000 + sd.toNat * 0x10000 + sa.toNat * 0x4000 + sb.toNat * 0x1000 + a.toNat * 0x40 + b.toNat)
  | .vfms sd sa sb a b => some (0xA2100000 + sd.toNat * 0x10000 + sa.toNat * 0x4000 + sb.toNat * 0x1000 + a.toNat * 0x40 + b.toNat)
  | .vdiv sd sa sb a b => some (0xA2140000 + sd.toNat * 0x10000 + sa.toNat * 0x4000 + sb.toNat * 0x1000 + a.toNat * 0x40 + b.toNat)
  | .vmin sd sa sb a b => some (0xA2180000 + sd.toNat * 0x10000 + sa.toNat * 0x4000 + sb.toNat * 0x1000 + a.toNat * 0x40 + b.toNat)
  | .vmax sd sa sb a b => some (0xA21C0000 + sd.toNat * 0x10000 + sa.toNat * 0x4000 + sb.toNat * 0x1000 + a.toNat * 0x40 + b.toNat)
  | .vabs sd sa a b => some (0xA2200000 + sd.toNat * 0x10000 + sa.toNat * 0x4000 + a.toNat * 0x40 + b.toNat)
  | .vcvt sd sa a b => some (0xA2240000 + sd.toNat * 0x10000 + sa.toNat * 0x4000 + a.toNat * 0x40 + b.toNat)
  | .vcmp sd sa sb a b => some (0xA2280000 + sd.toNat * 0x10000 + sa.toNat * 0x4000 + sb.toNat * 0x1000 + a.toNat * 0x40 + b.toNat)
  | .vsel sd sa sb a b => some (0xA22C0000 + sd.toNat * 0x10000 + sa.toNat * 0x4000 + sb.toNat * 0x1000 + a.toNat * 0x40 + b.toNat)
  | .vand sd sa sb a b => some (0xA2300000 + sd.toNat * 0x10000 + sa.toNat * 0x4000 + sb.toNat * 0x1000 + a.toNat * 0x40 + b.toNat)
  | .vor sd sa sb a b => some (0xA2340000 + sd.toNat * 0x10000 + sa.toNat * 0x4000 + sb.toNat * 0x1000 + a.toNat * 0x40 + b.toNat)
  | .vxor sd sa sb a b => some (0xA2380000 + sd.toNat * 0x10000 + sa.toNat * 0x4000 + sb.toNat * 0x1000 + a.toNat * 0x40 + b.toNat)
  | .vshl sd sa sb a b => some (0xA23C0000 + sd.toNat * 0x10000 + sa.toNat * 0x4000 + sb.toNat * 0x1000 + a.toNat * 0x40 + b.toNat)
  | .vshr sd sa sb a b => some (0xA2400000 + sd.toNat * 0x10000 + sa.toNat * 0x4000 + sb.toNat * 0x1000 + a.toNat * 0x40 + b.toNat)
  | .viota sd a b => some (0xA2440000 + sd.toNat * 0x10000 + a.toNat * 0x40 + b.toNat)
  | .vshop sd sa a b => some (0xA2480000 + sd.toNat * 0x10000 + sa.toNat * 0x4000 + a.toNat * 0x40 + b.toNat)
  | .vexp2 sd sa a b => some (0xA24C0000 + sd.toNat * 0x10000 + sa.toNat * 0x4000 + a.toNat * 0x40 + b.toNat)
  | .vlog2 sd sa a b => some (0xA2500000 + sd.toNat * 0x10000 + sa.toNat * 0x4000 + a.toNat * 0x40 + b.toNat)
  | .vrcp sd sa a b => some (0xA2540000 + sd.toNat * 0x10000 + sa.toNat * 0x4000 + a.toNat * 0x40 + b.toNat)
  | .vrsq sd sa a b => some (0xA2580000 + sd.toNat * 0x10000 + sa.toNat * 0x4000 + a.toNat * 0x40 + b.toNat)
  | .vsqrt sd sa a b => some (0xA25C0000 + sd.toNat * 0x10000 + sa.toNat * 0x4000 + a.toNat * 0x40 + b.toNat)
  | .vsin sd sa a b => some (0xA2600000 + sd.toNat * 0x10000 + sa.toNat * 0x4000 + a.toNat * 0x40 + b.toNat)
  | .vcos sd sa a b => some (0xA2640000 + sd.toNat * 0x10000 + sa.toNat * 0x4000 + a.toNat * 0x40 + b.toNat)
  | .vtanh sd sa a b => some (0xA2680000 + sd.toNat * 0x10000 + sa.toNat * 0x4000 + a.toNat * 0x40 + b.toNat)
  | .cpy d a b q ct => some (0xA4000000 + d.toNat * 0x80000 + a.toNat * 0x2000 + b.toNat * 0x80 + q.toNat * 0x20 + ct.toNat)
  | .cpy2d d a b q ct => some (0xA6000000 + d.toNat * 0x80000 + a.toNat * 0x2000 + b.toNat * 0x80 + q.toNat * 0x20 + ct.toNat)
  | .gath d a b q ct => some (0xA8000000 + d.toNat * 0x80000 + a.toNat * 0x2000 + b.toNat * 0x80 + q.toNat * 0x20 + ct.toNat)
  | .scat d a b q ct => some (0xAA000000 + d.toNat * 0x80000 + a.toNat * 0x2000 + b.toNat * 0x80 + q.toNat * 0x20 + ct.toNat)
  | .coll d a b q ct => some (0xAC000000 + d.toNat * 0x80000 + a.toNat * 0x2000 + b.toNat * 0x80 + q.toNat * 0x20 + ct.toNat)
  | .qmake d a b la => some (0xB0000000 + d.toNat * 0x80000 + a.toNat * 0x2000 + b.toNat * 0x80 + la.toNat * 0x8)
  | .qenq d a b la => some (0xB0000001 + d.toNat * 0x80000 + a.toNat * 0x2000 + b.toNat * 0x80 + la.toNat * 0x8)
  | .qdeq d a b la => some (0xB0000002 + d.toNat * 0x80000 + a.toNat * 0x2000 + b.toNat * 0x80 + la.toNat * 0x8)
  | .qsteal d a b la => some (0xB0000003 + d.toNat * 0x80000 + a.toNat * 0x2000 + b.toNat * 0x80 + la.toNat * 0x8)
  | .qderiv d a b la => some (0xB0000004 + d.toNat * 0x80000 + a.toNat * 0x2000 + b.toNat * 0x80 + la.toNat * 0x8)
  | .qdest d a la => some (0xB0000005 + d.toNat * 0x80000 + a.toNat * 0x2000 + la.toNat * 0x8)
  | .qstat d a b la => some (0xB0000006 + d.toNat * 0x80000 + a.toNat * 0x2000 + b.toNat * 0x80 + la.toNat * 0x8)
  | .govset d a b la => some (0xB0000007 + d.toNat * 0x80000 + a.toNat * 0x2000 + b.toNat * 0x80 + la.toNat * 0x8)
  | .mma cd cs oa ob => some (0xC0000000 + cd.toNat * 0x400000 + cs.toNat * 0x80000 + oa.toNat * 0x4000 + ob.toNat * 0x200)
  | .mmaz cd oa ob => some (0xC0000001 + cd.toNat * 0x400000 + oa.toNat * 0x4000 + ob.toNat * 0x200)
  | .mzero cd => some (0xC0000002 + cd.toNat * 0x400000)
  | .mclaim d a b la => some (0xC2000000 + d.toNat * 0x80000 + a.toNat * 0x2000 + b.toNat * 0x80 + la.toNat * 0x8)
  | .mrel d a b la => some (0xC2000001 + d.toNat * 0x80000 + a.toNat * 0x2000 + b.toNat * 0x80 + la.toNat * 0x8)
  | .mfmt d a b la => some (0xC2000002 + d.toNat * 0x80000 + a.toNat * 0x2000 + b.toNat * 0x80 + la.toNat * 0x8)
  | .mscl d a b la => some (0xC2000003 + d.toNat * 0x80000 + a.toNat * 0x2000 + b.toNat * 0x80 + la.toNat * 0x8)
  | .mldt o a b => some (0xC2000004 + o.toNat * 0x80000 + a.toNat * 0x2000 + b.toNat * 0x80)
  | .mtrn o a b => some (0xC2000005 + o.toNat * 0x80000 + a.toNat * 0x2000 + b.toNat * 0x80)
  | .mrd c a b => some (0xC2000006 + c.toNat * 0x80000 + a.toNat * 0x2000 + b.toNat * 0x80)
  | .mcvt d a b la => some (0xC2000007 + d.toNat * 0x80000 + a.toNat * 0x2000 + b.toNat * 0x80 + la.toNat * 0x8)
  | .mgemm d a b la => some (0xC4000000 + d.toNat * 0x80000 + a.toNat * 0x2000 + b.toNat * 0x80 + la.toNat * 0x8)
  | .mseqq d a la => some (0xC4000001 + d.toNat * 0x80000 + a.toNat * 0x2000 + la.toNat * 0x8)
  | .mburst a => some (0xC4000002 + a.toNat * 0x2000)
  | .mwait => some (0xC4000003)
  | .launch d a la => some (0xD0000000 + d.toNat * 0x80000 + a.toNat * 0x2000 + la.toNat * 0x8)
  | .wnext d la => some (0xD0000001 + d.toNat * 0x80000 + la.toNat * 0x8)
  | .spawn d a b la => some (0xD0000002 + d.toNat * 0x80000 + a.toNat * 0x2000 + b.toNat * 0x80 + la.toNat * 0x8)
  | .hmerge d a b la => some (0xD2000000 + d.toNat * 0x80000 + a.toNat * 0x2000 + b.toNat * 0x80 + la.toNat * 0x8)
  | .hadd d a b la => some (0xD2000001 + d.toNat * 0x80000 + a.toNat * 0x2000 + b.toNat * 0x80 + la.toNat * 0x8)
  | .hqry d a b la => some (0xD2000002 + d.toNat * 0x80000 + a.toNat * 0x2000 + b.toNat * 0x80 + la.toNat * 0x8)
  | .hclose d a la => some (0xD2000003 + d.toNat * 0x80000 + a.toNat * 0x2000 + la.toNat * 0x8)
  | .hdrain d a b la => some (0xD2000004 + d.toNat * 0x80000 + a.toNat * 0x2000 + b.toNat * 0x80 + la.toNat * 0x8)
  | .srrd d a b la => some (0xD2000005 + d.toNat * 0x80000 + a.toNat * 0x2000 + b.toNat * 0x80 + la.toNat * 0x8)
  | .htop d a la => some (0xD2000006 + d.toNat * 0x80000 + a.toNat * 0x2000 + la.toNat * 0x8)
  | .commitRegion .. => none
  | .tokenStep .. => none
  | .pinBudget .. => none
  | .resultArrival .. => none
  | .remotePerform .. => none
  | .performPacket .. => none
  | .acknowledgement .. => none
  | .retransmit .. => none
  | .externalWrite .. => none
  | .commandStart .. => none
  | .commandRead .. => none
  | .commandComplete .. => none
  | .lpCopy .. => none
  | .queueEntry .. => none
  | .eventStoreEntry .. => none
  | .slackDecrement .. => none
  | .queueService .. => none
  | .limiterAdmit .. => none
  | .transmit .. => none
  | .linkReplay .. => none
  | .holdReleaseSignal .. => none
  | .windowSpill .. => none
  | .windowFill .. => none
  | .walkComplete .. => none
  | .pageArrival .. => none
  | .pageResponse .. => none
  | .migrationDepart .. => none
  | .migrationArrival .. => none
  | .activeMessage .. => none
  | .handlerInstructionLimit .. => none
  | .barrierArrival .. => none
  | .statisticsGather .. => none
  | .statisticsFlip .. => none
  | .teamPlacement .. => none
  | .itemDistribution .. => none
  | .donorResume .. => none
  | .dispatch .. => none
  | .heapUpdate .. => none
  | .spawnAccept .. => none
  | .engineSelect .. => none
  | .sliceSelect .. => none
  | .mgemmStep .. => none
  | .mgemmDrain .. => none
  | .burstExpiry .. => none
  | .rampDownEnd .. => none
  | .governorLend .. => none
  | .governorReturn .. => none
  | .queueOperation .. => none
  | .queueSwapIn .. => none
  | .thermalSample .. => none
  | .frequencyStep .. => none
  | .modulePowerStep .. => none
  | .droop .. => none
  | .thermalDisplacement .. => none
  | .displacementArrival .. => none
  | .slotReclaim .. => none
  | .slotReturn .. => none
  | .stopComplete .. => none
  | .contextExpiry .. => none
  | .eccError .. => none
  | .warrant .. => none
  | .delegationSlip .. => none
  | .timeCertificate .. => none
  | .capacityDeclaration .. => none
  | .enrolment .. => none
  | .revocation .. => none
  | .doorwayLaunch .. => none
  | .redeemRequest .. => none
  | .redeemReply .. => none
  | .redemptionCommit .. => none
  | .redemptionCancel .. => none
  | .redeemTimeout .. => none
  | .reservationHoldExpiry .. => none
  | .ringRegisterWrite .. => none
  | .registerWrite .. => none
  | .noncereq .. => none
  | .hostPark .. => none
  | .hostResume .. => none
  | .hostSurrender .. => none
  | .hostLiveMigrate .. => none
  | .liveMigrationImage .. => none
  | .vfEnableClear .. => none
  | .functionLevelReset .. => none
  | .vfEnable .. => none
  | .orphanTimeout .. => none
  | .timeAdoption .. => none
  | .deviceReset .. => none
  | .selfTestComplete .. => none
  | .peerUp .. => none
  | .linkLoss .. => none
  | .illegalInstruction .. => none
  | .fetchFault .. => none
  | .timeExchange .. => none
  | .memberExtentUpdate .. => none
  | .erheadWrite .. => none
  | .liveMigrationRelease .. => none
  | .pageMoveComplete .. => none

/-- The word of an instruction as TVAL holds it (R40, R42): zero for the rows without one. -/
def wordOf (i : Instr) : Word := BitVec.ofNat 64 ((encode i).getD 0)

end Sys2Proof
end

