-- ==== Sys2Proof/Machine/State.lean ====
section
/-! DEFINITION. The state of the machine: every device of the fabric domain, keyed by peer number, in
sparse maps whose unlisted keys stand for the reset value. It is plain data. The last group of fields of
`State` is the model's own bookkeeping: which step comes next, identifiers and open choices. -/

namespace Sys2Proof.Machine

/-- Why the model stops with a fault. -/
inductive Fault where
  /-- Raised by a meaning that is asked to run an instruction in a slot that holds no thread (R17): the
  spec has no instruction there. Safe: the machine stops. -/
  | emptySlot
  deriving DecidableEq, Repr

/-- Why the model refuses an instruction. -/
inductive Refusal where
  /-- Raised by the dispatch alone, for an instruction that has no meaning yet. Safe: the machine stops. -/
  | notModelled (mnemonic : String)
  deriving DecidableEq, Repr

/-- A finite map as a list of pairs; the first pair of a key counts. -/
abbrev Map (κ α : Type) := List (κ × α)

/-! ## Threads and regions -/

/-- A trap: its code and TVAL (R71). -/
structure Trap where
  code : Nat
  value : Word
  deriving DecidableEq, Repr

/-- The two loop levels, or their trap shadows (R66, R75). -/
structure Loops where
  ls0 : Word
  le0 : Word
  lc0 : Word
  ls1 : Word
  le1 : Word
  lc1 : Word
  deriving DecidableEq, Repr

/-- A resident window frame (R64): the return PC, the caller's i16 to i31, and whether the window area
already holds it. -/
structure Frame where
  ret : Word
  win : Vector Word 16
  inArea : Bool
  deriving DecidableEq, Repr

/-- The operations of the atomics (R244). -/
inductive AtomOp where
  | add | and | or | xor | min | max | minu | maxu | swp | cas | fadd | fmin | fmax
  deriving DecidableEq, Repr

/-- How a returned value is written to a register (R99, R240, R245). -/
inductive Conv where
  /-- sign-extend the low `n` bits -/
  | sx (n : Nat)
  /-- zero-extend the low `n` bits -/
  | zx (n : Nat)
  deriving DecidableEq, Repr

/-- A destination register: its class (true: floating point) and its field (R33). -/
structure Dst where
  fp : Bool
  reg : Reg
  deriving DecidableEq, Repr

/-- A pending result of a long-latency form (R57). -/
structure Pend where
  id : Nat
  dsts : List Dst
  /-- following instructions that may still issue without waiting -/
  left : Nat
  /-- the values, once they have arrived -/
  value : Option (List Word)
  /-- the destinations whose write a later write has discarded (R58) -/
  dead : List Dst
  /-- the form acquires (R240): an access of the slot waits for it whatever its lookahead -/
  acquire : Bool
  /-- the destination names a mapped write stream (R271): address and size of the element to push, and the slack of the
  instruction that pushes it (R51) -/
  push : Option (Word × Nat × Nat)
  deriving DecidableEq, Repr

/-- A replay in progress (R69, R70). -/
structure Replay where
  fb : Word
  words : List Nat
  mask : BitVec 3
  stp : Nat
  count : Nat
  k : Nat
  i : Nat
  deriving DecidableEq, Repr

/-- A stream engine of a core (R263, R264, R270). -/
structure Stream where
  /-- the thread that holds it -/
  holder : Option Nat
  slot : Nat
  type : Nat
  dir : Bool
  name : Option Nat
  base : Word
  counts : List Nat
  strides : List Int
  pos : Nat
  /-- released by SUNMAP, reserved to its holder until that slot's region commits (R265) -/
  released : Bool
  /-- non-local elements fetched ahead, by index; none of the bytes where the line was poisoned (R272) -/
  got : List (Nat × List Byte)
  deriving DecidableEq, Repr

/-- What a packet or request does at its target (R182, R212, R213, R245, R253, R257, R285, R349, R358). -/
inductive Body where
  /-- a plain store -/
  | store (data : List Byte)
  /-- STL or STL.G -/
  | release (data : List Byte)
  /-- a posted atomic; `w` is the .w form -/
  | patomic (op : AtomOp) (w : Bool) (val cmp : Word)
  /-- a join decrement, saturating at 0 -/
  | jdec
  /-- a load performed at its home: size in bytes and how the result is written -/
  | read (size : Nat) (conv : Conv)
  /-- a result-returning atomic performed at its home -/
  | ratomic (op : AtomOp) (w : Bool) (val cmp : Word)
  /-- arrivals at a barrier -/
  | arrival (bar units : Nat)
  /-- BARSET -/
  | barset (bar e : Nat) (stat : Bool)
  /-- a heap operation of major 0x69: its fn3 and operands -/
  | heap (fn : Nat) (a b : Word) (kernel : Nat)
  /-- a queue operation of major 0x58: its fn3 and operands; `c` is the issuing core -/
  | queue (fn : Nat) (a b : Word) (c : CoreId)
  /-- a spawn request: target CORE, entry, i8 to i11, WID and SLK of the parent -/
  | spawn (core : Nat) (entry : Word) (args : List Word) (wid : Word) (slk : Nat)
  /-- an active message: the handler's entry, offset of its target and i9 to i11 -/
  | amsg (core : Nat) (entry : Word) (off : Word) (args : List Word) (slk : Nat)
  /-- an event for a slot (R179): target word and payload -/
  | evpost (target payload : Word)
  /-- the fetch of an element of a stream (R272): engine, index and size -/
  | fetch (eng idx size : Nat)
  /-- one of the two packets of a migration or displacement (R196) -/
  | mig (mid part : Nat)
  /-- a message of the redemption protocol (R128, R209) -/
  | redeem (mid : Nat)
  /-- a write, or a read of some bytes, of a queued command (R220, R225, R229) -/
  | cwrite (cid : Nat) (data : List Byte)
  | cread (cid n : Nat)
  /-- a write from the host port that is held at its home (R220); the packet's address is a system address -/
  | hwrite (data : List Byte)
  deriving DecidableEq, Repr

/-- A captured stream operand of a vector command (R266, R292); none where no stream is mapped. -/
abbrev StreamOp := Option Stream

/-- What a queued command does, with everything captured at its issue (R225, R266, R268, R299, R333). -/
inductive Work where
  | cpy (a b : Word) (len : Nat)
  | cpy2d (rec a b : Word)
  | gath (rec a b : Word)
  | scat (rec a b : Word)
  | coll (rec a b : Word)
  /-- a vector command: cfn7, its three streams, the number in its sb field, scalar, control word and seed -/
  | vector (fn : Nat) (sd sa sb : StreamOp) (sbNo : Nat) (a ctl seed : Word)
  | mldt (o : Nat) (a b : Word)
  | mtrn (o : Nat) (a b : Word)
  | mrd (c : Nat) (a b fmtc seed : Word)
  /-- MMA (`cs` given) and MMAZ -/
  | mma (cd : Nat) (cs : Option Nat) (oa ob : Nat) (fmta fmtb scla sclb : Word)
  | mzero (cd : Nat)
  | mcvt (rec fmt seed : Word)
  | mgemm (rec : Word) (tile oa ob : Nat) (fmta fmtb fmtc scla sclb seed : Word)
  /-- MREL, which stands among the matrix commands (R337) -/
  | mrel (slots tiles : Nat)
  /-- a QFENCE that waits until the commands before it have entered the queues that it names (R226) -/
  | fence (mask : BitVec 6)
  deriving DecidableEq, Repr

/-- A write of a command that is still to be performed (R220): virtual address and bytes. -/
structure CmdWrite where
  va : Word
  data : List Byte
  /-- the context-physical address of a write whose checks are behind it: that of a drain (R343) -/
  ca : Option Nat := none
  deriving DecidableEq, Repr

/-- A slice of a vector command in a lane group (R275): its number, the next of its elements, and that element's first operand
once read. -/
structure SliceRun where
  slice : Nat
  next : Nat
  first : Option (List Byte)
  deriving DecidableEq, Repr

/-- A queued command (R225). `queue` is 0 to 3 for EQ, 4 for VQ, 5 for MQ. -/
structure Cmd where
  cid : Nat
  uid : Nat
  slot : Nat
  ctx : CtxId
  core : CoreId
  apCore : Nat
  queue : Nat
  tag : Word
  ct : Nat
  work : Work
  slack : Nat
  /-- it has left the pool lines and stands in its queue (R274) -/
  entered : Bool
  started : Bool
  startedAt : Nat
  /-- the layout record once read (R227) -/
  record : List Byte
  /-- element, byte or step reached -/
  prog : Nat
  /-- the byte or source reached within an element, and its index or what is reduced so far (R301, R302) -/
  sub : Nat
  hold : Option Int
  /-- what a matrix command has read for its next step (R315, R338, R340) -/
  got : List (List Byte)
  /-- bytes of far memory that have come, by address and length; none where the line was poisoned -/
  fetched : List (Word × Nat × List Byte)
  /-- slices of a vector command that lane groups run (R275) -/
  runs : List SliceRun
  /-- what the engine or lane groups may still move before they are offered again (R276, R277) -/
  budget : Nat
  writes : List CmdWrite
  count : Nat
  /-- commands that must complete before it starts (R226), each behind the thread whose QFENCE says so -/
  waits : List (Nat × Nat)
  /-- the reference cycle from which the next 32 cycles of its wait for an engine count (R229, R231, R277) -/
  since : Nat
  /-- what its slack has fallen by while it waited for an engine -/
  lost : Nat
  /-- the region that issued it, in exclusive mode, has not committed (R217, R298) -/
  open_ : Bool
  /-- its record or event was refused for want of room, so that it completes when that enters the store (R177, R278) -/
  refused : Bool
  /-- how it ended, once it has: 0 or a code -/
  ended : Option Nat
  deriving DecidableEq, Repr

/-- A QFENCE that has entered its queues (R226): its command, the queues, and what stood in them then. -/
structure Fence where
  cmd : Cmd
  queues : List Nat
  cids : List Nat
  deriving DecidableEq, Repr

/-- One entry of a region's buffer, in program order (R210, R213). -/
inductive Item where
  /-- a store to a local line: system address and bytes -/
  | store (sa : Nat) (data : List Byte)
  /-- a posted atomic to a local line, and whether the line is cached (R193) -/
  | patomic (sa : Nat) (op : AtomOp) (w : Bool) (val cmp : Word) (cached : Bool)
  /-- a join decrement of a local counter -/
  | jdec (sa : Nat)
  /-- a packet for a non-local line: context-physical address; `g` marks STL.G -/
  | packet (ca : Nat) (body : Body) (g : Bool) (slack : Nat)
  /-- an asynchronous command -/
  | command (c : Cmd)
  | qfence (mask : BitVec 6)
  | lfence
  | tfence
  /-- an event, active message, arrival or BARSET, posted at commit -/
  | post (body : Body) (slack : Nat)
  deriving DecidableEq, Repr

/-- What a region's checkpoint holds (R74, R265), with the replay that stood at the opening. -/
structure Check where
  i : Vector Word 32
  f : Vector Word 32
  wdep : BitVec 16
  loops : Loops
  shadow : Loops
  tpc : Word
  tcause : Word
  tval : Word
  tvec : Word
  tstat : Word
  streams : Map Nat Stream
  replay : Option Replay
  deriving DecidableEq, Repr

/-- The open region of a slot (R210, R211). -/
structure Region where
  explicit : Bool
  rts : BitVec 32
  rstart : Word
  odep : BitVec 16
  items : List Item
  /-- line numbers (system address ÷ 64) -/
  reads : List Nat
  check : Check
  /-- consecutive aborts, 0 to 8 -/
  aborts : Nat
  /-- the core cycle of the token step, while it holds the commit token (R62, R216) -/
  token : Option Nat
  pinned : Bool
  exclusive : Bool
  /-- its count or an overflow asks for exclusive mode at the next run (R217) -/
  wantExcl : Bool
  /-- the slot stalls for a token step (R216) -/
  want : Bool
  deriving DecidableEq, Repr

/-- What a thread waits on (R27, R148, R204, R298). -/
inductive Wait where
  | none
  /-- BARW: barrier and the phase it must leave; set once a flip has happened (R280) -/
  | barrier (n : Nat) (phase : Bool) (flipped : Bool)
  /-- JWAIT: counter address -/
  | join (va : Word)
  /-- EVWAIT: record area, code, destination -/
  | event (area : Word) (code : Nat) (d : Dst) (la : Nat)
  /-- JWAIT with the slot donated -/
  | donating (va : Word)
  /-- a page of the thread's context, on its own device or a member's on another peer (R204) -/
  | page (peer page : Nat)
  /-- VWAIT: the commands it covers -/
  | vector (cids : List Nat)
  /-- the wait has ended: its instruction retires at the slot's next position -/
  | ended
  deriving DecidableEq, Repr

/-- A range or page-table entry (R199, R200). -/
structure Range where
  base : Nat
  len : Nat
  target : Nat
  attr : Nat
  deriving DecidableEq, Repr

/-- A locked range entry of a slot (R202, R203). -/
structure Lock where
  range : Range
  dropped : Bool
  deriving DecidableEq, Repr

/-- How a thread came about (R17, R371, R381). -/
inductive Role where
  /-- launch item: kernel, whether it holds an item, the team of that item -/
  | item (kernel : Nat) (holds : Bool) (team : Nat)
  /-- heap task: kernel, key, held gain -/
  | task (kernel : Nat) (key : BitVec 32) (held : BitVec 32)
  | child
  | entry
  /-- an active-message handler: sending thread and slot, instructions issued (R253, R254) -/
  | handler (uid slot issued : Nat)
  deriving DecidableEq, Repr

/-- An event (R114, R177). -/
structure Event where
  code : Nat
  ctx : Nat
  exit : Word
  /-- its place in the order of arrival (R148); not of the record -/
  seq : Nat := 0
  deriving DecidableEq, Repr

/-- An engine completion record (R268). -/
structure Rec where
  tag : Word
  status : Nat
  count : Nat
  /-- its place in the order of arrival (R148); not of the record -/
  seq : Nat := 0
  deriving DecidableEq, Repr

/-- A thread (R17) with everything its slot holds for it. -/
structure Thread where
  /-- the model's name for the thread, never reused -/
  uid : Nat
  ctx : Nat
  pc : Word
  i : Vector Word 32
  f : Vector Word 32
  tpc : Word
  tcause : Word
  tval : Word
  tvec : Word
  tstat : Word
  loops : Loops
  shadow : Loops
  wsp : Word
  wdep : BitVec 16
  /-- resident frames, top first, at most three -/
  frames : List Frame
  slk : BitVec 12
  slkdef : BitVec 12
  /-- the slack of SLK.once for the next instruction (R51) -/
  once : Option (BitVec 12)
  lateev : Bool
  live : BitVec 32
  lateq : BitVec 32
  wid : Word
  apCore : Nat
  launchCore : Nat
  launchPeer : Nat
  pend : List Pend
  replay : Option Replay
  region : Region
  wait : Wait
  locks : List Lock
  events : List Event
  records : List Rec
  /-- barriers the thread is registered on, each with: counted in the core's count, the slacks of the arrivals held (R257, R279) -/
  bars : List (Nat × Bool × List Nat)
  role : Role
  /-- the text version seen by its last IFENCE (R228) -/
  seen : Nat
  /-- it has issued an instruction since it was placed (R355) -/
  begun : Bool
  /-- its last position brought no progress: the next instruction waits (R145) -/
  stuck : Bool
  deriving DecidableEq, Repr

/-! ## Cores -/

/-- A shared-register write that has not taken effect (R61). -/
structure LateWrite where
  dst : Dst
  value : Word
  cycle : Nat
  slot : Nat
  deriving DecidableEq, Repr

/-- A core control-register write that has not taken effect (R98): context, register number, value. -/
structure LateCsr where
  ctx : Nat
  csr : Nat
  value : Word
  cycle : Nat
  slot : Nat
  deriving DecidableEq, Repr

/-- The matrix registers of a core, a copy for each context (R310, R312, R330). -/
structure MatRegs where
  fmta : Word
  fmtb : Word
  fmtc : Word
  scla : Word
  sclb : Word
  srndseed : Word
  ncnan : BitVec 16
  ncovf : BitVec 16
  ncunf : BitVec 16
  ncinx : BitVec 16
  ncscl : BitVec 16
  deriving DecidableEq, Repr

/-- A claim of an operand slot or tile (R313, R337): its thread, and once released the commands that
must complete before the number is free. One that QUIT left to an MGEMM is kept until then (R315). -/
structure Claim where
  uid : Nat
  ctx : Nat
  releasing : Option (List Nat)
  kept : Bool
  deriving DecidableEq, Repr

/-- A message waiting in HQ (R191, R253). -/
structure HandlerMsg where
  ctx : CtxId
  uid : Nat
  slot : Nat
  entry : Word
  off : Word
  args : List Word
  slk : Nat
  deriving DecidableEq, Repr

/-- An operation waiting in HQ (R191): a context-defined handler, or a load, store or atomic on the slice, which the fixed
micro-handler performs, by its packet. -/
inductive HqItem where
  | code (m : HandlerMsg)
  | fixed (pkt : Nat)
  deriving DecidableEq, Repr

/-- An entry of a core's range TLB (R202): its tags, whether it is an instruction entry, and the range. -/
structure TlbEntry where
  slot : Nat
  ctx : Nat
  instr : Bool
  range : Range
  deriving DecidableEq, Repr

/-- A core (R8, R11). -/
structure Core where
  /-- cycles since core reset (R53) -/
  cycle : Nat
  j : Vector Word 32
  g : Vector Word 32
  late : List LateWrite
  lateCsr : List LateCsr
  streams : Map Nat Stream
  /-- commands of its queues and pool lines, in order of entry -/
  cmds : List Cmd
  /-- the QFENCEs that hold back what enters behind them (R226), in order of entry -/
  fences : List Fence
  vshare : BitVec 4
  credit : Int
  mregs : Map Nat MatRegs
  mseq : Word
  oslots : Map Nat (List Byte)
  tiles : Map Nat (List (BitVec 32))
  oclaims : Map Nat Claim
  tclaims : Map Nat Claim
  /-- steps left of a declared burst, and the core cycles at which it was declared, the last step ran and a ramp-down began (R345) -/
  burst : Nat
  burstAt : Nat
  mmaAt : Option Nat
  rampAt : Option Nat
  hq : List HqItem
  /-- the range TLB, newest first: at most 8 data and 4 instruction entries (R202) -/
  tlb : List TlbEntry
  /-- reserved arrival-buffer entries, by migration (R195) -/
  arrivals : List Nat
  /-- per barrier of a context, the count of the registered threads and the last slack (R257) -/
  barCounts : Map (Nat × Nat) (Nat × Nat)
  deriving DecidableEq, Repr

/-! ## Contexts -/

/-- Context states (R140); a SURRENDERED context is not listed. -/
inductive CtxState where
  | live | stopping | parked | orphaned | faulted
  deriving DecidableEq, Repr

/-- A resource block (R117). -/
structure Block where
  slots : Nat
  cores : Nat
  scratch : Nat
  hbm : Nat
  tier2 : Nat
  oslots : Nat
  tiles : Nat
  queues : Nat
  heap : Nat
  barriers : Nat
  streams : Nat
  memRate : Nat
  fabRate : Nat
  launches : Nat
  depth : Nat
  deriving DecidableEq, Repr

/-- A granted span of a core's scratch slice: CORE value, first byte, bytes (R113, R117). -/
structure Span where
  core : Nat
  off : Nat
  len : Nat
  deriving DecidableEq, Repr

/-- Where a page of an HBM grant lies (R201, R204). -/
inductive Residence where
  | hbm | tier2 | host
  deriving DecidableEq, Repr

/-- A 4 KiB page of a grant: its system address, residence and last access (R135, R201). -/
structure Page where
  sa : Nat
  where_ : Residence
  used : Nat
  deriving DecidableEq, Repr

/-- One version of a context's text (R44, R171): its pages are in memory; this is where. -/
structure Text where
  version : Nat
  va : Nat
  words : Nat
  pool : List Byte
  /-- system addresses of its pages -/
  pages : List Nat
  deriving DecidableEq, Repr

/-- A barrier (R255, R257, R332). -/
structure Barrier where
  e : Nat
  count : Nat
  phase : Bool
  stat : Bool
  flips : Nat
  /-- a gather whose flip is still to come, and its record until that is written (R332) -/
  gathered : Bool
  record : Option (List Byte)
  /-- it belongs to a kernel's teams (R281) -/
  kernel : Option Nat
  deriving DecidableEq, Repr

/-- Where a heap entry stands (R359). -/
inductive EntryState where
  | stored | pending | running
  deriving DecidableEq, Repr

/-- A heap entry (R359, R362): for a running key `gain` is the shadow; `ext` says that it lies in the spill extension. -/
structure HEntry where
  key : BitVec 32
  gain : BitVec 32
  sel : Nat
  state : EntryState
  ext : Bool
  deriving DecidableEq, Repr

/-- A placed team (R20, R23): its number among the teams of its level in ascending index, its district and the items
given. -/
structure Team where
  index : Nat
  dist : Nat
  given : Nat
  deriving DecidableEq, Repr

/-- A launched kernel (R22, R347, R353). -/
structure Kernel where
  num : Nat
  /-- thread that launched it, for donation (R28) -/
  uid : Nat
  entry : Word
  widths : List Nat
  extents : List Nat
  level : Nat
  map : Option (Word × Word × Word)
  teamBar : Option Nat
  /-- WBASE of BARB at the launch, from which its teams' barriers are numbered (R281) -/
  wbase : Nat
  arg : Word
  join : Word
  /-- where the join counter lies, as the launch found it: its context-physical address (R28, R353) -/
  joinCa : Nat
  /-- the model's order of the launch: packets that its thread sent before have a lower number (R25) -/
  born : Nat
  mask : Nat
  table : List Word
  tol : BitVec 32
  hthr : BitVec 32
  spill : Word
  /-- records that the spill extension holds at most (R362) -/
  spillCap : Nat
  /-- where its bytes lie: context-physical addresses and lengths (R362) -/
  spillAt : List (Nat × Nat)
  slk : Nat
  /-- quarter of its pending-launch entry, while it holds one (R355) -/
  storeQ : Option Nat
  teams : List Team
  nextTeam : Nat
  /-- next district index of the round-robin (R23) -/
  rr : Nat
  entries : List HEntry
  /-- SRR, in units of 2^−64 (R363) -/
  srr : Int
  sat : Bool
  closed : Bool
  exhausted : Bool
  closing : Bool
  /-- slots bound to the heap: CORE and slot (R348) -/
  bound : List (Nat × Nat)
  /-- the join counter has reached 0 (R353) -/
  joined : Bool
  deriving DecidableEq, Repr

/-- A queue (R282, R283, R305). -/
structure Queue where
  gen : Nat
  exists_ : Bool
  /-- where it lies: the offset of its header in its first page, and the system addresses of its pages -/
  off : Nat
  pages : List Nat
  cap : Nat
  head : Nat
  tail : Nat
  seq : Nat
  live : Bool
  used : Nat
  deriving DecidableEq, Repr

/-- An entry of a context's event store (R177): an event or record, the thread it is for, and what waited while it was
refused: the command that completes when it enters (R278), or the core whose handler queue goes on (R177). -/
structure Stored where
  uid : Option Nat
  item : Event ⊕ Rec
  reserved : Bool
  cid : Option Nat
  hq : Option Nat
  deriving DecidableEq, Repr

/-- A migrating or displaced thread (R195 to R197), with the access it performs on arrival. Once it has left, its message
travels as packets that bear its name (R196). -/
structure Mig where
  id : Nat
  thread : Thread
  src : Place
  dst : Place
  displaced : Bool
  /-- address, body and destinations of the access at arrival -/
  access : Option (Word × Body × List Dst)
  /-- an instruction of the window waits for the access, so that the thread leaves before it -/
  early : Bool
  /-- the slack of its packets (R229) -/
  slack : Nat
  /-- the thread has taken its slot and waits there for the page of its access (R197) -/
  landed : Bool
  /-- the context-physical address of the access, and the instruction's word (R195, R196) -/
  ca : Nat
  word : Word
  deriving DecidableEq, Repr

/-- A pre-empted thread (R144): where its image came from and what it holds. -/
structure Image where
  thread : Thread
  core : Nat
  slot : Nat
  /-- what the thread waited on when it was stopped (R148) -/
  wait : Wait
  /-- the moment of the pre-emption (R135) -/
  since : Nat
  /-- it is part of a whole-context image (R144, R147, R186) -/
  whole : Bool
  /-- the pages that hold a thread image (R149) -/
  pages : List Nat
  /-- the move whose access a thread that had landed is still to make (R197) -/
  move : Option Mig := none
  streams : Map Nat Stream
  oclaims : Map Nat Claim
  tclaims : Map Nat Claim
  oslots : Map Nat (List Byte)
  tiles : Map Nat (List (BitVec 32))
  cmds : List Cmd
  deriving DecidableEq, Repr

/-- The fault record of an unhandled trap (R72, R148). -/
structure FaultRec where
  uid : Nat
  tpc : Word
  code : Nat
  value : Word
  tstat : Word
  deriving DecidableEq, Repr

/-- A child warrant carved by WSPLIT (R165, R167). -/
structure Child where
  serial : Nat
  entryNo : Nat
  gen : Nat
  splitter : Nat
  block : Block
  entryPC : Word
  slots : List (Nat × Nat)
  cores : List Nat
  spans : List Span
  /-- its barriers, by the quarters whose tables hold them (R255) -/
  barAt : List (Nat × Nat)
  /-- the text it maps, that of the splitting context at the split (R112, R171) -/
  text : Text
  presented : Option Nat
  deriving DecidableEq, Repr

/-- What the counters record of an image shows (R148, R193, R232): atomics that the contention predictor ran in the cache and
sent to the home slice, and late stores, releases and posted atomics. -/
structure Perf where
  cache : Nat
  home : Nat
  late : Nat
  deriving DecidableEq, Repr

/-- A context (R22, R140). -/
structure Ctx where
  state : CtxState
  cause : Option Nat
  /-- where a STOPPING context goes, and the stop's exit word -/
  exitWord : Word
  cls : Nat
  flags : BitVec 16
  rootSerial : Nat
  serial : Nat
  parent : Option Nat
  key : Nat
  domain : Nat
  mask : Nat
  home : Nat
  notBefore : Nat
  notAfter : Nat
  imageVA : Word
  doorFn : Nat
  token : Word
  amendment : Nat
  /-- the grant, less what is carved to children -/
  block : Block
  /-- the grant with what is carved to children -/
  granted : Block
  /-- slots, whole cores and HBM bytes that leave the grant once they are released (R136) -/
  owed : Block
  /-- the core of a FRACTIONAL grant (R113) -/
  coreHome : Nat
  /-- general slots granted on a FRACTIONAL core, or of whole cores: (CORE, slot) held now -/
  slots : List (Nat × Nat)
  cores : List Nat
  spans : List Span
  /-- HBM-grant pages by offset, then tier-2-grant pages, then shared text (R201) -/
  hbm : List Page
  tier2 : List Nat
  shared : List Nat
  cap : Nat
  text : Text
  oldTexts : List Text
  /-- VA and pages of the image's text and data, mapped by the build (R44, R120) -/
  dataVA : Nat
  dataLen : Nat
  dataOff : Nat
  textOff : Nat
  rtbase : Word
  barb : Word
  pinb : BitVec 32
  tol : BitVec 32
  hthr : BitVec 32
  lateCnt : BitVec 32
  cmark : BitVec 32
  /-- the thread whose region holds the commit token -/
  token_ : Option Nat
  barriers : Map Nat Barrier
  /-- the quarters whose tables hold the barriers, in ascending barrier number: 4 × district + quarter, and how many lie there
  (R12, R255, R279) -/
  barAt : List (Nat × Nat)
  kernels : List Kernel
  queues : Map Nat Queue
  store : List Stored
  /-- refused events and records that wait, in order -/
  held : List Stored
  dropped : BitVec 32
  images : List Image
  children : List Child
  /-- copies of layout records: system address and bytes (R227) -/
  lp : Map Nat (List Byte)
  /-- the rates in force at the limiters, in MB/s, by site, as the last change of the grant gave them (R364) -/
  rates : Map Nat Nat
  /-- limiter levels by site, in 1/1900 byte, and the reference cycle for which each holds (R364, R365) -/
  levels : Map Nat (Nat × Nat)
  /-- extents of other members, as this device knows them (R201): HBM and tier-2 bytes, scratch spans -/
  extents : Map Nat (Nat × List Span)
  fault : Option FaultRec
  /-- the threads whose unhandled traps or uncorrectable errors have stopped it (R143) -/
  faulted : List Nat
  /-- its expiry has been decided (R126) -/
  expired : Bool
  /-- the pages that hold its whole-context image (R149) -/
  whole : Option (List Nat)
  perf : Perf
  lastCommit : Nat
  /-- outstanding page requests: page and generation of the function (R152) -/
  requests : List (Nat × Nat)
  /-- pages asked for in tier-2, for the migration engine (R204) -/
  asked : List Nat
  /-- when it was orphaned -/
  orphanedAt : Nat
  /-- the peer that a live migration goes to, and the context that has resumed there (R149) -/
  liveTo : Option Nat
  liveAs : Option Nat
  deriving DecidableEq, Repr

/-! ## Devices -/

/-- An operator key slot (R118). -/
structure Key where
  modulus : Nat
  domain : Nat
  deriving DecidableEq, Repr

/-- The redemption state that a home peer keeps for a key slot (R127). -/
structure Window where
  base : Nat
  redeemed : List Nat
  /-- serial, requesting device, presentation, and whether it took one of a count -/
  reserved : List (Nat × Nat × Nat × Bool)
  counted : Map Nat Nat
  exhausted : List Nat
  deriving DecidableEq, Repr

/-- The doorway of one function (R152, R154). DEDUCED: log entry 92. -/
structure Door where
  prbase : Word
  prsize : Word
  prtail : BitVec 32
  prhead : BitVec 32
  lrbase : Word
  lrsize : Word
  lrtail : BitVec 32
  lrhead : BitVec 32
  erbase : Word
  ersize : Word
  erhead : BitVec 32
  ertail : BitVec 32
  atoken : Word
  /-- the moment at which ATOKEN was written (R157) -/
  tokenAt : Nat
  eovf : Bool
  /-- events since the held-event store overflowed (R154) -/
  evLost : Nat
  ringErr : Bool
  gen : BitVec 6
  enabled : Bool
  /-- the moment at which the function was enabled (R157) -/
  enabledAt : Nat
  heldEvents : List (List Byte)
  deriving DecidableEq, Repr

/-- An island: temperature in 1/16 °C, frequency in 25 MHz, shedding, stretched cycles, and when its frequency and its shedding
last took a step (R366, R369). -/
structure Island where
  temp : Int
  freq : Nat
  slow : Bool
  hot : Bool
  stretch : Nat
  stepAt : Option Nat
  shedAt : Option Nat
  deriving DecidableEq, Repr

/-- A ranking register (R367): group, temperature, frequency, shedding, free general slots. -/
structure Rank where
  grp : Nat
  temp : Int
  freq : Nat
  hot : Bool
  free : Nat
  deriving DecidableEq, Repr

/-- A pipeline of a district (R286, R287). -/
structure Pipe where
  ctx : Nat
  handles : List Word
  hi : List Nat
  lo : List Nat
  governed : List Nat
  home : Map Nat Nat
  serves : Map Nat Nat
  /-- lent groups, latest first: group and stage -/
  lent : List (Nat × Nat)
  lastAct : Option Nat
  deriving DecidableEq, Repr

/-- An entry of a capacity declaration (R131). -/
structure Ratio where
  kind : Nat
  limit : Nat
  ratio : Nat
  deriving DecidableEq, Repr

/-- A presentation that waits for the home peer (R128). -/
structure Pres where
  id : Nat
  fn : Option Nat
  tag : Word
  /-- thread and pending result of PRESENT, with the argument of WACCEPT -/
  uid : Option (Nat × Nat)
  arg : Word
  record : List Byte
  image : List Byte
  since : Nat
  /-- the slack of its messages (R128) -/
  slack : Nat
  deriving DecidableEq, Repr

/-- The table of capability counters (R138): reserved, burstable, scavenger. -/
structure Counter where
  guar : Nat
  burst : Nat
  scav : Nat
  deriving DecidableEq, Repr

/-- A device (R8 to R14, R137, R159). -/
structure Device where
  stage : Nat
  ready : Bool
  failed : List Nat
  keys : Map Nat Key
  windows : Map Nat Window
  /-- time origin: T, A and the moment of acceptance in reference cycles; A absent: infinite (R123) -/
  timeT : Nat
  timeA : Option Nat
  timeAt : Nat
  nonce : Option (Nat × Nat)
  nonceCount : Nat
  /-- NONCE0 and NONCE1 (R154) -/
  nonce0 : Word
  nonce1 : Word
  declSerial : Nat
  ratios : List Ratio
  adopt : Bool
  capGen : BitVec 32
  capTime : Nat
  counters : Map Nat Counter
  refusals : Map Nat Nat
  epoch : Nat
  /-- generations of the warrant table's entries (R165), and the entries in use -/
  childGens : Map Nat Nat
  childUsed : List Nat
  doors : Map Nat Door
  ohold : Word
  pridrop : Word
  noncereq : Word
  cmd : Word
  peersUp : List Nat
  peersSeen : List Nat
  /-- when a peer left peer up (R128) -/
  lostAt : Map Nat Nat
  /-- when time adoption was last attempted (R125) -/
  askedAt : Nat
  islands : Map Nat Island
  /-- the second-level range cache of a quarter (R12, R202): context and range, newest first, at most 512 -/
  rcache : Map Nat (List (Nat × Range))
  /-- packets that a district has sent to the fabric outside a stream, for the alternation of its planes (R208) -/
  sentBy : Map Nat Nat
  /-- ranking of the islands of a quarter, as sampled (R367) -/
  ranks : Map Nat (List Rank)
  /-- tuned destination of a transmitter (plane, tx), and receivers that hold (plane, peer) -/
  tuned : Map (Nat × Nat) Nat
  holds : List (Nat × Nat)
  /-- batch head's slack of a transmitter (R235) -/
  batch : Map (Nat × Nat) Nat
  /-- pending-launch entries of spawns by quarter (R355): child's thread -/
  spawns : Map Nat (List Nat)
  pipes : Map Nat Pipe
  press : List Pres
  corrected : Nat
  deriving DecidableEq, Repr

/-! ## Packets, messages and the whole machine -/

/-- Where a packet stands. -/
inductive Phase where
  /-- held at the source behind an STL.G (R224), or by a full stream window (R183) -/
  | held
  /-- in the queue at the head of its path -/
  | request
  /-- in CQ of its home, not yet performed -/
  | arrived
  /-- performed; the reply or acknowledgement is in the queue at the head of its path -/
  | reply
  /-- it or its acknowledgement was lost on the fabric; the packet waits to be sent again (R183) -/
  | lost
  deriving DecidableEq, Repr

/-- A packet or request in flight (R182, R210, R229). -/
structure Packet where
  id : Nat
  body : Body
  /-- context-physical address -/
  ca : Nat
  /-- virtual address of a load or result-returning atomic -/
  va : Word
  ctx : CtxId
  uid : Nat
  place : Place
  stream : Option StreamKey
  num : Nat
  /-- for a release, the plain packets it counts, and the number of the release before it in the stream (R182) -/
  count : Nat
  after : Nat
  /-- an STL.G -/
  global : Bool
  slack : Nat
  /-- the slack that it was first sent with on the fabric (R183) -/
  slack0 : Nat
  late : Bool
  /-- order of entry into the present queue (R230) -/
  ord : Nat
  /-- the reference cycle from which the next 32 cycles of its wait or its service count (R231, R232) -/
  entered : Nat
  /-- it has been held at its home under R220 (R230) -/
  kept : Bool
  /-- for a load: items of the slot's region that stood before it (R104) -/
  seen : Nat
  path : List XQ
  phase : Phase
  /-- the moment of its last transmission on the fabric, once there is one (R183) -/
  sentAt : Option Nat
  /-- a copy of a packet that has been sent again (R183) -/
  dup : Bool
  result : List Word
  /-- the access of a migration that was given up, whose instruction is not the last of its region (R195): it waits at its home
  for a page that is not resident (R204) -/
  stays : Bool := false
  /-- the member that it goes to, of a packet whose context has been surrendered (R183) -/
  target : Option CtxId := none
  deriving DecidableEq, Repr

/-- A packet stream (R182, R221) at both ends. -/
structure StreamSt where
  sent : Nat
  /-- plain packets since the last release sent, and that release's number -/
  since : Nat
  rel : Nat
  /-- performed packet numbers not yet forgotten -/
  done : List Nat
  /-- reply cache: number and result, newest first, at most 64 (R183) -/
  cache : List (Nat × List Word)
  deriving DecidableEq, Repr

/-- A message of the redemption protocol (R127, R128). -/
inductive MsgKind where
  | request (serial : Nat) (counted : Bool) (total : Nat) (modulus : Nat)
  | grant
  | deny (status : Nat)
  | commit (serial : Nat)
  | cancel (serial : Nat)
  deriving DecidableEq, Repr

/-- A redemption message between devices: presentation `pres` of device `asker`. It travels as a packet that bears its name
(R128, R209). -/
structure Msg where
  id : Nat
  src : Nat
  dst : Nat
  key : Nat
  asker : Nat
  pres : Nat
  kind : MsgKind
  slack : Nat
  deriving DecidableEq, Repr

/-- An entry of the agenda: the model's own list of the steps to take next. -/
inductive Sched where
  /-- a step of the machine, of the host or of time -/
  | event (i : Instr)
  /-- the next issue position is this slot's -/
  | turn (p : Place)
  /-- reference cycles pass -/
  | elapse (n : Nat)
  deriving DecidableEq, Repr

/-- An open choice of the device at the build of a context: its id, cores and slots, scratch, pages. -/
structure Plan where
  ctx : Nat
  /-- the core of a FRACTIONAL grant -/
  core : Nat
  slots : List (Nat × Nat)
  spans : List Span
  hbm : List Nat
  tier2 : List Nat
  deriving DecidableEq, Repr

/-- The machine. -/
structure State where
  /-- M, the committed memory (R210), over system addresses; host memory of context x lies 2^64·x higher -/
  mem : List Host.Cell
  poisoned : List Nat
  /-- bytes of a poisoned line that have been written since: its poison goes with the last of them (R151) -/
  repair : Map Nat (BitVec 64)
  threads : Map Place Thread
  /-- parents parked in a donated slot, innermost first (R28) -/
  donors : Map Place (List Thread)
  cores : Map CoreId Core
  ctxs : Map CtxId Ctx
  devs : Map Nat Device
  packets : List Packet
  streams : Map StreamKey StreamSt
  migs : List Mig
  msgs : List Msg
  /-- MODEL (log entry 3, DESIGN CHOICE): the steps that come next; then the slot whose position it is -/
  agenda : List Sched
  turn : Place
  /-- MODEL (log entry 8, DESIGN CHOICE): reference cycles -/
  now : Nat
  nextId : Nat
  /-- MODEL (log entry 7, DESIGN CHOICE) -/
  plan : List Plan
  /-- MODEL (log entries 12, 13, DESIGN CHOICE): free values taken so far -/
  draws : Nat
  stalled : Bool
  deriving DecidableEq, Repr

/-- Loop levels and shadows at thread creation (R371). -/
def Loops.zero : Loops := ⟨0, 0, 0, 0, 0, 0⟩

/-- The matrix registers at core grant (R310, R312, R330). -/
def MatRegs.reset : MatRegs := ⟨0, 0, 0, 0, 0, 0, 0, 0, 0, 0, 0⟩

/-- A core at reset, which is also its state at core grant (R53, R60, R276, R312). -/
def Core.reset : Core where
  cycle := 0
  j := Vector.replicate 32 0
  g := Vector.replicate 32 0
  late := []
  lateCsr := []
  streams := []
  cmds := []
  fences := []
  vshare := 1
  credit := 0
  mregs := []
  mseq := 0
  oslots := []
  tiles := []
  oclaims := []
  tclaims := []
  burst := 0
  burstAt := 0
  mmaAt := none
  rampAt := none
  hq := []
  tlb := []
  arrivals := []
  barCounts := []

/-- A function's doorway at reset (R152, R154). The physical function is always enabled. -/
def Door.reset (fn : Nat) : Door where
  prbase := 0
  prsize := 0
  prtail := 0
  prhead := 0
  lrbase := 0
  lrsize := 0
  lrtail := 0
  lrhead := 0
  erbase := 0
  ersize := 0
  erhead := 0
  ertail := 0
  atoken := 0
  tokenAt := 0
  eovf := false
  evLost := 0
  ringErr := false
  gen := 0
  enabled := fn == 0
  enabledAt := 0
  heldEvents := []

/-- An island at reset: 0 °C and 1.9 GHz, the model's choice (log entry 21, DESIGN CHOICE). -/
def Island.reset : Island := ⟨0, 76, false, false, 0, none, none⟩

/-- A barrier at grant (R255). -/
def Barrier.reset : Barrier := ⟨0, 0, false, false, 0, false, none, none⟩

/-- A stream when its context is built (R182). -/
def StreamSt.reset : StreamSt := ⟨0, 0, 0, [], []⟩

/-- A redemption window when its key slot is filled (R127). -/
def Window.reset : Window := ⟨0, [], [], [], []⟩

/-- A device at reset: bring-up stage 1 (R159), time unknown (R123), no keys, no declaration (R131). -/
def Device.reset : Device where
  stage := 1
  ready := false
  failed := []
  keys := []
  windows := []
  timeT := 0
  timeA := none
  timeAt := 0
  nonce := none
  nonceCount := 0
  nonce0 := 0
  nonce1 := 0
  declSerial := 0
  ratios := []
  adopt := false
  capGen := 0
  capTime := 0
  counters := []
  refusals := []
  epoch := 0
  childGens := []
  childUsed := []
  doors := []
  ohold := 10000
  pridrop := 0
  noncereq := 0
  cmd := 0
  peersUp := []
  peersSeen := []
  lostAt := []
  askedAt := 0
  islands := []
  rcache := []
  sentBy := []
  ranks := []
  tuned := []
  holds := []
  batch := []
  spawns := []
  pipes := []
  press := []
  corrected := 0

/-- Where an access goes: context-physical address, system address if it lies on the own device and its page
is resident, affinity F, memory kind uncached. -/
structure Loc where
  ca : Nat
  sa : Option Nat
  fetchAff : Bool
  uncached : Bool
  deriving DecidableEq, Repr

/-- What the checks of an address give (R102, R204). -/
inductive Look where
  | ok (l : Loc)
  | fault (t : Trap)
  /-- a page of the context that is not resident -/
  | absent (page : Nat)
  deriving DecidableEq, Repr

/-- What an instruction does at its issue, before it retires. -/
inductive Res where
  /-- its effect; control goes on to the next instruction -/
  | done (s : State)
  /-- its effect; it transfers control (R67) -/
  | jump (s : State) (pc : Word)
  /-- the position idles, with what the hardware does in it; the instruction issues again -/
  | stall (s : State)
  /-- a trap (R71) -/
  | trap (c : Trap)
  /-- its effect, with nothing left to retire: the thread waits, left, retired or restarts -/
  | gone (s : State)
  deriving DecidableEq, Repr

/-- The machine right after reset: no context, no thread, no packet; every device, core and stream that is
not listed stands at its own reset value; every byte of memory reads 0 (log entry 1, DESIGN CHOICE). -/
def State.reset : State where
  mem := []
  poisoned := []
  repair := []
  threads := []
  donors := []
  cores := []
  ctxs := []
  devs := []
  packets := []
  streams := []
  migs := []
  msgs := []
  agenda := []
  turn := ⟨0, 0, 0⟩
  now := 0
  nextId := 0
  plan := []
  draws := 0
  stalled := false

end Sys2Proof.Machine
end

