-- ==== Sys2Proof/Machine/Operands.lean ====
section
/-! DEFINITION. Operand forms: numbers and fields of words, the operand widths of the integer instructions (R79),
immediates and effective addresses (R32, R99), and the words of the later formats (R31). -/

namespace Sys2Proof.Machine

/-! ## Numbers and fields -/

/-- The low `n` bits of a word, sign-extended to 64. -/
def sextW (n v : Nat) : Word :=
  let v := v % 2 ^ n
  if 2 ^ n ≤ 2 * v then BitVec.ofInt 64 ((v : Int) - 2 ^ n) else BitVec.ofNat 64 v

/-- A field of a word: `n` bits from bit `lo`, as a number. -/
def wbits (x : Word) (lo n : Nat) : Nat := x.toNat / 2 ^ lo % 2 ^ n

/-- A word's bit. -/
def wbit (x : Word) (lo : Nat) : Bool := wbits x lo 1 == 1

/-- A word with `n` bits from bit `lo` replaced. -/
def wset (x : Word) (lo n v : Nat) : Word :=
  BitVec.ofNat 64 (x.toNat - wbits x lo n * 2 ^ lo + v % 2 ^ n * 2 ^ lo)

/-- `v` rounded up to a multiple of `q`. -/
def roundUp (v q : Nat) : Nat := (v + q - 1) / q * q

/-- The number that little-endian bytes hold (R2), from an offset. -/
def leAt (bs : List Byte) (off n : Nat) : Nat := leNat ((bs.drop off).take n)

/-- Every byte of a stretch is zero. -/
def zeros (bs : List Byte) (off n : Nat) : Bool := ((bs.drop off).take n).all (· == 0)

/-- A conversion of a returned number to a register value. -/
def Conv.apply : Conv → Nat → Word
  | .sx n, v => sextW n v
  | .zx n, v => BitVec.ofNat 64 (v % 2 ^ n)

/-! ## The operand widths of the integer instructions (R79) -/

/-- The width in bits: 32 at .w, 64 at .d. -/
def width (w : Bool) : Nat := if w then 32 else 64

/-- opd(x): the n-bit operand. -/
def opd (w : Bool) (x : Word) : Nat := x.toNat % 2 ^ width w

/-- S(x): the operand as a signed number. -/
def opS (w : Bool) (x : Word) : Int :=
  if 2 ^ width w ≤ 2 * opd w x then (opd w x : Int) - 2 ^ width w else opd w x

/-- res(v): the low n bits of a number as they are written to a register, sign-extended at .w. -/
def res (w : Bool) (v : Nat) : Word := sextW (width w) v

/-- res of an integer, wrapping. -/
def resI (w : Bool) (v : Int) : Word := res w (v % 2 ^ width w).toNat

/-- The signed minimum of the width. -/
def minS (w : Bool) : Int := -2 ^ (width w - 1)

/-- An integer lies in the signed range of the width. -/
def inRange (w : Bool) (v : Int) : Bool := decide (minS w ≤ v) && decide (v < 2 ^ (width w - 1))

/-! ## Immediates and addresses (R32) -/

/-- A sign-extended field. -/
def sx {n : Nat} (f : BitVec n) : Word := f.signExtend 64

/-- A zero-extended field. -/
def zx {n : Nat} (f : BitVec n) : Word := f.zeroExtend 64

/-- A target: PC + 4 × sext(offset). -/
def target {n : Nat} (pc : Word) (off : BitVec n) : Word := pc + 4 * sx off

/-- The effective address of an L form: a + sext(off9) × size. -/
def eaL (a : Word) (off : BitVec 9) (size : Nat) : Word := a + sx off * BitVec.ofNat 64 size

/-- The effective address of an X form: a + b. -/
def eaX (a b : Word) : Word := a + b

/-! ## Register operands (R33) -/

/-- An integer-class field. -/
def ri (r : Reg) : Dst := ⟨false, r⟩

/-- A floating-point-class field. -/
def rf (r : Reg) : Dst := ⟨true, r⟩

/-- The stream names s0 to s3 are f28 to f31 (R265). -/
def sreg (n : BitVec 2) : Dst := ⟨true, BitVec.ofNat 6 (28 + n.toNat)⟩

/-! ## Words of the later majors (R31), for the faults whose TVAL is the word -/

/-- The word of an X form. -/
def wordX (op d a b la fn : Nat) : Word :=
  BitVec.ofNat 64 (op * 2 ^ 25 + d * 2 ^ 19 + a * 2 ^ 13 + b * 2 ^ 7 + la * 8 + fn)

/-- The word of an A form. -/
def wordA (op d a b fn : Nat) : Word := BitVec.ofNat 64 (op * 2 ^ 25 + d * 2 ^ 19 + a * 2 ^ 13 + b * 2 ^ 7 + fn)

end Sys2Proof.Machine
end

