-- ==== Sys2Proof/Machine/Crypto.lean ====
section
/-! DEFINITION. The digests and codes that the spec names by their standards: SHA-256, HMAC-SHA-256 and RSA-3072 PSS with
SHA-256, MGF1 with SHA-256 and a salt of 32 bytes (R44, R115, R147, R165). The standards themselves are no part of the spec
(log entry 9). -/

namespace Sys2Proof.Machine

/-! ## SHA-256 -/

/-- The round constants. -/
def shaK : List (BitVec 32) :=
  ([0x428A2F98, 0x71374491, 0xB5C0FBCF, 0xE9B5DBA5, 0x3956C25B, 0x59F111F1, 0x923F82A4, 0xAB1C5ED5,
    0xD807AA98, 0x12835B01, 0x243185BE, 0x550C7DC3, 0x72BE5D74, 0x80DEB1FE, 0x9BDC06A7, 0xC19BF174] : List (BitVec 32))
  ++ [0xE49B69C1, 0xEFBE4786, 0x0FC19DC6, 0x240CA1CC, 0x2DE92C6F, 0x4A7484AA, 0x5CB0A9DC, 0x76F988DA,
    0x983E5152, 0xA831C66D, 0xB00327C8, 0xBF597FC7, 0xC6E00BF3, 0xD5A79147, 0x06CA6351, 0x14292967]
  ++ [0x27B70A85, 0x2E1B2138, 0x4D2C6DFC, 0x53380D13, 0x650A7354, 0x766A0ABB, 0x81C2C92E, 0x92722C85,
    0xA2BFE8A1, 0xA81A664B, 0xC24B8B70, 0xC76C51A3, 0xD192E819, 0xD6990624, 0xF40E3585, 0x106AA070]
  ++ [0x19A4C116, 0x1E376C08, 0x2748774C, 0x34B0BCB5, 0x391C0CB3, 0x4ED8AA4A, 0x5B9CCA4F, 0x682E6FF3,
    0x748F82EE, 0x78A5636F, 0x84C87814, 0x8CC70208, 0x90BEFFFA, 0xA4506CEB, 0xBEF9A3F7, 0xC67178F2]

/-- The initial hash value. -/
def shaInit : List (BitVec 32) :=
  [0x6A09E667, 0xBB67AE85, 0x3C6EF372, 0xA54FF53A, 0x510E527F, 0x9B05688C, 0x1F83D9AB, 0x5BE0CD19]

/-- A big-endian word of four bytes. -/
def shaWord (bs : List Byte) : BitVec 32 := BitVec.ofNat 32 (leNat (bs.take 4).reverse)

/-- The sixteen words of a block. -/
def shaWords (bs : List Byte) : List (BitVec 32) := (List.range 16).map (fun j => shaWord (bs.drop (4 * j)))

/-- The schedule, latest word first. -/
def shaSchedule : Nat → List (BitVec 32) → List (BitVec 32)
  | 0, r => r
  | n + 1, r =>
    let a := r[1]?.getD 0
    let b := r[14]?.getD 0
    let s1 := a.rotateRight 17 ^^^ a.rotateRight 19 ^^^ (a >>> 10)
    let s0 := b.rotateRight 7 ^^^ b.rotateRight 18 ^^^ (b >>> 3)
    shaSchedule n ((s1 + r[6]?.getD 0 + s0 + r[15]?.getD 0) :: r)

/-- One round. -/
def shaRound (h : List (BitVec 32)) (kw : BitVec 32) : List (BitVec 32) :=
  match h with
  | [a, b, c, d, e, f, g, i] =>
    let t1 := i + (e.rotateRight 6 ^^^ e.rotateRight 11 ^^^ e.rotateRight 25) + ((e &&& f) ^^^ (~~~e &&& g)) + kw
    let t2 := (a.rotateRight 2 ^^^ a.rotateRight 13 ^^^ a.rotateRight 22) + ((a &&& b) ^^^ (a &&& c) ^^^ (b &&& c))
    [t1 + t2, a, b, c, d + t1, e, f, g]
  | _ => h

/-- One block. -/
def shaBlock (h : List (BitVec 32)) (bs : List Byte) : List (BitVec 32) :=
  let w := (shaSchedule 48 (shaWords bs).reverse).reverse
  List.zipWith (· + ·) h ((List.zipWith (· + ·) shaK w).foldl shaRound h)

/-- The blocks of a padded message. -/
def shaBlocks : Nat → List (BitVec 32) → List Byte → List (BitVec 32)
  | 0, h, _ => h
  | n + 1, h, bs => shaBlocks n (shaBlock h (bs.take 64)) (bs.drop 64)

/-- SHA-256 of some bytes: 32 bytes, in the order of the standard. PRESUMED: log entry 9. -/
def sha256 (bs : List Byte) : List Byte :=
  let n := bs.length
  let zerosN := (119 - n % 64) % 64
  let padded := bs ++ [0x80] ++ List.replicate zerosN 0 ++ (leBytes 8 (8 * n)).reverse
  (shaBlocks (padded.length / 64) shaInit padded).flatMap (fun w => (leBytes 4 w.toNat).reverse)

/-! ## HMAC-SHA-256, with a key of at most 64 bytes -/

/-- Bytes combined by exclusive or. -/
def xorBytes (a b : List Byte) : List Byte := List.zipWith (· ^^^ ·) a b

/-- The code of a message. PRESUMED: log entry 9. -/
def hmac256 (key msg : List Byte) : List Byte :=
  let k := key ++ List.replicate (64 - key.length) 0
  sha256 (xorBytes k (List.replicate 64 0x5C) ++ sha256 (xorBytes k (List.replicate 64 0x36) ++ msg))

/-! ## RSA-3072 PSS -/

/-- s^65537 mod n. -/
def rsaPower (s n : Nat) : Nat := (List.range 16).foldl (fun v _ => v * v % n) (s % n) * s % n

/-- MGF1 with SHA-256: `n` bytes. -/
def mgf1 (seed : List Byte) (n : Nat) : List Byte :=
  ((List.range ((n + 31) / 32)).flatMap (fun j => sha256 (seed ++ (leBytes 4 j).reverse))).take n

/-- An encoded message of 384 bytes is the PSS encoding of a message's digest. -/
def pssOk (em digest : List Byte) : Bool :=
  let h := (em.drop 351).take 32
  let db := xorBytes (em.take 351) (mgf1 h 351)
  let db := db.set 0 ((db[0]?.getD 0) &&& 0x7F)
  em[383]? == some 0xBC && (em[0]?.getD 0) &&& 0x80 == 0 && zeros db 0 318 && db[318]? == some 1
    && sha256 (List.replicate 8 0 ++ digest ++ db.drop 319) == h

/-- A signature of 384 bytes, as a little-endian number, verifies over a message with a modulus. PRESUMED: log entry 9. -/
def pssSigned (modulus : Nat) (msg sig : List Byte) : Bool :=
  let s := leNat sig
  decide (s < modulus) && pssOk (leBytes 384 (rsaPower s modulus)).reverse (sha256 msg)

end Sys2Proof.Machine
end

