-- ==== Sys2Proof/Config.lean ====
section
/-! DEFINITION. Values that the spec leaves open. Each is opaque: nothing evaluates it, and a statement
about it holds whatever it is. -/

namespace Sys2Proof.Config

/-- The device id of a device (R118, R137); log entry 10, DESIGN CHOICE. -/
opaque deviceId : Nat → BitVec 64

/-- The modulus of the Zilkor root key (R118); log entry 10, DESIGN CHOICE. -/
opaque zilkorModulus : Nat

/-- The slip key of a device after a reset (R165): device and reset count; log entry 10, DESIGN CHOICE. -/
opaque slipKey : Nat → Nat → BitVec 256

/-- The 23-bit queue tag over bits 63:23 of a handle (R283): device, reset count, bits; log entry 10, DESIGN CHOICE. -/
opaque queueTag : Nat → Nat → BitVec 41 → BitVec 23

/-- The n-th nonce that a device draws (R124, R175); log entry 10, DESIGN CHOICE. -/
opaque nonce : Nat → Nat → BitVec 128

/-- What chooses among the codes within the bound of a special function (R296): cfn7, TYPE, operand code; log entry 11, DESIGN CHOICE. -/
opaque special : Nat → Nat → BitVec 64 → BitVec 64

/-- Which of the text versions committed since a slot's last IFENCE a fetch returns (R228): the draw's number,
answered modulo the number of versions; log entry 12, DESIGN CHOICE. -/
opaque fetchVersion : Nat → Nat

/-- Which entry a translation uses until a TFENCE, the table's or a cached older one (R203): the draw's number, answered
modulo the number of entries; log entry 15, DESIGN CHOICE. -/
opaque cachedEntry : Nat → Nat

/-- A load of a cached line of the own district misses the group data cache and goes to its home slice (R59, R192): the load's
name; log entry 102, DESIGN CHOICE. -/
opaque cacheMiss : Nat → Bool

/-- What an access of a home returns where the line was poisoned behind the access's issue (R59, R151): the draw's number;
log entry 71, DESIGN CHOICE. -/
opaque poisoned : Nat → BitVec 64

/-- The contention predictor runs an atomic in the group cache (R193): the draw's number; log entry 99, DESIGN CHOICE. -/
opaque predictor : Nat → Bool

/-- The exit word of a HANDLER_FAULT event for an instruction or an address that a handler may not use (R254): the
draw's number; log entry 13, DESIGN CHOICE. -/
opaque handlerMisuse : Nat → BitVec 64


end Sys2Proof.Config
end

