-- ==== Sys2Proof/Machine/Flags.lean ====
section
/-! DEFINITION. Flag computations: the conditions of branches and compares (R84, R89), the trap status word and its
fields (R76), and which traps are handled (R71, R72). No instruction keeps condition flags (R79). -/

namespace Sys2Proof.Machine

/-! ## Conditions -/

/-- A condition as a register value: 0 or 1, zero-extended (R36). -/
def ofCond (c : Bool) : Word := if c then 1 else 0

/-- The conditions of the branches and of the compares. -/
inductive Cond where
  | eq | ne | lt | ge | ltu | geu
  deriving DecidableEq, Repr

/-- A condition on two operands of a width. -/
def Cond.holds (c : Cond) (w : Bool) (a b : Word) : Bool :=
  match c with
  | .eq => opd w a == opd w b
  | .ne => opd w a != opd w b
  | .lt => decide (opS w a < opS w b)
  | .ge => decide (opS w b ≤ opS w a)
  | .ltu => decide (opd w a < opd w b)
  | .geu => decide (opd w b ≤ opd w a)

/-! ## TSTAT (R76) -/

/-- DEPTH: trap nesting depth. -/
def tsDepth (x : Word) : Nat := wbits x 0 2

/-- NE: a further trap may nest. -/
def tsNE (x : Word) : Nat := wbits x 3 1

/-- PNE: NE before the last entry. -/
def tsPNE (x : Word) : Nat := wbits x 4 1

/-- FRM: the trap was taken inside a replay. -/
def tsFRM (x : Word) : Nat := wbits x 8 1

/-- FI: index within the frame. -/
def tsFI (x : Word) : Nat := wbits x 24 5

/-- FK: replay index. -/
def tsFK (x : Word) : Nat := wbits x 32 16

/-- FC: frame count of the interrupted replay. -/
def tsFC (x : Word) : Nat := wbits x 48 16

/-- The status word from its fields; the reserved bits are zero. -/
def tsMake (depth ne pne frm fi fk fc : Nat) : Word :=
  BitVec.ofNat 64 (depth % 4 + ne % 2 * 2 ^ 3 + pne % 2 * 2 ^ 4 + frm % 2 * 2 ^ 8 + fi % 32 * 2 ^ 24
    + fk % 65536 * 2 ^ 32 + fc % 65536 * 2 ^ 48)

/-- PIN_BUDGET is fatal (R62). -/
def cPinBudget : Nat := 0x12

/-- A trap that no handler takes: a fatal one, at depth 2, or at depth 1 with NE = 0 (R71, R72). The entry clears NE,
so a fault of the fetch at TVEC is one of these. -/
def unhandled (tstat : Word) (code : Nat) : Bool :=
  code == cPinBudget || decide (2 ≤ tsDepth tstat) || (tsDepth tstat == 1 && tsNE tstat == 0)

end Sys2Proof.Machine
end

