-- ==== Sys2Proof/Machine/Ops.lean ====
section
/-! DEFINITION. The named operations over memory, maps, registers, threads and contexts. Every meaning is
written over these. -/

namespace Sys2Proof.Machine

/-! ## Maps -/

/-- The value of a key. -/
def mget {κ α : Type} [DecidableEq κ] : Map κ α → κ → Option α
  | [], _ => none
  | (k', v) :: m, k => if k' = k then some v else mget m k

/-- The value of a key, or what an unlisted key stands for. -/
def mgetD {κ α : Type} [DecidableEq κ] (m : Map κ α) (k : κ) (d : α) : α := (mget m k).getD d

/-- A key's value is replaced in its place, or listed last. -/
def mset {κ α : Type} [DecidableEq κ] : Map κ α → κ → α → Map κ α
  | [], k, v => [(k, v)]
  | (k', v') :: m, k, v => if k' = k then (k, v) :: m else (k', v') :: mset m k v

/-- A key is no longer listed. -/
def mdel {κ α : Type} [DecidableEq κ] (m : Map κ α) (k : κ) : Map κ α := m.filter (fun e => e.1 ≠ k)

/-! ## Lists in order -/

/-- A list put in the order of `le`; elements that `le` holds equal keep their order. -/
def inOrder {α : Type} (le : α → α → Bool) : List α → List α
  | [] => []
  | x :: xs =>
    let rec place : List α → List α
      | [] => [x]
      | y :: ys => if le x y then x :: y :: ys else y :: place ys
    place (inOrder le xs)

/-! ## Memory -/

/-- The byte at an address; an unlisted one reads 0 (log entry 1, DESIGN CHOICE). -/
def memRead : List Host.Cell → Nat → Byte
  | [], _ => 0
  | (a', b) :: m, a => if a' = a then b else if a < a' then 0 else memRead m a

/-- One byte is written; writing 0 removes the entry, so that the form stays canonical. -/
def memWrite : List Host.Cell → Nat → Byte → List Host.Cell
  | [], a, b => if b = 0 then [] else [(a, b)]
  | (a', b') :: m, a, b =>
    if a < a' then if b = 0 then (a', b') :: m else (a, b) :: (a', b') :: m
    else if a = a' then if b = 0 then m else (a, b) :: m
    else (a', b') :: memWrite m a b

/-- Every address of the list is above `lo`, the addresses rise strictly and no byte is 0. -/
def memAbove : Nat → List Host.Cell → Bool
  | _, [] => true
  | lo, (a, b) :: m => decide (lo ≤ a) && decide (b ≠ 0) && memAbove (a + 1) m

/-- The canonical form of a memory. -/
def Memory.wf (m : List Host.Cell) : Bool := memAbove 0 m

/-- `n` bytes from an address. -/
def memReads (m : List Host.Cell) (a : Nat) : Nat → List Byte
  | 0 => []
  | n + 1 => memRead m a :: memReads m (a + 1) n

/-- Bytes written from an address on. -/
def memWrites (m : List Host.Cell) (a : Nat) : List Byte → List Host.Cell
  | [] => m
  | b :: bs => memWrites (memWrite m a b) (a + 1) bs

/-! ## Lookups -/

/-- The core of a place. -/
def coreOf (p : Place) : CoreId := ⟨p.peer, p.core⟩

/-- The thread in a slot. -/
def State.thread (s : State) (p : Place) : Option Thread := mget s.threads p

/-- A slot's thread is replaced. -/
def State.setThread (s : State) (p : Place) (t : Thread) : State :=
  { s with threads := mset s.threads p t }

/-- A slot becomes free (R17). -/
def State.freeSlot (s : State) (p : Place) : State := { s with threads := mdel s.threads p }

/-- A core. -/
def State.core (s : State) (c : CoreId) : Core := mgetD s.cores c Core.reset

/-- A core is replaced. -/
def State.setCore (s : State) (c : CoreId) (k : Core) : State := { s with cores := mset s.cores c k }

/-- A context. -/
def State.ctx (s : State) (c : CtxId) : Option Ctx := mget s.ctxs c

/-- A context is replaced. -/
def State.setCtx (s : State) (c : CtxId) (x : Ctx) : State := { s with ctxs := mset s.ctxs c x }

/-- A device. -/
def State.dev (s : State) (peer : Nat) : Device := mgetD s.devs peer Device.reset

/-- A device is replaced. -/
def State.setDev (s : State) (peer : Nat) (d : Device) : State := { s with devs := mset s.devs peer d }

/-- The context that a thread runs under. -/
def Thread.ctxId (t : Thread) (p : Place) : CtxId := ⟨p.peer, t.ctx⟩

/-- The context of the thread in a place, changed. -/
def State.updCtx (s : State) (c : CtxId) (f : Ctx → Ctx) : State :=
  match s.ctx c with
  | some x => s.setCtx c (f x)
  | none => s

/-- A thread changed in its place. -/
def State.updThread (s : State) (p : Place) (f : Thread → Thread) : State :=
  match s.thread p with
  | some t => s.setThread p (f t)
  | none => s

/-- A core changed. -/
def State.updCore (s : State) (c : CoreId) (f : Core → Core) : State := s.setCore c (f (s.core c))

/-- Where the thread of a name runs now. -/
def State.findThread (s : State) (uid : Nat) : Option (Place × Thread) :=
  s.threads.find? (fun e => e.2.uid == uid)

/-- A fresh name. -/
def State.fresh (s : State) : Nat × State := (s.nextId, { s with nextId := s.nextId + 1 })

/-- Bytes of committed memory. -/
def State.reads (s : State) (a n : Nat) : List Byte := memReads s.mem a n

/-- Bytes written to committed memory. -/
def State.writes (s : State) (a : Nat) (bs : List Byte) : State := { s with mem := memWrites s.mem a bs }

/-! ## System and context-physical addresses (R188, R201) -/

/-- The device of an address. -/
def saPeer (a : Nat) : Nat := a / 2 ^ 57 % 128

/-- KIND of a system address, or CLASS of a context-physical one. -/
def saKind (a : Nat) : Nat := a / 2 ^ 53 % 16

/-- The offset of an address. -/
def saOff (a : Nat) : Nat := a % 2 ^ 53

/-- An address from its parts. -/
def mkSa (peer kind off : Nat) : Nat := peer * 2 ^ 57 + kind * 2 ^ 53 + off

/-- The scratch address of a byte of a core's slice. -/
def scratchSa (peer core off : Nat) : Nat :=
  mkSa peer 3 (coreDist core * 2 ^ 27 + coreQtr core * 2 ^ 25 + core % 256 * 2 ^ 17 + off)

/-- The core whose slice a scratch offset names. -/
def scratchCore (off : Nat) : Nat := off / 2 ^ 27 % 8 * 1024 + off / 2 ^ 25 % 4 * 256 + off / 2 ^ 17 % 256

/-- The home district of a system address; host memory and device windows have none (R188). -/
def homeDist (a : Nat) : Option Nat :=
  match saKind a with
  | 0 => some (saOff a / 2 ^ 39 % 8)
  | 1 => some (saOff a / 4096 % 8)
  | 2 => some (2 * (saOff a / 2 ^ 49 % 4) + saOff a % 2 ^ 49 / 4096 % 2)
  | 3 => some (saOff a / 2 ^ 27 % 8)
  | _ => none

/-- The quarter that a home slice serves (R368); for scratch the owning core's. -/
def homeQtr (a : Nat) : Nat := if saKind a = 3 then saOff a / 2 ^ 25 % 4 else saOff a / 64 % 4

/-- The line number of an address (R210). -/
def lineOf (a : Nat) : Nat := a / 64

/-- The lines that `n` bytes touch. -/
def linesOf (a n : Nat) : List Nat :=
  (List.range ((a + n - 1) / 64 - a / 64 + 1)).map (· + a / 64)

/-! ## Registers (R33, R60, R61) -/

/-- A field names the shared bank. -/
def isShared (r : Reg) : Bool := decide (32 ≤ r.toNat)

/-- An integer register; i0 reads zero. -/
def readI (k : Core) (t : Thread) (r : Reg) : Word :=
  if r.toNat = 0 then 0
  else if r.toNat < 32 then t.i[r.toNat]?.getD 0
  else k.j[r.toNat - 32]?.getD 0

/-- A floating-point register. -/
def readF (k : Core) (t : Thread) (r : Reg) : Word :=
  if r.toNat < 32 then t.f[r.toNat]?.getD 0 else k.g[r.toNat - 32]?.getD 0

/-- A register of either class. -/
def readReg (k : Core) (t : Thread) (d : Dst) : Word := if d.fp then readF k t d.reg else readI k t d.reg

/-- A private register is written; a write to i0 is discarded (R33). -/
def Thread.setReg (t : Thread) (d : Dst) (v : Word) : Thread :=
  if d.fp then { t with f := t.f.setIfInBounds d.reg.toNat v }
  else if d.reg.toNat = 0 then t
  else { t with i := t.i.setIfInBounds d.reg.toNat v }

/-- A shared register is written. -/
def Core.setReg (k : Core) (d : Dst) (v : Word) : Core :=
  if d.fp then { k with g := k.g.setIfInBounds (d.reg.toNat - 32) v }
  else { k with j := k.j.setIfInBounds (d.reg.toNat - 32) v }

/-- Every pending write of a register is discarded by a later write (R58); its stall stays. -/
def Thread.discard (t : Thread) (d : Dst) : Thread :=
  { t with pend := t.pend.map (fun q => if q.dsts.contains d then { q with dead := d :: q.dead } else q) }

/-- A result written at a given cycle: a private register at once, a shared one when it takes effect (R61). -/
def State.putReg (s : State) (p : Place) (d : Dst) (v : Word) (at_ : Nat) : State :=
  if isShared d.reg then
    s.updCore (coreOf p) (fun k => { k with late := k.late ++ [⟨d, v, at_, p.slot⟩] })
  else s.updThread p (fun t => t.setReg d v)

/-- An ordinary instruction's result (R55, R58, R61). -/
def State.writeReg (s : State) (p : Place) (d : Dst) (v : Word) : State :=
  (s.updThread p (fun t => t.discard d)).putReg p d v ((s.core (coreOf p)).cycle + 12)

/-- The matrix registers of a context on a core (R312, R330). DEDUCED: log entry 37. -/
def Core.mat (k : Core) (ctx : Nat) : MatRegs := mgetD k.mregs ctx MatRegs.reset

/-- A core control register is written: FMTA to SRNDSEED, VSHARE and the event counters (R43). -/
def Core.setCsr (k : Core) (ctx csr : Nat) (v : Word) : Core :=
  let m := k.mat ctx
  let put (m : MatRegs) : Core := { k with mregs := mset k.mregs ctx m }
  match csr with
  | 0x100 => put { m with fmta := v }
  | 0x101 => put { m with fmtb := v }
  | 0x102 => put { m with fmtc := v }
  | 0x103 => put { m with scla := v }
  | 0x104 => put { m with sclb := v }
  | 0x105 => put { m with srndseed := v }
  | 0x107 => { k with vshare := v.truncate 4 }
  | 0x110 => put { m with ncnan := v.truncate 16 }
  | 0x111 => put { m with ncovf := v.truncate 16 }
  | 0x112 => put { m with ncunf := v.truncate 16 }
  | 0x113 => put { m with ncinx := v.truncate 16 }
  | 0x114 => put { m with ncscl := v.truncate 16 }
  | _ => k

/-- Shared writes that took effect before this cycle are applied, the earlier first and of one cycle the
lower slot first, so that the higher-numbered slot's is kept (R61); core control registers follow the same rule (R98).
DEDUCED: log entry 75. -/
def Core.settle (k : Core) : Core :=
  let due := k.late.filter (fun w => decide (w.cycle < k.cycle))
  let ordered := inOrder (fun a b => decide (a.cycle < b.cycle ∨ a.cycle = b.cycle ∧ a.slot ≤ b.slot)) due
  let dueC := k.lateCsr.filter (fun w => decide (w.cycle < k.cycle))
  let orderedC := inOrder (fun a b => decide (a.cycle < b.cycle ∨ a.cycle = b.cycle ∧ a.slot ≤ b.slot)) dueC
  let k1 := ordered.foldl (fun k w => k.setReg w.dst w.value) k
  let k2 := orderedC.foldl (fun k w => k.setCsr w.ctx w.csr w.value) k1
  { k2 with late := k.late.filter (fun w => !decide (w.cycle < k.cycle))
            lateCsr := k.lateCsr.filter (fun w => !decide (w.cycle < k.cycle)) }

/-- Every shared write and write of a core control register that is under way is applied, as a stop saves them (R142). -/
def Core.settleAll (k : Core) : Core :=
  { Core.settle { k with cycle := (k.late.map (·.cycle) ++ k.lateCsr.map (·.cycle)).foldl max k.cycle + 1 } with cycle := k.cycle }

/-! ## Taking a trap and returning from it (R71, R73) -/

/-- A trap is entered: the registers that the entry writes (R71). Pending results have been written before. -/
def Thread.enterTrap (t : Thread) (c : Trap) : Thread :=
  let r := match t.replay with
    | some r => (1, r.i, r.k, r.count)
    | none => (0, tsFI t.tstat, tsFK t.tstat, tsFC t.tstat)
  { t with
    tpc := t.pc
    tcause := BitVec.ofNat 64 c.code
    tval := c.value
    shadow := t.loops
    loops := { t.loops with lc0 := 0, lc1 := 0 }
    tstat := tsMake (tsDepth t.tstat + 1) 0 (tsNE t.tstat) r.1 r.2.1 r.2.2.1 r.2.2.2
    replay := none
    once := none
    pc := t.tvec }

/-- The return from a trap, but for where it goes (R73): the loop levels come back, and the depth falls. -/
def Thread.leaveTrap (t : Thread) : Thread :=
  { t with
    loops := t.shadow
    tstat := tsMake (tsDepth t.tstat - 1) (tsPNE t.tstat) (tsPNE t.tstat) (tsFRM t.tstat) (tsFI t.tstat)
      (tsFK t.tstat) (tsFC t.tstat) }

/-! ## Contexts -/

/-- The context owns the core: it is granted whole, and all its general slots are held (R60). -/
def Ctx.owns (x : Ctx) (core : Nat) : Bool :=
  x.cores.contains core && (List.range 14).all (fun n => x.slots.contains (core, n))

/-- The slot's thread may use the shared banks (R60). -/
def State.ownsCore (s : State) (p : Place) (t : Thread) : Bool :=
  p.slot != 15 && match s.ctx (t.ctxId p) with
    | some x => x.owns p.core
    | none => false

/-- The slack floor of a class (R229). -/
def classFloor (cls : Nat) : Nat := if cls = 0 then 0 else if cls = 1 then 64 else 1024

/-- The slack of a packet that the slot issues now (R51, R229). DEDUCED: log entry 20. -/
def State.slack (s : State) (p : Place) (t : Thread) : Nat :=
  let n := match t.once with
    | some n => n.toNat
    | none => t.slk.toNat
  max n (match s.ctx (t.ctxId p) with
    | some x => classFloor x.cls
    | none => 0)

/-- The flag FRACTIONAL (R116). -/
def Ctx.fractional (x : Ctx) : Bool := x.flags.toNat % 2 == 1

/-- The flag NO_TIME_BOUND (R116). -/
def Ctx.noTimeBound (x : Ctx) : Bool := x.flags.toNat / 4 % 2 == 1

/-- The flag DUMP_ON_FAULT (R116). -/
def Ctx.dumps (x : Ctx) : Bool := x.flags.toNat / 16 % 2 == 1

/-- Local nanoseconds in a number of reference cycles of 1.9 GHz (R4, R124). DESIGN CHOICE: log entry 8. -/
def nsOf (cycles : Nat) : Nat := cycles * 10 / 19

/-- DTIME of a device (R123, R124). -/
def State.dtime (s : State) (peer : Nat) : Nat :=
  let d := s.dev peer
  d.timeT + nsOf (s.now - d.timeAt)

/-- DUNC of a device; all ones while infinite (R123, R124). -/
def State.dunc (s : State) (peer : Nat) : Nat :=
  let d := s.dev peer
  match d.timeA with
  | none => 2 ^ 64 - 1
  | some a => a + (20 * nsOf (s.now - d.timeAt) + 999999) / 1000000

/-- The next draw of an open choice. -/
def State.draw (s : State) : Nat × State := (s.draws, { s with draws := s.draws + 1 })

end Sys2Proof.Machine
end

