-- ==== Sys2Proof/Machine/Capability.lean ====
section
/-! DEFINITION. The capability table (R131, R134, R137 to R139). -/

namespace Sys2Proof.Machine

/-- A row of R138: kind, unit, quantum, total, flags, limiter granularity. -/
structure CapRow where
  kind : Nat
  unit : Nat
  quantum : Nat
  total : Nat
  flags : Nat
  gran : Nat
  deriving DecidableEq, Repr

/-- The resources of a fully populated module (R138). -/
def capResources : List CapRow :=
  [⟨0x0001, 0, 1, 16384, 0, 0⟩, ⟨0x0002, 0, 1, 86016, 3, 0⟩, ⟨0x0003, 0, 1, 6144, 2, 0⟩,
   ⟨0x0004, 1, 32, 25165824, 2, 0⟩, ⟨0x0005, 1, 4096, 201326592, 1, 0⟩, ⟨0x0006, 1, 4096, 3000000000, 0, 0⟩,
   ⟨0x0007, 0, 1, 196608, 2, 0⟩, ⟨0x0008, 0, 1, 24576, 2, 0⟩, ⟨0x0009, 0, 1, 131072, 0, 0⟩,
   ⟨0x000A, 0, 1, 131072, 0, 0⟩, ⟨0x000B, 0, 1, 32768, 0, 0⟩, ⟨0x000C, 0, 1, 49152, 2, 0⟩,
   ⟨0x000D, 2, 1, 48000000, 4, 16⟩, ⟨0x000E, 2, 1, 1792000, 4, 16⟩, ⟨0x000F, 0, 1, 8192, 0, 0⟩]

/-- The refusal counters (R138): kinds 0x00F0 to 0x00F8. -/
def capCounters : List Nat := (List.range 9).map (· + 0xF0)

/-- Entries of the table. -/
def capCount : Nat := 24

/-- Guaranteed limit and Burstable ratio in force for a kind, with 8 fraction bits (R131). -/
def Device.ratio (d : Device) (kind : Nat) : Nat × Nat :=
  match d.ratios.find? (fun r => r.kind == kind) with
  | some r => (r.limit, r.ratio)
  | none => (256, 256)

/-- The counters of a kind. -/
def Device.counter (d : Device) (kind : Nat) : Counter := mgetD d.counters kind ⟨0, 0, 0⟩

/-- The spill reserve (R134), in bytes, rounded up to a page. -/
def Device.reserve (d : Device) : Nat :=
  roundUp (((d.ratio 5).2 - 256) * (201326592 - (d.counter 5).guar) * 4096 / 256) 4096

/-- The total of a resource, in quanta; the spill reserve is taken from tier-2 (R134, R138). -/
def Device.total (d : Device) (r : CapRow) : Nat := if r.kind = 6 then r.total - d.reserve / 4096 else r.total

/-- An entry of the table, 32 bytes (R137); while VALID is 0 every counter reads 0 (R139). -/
def capEntry (d : Device) (n : Nat) : List Byte :=
  match capResources[n]? with
  | some r =>
    let c := if d.ready then d.counter r.kind else ⟨0, 0, 0⟩
    leBytes 2 r.kind ++ leBytes 1 r.unit ++ leBytes 1 r.flags ++ leBytes 4 r.quantum ++ leBytes 4 (d.total r)
      ++ leBytes 4 c.guar ++ leBytes 4 c.burst ++ leBytes 4 c.scav ++ leBytes 4 r.gran
      ++ leBytes 2 (d.ratio r.kind).2 ++ leBytes 2 (d.ratio r.kind).1
  | none =>
    let kind := 0xF0 + (n - 15)
    leBytes 2 kind ++ leBytes 1 0 ++ leBytes 1 8 ++ leBytes 4 1
      ++ leBytes 4 (if d.ready then mgetD d.refusals kind 0 else 0) ++ leBytes 16 0
      ++ leBytes 2 256 ++ leBytes 2 256

/-- The table's header, 64 bytes (R137). -/
def capHeader (peer : Nat) (d : Device) : List Byte :=
  leBytes 4 0x5A434150 ++ [1, 0] ++ leBytes 2 32 ++ leBytes 2 capCount ++ leBytes 2 0 ++ leBytes 4 d.capGen.toNat
    ++ leBytes 8 (Config.deviceId peer).toNat ++ leBytes 1 peer ++ leBytes 7 0 ++ leBytes 8 d.capTime
    ++ leBytes 8 d.declSerial ++ leBytes 4 (if d.ready then 1 else 0) ++ leBytes 12 0

/-- Bytes of the table's window (R188); what lies behind the entries reads 0. -/
def capBytes (peer : Nat) (d : Device) (off n : Nat) : List Byte :=
  let all := capHeader peer d ++ (List.range capCount).flatMap (capEntry d)
  (List.range n).map (fun j => all[off + j]?.getD 0)

/-- One update of the table (R139): the generation goes on by two half steps, and the time of the change is noted. -/
def State.capUpdate (s : State) (peer : Nat) (f : Device → Device) : State :=
  let d := f (s.dev peer)
  s.setDev peer { d with capGen := d.capGen + 2, capTime := s.dtime peer }

end Sys2Proof.Machine
end

