-- ==== Sys2Proof/Machine/Float.lean ====
section
/-! DEFINITION. Floating point, exactly: a finite value is a sign, a natural mantissa and an exponent of two;
every operation is computed exactly and rounded once (R37, R319 to R325). -/

namespace Sys2Proof.Machine

/-- A binary format by the width of its exponent and mantissa (R319). -/
structure FpFmt where
  e : Nat
  m : Nat
  deriving DecidableEq, Repr

/-- A value: a finite one is (−1)^s · mant · 2^exp. -/
inductive Val where
  | nan
  | inf (neg : Bool)
  | fin (neg : Bool) (mant : Nat) (exp : Int)
  deriving DecidableEq, Repr

def fp64 : FpFmt := ⟨11, 52⟩
def fp32 : FpFmt := ⟨8, 23⟩
def fp16 : FpFmt := ⟨5, 10⟩
def bf16 : FpFmt := ⟨8, 7⟩

/-- The width of a format. -/
def FpFmt.width (f : FpFmt) : Nat := f.e + f.m + 1

/-- Its exponent bias. -/
def FpFmt.bias (f : FpFmt) : Int := 2 ^ (f.e - 1) - 1

/-- The canonical quiet NaN (R37, R292, R319). -/
def FpFmt.nan (f : FpFmt) : Nat := (2 ^ f.e - 1) * 2 ^ f.m + 2 ^ (f.m - 1)

/-- Infinity of a sign. -/
def FpFmt.inf (f : FpFmt) (neg : Bool) : Nat := (if neg then 2 ^ (f.e + f.m) else 0) + (2 ^ f.e - 1) * 2 ^ f.m

/-- Zero of a sign. -/
def FpFmt.zero (f : FpFmt) (neg : Bool) : Nat := if neg then 2 ^ (f.e + f.m) else 0

/-- The largest finite value of a sign. -/
def FpFmt.max (f : FpFmt) (neg : Bool) : Nat := f.inf neg - 1

/-- The value of a code. -/
def fpVal (f : FpFmt) (c : Nat) : Val :=
  let c := c % 2 ^ f.width
  let neg := c / 2 ^ (f.e + f.m) == 1
  let ex := c / 2 ^ f.m % 2 ^ f.e
  let m := c % 2 ^ f.m
  if ex = 2 ^ f.e - 1 then (if m = 0 then .inf neg else .nan)
  else if ex = 0 then .fin neg m (1 - f.bias - f.m)
  else .fin neg (2 ^ f.m + m) ((ex : Int) - f.bias - f.m)

/-- `m · 2^k` rounded down, for a shift of either sign, with the remainder: quotient and whether anything is lost,
and how the lost part compares with a half. -/
def shiftDown (m : Nat) (k : Nat) : Nat × Nat × Nat := (m / 2 ^ k, m % 2 ^ k, 2 ^ k)

/-- The three roundings (R322): nearest even, toward zero, stochastic with 32 random bits. -/
inductive Rnd where
  | rne
  | rtz
  | sto (u : Nat)
  deriving DecidableEq, Repr

/-- The magnitude next above is chosen, for a quotient `q` with remainder `r` out of `d` and a sticky bit for a part
lost below the remainder (R322, R325). -/
def roundsUp (rnd : Rnd) (q r d : Nat) (sticky : Bool) : Bool :=
  match rnd with
  | .rne => decide (d < 2 * r) || (decide (2 * r = d) && (sticky || q % 2 == 1))
  | .rtz => false
  | .sto u => decide (u < 2 ^ 32 * r / d)

/-- A finite value is rounded to a mantissa of at most `p` bits and an exponent not below `emin`; `sticky` marks a
non-zero part below the mantissa. The result is a mantissa below 2^p (or 2^p exactly) and an exponent. -/
def roundTo (rnd : Rnd) (p : Nat) (emin : Int) (mant : Nat) (exp : Int) (sticky : Bool) : Nat × Int × Bool :=
  let len := Nat.log2 mant + 1
  let e1 : Int := max emin (exp + len - p)
  if e1 ≤ exp then
    (mant * 2 ^ (exp - e1).toNat, e1, sticky)
  else
    let k := (e1 - exp).toNat
    let q := mant / 2 ^ k
    let r := mant % 2 ^ k
    let q' := if roundsUp rnd q r (2 ^ k) sticky then q + 1 else q
    (q', e1, r != 0 || sticky)

/-- A finite non-zero value rounded into a standard format: overflow gives infinity, or the largest finite value
toward zero (R323). -/
def encodeFinS (rnd : Rnd) (f : FpFmt) (neg : Bool) (mant : Nat) (exp : Int) (sticky : Bool) : Nat :=
  if mant = 0 then f.zero neg else
  let emin : Int := 1 - f.bias - f.m
  let emax : Int := (2 ^ f.e - 2 : Int) - f.bias - f.m
  let (q, e, _) := roundTo rnd (f.m + 1) emin mant exp sticky
  let (q, e) := if q = 2 ^ (f.m + 1) then (2 ^ f.m, e + 1) else (q, e)
  let tooBig := decide (emax < e)
  if tooBig then
    match rnd with
    | .rtz => f.max neg
    | _ => f.inf neg
  else
    f.zero neg + (if q < 2 ^ f.m then q else (e - emin).toNat * 2 ^ f.m + q)

/-- A value rounded into a standard format; a NaN is the canonical one. Beyond the largest finite value stochastic
rounding acts as nearest even (R323). -/
def encodeFpR (rnd : Rnd) (f : FpFmt) : Val → Nat
  | .nan => f.nan
  | .inf neg => f.inf neg
  | .fin neg m e => encodeFinS (match rnd with
      | .sto u => if encodeFinS .rtz f neg m e false = f.max neg then .rne else .sto u
      | r => r) f neg m e false

/-- Round to nearest even. -/
def encodeFp (f : FpFmt) (v : Val) : Nat := encodeFpR .rne f v

/-- The exact sum of two finite values; a zero sum of unlike signs is +0 under RNE (R329). -/
def finAdd (n1 : Bool) (m1 : Nat) (e1 : Int) (n2 : Bool) (m2 : Nat) (e2 : Int) : Val :=
  let e := min e1 e2
  let a : Int := (if n1 then -1 else 1) * (m1 * 2 ^ (e1 - e).toNat : Nat)
  let b : Int := (if n2 then -1 else 1) * (m2 * 2 ^ (e2 - e).toNat : Nat)
  let c := a + b
  if c = 0 then .fin (n1 && n2) 0 0 else .fin (decide (c < 0)) c.natAbs e

/-- Exact addition. -/
def valAdd : Val → Val → Val
  | .nan, _ => .nan
  | _, .nan => .nan
  | .inf a, .inf b => if a = b then .inf a else .nan
  | .inf a, _ => .inf a
  | _, .inf b => .inf b
  | .fin n1 m1 e1, .fin n2 m2 e2 => finAdd n1 m1 e1 n2 m2 e2

/-- Negation. -/
def valNeg : Val → Val
  | .nan => .nan
  | .inf a => .inf (!a)
  | .fin n m e => .fin (!n) m e

/-- Exact multiplication. -/
def valMul : Val → Val → Val
  | .nan, _ => .nan
  | _, .nan => .nan
  | .inf a, .inf b => .inf (a != b)
  | .inf a, .fin n m _ => if m = 0 then .nan else .inf (a != n)
  | .fin n m _, .inf b => if m = 0 then .nan else .inf (b != n)
  | .fin n1 m1 e1, .fin n2 m2 e2 => .fin (n1 != n2) (m1 * m2) (e1 + e2)

/-- A quotient rounded once into a format. -/
def fpQuot (rnd : Rnd) (f : FpFmt) (a b : Val) : Nat :=
  match a, b with
  | .nan, _ => f.nan
  | _, .nan => f.nan
  | .inf _, .inf _ => f.nan
  | .inf x, .fin n _ _ => f.inf (x != n)
  | .fin n _ _, .inf y => f.zero (n != y)
  | .fin n1 m1 e1, .fin n2 m2 e2 =>
    let neg := n1 != n2
    if m2 = 0 then (if m1 = 0 then f.nan else f.inf neg)
    else if m1 = 0 then f.zero neg
    else
      let k := 2 * f.m + 8 + Nat.log2 m2
      let q := m1 * 2 ^ k / m2
      encodeFinS rnd f neg (2 * q + (if m1 * 2 ^ k % m2 = 0 then 0 else 1)) (e1 - e2 - k - 1) false

/-- A code's value, added, multiplied or divided with one rounding (R37). -/
def fpAdd (f : FpFmt) (a b : Nat) : Nat := encodeFp f (valAdd (fpVal f a) (fpVal f b))
def fpSub (f : FpFmt) (a b : Nat) : Nat := encodeFp f (valAdd (fpVal f a) (valNeg (fpVal f b)))
def fpMul (f : FpFmt) (a b : Nat) : Nat := encodeFp f (valMul (fpVal f a) (fpVal f b))
def fpDiv (f : FpFmt) (a b : Nat) : Nat := fpQuot .rne f (fpVal f a) (fpVal f b)

/-- d + a × b with one rounding (R37). -/
def fpFma (f : FpFmt) (d a b : Nat) : Nat :=
  encodeFp f (valAdd (fpVal f d) (valMul (fpVal f a) (fpVal f b)))

/-- a × b − d with one rounding (R293). -/
def fpFms (f : FpFmt) (d a b : Nat) : Nat :=
  encodeFp f (valAdd (valMul (fpVal f a) (fpVal f b)) (valNeg (fpVal f d)))

/-- A value's order against another: less, equal, greater; none with a NaN. Zeros are equal. -/
def valCmp : Val → Val → Option Ordering
  | .nan, _ => none
  | _, .nan => none
  | .inf a, .inf b => some (if a = b then .eq else if a then .lt else .gt)
  | .inf a, .fin .. => some (if a then .lt else .gt)
  | .fin .., .inf b => some (if b then .gt else .lt)
  | .fin n1 m1 e1, .fin n2 m2 e2 =>
    let e := min e1 e2
    let a : Int := (if n1 then -1 else 1) * (m1 * 2 ^ (e1 - e).toNat : Nat)
    let b : Int := (if n2 then -1 else 1) * (m2 * 2 ^ (e2 - e).toNat : Nat)
    some (compare a b)

/-- The sign bit of a code. -/
def fpSign (f : FpFmt) (c : Nat) : Bool := c / 2 ^ (f.e + f.m) % 2 == 1

/-- The code is a NaN. -/
def fpIsNan (f : FpFmt) (c : Nat) : Bool := fpVal f c == .nan

/-- `a` is below `b`, −0 below +0; no operand is a NaN. -/
def fpBelow (f : FpFmt) (a b : Nat) : Bool :=
  match valCmp (fpVal f a) (fpVal f b) with
  | some .lt => true
  | some .eq => fpSign f a && !fpSign f b
  | _ => false

/-- FMIN (R37). -/
def fpMin (f : FpFmt) (a b : Nat) : Nat :=
  let a := a % 2 ^ f.width
  let b := b % 2 ^ f.width
  if fpIsNan f a then (if fpIsNan f b then f.nan else b)
  else if fpIsNan f b then a else if fpBelow f b a then b else a

/-- FMAX (R37). -/
def fpMax (f : FpFmt) (a b : Nat) : Nat :=
  let a := a % 2 ^ f.width
  let b := b % 2 ^ f.width
  if fpIsNan f a then (if fpIsNan f b then f.nan else b)
  else if fpIsNan f b then a else if fpBelow f a b then b else a

/-- The integer square root by bits: `fuel` bits of the root from the top. -/
def isqrtAux (n : Nat) : Nat → Nat → Nat
  | 0, r => r
  | k + 1, r => let r' := r + 2 ^ k; isqrtAux n k (if r' * r' ≤ n then r' else r)

/-- The integer square root. -/
def isqrt (n : Nat) : Nat := isqrtAux n (Nat.log2 n / 2 + 1) 0

/-- Correctly rounded square root (R37). -/
def fpSqrt (f : FpFmt) (a : Nat) : Nat :=
  match fpVal f a with
  | .nan => f.nan
  | .inf neg => if neg then f.nan else f.inf false
  | .fin neg m e =>
    if m = 0 then f.zero neg
    else if neg then f.nan
    else
      let k := 2 * f.m + 8
      let odd := e % 2 = 1
      let m' := (if odd then 2 * m else m) * 2 ^ (2 * k)
      let e' := (if odd then e - 1 else e) / 2 - k
      let r := isqrt m'
      encodeFinS .rne f false (2 * r + (if r * r = m' then 0 else 1)) (e' - 1) false

/-- An integer as a value. -/
def valOfInt (v : Int) : Val := .fin (decide (v < 0)) v.natAbs 0

/-- A finite value rounded to an integer. -/
def finToInt (rnd : Rnd) (neg : Bool) (m : Nat) (e : Int) : Int :=
  let mag : Nat :=
    if 0 ≤ e then m * 2 ^ e.toNat
    else
      let k := (-e).toNat
      let q := m / 2 ^ k
      if roundsUp rnd q (m % 2 ^ k) (2 ^ k) false then q + 1 else q
  if neg then -(mag : Int) else mag

/-- A value rounded to an integer and saturated to a range; NaN gives 0 (R37, R294). -/
def valToInt (rnd : Rnd) (lo hi : Int) : Val → Int
  | .nan => 0
  | .inf neg => if neg then lo else hi
  | .fin neg m e => max lo (min hi (finToInt rnd neg m e))

end Sys2Proof.Machine
end

