-- ==== Sys2Proof/Machine/Atomics.lean ====
section
/-! DEFINITION. The operation of an atomic on a memory word (R244, R246, R256). -/

namespace Sys2Proof.Machine

/-- A number of `n` bits read as signed. -/
def signed (n v : Nat) : Int := if 2 ^ n ≤ 2 * v then (v : Int) - 2 ^ n else v

/-- The new value of the addressed `n`-bit word (R244). -/
def atomNew (op : AtomOp) (w : Bool) (old val cmp : Nat) : Nat :=
  let n := if w then 32 else 64
  let b := val % 2 ^ n
  match op with
  | .add => (old + b) % 2 ^ n
  | .and => old &&& b
  | .or => old ||| b
  | .xor => old ^^^ b
  | .min => if signed n b < signed n old then b else old
  | .max => if signed n old < signed n b then b else old
  | .minu => Nat.min old b
  | .maxu => Nat.max old b
  | .swp => b
  | .cas => if old = cmp % 2 ^ n then b else old
  | .fadd => fpAdd (if w then fp32 else fp64) old b
  | .fmin => fpMin (if w then fp32 else fp64) old b
  | .fmax => fpMax (if w then fp32 else fp64) old b

/-- The register value that a result-returning atomic gives (R245). -/
def atomConv (op : AtomOp) (w : Bool) : Conv :=
  match op with
  | .fadd => .zx (if w then 32 else 64)
  | .fmin => .zx (if w then 32 else 64)
  | .fmax => .zx (if w then 32 else 64)
  | _ => .sx (if w then 32 else 64)

/-- An atomic on a memory: the old value, and the bytes that it writes. -/
def atomBytes (m : List Host.Cell) (sa : Nat) (op : AtomOp) (w : Bool) (val cmp : Word) : Nat × List Byte :=
  let n := if w then 4 else 8
  let old := leNat (memReads m sa n)
  (old, leBytes n (atomNew op w old val.toNat cmp.toNat))

/-- A join decrement, saturating at 0 (R256). -/
def jdecBytes (m : List Host.Cell) (sa : Nat) : List Byte := leBytes 8 (leNat (memReads m sa 8) - 1)

end Sys2Proof.Machine
end

