-- ==== Sys2Proof/Machine/Translate.lean ====
section
/-! DEFINITION. Address classes, translation and the checks of an address (R102, R185 to R207), and
instruction fetch (R41, R45, R228). -/

namespace Sys2Proof.Machine

/-- Permission bits an access needs. -/
def needR : Nat := 1
def needW : Nat := 2
def needX : Nat := 4
def needRW : Nat := 3

/-- The fault codes of R42 and R110. -/
def cIllegal : Nat := 0x01
def cExdata : Nat := 0x02
def cCsrReserved : Nat := 0x03
def cNoncanonical : Nat := 0x04
def cNomap : Nat := 0x05
def cScratchDenied : Nat := 0x06
def cLockmiss : Nat := 0x07
def cMisalign : Nat := 0x08
def cPeerAbsent : Nat := 0x09
def cPeerDisabled : Nat := 0x0A
def cPeerDenied : Nat := 0x0B
def cPerm : Nat := 0x0C
def cMigrateBusy : Nat := 0x0D
def cPoison : Nat := 0x1D

/-- A line of the bytes is poisoned (R151). -/
def poisonHit (s : State) (sa n : Nat) : Bool := (linesOf sa n).any (fun l => s.poisoned.contains l)

/-- VA bits 63:57 equal bit 56 (R102). -/
def canonical (va : Word) : Bool :=
  let top := va.toNat / 2 ^ 56
  top == 0 || top == 255

/-- The first address of the quarter aperture (R185). -/
def quarterBase : Nat := 0xFFFFFFFFFE000000

/-- A VA of the local or quarter aperture (R185). -/
def inAperture (va : Word) : Bool := decide (quarterBase ≤ va.toNat)

/-- The core index in an aperture VA; 255 is the local aperture (R185). -/
def apertureIndex (va : Word) : Nat := va.toNat / 2 ^ 17 % 256

/-- The core whose slice an aperture VA names, as seen from an aperture core (R186). -/
def apertureCore (apCore : Nat) (va : Word) : Nat :=
  if apertureIndex va = 255 then apCore else apCore / 256 * 256 + apertureIndex va

/-- Bytes of a slice that lie in granted spans (R113, R187). -/
def spansCover (spans : List Span) (core off n : Nat) : Bool :=
  (List.range n).all (fun i =>
    spans.any (fun sp => sp.core == core && decide (sp.off ≤ off + i) && decide (off + i < sp.off + sp.len)))

/-- The HBM and tier-2 bytes of a grant, which are its CLASS 0 offsets but for shared text (R201). -/
def Ctx.class0 (x : Ctx) : Nat := 4096 * (x.hbm.length + x.tier2.length)

/-- Stage 2 (R201): the system address of a context-physical address of the own device, with the number of
its page and whether the page is resident; none where the offset lies outside the grants. -/
def Ctx.stage2 (x : Ctx) (peer : Nat) (ctxNo : Nat) (ca : Nat) : Option (Nat × Nat × Bool) :=
  let off := saOff ca
  let n := off / 4096
  match saKind ca with
  | 0 =>
    match x.hbm[n]? with
    | some pg => some (pg.sa + off % 4096, n, pg.where_ == .hbm)
    | none =>
      match (x.tier2 ++ x.shared)[n - x.hbm.length]? with
      | some sa => some (sa + off % 4096, n, true)
      | none => none
  | 3 => if spansCover x.spans (scratchCore off) (off % 2 ^ 17) 1 && decide (off < 2 ^ 30)
      then some (mkSa peer 3 off, n, true) else none
  | 5 => some (ctxNo * 2 ^ 64 + mkSa peer 5 off, n, true)
  | 6 => if off < 4096 then some (mkSa peer 6 off, n, true) else none
  | _ => none

/-! ## Members (R184) -/

/-- The member of a warrant on another peer (R184): the context that the same root serial has built there. A child's
context has none, and of two that a counted serial has built the first listed is the member. DESIGN CHOICE: log entry 106. -/
def member (s : State) (c : CtxId) (peer : Nat) : Option CtxId :=
  if peer = c.peer then some c else
  match s.ctx c with
  | none => none
  | some x =>
    if x.parent.isSome then none else
    (s.ctxs.find? (fun e => e.1.peer == peer && e.2.parent.isNone && e.2.rootSerial == x.rootSerial
      && e.2.key == x.key)).map (·.1)

/-- The system address that a context-physical address reaches, under the stage 2 of the target's member; none
where the member refuses it (R201). DEDUCED: log entry 83. -/
def resolve (s : State) (c : CtxId) (ca : Nat) : Option (Nat × Bool) :=
  match member s c (saPeer ca) with
  | none => none
  | some m =>
    match s.ctx m with
    | none => none
    | some x => (x.stage2 m.peer m.id ca).map (fun r => (r.1, r.2.2))

/-! ## Range and page tables (R198 to R200) -/

/-- A number read from committed memory through stage 2, for a walker; none outside the grants. One on a page that is not
resident is read where the page lies. DESIGN CHOICE: log entry 107. -/
def walkRead (s : State) (c : CtxId) (x : Ctx) (ca n : Nat) : Option Nat :=
  if saPeer ca = c.peer then (x.stage2 c.peer c.id ca).map (fun r => leNat (s.reads r.1 n)) else none

/-- An attribute word's fields are legal (R199). -/
def attrOk (attr : Nat) : Bool := attr / 2 ^ 15 == 0 && attr / 512 % 4 != 3 && decide (attr / 16 % 16 < 2)

/-- The entries of a range table from number `i` on, in order, without what RES says; none where the table is malformed
(R199). -/
def rangeEntries (s : State) (c : CtxId) (x : Ctx) (table : Nat) : Nat → Nat → Nat → Option (List Range)
  | 0, _, _ => some []
  | n + 1, i, lo =>
    let e := table + 0x20 + 32 * i
    match walkRead s c x e 8, walkRead s c x (e + 8) 8, walkRead s c x (e + 16) 8, walkRead s c x (e + 24) 8 with
    | some base, some len, some target, some attr =>
      if attr % 2 = 0 then rangeEntries s c x table n (i + 1) lo
      else if attrOk attr && canonical (BitVec.ofNat 64 base) && base % 4096 == 0 && len % 4096 == 0
          && decide (4096 ≤ len) && decide (len ≤ 2 ^ 46) && target % 4096 == 0 && decide (lo ≤ base) then
        match rangeEntries s c x table n (i + 1) (base + len) with
        | some rest => some (⟨base, len, target, attr - attr / 2048 % 4 * 2048⟩ :: rest)
        | none => none
      else none
    | _, _, _, _ => none

/-- The header and entries of the context's range table: page-table root and entries (R198). -/
def rangeTable (s : State) (c : CtxId) (x : Ctx) : Option (Nat × List Range) :=
  let table := x.rtbase.toNat
  if table = 0 then some (0, []) else
  match walkRead s c x table 8, walkRead s c x (table + 8) 4, walkRead s c x (table + 12) 8,
      walkRead s c x (table + 20) 8, walkRead s c x (table + 28) 4 with
  | some root, some n, some 0, some 0, some 0 =>
    if root % 4096 = 0 ∧ n ≤ 16383 then (rangeEntries s c x table n 0 0).map (fun es => (root, es)) else none
  | _, _, _, _, _ => none

/-- One level of the page table (R200): the address field of a valid entry. -/
def pageEntry (s : State) (c : CtxId) (x : Ctx) (table idx : Nat) : Option Nat :=
  match walkRead s c x (table + 8 * idx) 8 with
  | some e => if e % 2 = 1 ∧ e / 2 ^ 52 = 0 then some e else none
  | none => none

/-- The levels above the leaf, by their index shifts. -/
def pageWalk (s : State) (c : CtxId) (x : Ctx) (va : Nat) : List Nat → Nat → Option Nat
  | [], table => some table
  | sh :: rest, table =>
    match pageEntry s c x table (va / 2 ^ sh % 512) with
    | some e => if e / 2 % 2048 = 0 then pageWalk s c x va rest (mkSa c.peer 0 (e / 4096 * 4096)) else none
    | none => none

/-- The page-table walk of a VA, as a range of one page (R200). -/
def pageRange (s : State) (c : CtxId) (x : Ctx) (root : Nat) (va : Word) : Option Range :=
  let top := va.toNat / 2 ^ 47
  if root = 0 ∨ (top ≠ 0 ∧ top ≠ 2 ^ 17 - 1) then none else
  match pageWalk s c x va.toNat [39, 30, 21] root with
  | none => none
  | some table =>
    match pageEntry s c x table (va.toNat / 4096 % 512) with
    | some e =>
      if e / 1024 % 4 = 0 ∧ e / 128 % 4 ≠ 3 then
        some ⟨va.toNat / 4096 * 4096, 4096, mkSa c.peer 0 (e / 4096 * 4096),
          1 + (e / 2 % 8) * 2 + (e / 16 % 2) * 256 + (e / 128 % 4) * 512 + (e / 512 % 2) * 16384⟩
      else none
    | none => none

/-- A walker's read meets a poisoned line (R151). -/
def walkHit (s : State) (c : CtxId) (x : Ctx) (ca n : Nat) : Bool :=
  saPeer ca == c.peer && (x.stage2 c.peer c.id ca).any (fun r => poisonHit s r.1 n)

/-- The range table, header or entries, has a poisoned line. -/
def rangesHit (s : State) (c : CtxId) (x : Ctx) : Bool :=
  let table := x.rtbase.toNat
  table != 0 && (walkHit s c x table 32
    || (List.range (min 16383 ((walkRead s c x (table + 8) 4).getD 0))).any (fun i => walkHit s c x (table + 0x20 + 32 * i) 32))

/-- The page-table entries of a VA: one of them, as far as the walk goes, has a poisoned line. -/
def pagesHit (s : State) (c : CtxId) (x : Ctx) (va : Nat) : List Nat → Nat → Bool
  | [], _ => false
  | sh :: rest, table =>
    let idx := va / 2 ^ sh % 512
    walkHit s c x (table + 8 * idx) 8 || (match pageEntry s c x table idx with
      | some e => pagesHit s c x va rest (mkSa c.peer 0 (e / 4096 * 4096))
      | none => false)

/-- A range covers a VA. -/
def Range.covers (r : Range) (va : Word) : Bool := decide (r.base ≤ va.toNat) && decide (va.toNat < r.base + r.len)

/-- A walk reads a poisoned line (R151). -/
def walkPoison (s : State) (c : CtxId) (x : Ctx) (va : Word) : Bool :=
  !s.poisoned.isEmpty && (rangesHit s c x || (match rangeTable s c x with
    | some (root, es) => root != 0 && !es.any (fun r => r.covers va) && pagesHit s c x va.toNat [39, 30, 21, 12] root
    | none => false))

/-- A walk (R202): the entry of the range table that covers the VA, else of the page table; none where a line of them is poisoned
(R151). DESIGN CHOICE: log entry 15. -/
def walk (s : State) (c : CtxId) (x : Ctx) (va : Word) : Option Range :=
  if walkPoison s c x va then none else
  match rangeTable s c x with
  | none => none
  | some (root, es) =>
    match es.find? (fun r => r.covers va) with
    | some r => some r
    | none => pageRange s c x root va

/-! ## Cached translations (R12, R202, R203) -/

/-- The entries that the device has cached for a context and that cover a VA: in the range TLBs of its cores and in the
second-level caches of its quarters. -/
def State.cached (s : State) (c : CtxId) (va : Word) : List Range :=
  ((s.cores.filter (fun (e : CoreId × Core) => e.1.peer == c.peer)).flatMap (fun (e : CoreId × Core) =>
      (e.2.tlb.filter (fun q => q.ctx == c.id)).map (·.range))
    ++ ((s.dev c.peer).rcache.flatMap (fun e => e.2.filter (fun q => q.1 == c.id))).map (·.2)).filter (fun r => r.covers va)

/-- The entry that a translation uses (R202, R203): the table's, or until a TFENCE any older one that is cached,
independently for each access. DESIGN CHOICE: log entry 15. -/
def translate (s : State) (c : CtxId) (x : Ctx) (va : Word) : Option Range :=
  let new := walk s c x va
  let old := (s.cached c va).filter (fun r => some r != new)
  if old.isEmpty then new
  else ((new :: old.map some)[Config.cachedEntry s.draws % (old.length + 1)]?).getD new

/-- An entry joins a core's range TLB, of 8 data and 4 instruction entries; the oldest gives way (R202). DESIGN CHOICE:
log entry 15. -/
def Core.cache (k : Core) (e : TlbEntry) : Core :=
  let rest := k.tlb.filter (fun q => q != e)
  { k with tlb := e :: ((rest.filter (fun q => q.instr == e.instr)).take (if e.instr then 3 else 7)
      ++ rest.filter (fun q => q.instr != e.instr)) }

/-- An entry joins a quarter's second-level cache of 512; the oldest gives way (R12, R202). DESIGN CHOICE: log entry 15. -/
def Device.cacheRange (d : Device) (qtr ctx : Nat) (r : Range) : Device :=
  let l := mgetD d.rcache qtr []
  { d with rcache := mset d.rcache qtr (((ctx, r) :: l.filter (fun q => q != (ctx, r))).take 512) }

/-- A walk has found an entry: the quarter's cache and the TLB of the core hold it, for the slot that waited (R202). -/
def cacheFor (s : State) (p : Place) (ctx : Nat) (instr : Bool) (r : Range) : State :=
  let s := s.updCore (coreOf p) (fun k => k.cache ⟨p.slot, ctx, instr, r⟩)
  s.setDev p.peer ((s.dev p.peer).cacheRange (4 * coreDist p.core + coreQtr p.core) ctx r)

/-- No cached entry of a context is left on its device (R203, R250). -/
def dropCached (s : State) (c : CtxId) : State :=
  let drop (e : CoreId × Core) : CoreId × Core :=
    if e.1.peer = c.peer then (e.1, { e.2 with tlb := e.2.tlb.filter (fun q => q.ctx != c.id) }) else e
  let s := { s with cores := s.cores.map drop }
  let d := s.dev c.peer
  s.setDev c.peer { d with rcache := d.rcache.map (fun e => (e.1, e.2.filter (fun q => q.1 != c.id))) }

/-! ## The checks of an address -/

/-- The image's own mapping (R44, R120): text execute-only, data read-write, whatever RTBASE holds. DEDUCED: log entry 6. -/
def imageRange (c : CtxId) (x : Ctx) (va : Word) : Option Range :=
  let data : Range := ⟨x.dataVA, roundUp x.dataLen 4096, mkSa c.peer 0 x.dataOff, 7⟩
  let text : Range := ⟨x.text.va, roundUp (4 * x.text.words) 4096, mkSa c.peer 0 x.textOff, 9⟩
  if text.covers va then some text else if data.covers va then some data else none

/-- A permission mask (R, W, X as bits 0 to 2) is granted by an attribute word. -/
def permits (attr need : Nat) : Bool := (attr / 2 % 8) &&& need == need

/-- Reachability of another peer (R207), in order. -/
def peerCheck (s : State) (own : Nat) (x : Ctx) (peer : Nat) : Option Nat :=
  let d := s.dev own
  if !d.peersSeen.contains peer then some cPeerAbsent
  else if !d.peersUp.contains peer then some cPeerDisabled
  else if x.mask / 2 ^ peer % 2 = 0 then some cPeerDenied
  else none

/-- The offset lies in another member's grants, as this device knows them (R201). DEDUCED: log entry 58. -/
def remoteGranted (x : Ctx) (ca n : Nat) : Bool :=
  match mget x.extents (saPeer ca) with
  | none => false
  | some (bytes, spans) =>
    match saKind ca with
    | 0 => decide (saOff ca + n ≤ bytes)
    | 3 => decide (saOff ca < 2 ^ 30) && spansCover spans (scratchCore (saOff ca)) (saOff ca % 2 ^ 17) n
    | 5 => true
    | 6 => decide (saOff ca + n ≤ 4096)
    | _ => false

/-- The place lies in the spill extension of a kernel of some member of the context's warrant, which only the heap may write
(R362). -/
def inSpill (s : State) (c : CtxId) (ca size : Nat) : Bool :=
  s.ctxs.any (fun e => e.2.kernels.any (fun k => k.spillAt.any (fun r => decide (r.1 < ca + size) && decide (ca < r.1 + r.2)))
    && member s c e.1.peer == some e.1)

/-- The page is one of the text that a split has shared with a context that lives, which is never written (R112).
DEDUCED: log entry 105. -/
def sharedText (s : State) (c : CtxId) (ca : Nat) : Bool :=
  saKind ca == 0 && (match resolve s c ca with
    | some (sa, _) => s.ctxs.any (fun e => e.2.shared.contains (sa / 4096 * 4096))
    | none => false)

/-- An access of a stage-1 entry lacks a permission (R102 step 4): the entry does not grant it, or it writes a spill
extension (R362), a device window (R101, R188) or text that is shared with a child, or a child reads the text that it shares, which
is execute-only (R112). -/
def lacks (s : State) (c : CtxId) (x : Ctx) (r : Range) (ca size need : Nat) : Bool :=
  !permits r.attr need || (need &&& needW != 0 && (inSpill s c ca size || saKind ca == 6 || sharedText s c ca))
    || (saPeer ca == c.peer && saKind ca == 0 && need &&& needRW != 0 && decide (x.class0 ≤ saOff ca))

/-- A CLASS that stage 1 may yield (R201). -/
def classOk (ca : Nat) : Bool := ([0, 3, 5, 6] : List Nat).contains (saKind ca)

/-- From a stage-1 entry to the place of an access (R102 steps 4 to 6, R201, R204): NOMAP of a CLASS, and on the own device of an
offset, comes before PERM, and an offset of another peer is looked at last. -/
def lookRange (s : State) (c : CtxId) (x : Ctx) (r : Range) (va : Word) (size need : Nat) : Look :=
  let ca := r.target + (va.toNat - r.base)
  let aff := r.attr / 256 % 2 == 1
  let unc := r.attr / 16 % 16 == 1
  if saPeer ca ≠ c.peer then
    if !classOk ca then .fault ⟨cNomap, va⟩
    else if lacks s c x r ca size need then .fault ⟨cPerm, va⟩ else
    match peerCheck s c.peer x (saPeer ca) with
    | some code => .fault ⟨code, va⟩
    | none => if remoteGranted x ca size then .ok ⟨ca, none, aff, unc⟩ else .fault ⟨cNomap, va⟩
  else
    match x.stage2 c.peer c.id ca with
    | none => .fault ⟨cNomap, va⟩
    | some (sa, page, resident) =>
      if lacks s c x r ca size need then .fault ⟨cPerm, va⟩
      else if resident then .ok ⟨ca, some sa, aff, unc⟩ else .absent page

/-- The checks of R102 on an access, after those of R41: `align` is the alignment it needs. -/
def look (s : State) (c : CtxId) (apCore : Nat) (locks : List Lock) (va : Word) (size align need : Nat) : Look :=
  match s.ctx c with
  | none => .fault ⟨cNomap, va⟩
  | some x =>
    if !canonical va then .fault ⟨cNoncanonical, va⟩
    else if va.toNat % align ≠ 0 then .fault ⟨cMisalign, va⟩
    else if inAperture va then
      let idx := apertureIndex va
      if 192 ≤ idx ∧ idx < 255 then .fault ⟨cNomap, va⟩ else
      let core := apertureCore apCore va
      if spansCover x.spans core (va.toNat % 2 ^ 17) size then
        let sa := scratchSa c.peer core (va.toNat % 2 ^ 17)
        .ok ⟨sa, some sa, false, false⟩
      else .fault ⟨cScratchDenied, va⟩
    else
      match locks.find? (fun k => k.range.covers va) with
      | some k => if k.dropped then .fault ⟨cLockmiss, va⟩ else lookRange s c x k.range va size need
      | none =>
        match imageRange c x va with
        | some r => lookRange s c x r va size need
        | none =>
          match translate s c x va with
          | some r => lookRange s c x r va size need
          | none => .fault ⟨if walkPoison s c x va then cPoison else cNomap, va⟩

/-- The checks for a thread's access. -/
def lookT (s : State) (p : Place) (t : Thread) (va : Word) (size align need : Nat) : Look :=
  look s (t.ctxId p) t.apCore t.locks va size align need

/-- The checks of a stretch of bytes in pieces of at most 32 bytes that cross no page: the first piece that
fails decides. Only `fuel` pieces are looked at. -/
def lookSpan (s : State) (c : CtxId) (apCore : Nat) (locks : List Lock) (need : Nat) : Nat → Word → Nat → Option Look
  | 0, _, _ => none
  | fuel + 1, va, n =>
    if n = 0 then none else
    let k := min n (32 - va.toNat % 32)
    match look s c apCore locks va k 1 need with
    | .ok _ => lookSpan s c apCore locks need fuel (va + BitVec.ofNat 64 k) (n - k)
    | r => some r

/-- A local line: homed in the district of the running core (R210). -/
def localSa (core : Nat) (l : Loc) : Option Nat :=
  match l.sa with
  | some sa => if homeDist sa = some (coreDist core) then some sa else none
  | none => none

/-! ## Instruction fetch -/

/-- The word of a text at an address. -/
def textWord (s : State) (x : Text) (va : Nat) : Option Nat :=
  match x.pages[(va - x.va) / 4096]? with
  | some sa => some (leNat (s.reads (sa + (va - x.va) % 4096) 4))
  | none => none

/-- The line of a text's word is poisoned (R151). -/
def textHit (s : State) (x : Text) (va : Nat) : Bool :=
  (x.pages[(va - x.va) / 4096]?).any (fun sa => poisonHit s (sa + (va - x.va) % 4096) 4)

/-- A text covers a word's address. -/
def Text.has (x : Text) (va : Nat) : Bool := decide (x.va ≤ va) && decide (va < x.va + 4 * x.words)

/-- A text word is marked pool (R45). -/
def Text.isPool (x : Text) (va : Nat) : Bool :=
  let i := (va - x.va) / 4
  (x.pool[i / 8]?.getD 0).toNat / 2 ^ (i % 8) % 2 == 1

/-- The versions of the text that a slot may fetch at an address (R228): the current one, and those replaced
since its last IFENCE. DESIGN CHOICE: log entry 12. -/
def versionsAt (x : Ctx) (seen va : Nat) : List Text :=
  (x.text :: x.oldTexts.filter (fun t => decide (seen ≤ t.version))).filter (fun t => t.has va)

/-- Fetch of one word (R41 steps 1 and 2, R185, R228): a word, or a fault, or a page to wait for. DESIGN CHOICE: log entry 12.
DESIGN CHOICE: log entry 95, a PC that is no multiple of 4, for which the spec gives no check: inside the text the four bytes
at it are the word; outside, the translated fetch faults MISALIGN. -/
def fetch (s : State) (c : CtxId) (locks : List Lock) (seen : Nat) (va : Word) : Nat ⊕ Look :=
  match s.ctx c with
  | none => .inr (.fault ⟨cNomap, va⟩)
  | some x =>
    if !canonical va then .inr (.fault ⟨cNoncanonical, va⟩)
    else if inAperture va then .inr (.fault ⟨cPerm, va⟩)
    else
      match versionsAt x seen va.toNat with
      | [] =>
        match look s c 0 locks va 4 4 needX with
        | .ok l =>
          match l.sa with
          | some sa => if poisonHit s sa 4 then .inr (.fault ⟨cPoison, va⟩) else .inl (leNat (s.reads sa 4))
          | none => .inr (.fault ⟨cPerm, va⟩)
        | r => .inr r
      | v :: vs =>
        let tx := if vs.isEmpty then v else ((v :: vs)[Config.fetchVersion s.draws % (vs.length + 1)]?).getD v
        let page := tx.pages[(va.toNat - tx.va) / 4096]?.getD 0
        if tx.isPool va.toNat then .inr (.fault ⟨cExdata, va⟩)
        else
          match x.hbm.findIdx? (fun pg => pg.sa == page && pg.where_ != .hbm) with
          | some n => .inr (.absent n)
          | none =>
          if textHit s tx va.toNat then .inr (.fault ⟨cPoison, va⟩) else
          match textWord s tx va.toNat with
          | some w => .inl w
          | none => .inr (.fault ⟨cNomap, va⟩)

/-- A word of the context's text that is not a pool word, 4-byte aligned (R167, R372, R374). -/
def Ctx.isCode (x : Ctx) (va : Word) : Bool :=
  va.toNat % 4 == 0 && x.text.has va.toNat && !x.text.isPool va.toNat

end Sys2Proof.Machine
end

