-- ==== Sys2Proof/Machine/Network.lean ====
section
/-! DEFINITION. Packets on the mesh and the fabric: routes, streams, holds and slack (R13, R182, R183, R208,
R210, R221 to R224, R229 to R235). -/

namespace Sys2Proof.Machine

/-- The districts a packet passes from `d` to `e`, the row first, then the column (R13), both ends included. -/
def meshRoute (d e : Nat) : List Nat :=
  let row := d / 4
  let c0 := d % 4
  let c1 := e % 4
  let along := if c0 ≤ c1 then (List.range (c1 - c0 + 1)).map (· + c0)
    else (List.range (c0 - c1 + 1)).map (fun i => c0 - i)
  let first := along.map (fun c => row * 4 + c)
  if e / 4 = row then first else first ++ [e]

/-- The crossing queues of a route on one device (R13). DEDUCED: log entry 61. -/
def crossings (peer d e : Nat) : List XQ := (meshRoute d e).map (fun x => .crossing peer x)

/-- The limiter site of a memory address: 16 HBM stacks, 8 module controllers, 4 CXL ports (R364); the stack
within a district is the upper or lower half of its bytes. DESIGN CHOICE: log entry 35. -/
def memSite (sa : Nat) : Option Nat :=
  match saKind sa with
  | 0 => some (2 * (saOff sa / 2 ^ 39 % 8) + (if 48 * 2 ^ 30 ≤ saOff sa % 2 ^ 39 then 1 else 0))
  | 1 => some (16 + saOff sa / 4096 % 8)
  | 2 => some (24 + saOff sa / 2 ^ 49 % 4)
  | _ => none

/-- The limiter site of a fabric plane (R364). -/
def planeSite (plane : Nat) : Nat := 32 + plane

/-- The input queue of a home: a handler's for scratch, a home slice's otherwise; host memory has none. -/
def homeQueue (peer sa : Nat) : List XQ :=
  match saKind sa with
  | 3 => [.handlerIn peer (scratchCore (saOff sa))]
  | 5 => []
  | 6 => []
  | _ => [.homeIn peer ((homeDist sa).getD 0) (homeQtr sa)]

/-- The context whose memory a packet reaches: the member of its own, which is named once that has been surrendered (R183, R184). -/
def Packet.memberOf (s : State) (k : Packet) : Option CtxId := k.target.or (member s k.ctx (saPeer k.ca))

/-- Where the packet's access lies, and whether its page is resident; none where the member refuses it (R201). A host write names a
system address (R220). DEDUCED: log entry 83. -/
def placeOf (s : State) (k : Packet) : Option (Nat × Bool) :=
  match k.body with
  | .hwrite _ => some (k.ca, true)
  | _ => (k.memberOf s).bind (fun m => (s.ctx m).bind (fun x => (x.stage2 m.peer m.id k.ca).map (fun r => (r.1, r.2.2))))

/-- The context whose limiter a shaping queue of a device belongs to: the packet's own, or its member there (R234, R364). -/
def limiterCtx (s : State) (c : CtxId) (peer : Nat) : CtxId := (member s c peer).getD ⟨peer, c.id⟩

/-- The path of a request from a district of the source to the home of an address (R13, R208, R234). DEDUCED: log entry 61. -/
def pathTo (s : State) (c : CtxId) (src : Nat) (plane : Nat) (ca : Nat) : List XQ :=
  let peer := saPeer ca
  let sa := ((resolve s c ca).map (·.1)).getD ca
  let dist := (homeDist sa).getD src
  let last := (match memSite sa with
    | some site => [XQ.shaping peer (limiterCtx s c peer).id site]
    | none => []) ++ homeQueue peer sa
  if peer = c.peer then (if saKind ca = 5 then [] else crossings peer src dist ++ last)
  else
    [.crossing c.peer src, .shaping c.peer c.id (planeSite plane), .fabTx c.peer plane, .fabRx peer plane]
      ++ crossings peer (plane / 2) dist ++ last

/-- The path of a reply or acknowledgement from a district of a device back to the source's district (R13, R208): on the
fabric it leaves on a plane of the district that replies. DEDUCED: log entry 61. DEDUCED: log entry 94. -/
def pathBack (own src plane peer dist : Nat) : List XQ :=
  if peer = own then crossings own dist src
  else .crossing peer dist :: .fabTx peer plane :: .fabRx own plane :: crossings own (plane / 2) src

/-- Plain packets, which a release counts (R182). -/
def Body.plain : Body → Bool
  | .store _ => true
  | .patomic .. => true
  | .jdec => true
  | _ => false

/-- A packet that travels in a stream: stores, releases, posted atomics, decrements and remote atomics. -/
def Body.streamed : Body → Bool
  | .store _ => true
  | .release _ => true
  | .patomic .. => true
  | .jdec => true
  | .ratomic .. => true
  | _ => false

/-- A form whose reply brings a value to a register. -/
def Body.returns : Body → Bool
  | .read .. => true
  | .ratomic .. => true
  | .heap .. => true
  | .queue .. => true
  | .spawn .. => true
  | .fetch .. => true
  | .cread .. => true
  | _ => false

/-- The stream of a packet from a district to an address (R182, R221); none for host memory. -/
def streamKey (s : State) (c : CtxId) (src ca : Nat) : Option StreamKey :=
  if saPeer ca ≠ c.peer then some ⟨true, c.peer, c.peer, saPeer ca, c.id⟩
  else
    match (resolve s c ca).map (fun r => homeDist r.1) with
    | some (some d) => some ⟨false, c.peer, src, d, c.id⟩
    | _ => none

/-! ## Queues (R230, R231, R233) -/

/-- The slack and late bit of a packet behind the full 32-cycle waits that have passed in its queue (R231). -/
def Packet.aged (k : Packet) (now : Nat) : Packet :=
  let n := (now - k.entered) / 32
  { k with slack := k.slack - n, late := k.late || (n != 0 && decide (k.slack ≤ n)), entered := k.entered + 32 * n }

/-- Packets that stand in a queue. -/
def inXQ (s : State) (q : XQ) : List Packet := s.packets.filter (fun k => k.path.head? == some q)

/-- A queue that serves by slack (R230, R233). -/
def servesBySlack : XQ → Bool
  | .window _ => false
  | .source .. => false
  | _ => true

/-- A queue takes a packet: a serving queue holds at most 64 packets of slack 0 (R233). -/
def queueTakes (s : State) (q : XQ) (k : Packet) : Bool :=
  k.slack != 0 || !servesBySlack q
    || decide (((inXQ s q).filter (fun j => (j.aged s.now).slack == 0)).length < 64)

/-- The next queue of a packet takes it; one of slack 0 that it does not take waits in the queue before it (R233). -/
def nextTakes (s : State) (k : Packet) : Bool :=
  match k.path.tail.head? with
  | some q => queueTakes s q k
  | none => true

/-- A packet enters the first queue of its path, or waits before it at the output of a district (R230, R233): its order of
entry and the moment of it are noted. -/
def atQueue (s : State) (k : Packet) (peer dist : Nat) : State × Packet :=
  let (o, s) := s.fresh
  let k := { k with ord := o, entered := s.now }
  match k.path.head? with
  | some q => (s, if queueTakes s q k then k else { k with path := .source peer dist :: k.path })
  | none => (s, k)

/-! ## Streams and sending -/

/-- The plane on which a packet leaves a district for the fabric: one of the district's two, alternating by packet number,
which is the stream's where it travels in one (R208). DEDUCED: log entry 94. -/
def nextPlane (s : State) (peer dist : Nat) (num : Option Nat) : State × Nat :=
  match num with
  | some n => (s, 2 * dist + n % 2)
  | none =>
    let d := s.dev peer
    let n := mgetD d.sentBy dist 0
    (s.setDev peer { d with sentBy := mset d.sentBy dist (n + 1) }, 2 * dist + n % 2)

/-- A packet enters its stream: it takes the next number, and a release the count (R182). -/
def enterStream (s : State) (k : Packet) : State × Packet :=
  match if k.body.streamed then k.stream else none with
  | none => (s, k)
  | some key =>
    let st := mgetD s.streams key StreamSt.reset
    let rel := match k.body with
      | .release _ => true
      | _ => false
    let st' := { st with sent := st.sent + 1,
                         since := if rel then 0 else if k.body.plain then st.since + 1 else st.since,
                         rel := if rel then st.sent + 1 else st.rel }
    ({ s with streams := mset s.streams key st' },
      { k with num := st.sent + 1, count := if rel then st.since else 0, after := st.rel })

/-- Packets of a stream that are numbered and not acknowledged, but for those that wait in its window (R183). -/
def outstanding (s : State) (key : StreamKey) : Nat :=
  (s.packets.filter (fun k => k.stream == some key && k.num != 0 && !k.dup
    && k.path.head? != some (.window key))).length

/-- A full stream window holds a packet back (R183). -/
def windowHolds (s : State) (key : StreamKey) : Bool :=
  key.fabric && (decide (64 ≤ outstanding s key) || !(inXQ s (.window key)).isEmpty)

/-- The route of a packet from its district, when it is sent (R13, R183, R208). -/
def routed (s : State) (k : Packet) : State × Packet :=
  let src := coreDist k.place.core
  let (s, plane) :=
    if saPeer k.ca = k.ctx.peer then (s, 2 * src)
    else nextPlane s k.ctx.peer src (if k.num = 0 then none else some k.num)
  let path := pathTo s k.ctx src plane k.ca
  match k.stream with
  | some key => (s, { k with path := if k.num ≠ 0 ∧ windowHolds s key then .window key :: path else path })
  | none => (s, { k with path := path })

/-- A packet is sent: it takes its number and its route, and stands in its first queue. -/
def launchPacket (s : State) (k : Packet) : State :=
  let (s, k) := enterStream s k
  let (s, k) := routed s k
  let (s, k) := atQueue s k k.place.peer (coreDist k.place.core)
  { s with packets := s.packets ++ [{ k with phase := if k.path.isEmpty then .arrived else .request }] }

/-- A packet leaves its slot, in sending order: it is held where it is an STL.G with earlier packets of the
slot unacknowledged, or where an earlier packet of the slot is held (R224). -/
def sendPacket (s : State) (k : Packet) : State :=
  let mine := s.packets.filter (fun q => q.uid == k.uid && q.body.streamed)
  let hold := mine.any (fun q => q.phase == .held) || (k.global && mine.any (fun q => q.stream.isSome))
  if hold && k.body.streamed then { s with packets := s.packets ++ [{ k with phase := .held }] }
  else launchPacket s k

/-- A new packet of the thread in a place for a context-physical address; its route is chosen when it is sent. -/
def mkPacket (s : State) (p : Place) (t : Thread) (ca : Nat) (body : Body) (global : Bool) (slack : Nat) :
    State × Packet :=
  let c := t.ctxId p
  let (id, s) := s.fresh
  (s, { id := id, body := body, ca := ca, ctx := c, uid := t.uid, place := p,
        stream := streamKey s c (coreDist p.core) ca, num := 0, count := 0, global := global, slack := slack,
        slack0 := slack, late := false, ord := id, entered := s.now, kept := false, seen := t.region.items.length,
        dup := false, path := [], phase := .request, sentAt := none, result := [], va := 0, after := 0 })

/-- A write or atomic that its source performs in its own slice, and that a region holds back, waits in CQ there (R220, R230). -/
def keepPacket (s : State) (k : Packet) : State :=
  { s with packets := s.packets ++ [{ k with stream := none, path := [], phase := .arrived, kept := true }] }

/-- Held packets of a slot are let go while the first is free to go (R224). -/
def releaseHeld (s : State) (uid : Nat) : Nat → State
  | 0 => s
  | fuel + 1 =>
    match s.packets.find? (fun q => q.uid == uid && q.phase == .held) with
    | none => s
    | some k =>
      let busy := s.packets.any (fun q => q.uid == uid && q.stream.isSome && q.body.streamed && q.phase != .held)
      if k.global && busy then s
      else releaseHeld (launchPacket { s with packets := s.packets.filter (fun q => q.id != k.id) } k) uid fuel

/-- A reply leaves its server with what is left of its slack behind the service cycles (R232). -/
def replySlack (slack : Nat) (late : Bool) (service : Nat) : Nat × Bool :=
  let r := slack - service / 32
  (r, late || (decide (0 < slack) && r == 0))

/-- A packet is replaced in its place. -/
def setPacket (s : State) (k : Packet) : State :=
  { s with packets := s.packets.map (fun q => if q.id = k.id then k else q) }

/-- A packet is no longer in flight. -/
def dropPacket (s : State) (id : Nat) : State := { s with packets := s.packets.filter (fun q => q.id != id) }

/-- A packet. -/
def findPacket (s : State) (id : Nat) : Option Packet := s.packets.find? (fun q => q.id == id)

/-- A request of a place that travels on its own device, by a path that is given. -/
def mkRequestTo (s : State) (p : Place) (t : Thread) (body : Body) (path : List XQ) (slack : Nat) : State × Packet :=
  let (id, s) := s.fresh
  atQueue s { id := id, body := body, ca := 0, ctx := t.ctxId p, uid := t.uid, place := p, stream := none, num := 0,
              count := 0, global := false, slack := slack, slack0 := slack, late := false, ord := id, entered := s.now,
              kept := false, seen := 0, dup := false, path := path, phase := .request, sentAt := none, result := [], va := 0,
              after := 0 } p.peer (coreDist p.core)

/-- A request for a quarter's unit of the own device: heaps, queue controllers, stores, barrier tables. -/
def mkRequest (s : State) (p : Place) (t : Thread) (body : Body) (dist qtr : Nat) (slack : Nat) : State × Packet :=
  mkRequestTo s p t body (crossings p.peer (coreDist p.core) dist ++ [.homeIn p.peer dist qtr]) slack

/-- The path of a message that no memory address names, from a district to a district of a device (R13, R196, R208): the
mesh, or a plane, through the limiter of the context whose packet it is. DEDUCED: log entry 94. -/
def pathBetween (own src plane peer dist : Nat) (ctx : Option Nat) : List XQ :=
  if peer = own then crossings own src dist
  else .crossing own src :: ((ctx.map (fun x => XQ.shaping own x (planeSite plane))).toList
    ++ [.fabTx own plane, .fabRx peer plane] ++ crossings peer (plane / 2) dist)

/-- A message without an address leaves for a district (R196, R209). -/
def sendTo (s : State) (p : Place) (c : CtxId) (uid : Nat) (body : Body) (peer dist : Nat) (limited : Bool) (slack : Nat) :
    State :=
  let (id, s) := s.fresh
  let src := coreDist p.core
  let (s, plane) := if peer = p.peer then (s, 2 * src) else nextPlane s p.peer src none
  let (s, k) := atQueue s
    { id := id, body := body, ca := mkSa peer 3 0, ctx := c, uid := uid, place := p, stream := none, num := 0, count := 0,
      global := false, slack := slack, slack0 := slack, late := false, ord := id, entered := s.now, kept := false, seen := 0,
      dup := false, path := pathBetween p.peer src plane peer dist (if limited then some c.id else none), phase := .request,
      sentAt := none, result := [], va := 0, after := 0 } p.peer src
  { s with packets := s.packets ++ [k] }

/-! ## What a slot's own packets have not brought to M yet (R104) -/

/-- The packet has not been performed. -/
def unperformed (s : State) (k : Packet) : Bool :=
  match k.stream with
  | none => k.phase != .reply
  | some key => !(mgetD s.streams key StreamSt.reset).done.contains k.num

end Sys2Proof.Machine
end

