-- ==== Sys2Proof/Machine/Events.lean ====
section
/-! DEFINITION. Events and completion records: a slot's queues and a context's event store (R114, R177, R278). -/

namespace Sys2Proof.Machine

/-- Event codes (R177, R254, R346). -/
def evCompletion : Nat := 0x60
def evChildSurrendered : Nat := 0x61
def evLate : Nat := 0x62
def evVectorFault : Nat := 0x63
def evHandlerFault : Nat := 0x64
def evChildFaulted : Nat := 0x65
def evMatrixFault : Nat := 0x66

/-- General entries in use (R177). -/
def Ctx.generals (x : Ctx) : Nat := (x.store.filter (fun e => !e.reserved)).length

/-- An event takes its place in a thread's queue of 16, or a record in its queue of 32 (R177, R278). -/
def Thread.take (t : Thread) : Event ⊕ Rec → Option Thread
  | .inl e => if t.events.length < 16 then some { t with events := t.events ++ [e] } else none
  | .inr r => if t.records.length < 32 then some { t with records := t.records ++ [r] } else none

/-- Two items that stand in one queue of a slot: both events or both records. -/
def sameQueue : Event ⊕ Rec → Event ⊕ Rec → Bool
  | .inl _, .inl _ => true
  | .inr _, .inr _ => true
  | _, _ => false

/-- An item is the event of a code. -/
def isEvent (code : Nat) : Event ⊕ Rec → Bool
  | .inl e => e.code == code
  | .inr _ => false

/-- The entry of the store that a held item may take (R177): a general one, or for a fault event its slot's reserved one. -/
def Ctx.entryFor (x : Ctx) (e : Stored) : Option Bool :=
  if x.generals < 256 then some false
  else if e.uid.isSome && e.item.isLeft && !x.store.any (fun v => v.reserved && v.uid == e.uid) then some true
  else none

/-- Held items enter the store in the order in which they were refused, as entries are free for them (R177). What
waits for one goes on with EVENT_STORE_ENTRY. -/
def Ctx.admitHeld (x : Ctx) : Ctx :=
  x.held.foldl (fun y e => match y.entryFor e with
    | some res => { y with store := y.store ++ [{ e with reserved := res }] }
    | none => { y with held := y.held ++ [e] }) { x with held := [] }

/-- How an event finds room in the store (R177). -/
inductive StoreClass where
  /-- a program event: dropped and counted without a general entry -/
  | program
  /-- CHILD_SURRENDERED and CHILD_FAULTED: the child's reserved entry -/
  | child
  /-- a fault event: a general entry, else its slot's reserved one, else held, with the command or the handler queue that
  produced it -/
  | fault (cid hq : Option Nat)
  /-- LATE, and COMPLETION: a general entry, else its slot's reserved one, else not posted -/
  | late
  /-- a completion record: a general entry, else held with its command, which is then not complete, or discarded (R278) -/
  | record (cid : Option Nat)
  deriving DecidableEq, Repr

/-- An item enters the context's store, or meets the fate its class gives it without room; held ones enter before it.
DEDUCED: log entry 70. -/
def storeItem (s : State) (c : CtxId) (uid : Option Nat) (item : Event ⊕ Rec) (k : StoreClass) : State :=
  match s.ctx c with
  | none => s
  | some x =>
    let x := x.admitHeld
    let add (res : Bool) := s.setCtx c { x with store := x.store ++ [⟨uid, item, res, none, none⟩] }
    let hold (cid hq : Option Nat) := s.setCtx c { x with held := x.held ++ [⟨uid, item, false, cid, hq⟩] }
    let room := decide (x.generals < 256)
    let slotFree := !x.store.any (fun e => e.reserved && e.uid == uid && e.uid.isSome)
    match k with
    | .child => add true
    | .program =>
      if room then add false
      else s.setCtx c { x with dropped := if x.dropped = 0xFFFFFFFF then x.dropped else x.dropped + 1 }
    | .late => if room then add false else if slotFree then add true else s.setCtx c x
    | .fault cid hq => if room then add false else if slotFree then add true else hold cid hq
    | .record cid => if room then add false else if cid.isSome then hold cid none else s.setCtx c x

/-- A slot that holds records has one COMPLETION event pending (R278): posted to its queue, or in the store where the queue is
full or earlier events wait. -/
def noteRecords (s : State) (c : CtxId) (p : Place) : State :=
  match s.thread p, s.ctx c with
  | some t, some x =>
    let done : Event ⊕ Rec := .inl { code := evCompletion, ctx := t.ctx, exit := 0, seq := s.nextId }
    let waiting := x.store.filter (fun e => e.uid == some t.uid && sameQueue e.item done)
    if t.records.isEmpty || t.events.any (fun e => e.code == evCompletion)
        || waiting.any (fun e => isEvent evCompletion e.item) then s
    else match if waiting.isEmpty then t.take done else none with
      | some t' => s.setThread p t'
      | none => storeItem s c (some t.uid) done .late
  | _, _ => s

/-- Stored items of a context that are addressed to a running thread move to its queues, each queue's in arrival order,
while they find room (R141, R177); freed room lets held items in. -/
def drainStore (s : State) (c : CtxId) (uid : Nat) : Nat → State
  | 0 => s
  | fuel + 1 =>
    match s.ctx c, s.findThread uid with
    | some x, some (p, t) =>
      match x.store.findIdx? (fun e => e.uid == some uid && (t.take e.item).isSome) with
      | none => noteRecords s c p
      | some n =>
        match x.store[n]?.bind (fun e => t.take e.item) with
        | none => s
        | some t' =>
          drainStore ((s.setThread p t').setCtx c ({ x with store := x.store.eraseIdx n } : Ctx).admitHeld) c uid fuel
    | _, _ => s

/-- The context that holds the image of a thread: the one asked about, or a member that the thread had moved to. -/
def imageHolder (s : State) (c : CtxId) (uid : Nat) : Option CtxId :=
  let holds (e : CtxId × Ctx) : Bool := e.2.images.any (fun m => m.thread.uid == uid)
  ((s.ctxs.find? (fun e => e.1 == c && holds e)).or (s.ctxs.find? holds)).map (·.1)

/-- The context of a parent that is parked in a slot. -/
def donorHolder (s : State) (uid : Nat) : Option CtxId :=
  s.donors.findSome? (fun e => (e.2.find? (fun t => t.uid == uid)).map (fun t => t.ctxId e.1))

/-- Where an item for a thread goes (R114, R177): the context whose store it may wait in, and the place of the thread if it
runs. CHILD_SURRENDERED and CHILD_FAULTED follow the thread to another peer. -/
def destination (s : State) (c : CtxId) (uid : Nat) (k : StoreClass) : Option (CtxId × Option Place) :=
  match s.findThread uid with
  | some (p, t) =>
    if t.ctxId p = c then some (c, some p) else if k = .child then some (t.ctxId p, some p) else none
  | none =>
    match s.migs.find? (fun m => m.thread.uid == uid) with
    | some m =>
      if m.dst.peer = c.peer then some (c, none)
      else if k = .child then (member s c m.dst.peer).map (fun d => (d, none)) else none
    | none =>
      match (imageHolder s c uid).or (donorHolder s uid) with
      | some d => if d = c ∨ k = .child then some (d, none) else none
      | none => none

/-- An item with its place in the order of arrival (R148). -/
def stamp (n : Nat) : Event ⊕ Rec → Event ⊕ Rec
  | .inl e => .inl { e with seq := n }
  | .inr r => .inr { r with seq := n }

/-- An item is delivered to a thread of a context, or waits in the store (R177). An item for a retired thread goes
to the store unaddressed, but a program event is dropped. -/
def deliver (s : State) (c : CtxId) (uid : Nat) (item : Event ⊕ Rec) (k : StoreClass) : State :=
  let (n, s) := s.fresh
  let item := stamp n item
  match destination s c uid k with
  | none => if k = .program then s else storeItem s c none item k
  | some (d, none) => storeItem s d (some uid) item k
  | some (d, some p) =>
    let before := (s.ctx d).any (fun x => x.store.any (fun e => e.uid == some uid && sameQueue e.item item))
    match if before then none else (s.thread p).bind (fun t => t.take item) with
    | some t' => noteRecords (s.setThread p t') d p
    | none => storeItem s d (some uid) item k

/-- A dropped program event is counted (R172 item 14, R179). DEDUCED: log entry 70. -/
def countDrop (s : State) (c : CtxId) : State :=
  s.updCtx c (fun x => { x with dropped := if x.dropped = 0xFFFFFFFF then x.dropped else x.dropped + 1 })

/-- A program event is posted at its target word (R179). -/
def postProgram (s : State) (c : CtxId) (target payload : Word) : State :=
  let core := wbits target 10 13
  let slot := wbits target 6 4
  let code := wbits target 0 6
  if wbits target 23 41 ≠ 0 ∨ code = 0 ∨ !coreOk core then countDrop s c
  else
    match s.thread ⟨c.peer, core, slot⟩ with
    | some t =>
      if t.ctx = c.id ∧ slot ≠ 15 then deliver s c t.uid (.inl ⟨code, c.id, payload, 0⟩) .program else countDrop s c
    | none => countDrop s c

/-- A late reply reaches its slot (R232): LATE, LATEQ and, if asked for, a LATE event that is not posted again while
one is pending. -/
def lateReply (s : State) (p : Place) (t : Thread) : State :=
  let c := t.ctxId p
  let t' := { t with lateq := if t.lateq = 0xFFFFFFFF then t.lateq else t.lateq + 1 }
  let s := (s.setThread p t').updCtx c (fun x =>
    { x with lateCnt := if x.lateCnt = 0xFFFFFFFF then x.lateCnt else x.lateCnt + 1 })
  let pending := t.events.any (fun e => e.code == evLate) ||
    (match s.ctx c with
      | some x => x.store.any (fun e => e.uid == some t.uid && isEvent evLate e.item)
      | none => false)
  if t.lateev && !pending then
    deliver s c t.uid (.inl ⟨evLate, c.id, BitVec.ofNat 64 t'.lateq.toNat, 0⟩) .late
  else s

/-- The exit word that the event record shows (R177): for COMPLETION the records held now, for LATE the count.
DEDUCED: log entry 40. -/
def Event.shown (e : Event) (t : Thread) : Word :=
  if e.code = evCompletion then BitVec.ofNat 64 t.records.length
  else if e.code = evLate then BitVec.ofNat 64 t.lateq.toNat else e.exit

/-- The 16-byte event record of EVWAIT (R114). -/
def Event.bytes (e : Event) (exit : Word) : List Byte :=
  leBytes 2 e.code ++ leBytes 2 e.ctx ++ leBytes 4 0 ++ leBytes 8 exit.toNat

/-- The 16-byte completion record (R268). -/
def Rec.bytes (r : Rec) : List Byte :=
  leBytes 8 r.tag.toNat ++ leBytes 2 r.status ++ leBytes 2 0 ++ leBytes 4 r.count

end Sys2Proof.Machine
end

