-- ==== Sys2Proof/Machine/Barriers.lean ====
section
/-! DEFINITION. Barrier arrivals: a core's count of its registered threads, and the flip (R255 to R258, R279 to
R281). -/

namespace Sys2Proof.Machine

/-- The threads of a core that are registered on a barrier of a context (R257). -/
def registered (s : State) (c : CoreId) (ctx bar : Nat) : List (Place × Thread) :=
  s.threads.filter (fun e => e.1.peer == c.peer && e.1.core == c.core && e.2.ctx == ctx
    && e.2.bars.any (fun b => b.1 == bar))

/-- Parents parked in a core's donated slots stay registered (R28, R257): those of a context on a barrier. -/
def parked (s : State) (c : CoreId) (ctx bar : Nat) : List Thread :=
  (s.donors.filter (fun e => e.1.peer == c.peer && e.1.core == c.core)).flatMap (fun e =>
    e.2.filter (fun t => t.ctx == ctx && t.bars.any (fun b => b.1 == bar)))

/-- The quarter whose table holds a barrier, 4 × district + quarter (R255, R279). -/
def barQtr : List (Nat × Nat) → Nat → Nat
  | [], _ => 0
  | (q, n) :: rest, bar => if bar < n then q else barQtr rest (bar - n)

/-- An arrival of some units leaves a place for its barrier's quarter (R279). DEDUCED: log entry 31. -/
def sendArrival (s : State) (p : Place) (t : Thread) (bar units slack : Nat) : State :=
  let q := match s.ctx (t.ctxId p) with
    | some x => barQtr x.barAt bar
    | none => 0
  let (s, k) := mkRequest s p t (.arrival bar units) (q / 4) (q % 4) slack
  { s with packets := s.packets ++ [k] }

/-- A thread's registration entry, changed. -/
def setBar (t : Thread) (bar : Nat) (counted : Bool) (held : List Nat) : Thread :=
  { t with bars := t.bars.map (fun b => if b.1 = bar then (bar, counted, held) else b) }

/-- A thread's registration when its core sends: an arrival it holds is counted as the first of the next count. -/
def Thread.sent (t : Thread) (bar : Nat) : Thread :=
  match t.bars.find? (fun b => b.1 == bar) with
  | some (_, _, h) => setBar t bar (!h.isEmpty) h.tail
  | none => t

/-- The slack of the first arrival that a thread holds at a barrier. -/
def Thread.holds (t : Thread) (bar : Nat) : Option Nat := (t.bars.find? (fun b => b.1 == bar)).bind (fun b => b.2.2.head?)

/-- After a count or a withdrawal, the core sends if its count is at least 1 and equals its registered threads; each
arrival that a thread holds is then counted as the first of the next count (R257), the last of which gives that count its slack
so far (R279). DEDUCED: log entry 31. -/
def coreSends (s : State) (p : Place) (t : Thread) (bar : Nat) : Nat → State
  | 0 => s
  | fuel + 1 =>
    let c := coreOf p
    let k := s.core c
    let (n, slack) := mgetD k.barCounts (t.ctx, bar) (0, 0)
    let regs := registered s c t.ctx bar
    let all := regs.map (·.2) ++ parked s c t.ctx bar
    if n = 0 ∨ n ≠ all.length then s
    else
      let again := all.filterMap (fun u => u.holds bar)
      let s := regs.foldl (fun s e => s.updThread e.1 (fun u => u.sent bar)) s
      let s := { s with donors := s.donors.map (fun (e : Place × List Thread) =>
        if e.1.peer = c.peer ∧ e.1.core = c.core then
          (e.1, e.2.map (fun (u : Thread) => if u.ctx = t.ctx then u.sent bar else u))
        else e) }
      let s := s.setCore c { k with barCounts := mset k.barCounts (t.ctx, bar) (again.length, again.getLast?.getD slack) }
      coreSends (sendArrival s p t bar n slack) p t bar fuel

/-- A bound for the arrivals that a core may send one after another: one, and one for each that a thread holds. -/
def heldBound (s : State) (c : CoreId) (ctx bar : Nat) : Nat :=
  2 + ((((registered s c ctx bar).map (·.2) ++ parked s c ctx bar).flatMap (·.bars)).map (fun b => b.2.2.length)).sum

/-- One arrival of the thread in a place at a barrier (R257). -/
def arrive (s : State) (p : Place) (t : Thread) (bar slack : Nat) : State :=
  match t.bars.find? (fun b => b.1 == bar) with
  | none => sendArrival s p t bar 1 slack
  | some (_, counted, h) =>
    if counted then s.updThread p (fun u => setBar u bar true (h ++ [slack]))
    else
      let c := coreOf p
      let k := s.core c
      let (n, _) := mgetD k.barCounts (t.ctx, bar) (0, 0)
      let s := s.updThread p (fun u => setBar u bar true h)
      coreSends (s.setCore c { k with barCounts := mset k.barCounts (t.ctx, bar) (n + 1, slack) }) p t bar
        (heldBound s c t.ctx bar)

/-- A thread is no longer registered on a barrier (R257): each arrival that it holds is sent, with its own slack, and the core
sends if its count is now complete. DEDUCED: log entry 31. -/
def afterLeave (s : State) (p : Place) (t : Thread) (bar : Nat) (held : List Nat) : State :=
  let s := held.foldl (fun s slack => sendArrival s p t bar 1 slack) s
  coreSends s p t bar (heldBound s (coreOf p) t.ctx bar)

/-- A thread leaves its core's registration on a barrier (R257): what it has counted stays, what it holds is sent. -/
def withdraw (s : State) (p : Place) (t : Thread) (bar : Nat) : State :=
  match t.bars.find? (fun b => b.1 == bar) with
  | none => s
  | some (_, _, h) =>
    afterLeave (s.updThread p (fun u => { u with bars := u.bars.filter (fun b => b.1 != bar) })) p t bar h

/-- A parent that was parked in a donated slot, and is no longer, is withdrawn from every registration (R28, R257). -/
def withdrawParked (s : State) (p : Place) (t : Thread) : State := t.bars.foldl (fun s b => afterLeave s p t b.1 b.2.2) s

/-- A thread that leaves its core is withdrawn from every registration (R257). DEDUCED: log entry 87. -/
def withdrawAll (s : State) (p : Place) : State :=
  match s.thread p with
  | none => s
  | some t => t.bars.foldl (fun s b => withdraw s p t b.1) s

/-- Every thread of the context that waits in BARW on the barrier returns (R280). -/
def wakeBarrier (s : State) (c : CtxId) (bar : Nat) : State :=
  { s with threads := s.threads.map (fun e =>
      match e.2.wait with
      | .barrier n ph _ =>
        if e.1.peer = c.peer ∧ e.2.ctx = c.id ∧ n = bar then (e.1, { e.2 with wait := .barrier n ph true }) else e
      | _ => e) }

/-- Units reach a barrier: without STAT it flips once for each whole E (R257, R280); with STAT and a statistics area
the gather step follows (R332). -/
def barrierCount (s : State) (c : CtxId) (bar units : Nat) : State :=
  match s.ctx c with
  | none => s
  | some x =>
    let b := mgetD x.barriers bar Barrier.reset
    let n := b.count + units
    if b.e = 0 ∨ n < b.e ∨ (b.stat ∧ x.barb.toNat / 2 ^ 21 ≠ 0) then
      s.setCtx c { x with barriers := mset x.barriers bar { b with count := n } }
    else
      let k := n / b.e
      let b' := { b with count := n % b.e, phase := b.phase != (k % 2 == 1), flips := b.flips + k }
      wakeBarrier (s.setCtx c { x with barriers := mset x.barriers bar b' }) c bar

end Sys2Proof.Machine
end

