-- ==== Sys2Proof/Machine/Regions.lean ====
section
/-! DEFINITION. Regions: buffering, reading, committing, aborting, pinning and exclusive mode (R74, R210 to R220,
R224 to R228), and the commands that a commit enters into their queues (R226, R274). -/

namespace Sys2Proof.Machine

/-! ## Stream engines held by a thread -/

/-- The engines of a core that a thread holds, released ones included (R265). -/
def heldStreams (k : Core) (uid : Nat) : Map Nat Stream := k.streams.filter (fun e => e.2.holder == some uid)

/-- The engines of a thread are put back to a saved state (R265); what they had fetched ahead is gone (R272). -/
def Core.restoreStreams (k : Core) (uid : Nat) (saved : Map Nat Stream) : Core :=
  { k with streams := k.streams.filter (fun e => e.2.holder != some uid)
                        ++ saved.map (fun e => (e.1, { e.2 with got := [] })) }

/-- What the engines of a thread have fetched ahead, or are fetching, is dropped (R104, R272): after stores of the thread have
left its buffer, each element is fetched again. -/
def dropFetched (s : State) (c : CoreId) (uid : Nat) : State :=
  let drop (e : Nat × Stream) : Nat × Stream := if e.2.holder = some uid then (e.1, { e.2 with got := [] }) else e
  { s.updCore c (fun k => { k with streams := k.streams.map drop }) with
    packets := s.packets.filter (fun q => !(q.uid == uid && (match q.body with
      | .fetch .. => true
      | _ => false))) }

/-- Engines that SUNMAP released become free at the commit (R265). -/
def Core.freeStreams (k : Core) (uid : Nat) : Core :=
  { k with streams := k.streams.filter (fun e => !(e.2.holder == some uid && e.2.released)) }

/-- A thread's commands belong to committed regions from now on (R298). -/
def Core.closeCmds (k : Core) (uid : Nat) : Core :=
  { k with cmds := k.cmds.map (fun q => if q.uid = uid then { q with open_ := false } else q) }

/-! ## Opening -/

/-- The checkpoint of a thread (R74, R97, R265). -/
def Thread.check (t : Thread) (streams : Map Nat Stream) : Check where
  i := t.i
  f := t.f
  wdep := t.wdep
  loops := t.loops
  shadow := t.shadow
  tpc := t.tpc
  tcause := t.tcause
  tval := t.tval
  tvec := t.tvec
  tstat := t.tstat
  streams := streams
  replay := t.replay

/-- A region of a thread as it opens (R211). -/
def Thread.newRegion (t : Thread) (streams : Map Nat Stream) (explicit : Bool) (rts : BitVec 32) (rstart : Word) :
    Region where
  explicit := explicit
  rts := rts
  rstart := rstart
  odep := t.wdep
  items := []
  reads := []
  check := t.check streams
  aborts := 0
  token := none
  pinned := false
  exclusive := false
  wantExcl := false
  want := false

/-- The timestamp a region takes (R211). -/
def regionTs (cmark ts : BitVec 32) : BitVec 32 :=
  if 0 < ts.toNat ∧ ts.toNat < cmark.toNat then cmark else ts

/-- The next region of a place opens. -/
def openRegion (s : State) (p : Place) (explicit : Bool) (ts : BitVec 32) (rstart : Word) : State :=
  match s.thread p with
  | none => s
  | some t =>
    let rts := match s.ctx (t.ctxId p) with
      | some x => regionTs x.cmark ts
      | none => ts
    s.setThread p { t with region := t.newRegion (heldStreams (s.core (coreOf p)) t.uid) explicit rts rstart }

/-! ## Lines (R219) -/

/-- The local lines that an item writes. -/
def Item.lines : Item → List Nat
  | .store sa data => linesOf sa data.length
  | .patomic sa _ _ _ _ _ => [lineOf sa]
  | .jdec sa => [lineOf sa]
  | _ => []

/-- The local lines that a region writes. -/
def Region.written (r : Region) : List Nat := (r.items.flatMap Item.lines).eraseDups

/-- The pool lines that a region holds: one for each local line and one for each other item (R219). -/
def Region.lines (r : Region) : Nat := r.written.length + (r.items.filter (fun i => i.lines.isEmpty)).length

/-- Pool lines held by commands that wait for room in their queue (R219, R274). -/
def Core.waiting (k : Core) (slot : Nat) : Nat := (k.cmds.filter (fun c => !c.entered && c.slot == slot)).length

/-- Lines that a thread's region will take for elements which pending results push to streams (R219, R271). -/
def Thread.pushes (t : Thread) : Nat := (t.pend.filter (fun q => q.push.isSome)).length

/-- Pool lines in use on a core (R219). DEDUCED: log entry 34. -/
def poolUsed (s : State) (c : CoreId) : Nat :=
  ((s.threads.filter (fun e => e.1.peer == c.peer && e.1.core == c.core)).map (fun e => e.2.region.lines + e.2.pushes)).sum
    + ((s.core c).cmds.filter (fun q => !q.entered)).length

/-- Lines are available to a slot's region (R219). DEDUCED: log entry 34. -/
def lineFree (s : State) (p : Place) (t : Thread) (n : Nat) : Bool :=
  decide (t.region.lines + t.pushes + (s.core (coreOf p)).waiting p.slot + n ≤ 64) && decide (poolUsed s (coreOf p) + n ≤ 256)

/-! ## Reading through the buffer (R212) -/

/-- A buffered item over a memory: a store writes its bytes, a posted atomic and a decrement their operation.
DEDUCED: log entry 19. -/
def Item.apply (m : List Host.Cell) : Item → List Host.Cell
  | .store sa data => memWrites m sa data
  | .patomic sa op w val cmp _ => memWrites m sa (atomBytes m sa op w val cmp).2
  | .jdec sa => memWrites m sa (jdecBytes m sa)
  | _ => m

/-- The bytes that a packet writes at a system address, over what stands there. -/
def Body.bytes (b : Body) (m : List Host.Cell) (sa : Nat) : List Byte :=
  match b with
  | .store d => d
  | .release d => d
  | .patomic op w v c => (atomBytes m sa op w v c).2
  | .ratomic op w v c => (atomBytes m sa op w v c).2
  | .jdec => jdecBytes m sa
  | .cwrite _ d => d
  | .hwrite d => d
  | _ => []

/-- A packet's effect over a memory, at the place that its address reaches. -/
def bodyOver (s : State) (c : CtxId) (m : List Host.Cell) (ca : Nat) (b : Body) : List Host.Cell :=
  match resolve s c ca with
  | some (sa, _) => memWrites m sa (b.bytes m sa)
  | none => m

/-- An item over a memory, with the packets for non-local lines (R104). DEDUCED: log entry 93. -/
def Item.over (s : State) (c : CtxId) (m : List Host.Cell) : Item → List Host.Cell
  | .packet ca body _ _ => bodyOver s c m ca body
  | i => i.apply m

/-- M as a thread sees it behind its own packets that have left and are not performed, those before a packet number of the
model (R104). DEDUCED: log entry 93. -/
def ownMem (s : State) (uid before : Nat) : List Host.Cell :=
  let mine := s.packets.filter (fun k => k.uid == uid && !k.dup && decide (k.id < before)
    && (k.body.plain || (match k.body with
      | .release _ => true
      | _ => false)) && unperformed s k)
  mine.foldl (fun m k => bodyOver s k.ctx m k.ca k.body) s.mem

/-- Memory as a slot's open region sees it (R100, R104, R212): what it has buffered, in program order, over what it has
sent, over M. DEDUCED: log entry 19. DEDUCED: log entry 93. -/
def slotMem (s : State) (p : Place) (t : Thread) : List Host.Cell :=
  t.region.items.foldl (fun m i => i.over s (t.ctxId p) m) (ownMem s t.uid s.nextId)

/-- Bytes of local lines as a slot's open region sees them. -/
def slotReads (s : State) (p : Place) (t : Thread) (sa n : Nat) : List Byte := memReads (slotMem s p t) sa n

/-- Lines join a region's read set. -/
def Region.read (r : Region) (sa n : Nat) : Region :=
  { r with reads := r.reads ++ (linesOf sa n).filter (fun l => !r.reads.contains l) }

/-! ## Aborts (R215) -/

/-- A thread goes back to its region's opening; a once-slack that waits for its instruction stays (R51, R261). -/
def Thread.restart (t : Thread) (counts : Bool) : Thread :=
  let r := t.region
  let c := r.check
  let n := if counts then Nat.min 8 (r.aborts + 1) else r.aborts
  { t with
    i := c.i, f := c.f, wdep := c.wdep, loops := c.loops, shadow := c.shadow
    tpc := c.tpc, tcause := c.tcause, tval := c.tval, tvec := c.tvec, tstat := c.tstat, replay := c.replay
    frames := t.frames.drop (t.wdep.toNat - c.wdep.toNat)
    pend := [], stuck := false, pc := r.rstart
    wait := match t.wait with
      | .vector _ => .none
      | w => w
    region := { r with items := [], reads := [], aborts := n, want := false,
                       wantExcl := r.wantExcl || decide (8 ≤ n) } }

/-- Reservations of a thread's migrations that have not left are given back (R195, R215). -/
def cancelMigs (s : State) (uid : Nat) : State :=
  let ids := (s.migs.filter (fun m => m.thread.uid == uid && !m.landed)).map (·.id)
  { s with migs := s.migs.filter (fun m => m.thread.uid != uid || m.landed)
           cores := if ids.isEmpty then s.cores
             else s.cores.map (fun e => (e.1, { e.2 with arrivals := e.2.arrivals.filter (fun a => !ids.contains a) })) }

/-- The region of a place is aborted (R215). -/
def abortPlace (s : State) (p : Place) (counts : Bool) : State :=
  match s.thread p with
  | none => s
  | some t =>
    let s := (dropFetched s (coreOf p) t.uid).updCore (coreOf p) (fun k => k.restoreStreams t.uid t.region.check.streams)
    (cancelMigs s t.uid).setThread p (t.restart counts)

/-- A region that no abort touches (R215). -/
def Region.fixed (r : Region) : Bool := r.pinned || r.exclusive

/-- Every other region with one of the lines in its read set is aborted (R214, R220). -/
def abortReaders (s : State) (skip : Option Nat) (lines : List Nat) : State :=
  (s.threads.filter (fun e => some e.2.uid != skip && !e.2.region.fixed
      && e.2.region.reads.any (fun l => lines.contains l))).foldl (fun s e => abortPlace s e.1 true) s

/-- A pinned or exclusive region other than the writer's reads one of the lines (R214, R220). -/
def blocked (s : State) (skip : Option Nat) (lines : List Nat) : Bool :=
  s.threads.any (fun e => some e.2.uid != skip && e.2.region.fixed
    && e.2.region.reads.any (fun l => lines.contains l))

/-- Bytes of a poisoned line are written: its poison goes once every byte has been (R151). -/
def repairLine (s : State) (sa n l : Nat) : State :=
  let m := (List.range 64).foldl (fun (m : BitVec 64) j =>
    if sa ≤ 64 * l + j ∧ 64 * l + j < sa + n then m ||| BitVec.ofNat 64 (2 ^ j) else m) (mgetD s.repair l 0)
  if m = BitVec.allOnes 64 then { s with poisoned := s.poisoned.filter (· != l), repair := mdel s.repair l }
  else { s with repair := mset s.repair l m }

/-- A write to poisoned lines (R151). -/
def unpoison (s : State) (sa n : Nat) : State :=
  (s.poisoned.filter (fun l => (linesOf sa n).contains l)).foldl (fun s l => repairLine s sa n l) s

/-- A page of a context's HBM grant is accessed (R135, R204). -/
def touch (s : State) (c : CtxId) (sa : Nat) : State :=
  s.updCtx c (fun x => { x with hbm := x.hbm.map (fun g =>
    if g.sa = sa / 4096 * 4096 ∧ g.where_ = .hbm then { g with used := s.now } else g) })

/-- An external write is performed (R220); the caller has checked that it is not blocked. Poison goes with the writes of the owning
context alone (R151). -/
def extWriteBy (owner : Bool) (s : State) (skip : Option Nat) (sa : Nat) (data : List Byte) : State :=
  if data.isEmpty then s
  else
    let s := s.writes sa data
    abortReaders (if owner then unpoison s sa data.length else s) skip (linesOf sa data.length)

/-- An external write for the context that owns the memory. -/
def extWrite (s : State) (skip : Option Nat) (sa : Nat) (data : List Byte) : State := extWriteBy true s skip sa data

/-! ## Entering commands (R226, R274, R277, R335) -/

/-- A queue's capacity: EQ and MQ hold 16, VQ holds 8. -/
def queueCap (q : Nat) : Nat := if q = 4 then 8 else 16

/-- Commands of a queue that stand in it, not completed. -/
def Core.inQueue (k : Core) (q : Nat) : Nat := (k.cmds.filter (fun c => c.queue == q && c.entered)).length

/-- Operand slots of a tile under a format register's value (R336). -/
def fmtSlots (v : Word) : Nat := if wbits v 28 4 = 0 then 1 else if wbits v 28 4 = 3 then 4 else 2

/-- The operand slots of a tile at a slot. -/
def slotsFrom (o k : Nat) : List Nat := (List.range k).map (· + o)

/-- The operand slots that a matrix command names. -/
def Work.slots : Work → List Nat
  | .mldt o _ b => slotsFrom o (2 ^ wbits b 32 2)
  | .mtrn o _ b => slotsFrom o (2 ^ wbits b 32 2)
  | .mma _ _ oa ob fa fb _ _ => slotsFrom oa (fmtSlots fa) ++ slotsFrom ob (fmtSlots fb)
  | .mgemm _ _ oa ob fa fb _ _ _ _ => slotsFrom oa (fmtSlots fa) ++ slotsFrom ob (fmtSlots fb)
  | _ => []

/-- The tiles that a matrix command names. -/
def Work.tiles : Work → List Nat
  | .mrd c _ _ _ _ => [c]
  | .mma cd cs _ _ _ _ _ _ => cd :: cs.toList
  | .mzero cd => [cd]
  | .mgemm _ tile _ _ _ _ _ _ _ _ => [tile]
  | _ => []

/-- A macro-op of the sequencer. -/
def Work.isGemm : Work → Bool
  | .mgemm .. => true
  | _ => false

/-- Some numbers that a thread has claimed are released: each is free once the commands that name it, of those that stand
before, have completed (R337). What QUIT leaves to an MGEMM is held until that completes (R315). -/
def releaseClaims (claims : Map Nat Claim) (uid : Nat) (numbers : List Nat) (before : List Cmd)
    (names : Work → List Nat) (quit : Bool) : Map Nat Claim :=
  claims.filterMap (fun e =>
    if e.2.uid = uid ∧ numbers.contains e.1 ∧ e.2.releasing.isNone then
      let mine := before.filter (fun q => q.uid == uid && (names q.work).contains e.1)
      if mine.isEmpty then none
      else some (e.1, { e.2 with releasing := some (mine.map (·.cid)), kept := quit && mine.any (fun q => q.work.isGemm) })
    else some e)

/-- The numbers of a mask. -/
def maskBits (mask n : Nat) : List Nat := (List.range n).filter (fun j => mask / 2 ^ j % 2 == 1)

/-- A release enters MQ(c), which leaves nothing standing there (R337). -/
def Core.release (k : Core) (q : Cmd) : Core :=
  match q.work with
  | .mrel slots tiles =>
    let before := (k.cmds.takeWhile (fun d => d.cid != q.cid)).filter (fun d => d.queue == 5)
    { k with cmds := k.cmds.filter (fun d => d.cid != q.cid)
             oclaims := releaseClaims k.oclaims q.uid (maskBits slots 32) before Work.slots false
             tclaims := releaseClaims k.tclaims q.uid (maskBits tiles 4) before Work.tiles false }
  | _ => k

/-- All the claims of a thread are released (R108, R315). -/
def Core.releaseAll (k : Core) (uid : Nat) : Core :=
  { k with oclaims := releaseClaims k.oclaims uid (List.range 32) k.cmds Work.slots true
           tclaims := releaseClaims k.tclaims uid (List.range 4) k.cmds Work.tiles true }

/-- A command has completed: the claims that waited for it alone are free (R315, R337). -/
def claimsAfter (claims : Map Nat Claim) (cid : Nat) : Map Nat Claim :=
  claims.filterMap (fun e => match e.2.releasing with
    | some l =>
      if l.contains cid then
        (if l.filter (· != cid) = [] then none else some (e.1, { e.2 with releasing := some (l.filter (· != cid)) }))
      else some e
    | none => some e)

/-- A release of claims. -/
def Work.isRelease : Work → Bool
  | .mrel .. => true
  | _ => false

/-- The queues that a QFENCE mask names: bits 0 to 3 EQ, 4 VQ, 5 MQ. -/
def maskQueues (mask : BitVec 6) : List Nat := (List.range 6).filter (fun q => mask.toNat / 2 ^ q % 2 == 1)

/-- Queues that an entry waits to enter: a command's own, and those that a QFENCE names. -/
def Cmd.enters (q : Cmd) : List Nat :=
  match q.work with
  | .fence mask => maskQueues mask
  | _ => [q.queue]

/-- A QFENCE still holds commands back: something that stood before it has not completed. -/
def Core.fenceOpen (k : Core) (f : Fence) : Bool := f.cids.any (fun x => k.cmds.any (fun d => d.cid == x))

/-- A QFENCE enters its queues, and takes no place in them (R226): later commands of them wait for all that stand there
now. -/
def Core.fence (k : Core) (q : Cmd) (mask : BitVec 6) : Core :=
  let qs := maskQueues mask
  let cids := (k.cmds.filter (fun d => d.entered && qs.contains d.queue)).map (·.cid)
  { k with cmds := k.cmds.filter (fun d => d.cid != q.cid)
           fences := (k.fences ++ [(⟨q, qs, cids⟩ : Fence)]).filter k.fenceOpen }

/-- What a command that enters a queue now must wait for, each with the thread of the QFENCE. -/
def Core.waitsFor (k : Core) (queue : Nat) : List (Nat × Nat) :=
  (k.fences.filter (fun f => f.queues.contains queue)).flatMap (fun f =>
    (f.cids.filter (fun x => k.cmds.any (fun d => d.cid == x))).map (fun x => (f.cmd.uid, x)))

/-- A command stands in its queue from now on, behind the QFENCEs that have entered it (R226); its wait for an engine
begins. -/
def Core.stand (k : Core) (q : Cmd) (now : Nat) : Core :=
  { k with cmds := k.cmds.map (fun c =>
      if c.cid = q.cid then { c with entered := true, since := now, waits := c.waits ++ k.waitsFor q.queue } else c) }

/-- Waiting commands enter their queues in order while entries are free (R274); a release and a QFENCE take no entry. -/
def Core.enter (k : Core) (now : Nat) : Nat → Core
  | 0 => k
  | fuel + 1 =>
    let free (c : Cmd) : Bool := match c.work with
      | .mrel .. => true
      | .fence _ => true
      | _ => decide (k.inQueue c.queue < queueCap c.queue)
    match k.cmds.find? (fun c => !c.entered && free c
        && !(k.cmds.takeWhile (fun d => d.cid != c.cid)).any (fun d =>
          !d.entered && d.enters.any (fun j => c.enters.contains j))) with
    | none => k
    | some q =>
      match q.work with
      | .mrel .. => Core.enter (k.release q) now fuel
      | .fence mask => Core.enter (k.fence q mask) now fuel
      | _ => Core.enter (k.stand q now) now fuel

/-- A command is entered: it waits in the pool for room, and in its queue for what the QFENCEs before it name. -/
def enterCmd (s : State) (c : CoreId) (q : Cmd) : State :=
  s.updCore c (fun k => Core.enter { k with cmds := k.cmds ++ [{ q with entered := false }] } s.now 1)

/-- A QFENCE follows the commands before it into the queues that it names (R226). -/
def enterFence (s : State) (p : Place) (t : Thread) (mask : BitVec 6) : State :=
  let (id, s) := s.fresh
  enterCmd s (coreOf p)
    { cid := id, uid := t.uid, slot := p.slot, ctx := t.ctxId p, core := coreOf p, apCore := t.apCore, queue := 6, tag := 0,
      ct := 0, work := .fence mask, slack := 0, entered := false, started := false, startedAt := 0, record := [], prog := 0,
      sub := 0, hold := none, got := [], fetched := [], runs := [], budget := 0, writes := [], count := 0, waits := [],
      since := s.now, lost := 0, open_ := false, refused := false, ended := none }

/-! ## The items of a region at their commit (R213, R214, R217) -/

/-- Local stores and posted atomics are performed in M. -/
def Item.perform (s : State) : Item → State
  | .store sa data => unpoison (s.writes sa data) sa data.length
  | .patomic sa op w val cmp _ =>
    let bs := (atomBytes s.mem sa op w val cmp).2
    unpoison (s.writes sa bs) sa bs.length
  | _ => s

/-- A thread's locked entries whose table entry has changed are dropped by a TFENCE (R203, R250). -/
def Thread.dropLocks (s : State) (c : CtxId) (x : Ctx) (t : Thread) : Thread :=
  { t with locks := t.locks.map (fun l =>
      if walk s c x (BitVec.ofNat 64 l.range.base) = some l.range then l else { l with dropped := true }) }

/-- A TFENCE completes (R203, R250): no cached entry of the context is left, and every thread of it, wherever it stands, loses
the locked entries that have changed. -/
def completeTfence (s : State) (c : CtxId) : State :=
  let s := dropCached s c
  match s.ctx c with
  | none => s
  | some x =>
    let drop (t : Thread) : Thread := if t.ctx = c.id then t.dropLocks s c x else t
    { s with
      threads := s.threads.map (fun (e : Place × Thread) => if e.1.peer = c.peer then (e.1, drop e.2) else e)
      donors := s.donors.map (fun (e : Place × List Thread) => if e.1.peer = c.peer then (e.1, e.2.map drop) else e)
      migs := s.migs.map (fun m => if m.src.peer = c.peer then { m with thread := drop m.thread } else m)
      ctxs := mset s.ctxs c { x with images := x.images.map (fun m => { m with thread := m.thread.dropLocks s c x }) } }

/-- An atomic on a cached line homed in the running core's district: the contention predictor's choice is counted; one on scratch
or uncached memory runs at the home (R193). DESIGN CHOICE: log entry 99. -/
def notePredictor (s : State) (c : CtxId) (sa : Nat) (cached : Bool) : State :=
  if saKind sa = 3 || !cached then s
  else
    let (n, s) := s.draw
    let here : Nat := if Config.predictor n then 1 else 0
    s.updCtx c (fun x => { x with perf := { x.perf with cache := x.perf.cache + here, home := x.perf.home + (1 - here) } })

/-- The atomics of some items are counted. -/
def Item.note (c : CtxId) (s : State) : Item → State
  | .patomic sa _ _ _ _ cached => notePredictor s c sa cached
  | _ => s

/-- Packets leave, in program order, with each TFENCE at its place (R203, R214, R250). -/
def Item.send (p : Place) (t : Thread) (s : State) : Item → State
  | .packet ca body g slack =>
    let r := mkPacket s p t ca body g slack
    sendPacket r.1 r.2
  | .tfence => completeTfence s (t.ctxId p)
  | _ => s

/-- Commands enter their queues, in program order (R214, R226, R227). -/
def Item.enter (p : Place) (t : Thread) (s : State) : Item → State
  | .command c => enterCmd s (coreOf p) { c with open_ := t.region.exclusive }
  | .qfence mask => enterFence s p t mask
  | .lfence => s.updCtx (t.ctxId p) (fun x => { x with lp := [] })
  | .post (.amsg core entry off args slk) slack =>
    let (s, q) := mkRequestTo s p t (.amsg core entry off args slk)
      (crossings p.peer (coreDist p.core) (coreDist core) ++ [.handlerIn p.peer core]) slack
    { s with packets := s.packets ++ [q] }
  | _ => s

/-- Events are posted, arrivals and decrements made, in program order (R214, R256, R258). -/
def Item.postItem (p : Place) (t : Thread) (s : State) : Item → State
  | .post (.evpost target payload) _ => postProgram s (t.ctxId p) target payload
  | .post (.arrival bar _) slack =>
    match s.thread p with
    | some u => arrive s p u bar slack
    | none => arrive s p t bar slack
  | .post (.barset bar e stat) _ =>
    s.updCtx (t.ctxId p) (fun x =>
      let b := mgetD x.barriers bar Barrier.reset
      { x with barriers := mset x.barriers bar { b with e := e, stat := stat, count := 0, flips := 0 } })
  | .jdec sa => extWrite s (some t.uid) sa (jdecBytes s.mem sa)
  | _ => s

/-- The performing part of a commit, in the order of R214. DEDUCED: log entry 88. -/
def emit (s : State) (p : Place) (t : Thread) (items : List Item) : State :=
  let lines := (items.flatMap Item.lines).eraseDups
  let s := items.foldl (Item.note (t.ctxId p)) (items.foldl Item.perform s)
  let s := lines.foldl (fun s l => touch s (t.ctxId p) (64 * l)) s
  let s := abortReaders s (some t.uid) lines
  let s := items.foldl (Item.send p t) s
  let s := items.foldl (Item.enter p t) s
  let s := items.foldl (Item.postItem p t) s
  if items.isEmpty || (heldStreams (s.core (coreOf p)) t.uid).isEmpty then s else dropFetched s (coreOf p) t.uid

/-! ## Committing (R214) -/

/-- No other open region of the context has a smaller non-zero timestamp (R214, R216). -/
def tsFirst (s : State) (p : Place) (t : Thread) : Bool :=
  t.region.rts == 0 || !s.threads.any (fun e => e.1.peer == p.peer && e.2.ctx == t.ctx && e.2.uid != t.uid
    && e.2.region.rts != 0 && decide (e.2.region.rts.toNat < t.region.rts.toNat))
    && !s.migs.any (fun m => m.displaced && m.dst.peer == p.peer && m.thread.ctx == t.ctx && m.thread.region.rts != 0
      && decide (m.thread.region.rts.toNat < t.region.rts.toNat))
    && !(match s.ctx (t.ctxId p) with
      | some x => x.images.any (fun m => m.thread.region.rts != 0
          && decide (m.thread.region.rts.toNat < t.region.rts.toNat))
      | none => false)

/-- The token lets the region commit: free, its own, or held by a region that is pinned and not exclusive. -/
def tokenLets (s : State) (p : Place) (t : Thread) : Bool :=
  match s.ctx (t.ctxId p) with
  | none => true
  | some x =>
    match x.token_ with
    | none => true
    | some u => u == t.uid || (match s.findThread u with
        | some (_, v) => v.region.pinned && !v.region.exclusive
        | none => true)

/-- A slice other than the core's own, whose handler queue carries the accesses of the core (R187, R189, R191). -/
def otherSlice (p : Place) (sa : Nat) : Bool := saKind sa == 3 && scratchCore (saOff sa) != p.core

/-- A line of the own district that an access reaches in place (R187, R189): the slice of the running core, where that is the
aperture core, and HBM and tier-2 whose kind is not uncached, through the group data cache. -/
def directSa (p : Place) (ap : Nat) (l : Loc) : Option Nat :=
  match localSa p.core l with
  | some sa => if (if saKind sa = 3 then scratchCore (saOff sa) == p.core && ap == p.core else !l.uncached) then some sa else none
  | none => none

/-- The line of a load that is performed at its issue: one reached in place, unless it misses the group data cache (R59, R192).
DESIGN CHOICE: log entry 102. -/
def hitSa (s : State) (p : Place) (ap : Nat) (l : Loc) : Option Nat :=
  (directSa p ap l).filter (fun sa => saKind sa == 3 || !Config.cacheMiss s.nextId)

/-- No handler runs at the slice of an address, or one whose own write is held under R220: an operation there is atomic with
respect to it (R191). DEDUCED: log entry 101. -/
def sliceFree (s : State) (sa : Nat) : Bool :=
  saKind sa != 3 || (match s.thread ⟨saPeer sa, scratchCore (saOff sa), 15⟩ with
    | none => true
    | some h => s.packets.any (fun k => k.uid == h.uid && k.kept && k.phase == .arrived))

/-- The operations that stand in a core's handler queue, in arrival order; a fixed one whose packet has gone stands there no
longer. -/
def hqItems (s : State) (c : CoreId) : List HqItem :=
  (s.core c).hq.filter (fun i => match i with
    | .code _ => true
    | .fixed id => s.packets.any (fun k => k.id == id && k.phase == .arrived))

/-- An operation that a message carries to the slice of an address may be performed there at once: no handler runs, and nothing stands
before it in HQ (R187, R191). DEDUCED: log entry 101. -/
def messageLets (s : State) (sa : Nat) : Bool :=
  saKind sa != 3 || (sliceFree s sa && (hqItems s ⟨saPeer sa, scratchCore (saOff sa)⟩).isEmpty)

/-- The other slices of the district that some lines lie in are free: their writes are performed at the commit, by the fixed
micro-handlers (R187, R191). DEDUCED: log entry 101. -/
def slicesFree (s : State) (p : Place) (lines : List Nat) : Bool :=
  lines.all (fun l => !otherSlice p (64 * l) || sliceFree s (64 * l))

/-- Conditions 2, 3 and 4 of R214, and other slices that may be written. -/
def canCommit (s : State) (p : Place) (t : Thread) : Bool :=
  tsFirst s p t && tokenLets s p t && !blocked s (some t.uid) t.region.written && slicesFree s p t.region.written

/-- Every pending result has arrived (R59). -/
def Thread.settled (t : Thread) : Bool := t.pend.all (fun q => q.value.isSome)

/-- The item of a plain store (R213). -/
def storeItemAt (p : Place) (l : Loc) (data : List Byte) (slack : Nat) : Item :=
  match localSa p.core l with
  | some sa => .store sa data
  | none => .packet l.ca (.store data) false slack

/-- A result whose destination is a write stream is pushed (R271): its element, placed at issue with a line of the region and
the slack of its instruction, is stored in the open region. -/
def pushResult (s : State) (p : Place) (t : Thread) (va : Word) (n slack : Nat) (v : Word) : State :=
  match lookT s p t va n n needW with
  | .ok l =>
    let i := storeItemAt p l (leBytes n v.toNat) slack
    if t.region.exclusive then emit s p t [i]
    else s.setThread p { t with region := { t.region with items := t.region.items ++ [i] } }
  | _ => s

/-- One pending result is written, but for discarded destinations (R57, R58). -/
def writePend (s : State) (p : Place) (q : Pend) : State :=
  match q.value, q.push with
  | none, _ => s
  | some vs, some (va, n, slack) =>
    match s.thread p with
    | some t => pushResult s p t va n slack (vs.headD 0)
    | none => s
  | some vs, none => (q.dsts.zip vs).foldl (fun s e =>
      if q.dead.contains e.1 then s else s.putReg p e.1 e.2 (s.core (coreOf p)).cycle) s

/-- All pending results are written, in order of issue (R59). -/
def drain (s : State) (p : Place) : State :=
  match s.thread p with
  | none => s
  | some t => (t.pend.foldl (fun s q => writePend s p q) s).updThread p (fun u => { u with pend := [] })

/-- The commit of the region of a place, with its pending results written, and the opening of the next. DEDUCED: log entry 5.
DEDUCED: log entry 88. -/
def commitTo (s : State) (p : Place) (explicit : Bool) (ts : BitVec 32) (rstart : Word) : State :=
  let s := drain s p
  match s.thread p with
  | none => s
  | some t =>
    let s := emit s p t t.region.items
    let s := s.updCtx (t.ctxId p) (fun x =>
      { x with cmark := if x.cmark.toNat < t.region.rts.toNat then t.region.rts else x.cmark
               token_ := if x.token_ = some t.uid then none else x.token_
               lastCommit := s.now })
    let s := s.updCore (coreOf p) (fun k => (k.freeStreams t.uid).closeCmds t.uid)
    openRegion s p explicit ts rstart

/-- A commit point (R218): none while it must wait. DEDUCED: log entry 5. -/
def tryCommit (s : State) (p : Place) (t : Thread) (explicit : Bool) (ts : BitVec 32) (rstart : Word) :
    Option State :=
  if !t.settled then none
  else
    let s := drain s p
    match s.thread p with
    | none => none
    | some u => if canCommit s p u then some (commitTo s p explicit ts rstart) else none

/-! ## Pinning and exclusive mode (R62, R216, R217) -/

/-- A token step may be taken now (R216). -/
def canToken (s : State) (p : Place) (t : Thread) : Bool :=
  tsFirst s p t && (match s.ctx (t.ctxId p) with
    | some x => x.token_.isNone || x.token_ == some t.uid
    | none => true)

/-- The token step: the region holds the token and is pinned, or exclusive (R216, R217). An exclusive region that comes to
write shared registers is pinned too, by a step of its own, and PINB counts from that one (R62). -/
def giveToken (s : State) (p : Place) (excl : Bool) : State :=
  match s.thread p with
  | none => s
  | some t =>
    let s := s.updCtx (t.ctxId p) (fun x =>
      { x with token_ := some t.uid
               cmark := if x.cmark.toNat < t.region.rts.toNat then t.region.rts else x.cmark })
    s.setThread p { t with region := { t.region with
      token := if t.region.pinned then t.region.token else some (s.core (coreOf p)).cycle
      pinned := t.region.pinned || !excl, exclusive := t.region.exclusive || excl
      wantExcl := t.region.wantExcl && !excl, want := false } }

/-- A pinned explicit region that overflows enters exclusive mode in place, with what it has buffered acting in program order
(R217); it waits for the slot's results that are under way (R104) and for the slices that it writes. -/
def exclusiveInPlace (s : State) (p : Place) : State :=
  match s.thread p with
  | none => s
  | some t =>
    if !t.settled || !slicesFree s p t.region.written then s else
    let u := { t with region := { t.region with exclusive := true } }
    let s := t.region.items.foldl (fun s i => emit s p u [i]) s
    s.updThread p (fun u => { u with region := { u.region with items := [], exclusive := true } })

/-! ## Buffering (R213, R217, R219) -/

/-- What buffering some items comes to. -/
inductive Room where
  | ok (s : State)
  /-- the slot stalls before the instruction, or its region has committed or been aborted first -/
  | again (s : State)
  deriving DecidableEq, Repr

/-- Lines that an item would add to a region. DEDUCED: log entry 34. -/
def newLines (r : Region) (i : Item) : Nat :=
  if i.lines.isEmpty then 1 else (i.lines.filter (fun l => !r.written.contains l)).length

/-- An item acts at once, in exclusive mode (R217). -/
def actNow (s : State) (p : Place) (t : Thread) (i : Item) : State := emit s p t [i]

/-- What a slot does that finds no line available (R219): an implicit region commits first if it holds a line, an explicit one
waits for a command of the slot to leave the pool, or overflows (R217), which leaves the count of consecutive aborts (R215) as it
is. DESIGN CHOICE: log entry 115. -/
def noLine (s : State) (p : Place) (t : Thread) : State :=
  let r := t.region
  if (s.core (coreOf p)).waiting p.slot ≠ 0 ∧ (r.lines = 0 ∨ r.explicit) ∧ r.lines < 64 then s
  else if !r.explicit then if r.lines = 0 then s else (tryCommit s p t false 0 t.pc).getD s
  else if r.pinned then exclusiveInPlace s p
  else abortPlace (s.updThread p (fun u => { u with region := { u.region with wantExcl := true } })) p false

/-- A command finds no entry of its queue free (R274, R335). -/
def queueFull (k : Core) : Item → Bool
  | .command c => (!c.work.isRelease && decide (queueCap c.queue ≤ k.inQueue c.queue)) || k.cmds.any (fun d => !d.entered && d.queue == c.queue)
  | _ => false

/-- An item is buffered in the region of a place (R213), or acts at once in exclusive mode (R217); an
implicit region without a line commits first, an explicit one overflows (R219). -/
def buffer (s : State) (p : Place) (i : Item) : Room :=
  match s.thread p with
  | none => .ok s
  | some t =>
    let r := t.region
    if r.exclusive then
      if queueFull (s.core (coreOf p)) i || blocked s (some t.uid) i.lines || !slicesFree s p i.lines then .again s else .ok (actNow s p t i)
    else if lineFree s p t (newLines r i) then
      .ok (s.setThread p { t with region := { r with items := r.items ++ [i] } })
    else .again (noLine s p t)

/-- Several items are buffered together, all or none. -/
def bufferAll (s : State) (p : Place) : List Item → Room
  | [] => .ok s
  | i :: is =>
    match buffer s p i with
    | .ok s' => bufferAll s' p is
    | .again s' => .again s'

end Sys2Proof.Machine
end

