-- ==== Sys2Proof/Machine/Issue.lean ====
section
/-! DEFINITION. The issue of an instruction: shared-bank ownership (R60), the token step of a pinning write (R62,
R216), traps (R71, R72), retirement with the loop levels, the replay and the lookahead windows (R57, R66 to R70),
and the end of an active-message handler (R254). -/

namespace Sys2Proof.Machine

/-- More fault codes (R78, R151, R262, R288, R346). -/
def cShared : Nat := 0x10
def cWstack : Nat := 0x11
def cFrame : Nat := 0x13
def cAbortDenied : Nat := 0x14
def cBarrier : Nat := 0x15
def cOverflow : Nat := 0x20
def cDivzero : Nat := 0x21
def cSwtrap : Nat := 0x40
def cBreak : Nat := 0x41

/-! ## Stops (R143, R151) -/

/-- The rank of a stop cause in the list of R143; a lower one governs, and IMAGE_SPACE whatever the list gives (R149). -/
def causeRank (cause : Nat) : Nat :=
  if cause = 6 then 0 else if cause = 2 ∨ cause = 3 then 1 else if cause = 0 ∨ cause = 5 then 2 else if cause = 1 then 3
  else if cause = 9 then 4 else 5

/-- A stop cause falls on a LIVE or STOPPING context (R143): the exit word goes with the cause. -/
def Ctx.stop (x : Ctx) (cause : Nat) (exit : Word) : Ctx :=
  match x.state with
  | .live => { x with state := .stopping, cause := some cause, exitWord := exit }
  | .stopping =>
    if causeRank cause < causeRank (x.cause.getD 99) then { x with cause := some cause, exitWord := exit } else x
  | _ => x

/-- An unhandled trap (R72): the fault record, of the first, and a stop that ends in FAULTED; the thread is one whose region is
dropped (R143). -/
def parkFault (s : State) (p : Place) (t : Thread) (c : Trap) : State :=
  s.updCtx (t.ctxId p) (fun x =>
    { x.stop 2 (BitVec.ofNat 64 c.code) with
      faulted := t.uid :: x.faulted
      fault := if x.fault.isSome then x.fault else some ⟨t.uid, t.pc, c.code, c.value, t.tstat⟩ })

/-! ## Traps -/

/-- A handler ends with a fault (R254): it stops, and the event goes to the sending slot. DEDUCED: log entry 24. -/
def endHandler (s : State) (p : Place) (t : Thread) (exit : Word) : State :=
  let s := s.freeSlot p
  match t.role with
  | .handler uid _ _ => deliver s (t.ctxId p) uid (.inl ⟨evHandlerFault, t.ctx, exit, 0⟩) (.fault none (some p.core))
  | _ => s

/-- A handler ends for an instruction or an address that it may not use; the spec gives no code for it (R254).
DESIGN CHOICE: log entry 13. -/
def misuse (s : State) (p : Place) (t : Thread) : State :=
  let (n, s) := s.draw
  endHandler s p t (Config.handlerMisuse n)

/-- The instruction waits: a migration of the slot whose window it lies in leaves before it (R103, R195). -/
def waits (s : State) (p : Place) : State :=
  match s.thread p with
  | none => { s with stalled := true }
  | some t =>
    { s.setThread p { t with stuck := true } with
             stalled := true
             migs := s.migs.map (fun m => if m.thread.uid = t.uid then { m with early := true } else m) }

/-- A trap is raised by the instruction of a place: the slot waits for every pending result, which is then
written; the trap is entered, or parks the context, or ends a handler (R59, R71, R72, R254). -/
def raise (s : State) (p : Place) (c : Trap) : State :=
  match s.thread p with
  | none => s
  | some t =>
    if !t.settled then waits s p
    else
      let s := { drain s p with stalled := false }
      match s.thread p with
      | none => s
      | some t =>
        match t.role with
        | .handler .. => endHandler s p t (BitVec.ofNat 64 c.code)
        | _ => if unhandled t.tstat c.code then parkFault s p t c else s.setThread p (t.enterTrap c)

/-! ## Retirement -/

/-- The loop levels step at the retirement of an instruction at `pc` (R67): the levels, and where control goes. -/
def Loops.step (l : Loops) (pc : Word) : Loops × Word :=
  if pc = l.le1 ∧ l.lc1 ≠ 0 ∧ l.lc1 ≠ 1 then ({ l with lc1 := l.lc1 - 1 }, l.ls1)
  else
    let l := if pc = l.le1 ∧ l.lc1 = 1 then { l with lc1 := 0 } else l
    if pc = l.le0 ∧ l.lc0 ≠ 0 then
      if l.lc0 = 1 then ({ l with lc0 := 0 }, pc + 4) else ({ l with lc0 := l.lc0 - 1 }, l.ls0)
    else (l, pc + 4)

/-- The next instruction of a replay (R70), or the end of the frame. -/
def Replay.next (r : Replay) (pc : Word) : Option Replay × Word :=
  if r.i + 1 < r.words.length then (some { r with i := r.i + 1 }, pc + 4)
  else if r.k + 1 < r.count then (some { r with k := r.k + 1, i := 0 }, r.fb + 4)
  else (none, r.fb + 4 * BitVec.ofNat 64 (r.words.length + 1))

/-- Control goes on after an instruction that transfers none (R67, R70): a replay never steps a level. -/
def Thread.advance (t : Thread) : Thread :=
  match t.replay with
  | some r =>
    let n := r.next t.pc
    { t with replay := n.1, pc := n.2 }
  | none =>
    let n := t.loops.step t.pc
    { t with loops := n.1, pc := n.2 }

/-- The retiring instruction is one of the following instructions of each pending result, and its own has its window
still before it: `left` counts it too (R57). -/
def Thread.age (t : Thread) : Thread := { t with pend := t.pend.map (fun q => { q with left := q.left - 1 }) }

/-- A pending result is written once its window has closed and it has arrived (R57 point 3). -/
def Pend.ready (q : Pend) : Bool := q.left == 0 && q.value.isSome

/-- The pending results that are due are written, in order of issue. -/
def flush (s : State) (p : Place) : State :=
  match s.thread p with
  | none => s
  | some t =>
    (t.pend.foldl (fun s q => if q.ready then writePend s p q else s) s).updThread p (fun u =>
      { u with pend := u.pend.filter (fun q => !q.ready) })

/-- An implicit region whose lines have reached 48 commits after the instruction (R219); while it cannot, the slot
stalls before its next one. -/
def autoCommit (s : State) (p : Place) : State :=
  match s.thread p with
  | none => s
  | some t =>
    if !t.region.explicit && decide (48 ≤ t.region.lines) then (tryCommit s p t false 0 t.pc).getD s else s

/-- What every issued instruction does to its slot: the once-slack lapses (R51), it has begun (R355), a handler's
instruction counts (R254). DEDUCED: log entry 20. -/
def Thread.issued (t : Thread) (keepOnce : Bool) : Thread :=
  { t with
    once := if keepOnce then t.once else none
    begun := true
    stuck := false
    role := match t.role with
      | .handler u k n => .handler u k (n + 1)
      | r => r }

/-- An instruction that transfers no control retires. -/
def retire (s : State) (p : Place) (keepOnce : Bool) : State :=
  let s := s.updThread p (fun t => (t.issued keepOnce).age.advance)
  { autoCommit (flush s p) p with stalled := false }

/-- An instruction that transfers control retires: no level steps (R67). -/
def retireTo (s : State) (p : Place) (pc : Word) : State :=
  let s := s.updThread p (fun t => { (t.issued false).age with pc := pc })
  { autoCommit (flush s p) p with stalled := false }

/-! ## Issue -/

/-- The instructions that a handler may execute, by their word (R254). DEDUCED: log entry 24. -/
def handlerAllows (word : Word) : Bool :=
  let major := wbits word 25 7
  (decide (1 ≤ major) && decide (major ≤ 0x16)) || word == 0x3E000000 || word == 0x3E000003
    || (decide (0x20 ≤ major) && decide (major ≤ 0x2C)) || [0x38, 0x39, 0x3C, 0x3D].contains major

/-- The outcome of an issue once the token is no question. -/
def finish (s : State) (p : Place) (keepOnce : Bool) : Res → Host.Outcome State Fault Refusal
  | .done s' => .next (retire s' p keepOnce)
  | .jump s' pc => .next (retireTo s' p pc)
  | .stall s' => .next (waits s' p)
  | .trap c => .next (raise s p c)
  | .gone s' => .next { s' with stalled := false }

/-- The region of a place is pinned. -/
def State.pinnedAt (s : State) (p : Place) : Bool :=
  match s.thread p with
  | some t => t.region.pinned
  | none => true

/-- The region in which a pinning effect is made is pinned: a form that commits pins the one that it opens.
DEDUCED: log entry 14. -/
def pinOpened (p : Place) : Res → Res
  | .done s => .done (if s.pinnedAt p then s else giveToken s p false)
  | .jump s pc => .jump (if s.pinnedAt p then s else giveToken s p false) pc
  | r => r

/-- An effect that pins the region (R62, R97): a trap of the instruction comes first; then the slot stalls until the
token step may be taken, which is taken with the issue. DEDUCED: log entry 14. -/
def issuePinned (s : State) (p : Place) (t : Thread) (body : Place → Thread → Core → State → Res) : Res :=
  match body p t (s.core (coreOf p)) s with
  | .trap c => .trap c
  | .stall s' => .stall s'
  | r =>
    if t.region.pinned then pinOpened p r
    else if canToken s p t then
      let s := giveToken s p false
      match s.thread p with
      | none => r
      | some t => pinOpened p (body p t (s.core (coreOf p)) s)
    else .stall (s.updThread p (fun t => { t with region := { t.region with want := true } }))

/-- An instruction issues in the slot whose turn it is (R41 steps 5 and 6): `uses` are its register fields, `pins` says
that its effect pins the region, `body` is its own checks and its effect. DESIGN CHOICE: log entry 91. -/
def issueWith (keepOnce : Bool) (word : Word) (uses : List Dst) (pins : Bool)
    (body : Place → Thread → Core → State → Res) (s : State) : Host.Outcome State Fault Refusal :=
  let p := s.turn
  match s.thread p with
  | none => .fault .emptySlot
  | some t =>
    let handler := match t.role with
      | .handler .. => true
      | _ => false
    if handler && !handlerAllows word then finish s p keepOnce (.gone (misuse s p t))
    else if uses.any (fun d => isShared d.reg) && !s.ownsCore p t then finish s p keepOnce (.trap ⟨cShared, word⟩)
    else if pins then finish s p keepOnce (issuePinned s p t body)
    else finish s p keepOnce (body p t (s.core (coreOf p)) s)

/-- The ordinary issue. -/
def issue (word : Word) (uses : List Dst) (pins : Bool) (body : Place → Thread → Core → State → Res) (s : State) :
    Host.Outcome State Fault Refusal := issueWith false word uses pins body s

/-! ## Pages that are not resident (R204, R205) -/

/-- The generation of the function that a context is attached to (R152). -/
def State.generation (s : State) (c : CtxId) (x : Ctx) : Nat :=
  (mgetD (s.dev c.peer).doors x.doorFn (Door.reset x.doorFn)).gen.toNat

/-- A page is asked for: one in tier-2 of the migration engine, one in host memory under the function's generation (R152,
R204). -/
def askPage (s : State) (c : CtxId) (page : Nat) : State :=
  match s.ctx c with
  | none => s
  | some x =>
    match x.hbm[page]?.map (fun (g : Page) => g.where_) with
    | some .host =>
      if x.requests.any (fun r => r.1 == page) then s
      else s.setCtx c { x with requests := x.requests ++ [(page, s.generation c x)] }
    | some .tier2 => if x.asked.contains page then s else s.setCtx c { x with asked := x.asked ++ [page] }
    | _ => s

/-- The slot parks for a page of a member of its context's warrant: its region is aborted without a count, but a pinned or
exclusive one stalls at its access (R204, R205). DESIGN CHOICE: log entry 72. DESIGN CHOICE: log entry 97, a handler whose fetch
meets such a page. -/
def parkPageOn (s : State) (p : Place) (c : CtxId) (page : Nat) : State :=
  match s.thread p with
  | none => s
  | some t =>
    let s := if t.region.fixed then s else abortPlace s p false
    let s := s.updThread p (fun u => { u with wait := .page c.peer page })
    { askPage s c page with stalled := false }

/-- The slot parks for a page of its own context. -/
def parkPage (s : State) (p : Place) (page : Nat) : State :=
  match s.thread p with
  | none => s
  | some t => parkPageOn s p (t.ctxId p) page

/-! ## Results -/

/-- A long-latency form's result is known at issue: it waits for its window to close (R57). `la` is the lookahead. -/
def pendNow (s : State) (p : Place) (dsts : List Dst) (la : Nat) (acquire : Bool) (vs : List Word) : State :=
  let (id, s) := s.fresh
  s.updThread p (fun t =>
    let t := dsts.foldl Thread.discard t
    { t with pend := t.pend ++ [⟨id, dsts, la + 1, some vs, [], acquire, none⟩] })

/-- A long-latency form's result is to come with the packet or command of a name. -/
def pendLater (s : State) (p : Place) (dsts : List Dst) (la : Nat) (acquire : Bool) (id : Nat) : State :=
  s.updThread p (fun t =>
    let t := dsts.foldl Thread.discard t
    { t with pend := t.pend ++ [⟨id, dsts, la + 1, none, [], acquire, none⟩] })

/-- A pending result arrives at a thread (R57): it is written at once if its window has closed. -/
def arriveValue (s : State) (p : Place) (id : Nat) (vs : List Word) : State :=
  flush (s.updThread p (fun t =>
    { t with pend := t.pend.map (fun q => if q.id = id then { q with value := some vs } else q) })) p

/-- A register-only instruction of one result: operands read, result written before the next issue (R55). -/
def compute (word : Word) (uses : List Dst) (d : Dst) (f : Place → Thread → Core → State → Except Trap Word)
    (s : State) : Host.Outcome State Fault Refusal :=
  issue word (uses ++ [d]) (isShared d.reg) (fun p t k s =>
    match f p t k s with
    | .ok v => .done (s.writeReg p d v)
    | .error c => .trap c) s

end Sys2Proof.Machine
end

