-- ==== Sys2Proof/Machine/Access.lean ====
section
/-! DEFINITION. What an instruction reads and stores besides registers: records, elements of streams, bytes through
the region (R100, R101, R151, R212, R213, R271 to R273). -/

namespace Sys2Proof.Machine

/-- A handler's thread. -/
def Thread.isHandler (t : Thread) : Bool :=
  match t.role with
  | .handler .. => true
  | _ => false

/-- An access instruction waits for an acquiring load of the slot (R240). -/
def Thread.acquiring (t : Thread) : Bool := t.pend.any (fun q => q.acquire && q.value.isNone)

/-- Bytes at a system address: the capability table in a device window, M elsewhere. -/
def readSa (s : State) (sa n : Nat) : List Byte :=
  if saKind sa = 6 then capBytes (saPeer sa) (s.dev (saPeer sa)) (saOff sa) n else s.reads sa n

/-- Why bytes of memory cannot be read: refused by R102 or R201, a page of a member that is not resident (R204), or a poisoned
line at an address (R151). -/
inductive NoBytes where
  | refused
  | absent (c : CtxId) (page : Nat)
  | poison (va : Word)
  deriving DecidableEq, Repr

/-- The bytes of one piece at a place, behind what a thread has sent (R104, R161); a refused one of another peer reads 0
(R201). -/
def grabPiece (s : State) (c : CtxId) (uid : Nat) (va : Word) (l : Loc) (n : Nat) : Except NoBytes (List Byte) :=
  match l.sa, resolve s c l.ca, member s c (saPeer l.ca) with
  | none, some (_, false), some m => .error (.absent m (saOff l.ca / 4096))
  | own, r, _ =>
    match own.or (r.map (·.1)) with
    | some sa =>
      if poisonHit s sa n then .error (.poison va)
      else .ok (if saKind sa = 6 then readSa s sa n else memReads (ownMem s uid s.nextId) sa n)
    | none => .ok (List.replicate n 0)

/-- Bytes of M at a VA, as a thread sees them behind what it has committed (R25, R104, R161), in pieces that cross no 32-byte
boundary; the first piece that cannot be read decides. -/
def grabBytes (s : State) (c : CtxId) (ap : Nat) (locks : List Lock) (uid : Nat) : Nat → Word → Nat →
    Except NoBytes (List Byte)
  | 0, _, _ => .ok []
  | fuel + 1, va, n =>
    if n = 0 then .ok []
    else
      let k := min n (32 - va.toNat % 32)
      match look s c ap locks va k 1 needR with
      | .fault _ => .error .refused
      | .absent page => .error (.absent c page)
      | .ok l =>
        match grabPiece s c uid va l k with
        | .error e => .error e
        | .ok bs =>
          match grabBytes s c ap locks uid fuel (va + BitVec.ofNat 64 k) (n - k) with
          | .ok cs => .ok (bs ++ cs)
          | r => r

/-- A local read joins the region's read set (R212), and its page is accessed (R204); a handler is in no region (R191). -/
def joinRead (s : State) (p : Place) (sa n : Nat) : State :=
  let s := match s.thread p with
    | some t => touch s (t.ctxId p) sa
    | none => s
  s.updThread p (fun t => if t.isHandler then t else { t with region := t.region.read sa n })

/-- What a read of operand bytes gives. -/
inductive Got where
  | ok (bs : List Byte) (s : State)
  | stop (r : Res)
  deriving DecidableEq, Repr

/-- Bytes at a place, at once: local ones through the region, others as M stands, each behind what the slot itself has stored
(R100, R104, R212); a refused one reads 0 (R201), and a page of another peer that is not resident parks the slot (R204). A slice
that is not reached in place is read once its handler queue is empty (R187, R191). DEDUCED: log entry 101. -/
def readNow (s : State) (p : Place) (t : Thread) (va : Word) (l : Loc) (n : Nat) : Got :=
  match localSa p.core l with
  | some sa =>
    if poisonHit s sa n then .stop (.trap ⟨cPoison, va⟩)
    else if (directSa p t.apCore l).isNone && !messageLets s sa then .stop (.stall s)
    else .ok (slotReads s p t sa n) (joinRead s p sa n)
  | none =>
    match l.sa, (resolve s (t.ctxId p) l.ca), member s (t.ctxId p) (saPeer l.ca) with
    | none, some (_, false), some m => .stop (.gone (parkPageOn s p m (saOff l.ca / 4096)))
    | own, r, _ =>
      match own.or (r.map (·.1)) with
      | some sa =>
        if poisonHit s sa n then .stop (.trap ⟨cPoison, va⟩)
        else if !messageLets s sa then .stop (.stall s)
        else .ok (if saKind sa = 6 then readSa s sa n else slotReads s p t sa n) s
      | none => .ok (List.replicate n 0) s

/-- A read by an instruction, with the checks of R102. -/
def readVa (s : State) (p : Place) (t : Thread) (va : Word) (n align : Nat) : Got :=
  match lookT s p t va n align needR with
  | .ok l => readNow s p t va l n
  | .fault c => .stop (.trap c)
  | .absent page => .stop (.gone (parkPage s p page))

/-- A read in pieces that cross no 32-byte boundary. -/
def readPieces (s : State) (p : Place) (t : Thread) : Nat → Word → Nat → Got
  | 0, _, _ => .ok [] s
  | fuel + 1, va, n =>
    if n = 0 then .ok [] s
    else
      let k := min n (32 - va.toNat % 32)
      match readVa s p t va k 1 with
      | .ok bs s' =>
        match readPieces s' p t fuel (va + BitVec.ofNat 64 k) (n - k) with
        | .ok cs s'' => .ok (bs ++ cs) s''
        | r => r
      | r => r

/-- An operand record of `n` bytes, read as the slot's loads read (R100); MISALIGN names the record's address.
DEDUCED: log entry 18. -/
def readRecord (s : State) (p : Place) (t : Thread) (va : Word) (n align : Nat) : Got :=
  if canonical va && va.toNat % align != 0 then .stop (.trap ⟨cMisalign, va⟩)
  else readPieces s p t (n / 16 + 3) va n

/-! ## Stores -/

/-- Items of a store in pieces that cross no 32-byte boundary, or what stops it (R102, R204). -/
def storePieces (s : State) (p : Place) (t : Thread) : Nat → Word → List Byte → Except Res (List Item)
  | 0, _, _ => .ok []
  | fuel + 1, va, bs =>
    if bs.isEmpty then .ok []
    else
      let k := min bs.length (32 - va.toNat % 32)
      match lookT s p t va k 1 needW with
      | .ok l =>
        match storePieces s p t fuel (va + BitVec.ofNat 64 k) (bs.drop k) with
        | .ok is => .ok (storeItemAt p l (bs.take k) (s.slack p t) :: is)
        | r => r
      | .fault c => .error (.trap c)
      | .absent page => .error (.gone (parkPage s p page))

/-- The items of a record of `bs` at an address. -/
def storeRecord (s : State) (p : Place) (t : Thread) (va : Word) (bs : List Byte) (align : Nat) :
    Except Res (List Item) :=
  if canonical va && va.toNat % align != 0 then .error (.trap ⟨cMisalign, va⟩)
  else storePieces s p t (bs.length / 16 + 3) va bs

/-! ## Streams as operands (R271 to R273) -/

/-- The element size of a TYPE (R263). -/
def typeSize (type : Nat) : Nat := ([1, 2, 4, 8, 4, 8, 2, 2] : List Nat)[type]?.getD 1

/-- The present levels of an engine's bounds: those before the first count of 0 (R264). -/
def Stream.levels (e : Stream) : List (Nat × Int) := (e.counts.zip e.strides).takeWhile (fun l => l.1 != 0)

/-- The element count (R264). -/
def Stream.count (e : Stream) : Nat := if e.levels.isEmpty then 0 else (e.levels.map (·.1)).prod

/-- The offset of an element by its levels, the innermost least significant. -/
def levelOffset : List (Nat × Int) → Nat → Int
  | [], _ => 0
  | (n, st) :: rest, i => (i % n : Nat) * st + levelOffset rest (i / n)

/-- The address of element `i` (R264). -/
def Stream.addr (e : Stream) (i : Nat) : Word := e.base + BitVec.ofInt 64 (levelOffset e.levels i)

/-- The engine that a thread has mapped onto a name s0 to s3 (R265). -/
def Core.named (k : Core) (uid name : Nat) : Option (Nat × Stream) :=
  k.streams.find? (fun e => e.2.holder == some uid && e.2.name == some name && !e.2.released)

/-- The engine that a field reaches (R271): f28 to f31 while the name is mapped. -/
def Core.mapped (k : Core) (uid : Nat) (d : Dst) : Option (Nat × Stream) :=
  if d.fp && decide (28 ≤ d.reg.toNat) && decide (d.reg.toNat < 32) then k.named uid (d.reg.toNat - 28) else none

/-- An engine's position goes on by one. -/
def State.bump (s : State) (c : CoreId) (eng : Nat) : State :=
  s.updCore c (fun k => { k with streams := k.streams.map (fun e =>
    if e.1 = eng then (e.1, { e.2 with pos := e.2.pos + 1, got := e.2.got.filter (fun g => decide (e.2.pos < g.1)) }) else e) })

/-- Operands as they are read. -/
inductive Vals where
  | ok (vs : List Word) (s : State)
  | stop (r : Res)
  deriving DecidableEq, Repr

/-! Elements fetched ahead (R272). -/

/-- A fetch of an element is on its way. -/
def fetching (s : State) (uid eng idx : Nat) : Bool :=
  s.packets.any (fun k => k.uid == uid && (match k.body with
    | .fetch e i _ => e == eng && i == idx
    | _ => false))

/-- The fetch of one element leaves for its home, where it is neither fetched nor on its way. It sees what the slot has sent, and the
pop what the slot has buffered (R104, R272). -/
def fetchElement (s : State) (p : Place) (t : Thread) (eng : Nat) (e : Stream) (idx : Nat) : State :=
  let n := typeSize e.type
  if e.count ≤ idx || e.got.any (fun g => g.1 == idx) || fetching s t.uid eng idx then s
  else
    match lookT s p t (e.addr idx) n n needR with
    | .ok l =>
      if (localSa p.core l).isSome then s
      else
        let r := mkPacket s p t l.ca (.fetch eng idx n) false (s.slack p t)
        sendPacket r.1 { r.2 with va := e.addr idx, seen := 0 }
    | _ => s

/-- A stream engine fetches up to eight non-local elements ahead. -/
def fetchAhead (s : State) (p : Place) (t : Thread) (eng : Nat) (e : Stream) : State :=
  (List.range 8).foldl (fun s j => fetchElement s p t eng e (e.pos + j)) s

/-- The element at a position, as a load (R100, R212, R272): a local one from the region, another as it was fetched, behind
what the slot's region has buffered; one not yet fetched stalls the slot. `s0` is the state at the issue. -/
def popOne (s0 s : State) (p : Place) (t : Thread) (eng : Nat) (e : Stream) : Got :=
  let n := typeSize e.type
  let va := e.addr e.pos
  match lookT s p t va n n needR with
  | .fault c => .stop (.trap c)
  | .absent page => .stop (.gone (parkPage s0 p page))
  | .ok l =>
    if (localSa p.core l).isSome then readNow s p t va l n
    else
      match e.got.find? (fun g => g.1 == e.pos) with
      | none =>
        (match s0.thread p, mget (s0.core (coreOf p)).streams eng with
          | some t0, some e0 => .stop (.stall (fetchAhead s0 p t0 eng e0))
          | _, _ => .stop (.stall s0))
      | some (_, bs) =>
        if bs.isEmpty then .stop (.trap ⟨cPoison, va⟩)
        else
          match l.sa.or ((resolve s (t.ctxId p) l.ca).map (·.1)) with
          | some sa => .ok (memReads (t.region.items.foldl (fun m i => i.over s (t.ctxId p) m) (memWrites s.mem sa bs)) sa n) s
          | none => .ok bs s

/-- Operands in their order, popping those that name a mapped stream (R271, R272). DEDUCED: log entry 18. -/
def popAll (s0 s : State) (p : Place) : List Dst → Vals
  | [] => .ok [] s
  | d :: ds =>
    match s.thread p with
    | none => .ok [] s
    | some t =>
      let k := s.core (coreOf p)
      match k.mapped t.uid d with
      | none =>
        match popAll s0 s p ds with
        | .ok vs s' => .ok (readReg k t d :: vs) s'
        | r => r
      | some (eng, e) =>
        if e.count ≤ e.pos then .stop (.trap ⟨0x18, BitVec.ofNat 64 eng⟩)
        else
          match popOne s0 s p t eng e with
          | .stop r => .stop r
          | .ok bs s' =>
            match popAll s0 (s'.bump (coreOf p) eng) p ds with
            | .ok vs s'' => .ok (BitVec.ofNat 64 (leNat bs) :: vs) s''
            | r => r

/-- The source operands of a scalar instruction with floating-point fields, after the checks of R273 on them and on
the destination. -/
def operands (s : State) (p : Place) (t : Thread) (word : Word) (srcs : List Dst) (dst : Option Dst) : Vals :=
  let k := s.core (coreOf p)
  let dstEng := dst.bind (k.mapped t.uid)
  if t.acquiring && (dstEng.isSome || srcs.any (fun d => (k.mapped t.uid d).isSome)) then .stop (.stall s)
  else if srcs.any (fun d => match k.mapped t.uid d with
      | some (_, e) => e.dir
      | none => false) then .stop (.trap ⟨0x16, word⟩)
  else
    match dstEng with
    | none => popAll s s p srcs
    | some (eng, e) =>
      if !e.dir then .stop (.trap ⟨0x16, word⟩)
      else if e.count ≤ e.pos then .stop (.trap ⟨0x18, BitVec.ofNat 64 eng⟩)
      else
        match lookT s p t (e.addr e.pos) (typeSize e.type) (typeSize e.type) needW with
        | .fault c => .stop (.trap c)
        | .absent page => .stop (.gone (parkPage s p page))
        | .ok _ => popAll s s p srcs

/-- The item of an element pushed to a write stream, and its engine (R271); none where the destination is a register. -/
def pushItem (s : State) (p : Place) (t : Thread) (d : Dst) (v : Word) : Option (Nat × Item) :=
  match (s.core (coreOf p)).mapped t.uid d with
  | none => none
  | some (eng, e) =>
    match lookT s p t (e.addr e.pos) (typeSize e.type) (typeSize e.type) needW with
    | .ok l => some (eng, storeItemAt p l (leBytes (typeSize e.type) v.toNat) (s.slack p t))
    | _ => none

/-- A scalar floating-point instruction: its operands, popped or read, and its result, pushed or written (R271). -/
def computeF (word : Word) (srcs : List Dst) (d : Dst) (f : List Word → Word) (s : State) :
    Host.Outcome State Fault Refusal :=
  issue word (srcs ++ [d]) (isShared d.reg) (fun p t _ s =>
    match operands s p t word srcs (some d) with
    | .stop r => r
    | .ok vs s' =>
      match pushItem s p t d (f vs) with
      | none => .done (s'.writeReg p d (f vs))
      | some (eng, i) =>
        match buffer s' p i with
        | .ok s'' => .done (s''.bump (coreOf p) eng)
        | .again _ =>
          match buffer s p i with
          | .again s'' => .stall s''
          | .ok _ => .stall s) s

end Sys2Proof.Machine
end

