-- ==== Sys2Proof/Machine/Alu.lean ====
section
/-! DEFINITION. What the integer, bit-field and scalar floating-point instructions compute (R37, R80 to R87). -/

namespace Sys2Proof.Machine

/-! ## The integer ALU (R80 to R84) -/

def aluAdd (w : Bool) (a b : Word) : Word := res w (opd w a + opd w b)
def aluSub (w : Bool) (a b : Word) : Word := resI w ((opd w a : Int) - opd w b)
def aluMul (w : Bool) (a b : Word) : Word := res w (opd w a * opd w b)
def aluMulh (w : Bool) (a b : Word) : Word := resI w (opS w a * opS w b / 2 ^ width w)
def aluMulhu (w : Bool) (a b : Word) : Word := res w (opd w a * opd w b / 2 ^ width w)
def aluMadd (w : Bool) (d a b : Word) : Word := res w (opd w d + opd w a * opd w b)
def aluAbs (w : Bool) (a : Word) : Word := resI w (if opS w a < 0 then -opS w a else opS w a)
def aluMin (w : Bool) (a b : Word) : Word := resI w (if opS w b < opS w a then opS w b else opS w a)
def aluMax (w : Bool) (a b : Word) : Word := resI w (if opS w a < opS w b then opS w b else opS w a)
def aluMinu (w : Bool) (a b : Word) : Word := res w (if opd w b < opd w a then opd w b else opd w a)
def aluMaxu (w : Bool) (a b : Word) : Word := res w (if opd w a < opd w b then opd w b else opd w a)
def aluAnd (w : Bool) (a b : Word) : Word := res w (opd w a &&& opd w b)
def aluOr (w : Bool) (a b : Word) : Word := res w (opd w a ||| opd w b)
def aluXor (w : Bool) (a b : Word) : Word := res w (opd w a ^^^ opd w b)
def aluAndn (w : Bool) (a b : Word) : Word := res w (opd w a &&& (2 ^ width w - 1 - opd w b))

/-- ADDV and SUBV: the exact result, or OVERFLOW with the wrapped one (R81). -/
def aluChecked (w : Bool) (v : Int) : Except Trap Word :=
  if inRange w v then .ok (resI w v) else .error ⟨cOverflow, resI w v⟩

/-- The quotient of DIV (R82): truncated; all ones by zero, and the signed minimum by −1. -/
def aluDiv (w : Bool) (a b : Word) : Word :=
  if opd w b = 0 then res w (2 ^ width w - 1) else resI w ((opS w a).tdiv (opS w b))

/-- The remainder of REM (R82), with the dividend's sign. -/
def aluRem (w : Bool) (a b : Word) : Word :=
  if opd w b = 0 then res w (opd w a) else resI w (opS w a - opS w b * (opS w a).tdiv (opS w b))

def aluDivu (w : Bool) (a b : Word) : Word :=
  if opd w b = 0 then res w (2 ^ width w - 1) else res w (opd w a / opd w b)

def aluRemu (w : Bool) (a b : Word) : Word :=
  if opd w b = 0 then res w (opd w a) else res w (opd w a % opd w b)

/-- DIVV: the two corners trap (R82). -/
def aluDivv (w : Bool) (a b : Word) : Except Trap Word :=
  if opd w b = 0 then .error ⟨cDivzero, res w (opd w a)⟩
  else if opS w a = minS w ∧ opS w b = -1 then .error ⟨cOverflow, resI w (minS w)⟩
  else .ok (aluDiv w a b)

/-- The shift amount (R83): b[5:0] at .d, b[4:0] at .w. -/
def shiftBy (w : Bool) (b : Word) : Nat := b.toNat % width w

def aluShl (w : Bool) (a : Word) (sh : Nat) : Word := res w (opd w a * 2 ^ sh)
def aluShr (w : Bool) (a : Word) (sh : Nat) : Word := res w (opd w a / 2 ^ sh)
def aluSra (w : Bool) (a : Word) (sh : Nat) : Word := resI w (opS w a / 2 ^ sh)
def aluRol (w : Bool) (a : Word) (sh : Nat) : Word := res w (opd w a * 2 ^ sh + opd w a / 2 ^ (width w - sh))

/-- Leading zeros: the powers of two that exceed the operand. -/
def aluClz (w : Bool) (a : Word) : Word :=
  BitVec.ofNat 64 ((List.range (width w)).countP (fun j => decide (opd w a < 2 ^ j)))

/-- Trailing zeros: the powers of two, from 2 up, that divide the operand. -/
def aluCtz (w : Bool) (a : Word) : Word :=
  BitVec.ofNat 64 ((List.range (width w)).countP (fun j => opd w a % 2 ^ (j + 1) == 0))

def aluPopc (w : Bool) (a : Word) : Word :=
  BitVec.ofNat 64 ((List.range (width w)).countP (fun j => opd w a / 2 ^ j % 2 == 1))

def aluBrev (w : Bool) (a : Word) : Word :=
  res w ((List.range (width w)).foldl (fun v j => 2 * v + opd w a / 2 ^ j % 2) 0)

/-- SEL: the condition is the width's bits of d (R84). -/
def aluSel (w : Bool) (d a b : Word) : Word := res w (if opd w d ≠ 0 then opd w a else opd w b)

/-! ## Bit fields (R87) -/

/-- The field of `width1 + 1` bits from bit `pos`. -/
def bitField (a : Word) (width1 pos : BitVec 6) : Nat := wbits a pos.toNat (width1.toNat + 1)

def aluBfx (a : Word) (width1 pos : BitVec 6) : Word := BitVec.ofNat 64 (bitField a width1 pos)
def aluBfxs (a : Word) (width1 pos : BitVec 6) : Word := sextW (width1.toNat + 1) (bitField a width1 pos)
def aluBfi (d a : Word) (width1 pos : BitVec 6) : Word := wset d pos.toNat (width1.toNat + 1) a.toNat

/-! ## Scalar floating point (R37) -/

/-- The format of a precision bit. -/
def fpOf (p : Bool) : FpFmt := if p then fp64 else fp32

/-- An operand's code: an FP32 one is bits 31:0 (R33). -/
def fpIn (p : Bool) (x : Word) : Nat := x.toNat % 2 ^ (fpOf p).width

/-- A result's register value: bits 63:32 are zero for FP32 (R33). -/
def fpOut (v : Nat) : Word := BitVec.ofNat 64 v

def fp2 (p : Bool) (f : FpFmt → Nat → Nat → Nat) (a b : Word) : Word := fpOut (f (fpOf p) (fpIn p a) (fpIn p b))
def fp1 (p : Bool) (f : FpFmt → Nat → Nat) (a : Word) : Word := fpOut (f (fpOf p) (fpIn p a))

/-- FABS: the sign bit cleared. -/
def fpAbs (f : FpFmt) (c : Nat) : Nat := c % 2 ^ (f.e + f.m)

/-- FNEG: the sign bit inverted. -/
def fpNegate (f : FpFmt) (c : Nat) : Nat := if fpSign f c then c - 2 ^ (f.e + f.m) else c + 2 ^ (f.e + f.m)

/-- The compares: any NaN gives 0. -/
def fpCompare (p : Bool) (f : Ordering → Bool) (a b : Word) : Word :=
  match valCmp (fpVal (fpOf p) (fpIn p a)) (fpVal (fpOf p) (fpIn p b)) with
  | some o => ofCond (f o)
  | none => 0

/-- FCVTIF: a signed 64-bit integer, rounded. -/
def fpFromInt (p : Bool) (a : Word) : Word := fpOut (encodeFp (fpOf p) (valOfInt a.toInt))

/-- FCVTFI: toward zero, saturated to signed 64 bits; NaN gives 0. -/
def fpToInt (p : Bool) (a : Word) : Word := BitVec.ofInt 64 (valToInt .rtz (-2 ^ 63) (2 ^ 63 - 1) (fpVal (fpOf p) (fpIn p a)))

/-- FCVTW: to FP32 from FP64 at .s, to FP64 from FP32 at .d. -/
def fpWiden (p : Bool) (a : Word) : Word := fpOut (encodeFp (fpOf p) (fpVal (fpOf !p) (fpIn (!p) a)))

/-- FMVIF and FMVFI: the bits, the low 32 at .s. -/
def fpMove (p : Bool) (a : Word) : Word := BitVec.ofNat 64 (fpIn p a)

/-! ## Shapes of register instructions -/

/-- d := f(a, b), all integer. -/
def rrr (word : Word) (d a b : Reg) (f : Word → Word → Word) : State → Host.Outcome State Fault Refusal :=
  compute word [ri a, ri b] (ri d) (fun _ t k _ => .ok (f (readI k t a) (readI k t b)))

/-- d := f(a, b), or a trap. -/
def rrrT (word : Word) (d a b : Reg) (f : Word → Word → Except Trap Word) : State → Host.Outcome State Fault Refusal :=
  compute word [ri a, ri b] (ri d) (fun _ t k _ => f (readI k t a) (readI k t b))

/-- d := f(d, a, b). -/
def rrrd (word : Word) (d a b : Reg) (f : Word → Word → Word → Word) : State → Host.Outcome State Fault Refusal :=
  compute word [ri a, ri b] (ri d) (fun _ t k _ => .ok (f (readI k t d) (readI k t a) (readI k t b)))

/-- d := f(a). -/
def rr (word : Word) (d a : Reg) (f : Word → Word) : State → Host.Outcome State Fault Refusal :=
  compute word [ri a] (ri d) (fun _ t k _ => .ok (f (readI k t a)))

/-- d := f(a, b), all floating point. -/
def fff (word : Word) (d a b : Reg) (f : Word → Word → Word) : State → Host.Outcome State Fault Refusal :=
  computeF word [rf a, rf b] (rf d) (fun vs => match vs with
    | [x, y] => f x y
    | _ => 0)

/-- d := f(a), of the classes given. -/
def ff (word : Word) (d a : Dst) (f : Word → Word) : State → Host.Outcome State Fault Refusal :=
  computeF word [a] d (fun vs => match vs with
    | [x] => f x
    | _ => 0)

end Sys2Proof.Machine
end

