-- ==== Sys2Proof/Machine/Contexts.lean ====
section
/-! DEFINITION. New threads and contexts (R113, R140, R371), the slots that a context holds free (R24, R195), and the
placing of a thread in a slot (R53). -/

namespace Sys2Proof.Machine

/-- The checkpoint of a thread whose every register is zero. -/
def Check.zero : Check where
  i := Vector.replicate 32 0
  f := Vector.replicate 32 0
  wdep := 0
  loops := Loops.zero
  shadow := Loops.zero
  tpc := 0
  tcause := 0
  tval := 0
  tvec := 0
  tstat := 0
  streams := []
  replay := none

/-- A new thread (R371), before its creator's values: everything reads 0, and an implicit untimed region is open. -/
def Thread.new (uid ctx : Nat) (pc : Word) (p : Place) : Thread where
  uid := uid
  ctx := ctx
  pc := pc
  i := Vector.replicate 32 0
  f := Vector.replicate 32 0
  tpc := 0
  tcause := 0
  tval := 0
  tvec := 0
  tstat := 0
  loops := Loops.zero
  shadow := Loops.zero
  wsp := 0
  wdep := 0
  frames := []
  slk := 0
  slkdef := 0
  once := none
  lateev := false
  live := 0
  lateq := 0
  wid := 0
  apCore := p.core
  launchCore := p.core
  launchPeer := p.peer
  pend := []
  replay := none
  region :=
    { explicit := false, rts := 0, rstart := pc, odep := 0, items := [], reads := [], check := Check.zero, aborts := 0,
      token := none, pinned := false, exclusive := false, wantExcl := false, want := false }
  wait := .none
  locks := []
  events := []
  records := []
  bars := []
  role := .entry
  seen := 0
  begun := false
  stuck := false

/-- The registers that a creator sets, and the checkpoint of the first region with them (R211, R371). -/
def Thread.start (t : Thread) (regs : List (Nat × Word)) (fregs : List (Nat × Word)) : Thread :=
  let i := regs.foldl (fun v e => v.setIfInBounds e.1 e.2) t.i
  let f := fregs.foldl (fun v e => v.setIfInBounds e.1 e.2) t.f
  { t with i := i, f := f, region := { t.region with check := { t.region.check with i := i, f := f } } }

/-- An empty resource block. -/
def Block.zero : Block := ⟨0, 0, 0, 0, 0, 0, 0, 0, 0, 0, 0, 0, 0, 0, 0⟩

/-- A context at its build, before what its warrant and image give it (R77, R98, R140, R255). -/
def Ctx.new : Ctx where
  state := .live
  cause := none
  exitWord := 0
  cls := 0
  flags := 0
  rootSerial := 0
  serial := 0
  parent := none
  key := 0
  domain := 0
  mask := 0
  home := 0
  notBefore := 0
  notAfter := 0
  imageVA := 0
  doorFn := 0
  token := 0
  amendment := 0
  block := Block.zero
  granted := Block.zero
  owed := Block.zero
  coreHome := 0
  slots := []
  cores := []
  spans := []
  hbm := []
  tier2 := []
  shared := []
  cap := 0
  text := ⟨0, 0, 0, [], []⟩
  oldTexts := []
  dataVA := 0
  dataLen := 0
  dataOff := 0
  textOff := 0
  rtbase := 0
  barb := 0
  pinb := 65536
  tol := 0
  hthr := 0
  lateCnt := 0
  cmark := 0
  token_ := none
  barriers := []
  barAt := []
  kernels := []
  queues := []
  store := []
  held := []
  dropped := 0
  images := []
  children := []
  lp := []
  rates := []
  levels := []
  extents := []
  fault := none
  faulted := []
  expired := false
  whole := none
  perf := ⟨0, 0, 0⟩
  lastCommit := 0
  requests := []
  asked := []
  orphanedAt := 0
  liveTo := none
  liveAs := none

/-- A slot that no thread, parked parent or arriving thread holds (R28, R195). -/
def State.slotFree (s : State) (p : Place) : Bool :=
  (s.thread p).isNone && (mget s.donors p).isNone && !s.migs.any (fun m => m.dst == p)

/-- The free general slots of a context (R24), as CORE and slot; slots bound to a heap are reserved to it (R348). -/
def State.freeSlots (s : State) (c : CtxId) : List (Nat × Nat) :=
  match s.ctx c with
  | some x => x.slots.filter (fun e => s.slotFree ⟨c.peer, e.1, e.2⟩ && !x.kernels.any (fun k => k.bound.contains e))
  | none => []

/-- The lowest of some places, by CORE and slot. -/
def lowest (l : List (Nat × Nat)) : Option (Nat × Nat) :=
  l.foldl (fun m e => match m with
    | none => some e
    | some b => if e.1 < b.1 ∨ e.1 = b.1 ∧ e.2 < b.2 then some e else some b) none

/-- A thread is placed in a slot; it issues first at the slot's next position (R53). Stored items addressed to it
are delivered (R177). -/
def placeThread (s : State) (p : Place) (t : Thread) : State :=
  drainStore (s.setThread p t) (t.ctxId p) t.uid 300

end Sys2Proof.Machine
end

