-- ==== Sys2Proof/Machine/Migration.lean ====
section
/-! DEFINITION. Choosing and reserving the target of a migration (R194, R195, R368). -/

namespace Sys2Proof.Machine

/-- The ranking of a quarter's islands, as last sampled (R367). -/
def ranking (s : State) (peer dist qtr : Nat) : List Rank :=
  let l := mgetD (s.dev peer).ranks (dist * 4 + qtr) []
  if l.isEmpty then (List.range 48).map Rank.new else l
where
  Rank.new (n : Nat) : Rank := ⟨n, 0, 76, false, 56⟩

/-- The four cores of a group of a quarter. -/
def groupCores (dist qtr grp : Nat) : List Nat := (List.range 4).map (fun c => dist * 1024 + qtr * 256 + grp * 4 + c)

/-- The district order (R368): the first quarter's groups by rank, then the others' merged by temperature, lower quarter
and lower group first among equals. -/
def districtOrder (s : State) (peer dist first : Nat) : List Nat :=
  let head := (ranking s peer dist first).flatMap (fun r => groupCores dist first r.grp)
  let rest := ([0, 1, 2, 3].filter (fun q => q != first)).flatMap (fun q =>
    (ranking s peer dist q).map (fun r => (r.temp, q, r.grp)))
  let sorted := inOrder (fun a b => decide (a.1 < b.1 ∨ a.1 = b.1 ∧ (a.2.1 < b.2.1 ∨ a.2.1 = b.2.1 ∧ a.2.2 ≤ b.2.2))) rest
  head ++ sorted.flatMap (fun e => groupCores dist e.2.1 e.2.2)

/-- The slot by which a core qualifies for an arriving thread of a context: its guest slot, or a free general slot of
the context (R10, R195). DEDUCED: log entry 28. -/
def arrivalSlot (s : State) (c : CtxId) (core : Nat) (guest : Bool) : Option Nat :=
  if guest && s.slotFree ⟨c.peer, core, 14⟩ then some 14
  else (lowest ((s.freeSlots c).filter (fun e => e.1 == core))).map (·.2)

/-- The target of a migration to the memory at a context-physical address: the first qualifying core, if its arrival
buffer has an entry (R195); none: refused. -/
def migTarget (s : State) (c : CtxId) (ca : Nat) : Option Place :=
  match member s c (saPeer ca), resolve s c ca with
  | some m, some (sa, _) =>
    match homeDist sa with
    | none => none
    | some d =>
      match (districtOrder s m.peer d (homeQtr sa)).find? (fun core => (arrivalSlot s m core true).isSome) with
      | none => none
      | some core =>
        if 4 ≤ (s.core ⟨m.peer, core⟩).arrivals.length then none
        else (arrivalSlot s m core true).map (fun slot => ⟨m.peer, core, slot⟩)
  | _, _ => none

/-- An arrival-buffer entry and the slot are reserved (R195); the thread leaves later, with the address and the word of its access.
DEDUCED: log entry 29. -/
def reserve (s : State) (p : Place) (t : Thread) (dst : Place) (id : Nat) (access : Option (Word × Body × List Dst)) (ca : Nat)
    (word : Word) : State :=
  let s := s.updCore (coreOf dst) (fun k => { k with arrivals := k.arrivals ++ [id] })
  { s with migs := s.migs ++ [⟨id, t, p, dst, false, access, false, s.slack p t, false, ca, word⟩] }

/-- A stream engine mapped, or a matrix claim (R194 condition 6). -/
def busyForMove (s : State) (p : Place) (t : Thread) : Bool :=
  let k := s.core (coreOf p)
  k.streams.any (fun e => e.2.holder == some t.uid && e.2.name.isSome && !e.2.released)
    || k.oclaims.any (fun e => e.2.uid == t.uid && e.2.releasing.isNone)
    || k.tclaims.any (fun e => e.2.uid == t.uid && e.2.releasing.isNone)

/-- At most four registers named in LIVE (R194 condition 5). -/
def liveFits (t : Thread) : Bool := decide (((List.range 32).filter (fun j => t.live.toNat / 2 ^ j % 2 == 1)).length ≤ 4)

/-- Another migrating access of the thread has its window open (R194 condition 4). -/
def moving (s : State) (t : Thread) : Bool := s.migs.any (fun m => m.thread.uid == t.uid)

/-- The memory is far (R189): homed in another district or on another peer. -/
def isFar (s : State) (p : Place) (t : Thread) (l : Loc) : Bool :=
  if saPeer l.ca ≠ p.peer then (match resolve s (t.ctxId p) l.ca with
    | some (sa, _) => (homeDist sa).isSome
    | none => true)
  else match l.sa with
    | some sa => (match homeDist sa with
        | some d => d != coreDist p.core
        | none => false)
    | none => false

/-- Conditions 1 to 5 of R194, for a far access in mode .m. -/
def mayMigrate (s : State) (t : Thread) (l : Loc) : Bool :=
  !l.fetchAff && tsDepth t.tstat == 0 && !t.region.explicit && !moving s t && liveFits t

end Sys2Proof.Machine
end

