-- ==== Sys2Proof/Machine/Windows.lean ====
section
/-! DEFINITION. The window stack (R63 to R65, R91, R92, R95): pushing, spilling, filling and popping frames. -/

namespace Sys2Proof.Machine

/-- The address of frame `n`, from 1 (R64). -/
def frameAddr (wsp : Word) (n : Nat) : Word := wsp + BitVec.ofNat 64 (136 * (n - 1))

/-- The system addresses of `n` 8-byte pieces from a VA, where each lies in scratch granted to the context on this device
and passes the checks of R102 (R65). -/
def scratchPieces (s : State) (p : Place) (t : Thread) (need : Nat) : Nat → Word → Option (List Nat)
  | 0, _ => some []
  | n + 1, va =>
    match lookT s p t va 8 1 need with
    | .ok l =>
      match l.sa with
      | some sa =>
        if saKind sa = 3 then (scratchPieces s p t need n (va + 8)).map (fun r => sa :: r) else none
      | none => none
    | _ => none

/-- The pieces of frame `n`. -/
def framePieces (s : State) (p : Place) (t : Thread) (need n : Nat) : Option (List Nat) :=
  scratchPieces s p t need 17 (frameAddr t.wsp n)

/-- The bytes of a frame (R64): the return PC, then i16 to i31. -/
def Frame.bytes (f : Frame) : List Byte :=
  leBytes 8 f.ret.toNat ++ (f.win.toList.flatMap (fun x => leBytes 8 x.toNat))

/-- A frame from its 17 words. -/
def Frame.ofWords (ws : List Word) : Frame :=
  { ret := ws.headD 0, win := Vector.ofFn (fun (j : Fin 16) => ws[j.val + 1]?.getD 0), inArea := true }

/-- Bytes are written in 8-byte pieces, each an external write (R64: never region-buffered, never undone) that neither waits for the
thread's own region nor aborts it. DESIGN CHOICE: log entry 116. -/
def writePieces (s : State) (uid : Nat) : List Nat → List Byte → State
  | [], _ => s
  | sa :: rest, bs => writePieces (extWrite s (some uid) sa (bs.take 8)) uid rest (bs.drop 8)

/-- The writes would be held by a pinned or exclusive region that reads a line of the pieces (R220). -/
def piecesBlocked (s : State) (uid : Nat) (sas : List Nat) : Bool :=
  sas.any (fun sa => blocked s (some uid) (linesOf sa 8))

/-- The pieces lie in another slice, as those of a displaced thread may, and it is not their turn there (R146, R191). -/
def piecesAway (s : State) (p : Place) (sas : List Nat) : Bool := sas.any (fun sa => otherSlice p sa && !messageLets s sa)

/-- The current window (R63). -/
def Thread.window (t : Thread) : Vector Word 16 := Vector.ofFn (fun (j : Fin 16) => t.i[j.val + 16]?.getD 0)

/-- The current window is replaced; pending results of its registers are discarded (R58). -/
def Thread.setWindow (t : Thread) (w : Vector Word 16) : Thread :=
  let t := (List.range 16).foldl (fun t j => t.discard (ri (BitVec.ofNat 6 (16 + j)))) t
  { t with i := Vector.ofFn (fun (j : Fin 32) => if j.val < 16 then t.i[j.val]?.getD 0 else w[j.val - 16]?.getD 0) }

/-- Frame number of the j-th resident frame, the top one first. -/
def Thread.frameNo (t : Thread) (j : Nat) : Nat := t.wdep.toNat - j

/-- Resident frames that the area does not hold yet, lowest first: number and frame. -/
def Thread.unspilled (t : Thread) : List (Nat × Frame) :=
  ((List.range t.frames.length).zip t.frames).reverse.filterMap (fun e =>
    if e.2.inArea then none else some (t.frameNo e.1, e.2))

/-- What writing frames comes to. -/
inductive Spill where
  | ok (s : State)
  /-- a pinned or exclusive region, or another slice, holds the write -/
  | wait
  /-- the frame's address fails a check -/
  | bad (va : Word)
  deriving DecidableEq, Repr

/-- A frame of the thread in a place is written to the area and marked. DEDUCED: log entry 16. -/
def spillFrame (s : State) (p : Place) (t : Thread) (n : Nat) (f : Frame) : Spill :=
  match framePieces s p t needW n with
  | none => .bad (frameAddr t.wsp n)
  | some sas =>
    if piecesBlocked s t.uid sas || piecesAway s p sas then .wait
    else
      let s := writePieces s t.uid sas f.bytes
      .ok (s.updThread p (fun u => { u with frames := ((List.range u.frames.length).zip u.frames).map (fun e =>
        if u.frameNo e.1 = n then { e.2 with inArea := true } else e.2) }))

/-- Every frame not yet in the area is written, lowest first (R65); the first that cannot be decides. -/
def spillAll (s : State) (p : Place) (t : Thread) : List (Nat × Frame) → Spill
  | [] => .ok s
  | (n, f) :: rest =>
    match spillFrame s p t n f with
    | .ok s' => spillAll s' p t rest
    | r => r

/-- WFLUSH's writes. -/
def flushFrames (s : State) (p : Place) : Spill :=
  match s.thread p with
  | none => .ok s
  | some t =>
    match t.unspilled.find? (fun e => (framePieces s p t needW e.1).isNone) with
    | some (n, _) => .bad (frameAddr t.wsp n)
    | none => spillAll s p t t.unspilled

/-- Every frame can be written where it must go; asked before a thread leaves (R65). -/
def framesWritable (s : State) (p : Place) (t : Thread) : Bool :=
  t.unspilled.all (fun e => (framePieces s p t needW e.1).isSome)

/-- The top frame is filled from the area (R64, R65): whatever the area holds now. DEDUCED: log entry 16. -/
def fillFrame (s : State) (p : Place) (t : Thread) : Option State :=
  (framePieces s p t needR t.wdep.toNat).map (fun sas =>
    let f := Frame.ofWords (sas.map (fun sa => BitVec.ofNat 64 (leNat (s.reads sa 8))))
    s.updThread p (fun u => { u with frames := [f] }))

/-- The top frame lies in another slice, and it is not the turn of its fill there (R146, R191). -/
def fillAway (s : State) (p : Place) (t : Thread) : Bool := (framePieces s p t needR t.wdep.toNat).any (piecesAway s p)

/-- The push of CALL and CALLR (R91): its checks, a spill if the new frame cannot become resident, then the push. -/
def callTo (s : State) (p : Place) (t : Thread) (pc : Word) : Res :=
  let fa := t.wsp + BitVec.ofNat 64 (136 * t.wdep.toNat)
  if t.wdep = 65535 then .trap ⟨cWstack, 0xFFFF⟩
  else if (scratchPieces s p t needW 17 fa).isNone then .trap ⟨cWstack, fa⟩
  else
    match t.frames[2]? with
    | some f =>
      if f.inArea then .jump (s.updThread p push) pc
      else
        match spillFrame s p t (t.frameNo 2) f with
        | .ok s' => .stall s'
        | .wait => .stall s
        | .bad va => .trap ⟨cWstack, va⟩
    | none => .jump (s.updThread p push) pc
where
  push (u : Thread) : Thread :=
    let u := { u with frames := ⟨u.pc + 4, u.window, false⟩ :: u.frames.take 2, wdep := u.wdep + 1 }
    u.setWindow (Vector.replicate 16 0)

/-- RET (R91, R92): a frame that is not resident is filled first; below the opening depth the region commits. -/
def returnFrom (s : State) (p : Place) (t : Thread) : Res :=
  if t.wdep = 0 then .trap ⟨cWstack, 0⟩
  else
    match t.frames with
    | [] =>
      if fillAway s p t then .stall s else
      match fillFrame s p t with
      | some s' => .stall s'
      | none => .trap ⟨cWstack, frameAddr t.wsp t.wdep.toNat⟩
    | f :: rest =>
      let after (u : Thread) : Thread := { u.setWindow f.win with frames := rest, wdep := u.wdep - 1 }
      if (t.wdep - 1).toNat < t.region.odep.toNat then
        match tryCommit (s.updThread p after) p (after t) false 0 f.ret with
        | some s' => .jump s' f.ret
        | none => .stall s
      else .jump (s.updThread p after) f.ret

end Sys2Proof.Machine
end

