-- ==== Sys2Proof/Machine/Memory.lean ====
section
/-! DEFINITION. Loads, stores, pairs, acquire and release forms, fetches, the prefetch hint and the atomics (R99 to
R104, R189 to R197, R212, R213, R224, R236 to R246), and the accesses of an active-message handler (R254). -/

namespace Sys2Proof.Machine

/-! ## Forms of an access -/

/-- The register values that a read of bytes gives: two words for a pair, else one. -/
def readWords (size : Nat) (conv : Conv) (bs : List Byte) : List Word :=
  if size = 16 then [BitVec.ofNat 64 (leAt bs 0 8), BitVec.ofNat 64 (leAt bs 8 8)] else [conv.apply (leNat bs)]

/-- The address lies in host memory (R238). -/
def Loc.isHost (l : Loc) : Bool := saKind l.ca == 5

/-- A handler's address, inside its target slice and its context's grant (R254). DEDUCED: log entry 24. -/
def handlerLook (s : State) (p : Place) (t : Thread) (va : Word) (size align need : Nat) : Except Res Nat :=
  match lookT s p t va size align need with
  | .ok l =>
    match l.sa with
    | some sa => if saKind sa = 3 ∧ scratchCore (saOff sa) = p.core then .ok sa else .error (.gone (misuse s p t))
    | none => .error (.gone (misuse s p t))
  | .fault c => .error (.trap c)
  | .absent _ => .error (.gone (misuse s p t))

/-- A handler has a write that is held at its slice (R220). -/
def heldWrite (s : State) (uid : Nat) : Bool := s.packets.any (fun k => k.uid == uid && k.kept)

/-- A handler's store is an external write at its issue; one that a region holds back, or that follows such a one, waits in CQ (R220,
R230, R254). -/
def handlerWrite (s : State) (p : Place) (t : Thread) (sa : Nat) (data : List Byte) : Res :=
  if blocked s none (linesOf sa data.length) || heldWrite s t.uid then
    let r := mkPacket s p t sa (.store data) false (s.slack p t)
    .done (keepPacket r.1 r.2)
  else .done (extWrite s none sa data)

/-- A handler's atomic, an external write at its issue or, where it is held, once it is let go (R220, R230, R254). -/
def handlerAtomic (s : State) (p : Place) (t : Thread) (va : Word) (sa : Nat) (op : AtomOp) (w : Bool) (val cmp : Word) (d : Dst)
    (la : Nat) : Res :=
  let r := atomBytes s.mem sa op w val cmp
  if blocked s none (linesOf sa r.2.length) || heldWrite s t.uid then
    let k := mkPacket s p t sa (.ratomic op w val cmp) false (s.slack p t)
    .done (pendLater (keepPacket k.1 { k.2 with va := va }) p [d] la false k.2.id)
  else .done (pendNow (extWrite s none sa r.2) p [d] la false [(atomConv op w).apply r.1])

/-- A handler's load waits for its own atomic that is held, and sees its stores that are (R104). -/
def handlerLoad (s : State) (p : Place) (t : Thread) (sa size : Nat) (conv : Conv) (dsts : List Dst) (la : Nat) (acq : Bool) : Res :=
  if s.packets.any (fun k => k.uid == t.uid && k.kept && !k.body.plain) then .stall s
  else .done (pendNow s p dsts la acq (readWords size conv (memReads (ownMem s t.uid s.nextId) sa size)))

/-- The memory at the home of a place is poisoned, as it stands at the issue (R59, R151). -/
def poisonAt (s : State) (p : Place) (t : Thread) (l : Loc) (n : Nat) : Bool :=
  match l.sa.or ((resolve s (t.ctxId p) l.ca).map (·.1)) with
  | some sa => poisonHit s sa n
  | none => false

/-! ## Migrating accesses -/

/-- Where a thread goes for a far access in mode .m, if it may, its frames can be written and the target grants it (R65,
R194, R195). -/
def moveTarget (s : State) (p : Place) (t : Thread) (l : Loc) (mode : Bool) : Option Place :=
  if mode && isFar s p t l && mayMigrate s t l && framesWritable s p t then migTarget s (t.ctxId p) l.ca else none

/-- A migrating access is granted: the thread leaves once the window of its result has closed (R103, R195). -/
def moveFor (s : State) (p : Place) (t : Thread) (word : Word) (dst : Place) (va : Word) (ca : Nat) (body : Body) (dsts : List Dst)
    (la : Nat) (acq : Bool) : State :=
  let (id, s) := s.fresh
  pendLater (reserve s p t dst id (some (va, body, dsts)) ca word) p dsts la acq id

/-- A request leaves for a home, and its reply is a pending result (R190, R212). -/
def askHome (s : State) (p : Place) (t : Thread) (va : Word) (ca : Nat) (body : Body) (dsts : List Dst) (la : Nat)
    (acq : Bool) : State :=
  let r := mkPacket s p t ca body false (s.slack p t)
  pendLater (sendPacket r.1 { r.2 with va := va }) p dsts la acq r.2.id

/-! ## Loads -/

/-- What the slot's engines have fetched ahead is read again behind an acquiring load (R240). -/
def acquired (s : State) (p : Place) (t : Thread) (acq : Bool) : State :=
  if acq && !(heldStreams (s.core (coreOf p)) t.uid).isEmpty then dropFetched s (coreOf p) t.uid else s

/-- A load (R100, R102, R212): `mode` says that it is in mode .m, `acq` that it acquires. One whose line is reached in place and in the
group data cache is performed at its issue (log entry 4, DEDUCED), another by a message to its home (R187, R189, R191, R192); that
one faults POISON at its issue, as R59 asks (log entry 71, DESIGN CHOICE). -/
def loadFrom (s : State) (p : Place) (t : Thread) (word va : Word) (size : Nat) (conv : Conv) (dsts : List Dst) (la : Nat)
    (mode acq : Bool) : Res :=
  if t.acquiring then .stall s
  else if t.isHandler then
    match handlerLook s p t va size size needR with
    | .error r => r
    | .ok sa =>
      if poisonHit s sa size then .trap ⟨cPoison, va⟩
      else handlerLoad s p t sa size conv dsts la acq
  else
    match lookT s p t va size size needR with
    | .fault c => .trap c
    | .absent page => .gone (parkPage s p page)
    | .ok l =>
      if l.isHost && size == 16 then .trap ⟨cPerm, va⟩
      else if mode && isFar s p t l && busyForMove s p t then .trap ⟨cMigrateBusy, va⟩
      else
        match moveTarget s p t l mode with
        | some dst => .done (acquired (moveFor s p t word dst va l.ca (.read size conv) dsts la acq) p t acq)
        | none =>
          if (hitSa s p t.apCore l).isSome || (l.sa.isSome && saKind l.ca == 6) then
            match readNow s p t va l size with
            | .stop r => r
            | .ok bs s' => .done (acquired (pendNow s' p dsts la acq (readWords size conv bs)) p t acq)
          else if poisonAt s p t l size then .trap ⟨cPoison, va⟩
          else .done (acquired (askHome s p t va l.ca (.read size conv) dsts la acq) p t acq)

/-! ## Stores -/

/-- The item of a store or a release at a place (R213, R238, R241); `rel` is given for a release and tells an STL.G. -/
def storeForm (p : Place) (l : Loc) (data : List Byte) (slack : Nat) (rel : Option Bool) : Item :=
  match rel, localSa p.core l with
  | some g, none => if l.isHost then .packet l.ca (.store data) g slack else .packet l.ca (.release data) g slack
  | _, _ => storeItemAt p l data slack

/-- An item is buffered and the instruction is done, or it waits (R213, R219). -/
def buffered (s : State) (p : Place) (i : Item) : Res :=
  match buffer s p i with
  | .ok s' => .done s'
  | .again s' => .stall s'

/-- A store (R101, R102): its bytes, as one buffered unit. -/
def storeTo (s : State) (p : Place) (t : Thread) (va : Word) (data : List Byte) (rel : Option Bool) : Res :=
  if t.acquiring then .stall s
  else if t.isHandler then
    match handlerLook s p t va data.length data.length needW with
    | .error r => r
    | .ok sa => handlerWrite s p t sa data
  else
    match lookT s p t va data.length data.length needW with
    | .fault c => .trap c
    | .absent page => .gone (parkPage s p page)
    | .ok l =>
      if l.isHost && data.length == 16 then .trap ⟨cPerm, va⟩
      else buffered s p (storeForm p l data (s.slack p t) rel)

/-! ## Atomics -/

/-- The atomics that host memory takes (R238). -/
def AtomOp.forHost : AtomOp → Bool
  | .add => true
  | .swp => true
  | .cas => true
  | _ => false

/-- The last pending result of a thread goes to a stream, whose position moves on (R271). -/
def pushLast (s : State) (p : Place) (uid : Nat) (d : Dst) : State :=
  match (s.core (coreOf p)).mapped uid d with
  | none => s
  | some (eng, e) =>
    (s.updThread p (fun t =>
      { t with pend := t.pend.modify (t.pend.length - 1)
                (fun q => { q with push := some (e.addr e.pos, typeSize e.type, s.slack p t) }) })).bump (coreOf p) eng

/-- A local atomic runs where it is issued (R189, R193): on the own slice, on a line that the contention predictor takes into the
cache, and in exclusive mode, which performs it as one step. -/
def atomicHere (s : State) (p : Place) (t : Thread) (l : Loc) : Bool :=
  t.region.exclusive || (directSa p t.apCore l).any (fun sa => saKind sa == 3 || Config.predictor s.draws)

/-- A result-returning atomic on a local line (R193, R213, R245): its read is made at once, or at the home slice by a message, and its
write is buffered. -/
def localAtomic (s : State) (p : Place) (t : Thread) (va : Word) (l : Loc) (sa : Nat) (op : AtomOp) (w : Bool) (val cmp : Word)
    (d : Dst) (la : Nat) : Res :=
  let note (s : State) : State := notePredictor s (t.ctxId p) sa (!l.uncached)
  if atomicHere s p t l then
    if (directSa p t.apCore l).isNone && !messageLets s sa then .stall s
    else
      let r := atomBytes (slotMem s p t) sa op w val cmp
      match buffer (note (joinRead s p sa r.2.length)) p (.store sa r.2) with
      | .again _ => .stall s
      | .ok s' => .done (pushLast (pendNow s' p [d] la false [(atomConv op w).apply r.1]) p t.uid d)
  else
    match buffer (note (askHome s p t va l.ca (.read (if w then 4 else 8) (atomConv op w)) [d] la false)) p
        (.patomic sa op w val cmp false) with
    | .again _ => .stall s
    | .ok s' => .done (pushLast s' p t.uid d)

/-- A result-returning atomic on a place that its checks found, with its operands read (R213, R245): in the local
buffer, at its home after a commit, or at the arrival of a migration. DEDUCED: log entry 4. -/
def atomicAt (s : State) (p : Place) (t : Thread) (word va : Word) (l : Loc) (dst : Option Place) (op : AtomOp) (w : Bool)
    (val cmp : Word) (d : Dst) (la : Nat) : Res :=
  match dst with
  | some q => .done (pushLast (moveFor s p t word q va l.ca (.ratomic op w val cmp) [d] la false) p t.uid d)
  | none =>
    match localSa p.core l with
    | some sa =>
      if poisonHit s sa (if w then 4 else 8) then .trap ⟨cPoison, va⟩ else localAtomic s p t va l sa op w val cmp d la
    | none => .done (pushLast (askHome s p t va l.ca (.ratomic op w val cmp) [d] la false) p t.uid d)

/-- The atomic's place is neither local nor reached by a migration: its region commits before it issues (R213). -/
def commitsFirst (p : Place) (l : Loc) (dst : Option Place) : Bool := dst.isNone && (localSa p.core l).isNone

/-- The result goes to a stream, whose element will take a line of the region (R219, R271). -/
def pushNeeds (s : State) (p : Place) (t : Thread) (d : Dst) : Bool :=
  !t.region.exclusive && ((s.core (coreOf p)).mapped t.uid d).isSome

/-- A result-returning atomic (R245); a floating-point operand may be popped from a stream (R271). The operands are those of
the issue (R57), also where the region commits first: the region that opens finds the element taken. -/
def atomic (s : State) (p : Place) (t : Thread) (word : Word) (va : Word) (op : AtomOp) (w : Bool) (b d : Dst) (cmp : Word)
    (la : Nat) : Res :=
  let n := if w then 4 else 8
  if t.acquiring then .stall s
  else if t.isHandler then
    match handlerLook s p t va n n needRW with
    | .error r => r
    | .ok sa =>
      if poisonHit s sa n then .trap ⟨cPoison, va⟩
      else handlerAtomic s p t va sa op w (readReg (s.core (coreOf p)) t b) cmp d la
  else
    match lookT s p t va n n needRW with
    | .fault c => .trap c
    | .absent page => .gone (parkPage s p page)
    | .ok l =>
      if l.isHost && !op.forHost then .trap ⟨cPerm, va⟩
      else if isFar s p t l && busyForMove s p t then .trap ⟨cMigrateBusy, va⟩
      else
        let dst := moveTarget s p t l true
        if commitsFirst p l dst && poisonAt s p t l n then .trap ⟨cPoison, va⟩
        else if pushNeeds s p t d && !lineFree s p t (if (localSa p.core l).isSome then 2 else 1) then .stall (noLine s p t) else
        match operands s p t word [b] (some d) with
        | .stop r => r
        | .ok vs s1 =>
          match s1.thread p with
          | none => .stall s
          | some t1 =>
            if commitsFirst p l dst then
              match tryCommit s1 p t1 false 0 (t.pc + 4) with
              | none => .stall s
              | some s0 =>
                match s0.thread p with
                | none => .stall s
                | some t0 => atomicAt s0 p t0 word va l dst op w (vs.headD 0) cmp d la
            else
              match atomicAt s1 p t1 word va l dst op w (vs.headD 0) cmp d la with
              | .stall _ => (match localSa p.core l with
                  | some sa => (match buffer s p (.store sa (List.replicate n 0)) with
                      | .again s' => .stall s'
                      | .ok _ => .stall s)
                  | none => .stall s)
              | r => r

/-- A posted atomic (R246): its operands are read at issue, and it is buffered. -/
def posted (s : State) (p : Place) (t : Thread) (word : Word) (va : Word) (op : AtomOp) (w : Bool) (b : Dst) (cmp : Word) :
    Res :=
  let n := if w then 4 else 8
  if t.acquiring then .stall s
  else
    match lookT s p t va n n needRW with
    | .fault c => .trap c
    | .absent page => .gone (parkPage s p page)
    | .ok l =>
      if l.isHost && !op.forHost then .trap ⟨cPerm, va⟩
      else
        match operands s p t word [b] none with
        | .stop r => r
        | .ok vs s1 =>
          let v := vs.headD 0
          let item := match localSa p.core l with
            | some sa => Item.patomic sa op w v cmp (!l.uncached)
            | none => Item.packet l.ca (.patomic op w v cmp) false (s.slack p t)
          match buffer s1 p item with
          | .ok s' => .done s'
          | .again _ =>
            match buffer s p item with
            | .again s' => .stall s'
            | .ok _ => .stall s

/-! ## The instructions: basic accesses (R99) -/

/-- An L-form load. -/
def loadL (word : Word) (d a : Reg) (la : BitVec 4) (off : BitVec 9) (size : Nat) (conv : Conv) (s : State) :
    Host.Outcome State Fault Refusal :=
  issue word [ri a, ri d] (isShared d) (fun p t k s =>
    loadFrom s p t word (eaL (readI k t a) off size) size conv [ri d] la.toNat true false) s

/-- An X-form load; `mode` tells LDX from LDF, `acq` an LDA. -/
def loadX (word : Word) (d a b : Reg) (la : BitVec 4) (size : Nat) (conv : Conv) (mode acq : Bool) (s : State) :
    Host.Outcome State Fault Refusal :=
  issue word [ri a, ri b, ri d] (isShared d) (fun p t k s =>
    loadFrom s p t word (eaX (readI k t a) (readI k t b)) size conv [ri d] la.toNat mode acq) s

/-- An L-form store: the low bytes of d. -/
def storeL (word : Word) (d a : Reg) (off : BitVec 9) (size : Nat) (s : State) : Host.Outcome State Fault Refusal :=
  issue word [ri a, ri d] false (fun p t k s =>
    storeTo s p t (eaL (readI k t a) off size) (leBytes size (readI k t d).toNat) none) s

/-- An X-form store or release. -/
def storeX (word : Word) (d a b : Reg) (size : Nat) (rel : Option Bool) (s : State) : Host.Outcome State Fault Refusal :=
  issue word [ri a, ri b, ri d] false (fun p t k s =>
    storeTo s p t (eaX (readI k t a) (readI k t b)) (leBytes size (readI k t d).toNat) rel) s

/-- LD of a byte, sign-extended (R99, R100). -/
def execLdBSx (d a : Reg) (la : BitVec 4) (off : BitVec 9) (s : State) : Host.Outcome State Fault Refusal :=
  loadL (wordOf (.ldBSx d a la off)) d a la off 1 (.sx 8) s

/-- LD of a byte, zero-extended (R99, R100). -/
def execLdBZx (d a : Reg) (la : BitVec 4) (off : BitVec 9) (s : State) : Host.Outcome State Fault Refusal :=
  loadL (wordOf (.ldBZx d a la off)) d a la off 1 (.zx 8) s

/-- LD of a half-word, sign-extended (R99, R100). -/
def execLdHSx (d a : Reg) (la : BitVec 4) (off : BitVec 9) (s : State) : Host.Outcome State Fault Refusal :=
  loadL (wordOf (.ldHSx d a la off)) d a la off 2 (.sx 16) s

/-- LD of a half-word, zero-extended (R99, R100). -/
def execLdHZx (d a : Reg) (la : BitVec 4) (off : BitVec 9) (s : State) : Host.Outcome State Fault Refusal :=
  loadL (wordOf (.ldHZx d a la off)) d a la off 2 (.zx 16) s

/-- LD of a word, sign-extended (R99, R100). -/
def execLdWSx (d a : Reg) (la : BitVec 4) (off : BitVec 9) (s : State) : Host.Outcome State Fault Refusal :=
  loadL (wordOf (.ldWSx d a la off)) d a la off 4 (.sx 32) s

/-- LD of a word, zero-extended (R99, R100). -/
def execLdWZx (d a : Reg) (la : BitVec 4) (off : BitVec 9) (s : State) : Host.Outcome State Fault Refusal :=
  loadL (wordOf (.ldWZx d a la off)) d a la off 4 (.zx 32) s

/-- LD of 8 bytes (R99, R100). -/
def execLdD (d a : Reg) (la : BitVec 4) (off : BitVec 9) (s : State) : Host.Outcome State Fault Refusal :=
  loadL (wordOf (.ldD d a la off)) d a la off 8 (.zx 64) s

/-- LDX of a byte, sign-extended (R99, R100). -/
def execLdxBSx (d a b : Reg) (la : BitVec 4) (s : State) : Host.Outcome State Fault Refusal :=
  loadX (wordOf (.ldxBSx d a b la)) d a b la 1 (.sx 8) true false s

/-- LDX of a byte, zero-extended (R99, R100). -/
def execLdxBZx (d a b : Reg) (la : BitVec 4) (s : State) : Host.Outcome State Fault Refusal :=
  loadX (wordOf (.ldxBZx d a b la)) d a b la 1 (.zx 8) true false s

/-- LDX of a half-word, sign-extended (R99, R100). -/
def execLdxHSx (d a b : Reg) (la : BitVec 4) (s : State) : Host.Outcome State Fault Refusal :=
  loadX (wordOf (.ldxHSx d a b la)) d a b la 2 (.sx 16) true false s

/-- LDX of a half-word, zero-extended (R99, R100). -/
def execLdxHZx (d a b : Reg) (la : BitVec 4) (s : State) : Host.Outcome State Fault Refusal :=
  loadX (wordOf (.ldxHZx d a b la)) d a b la 2 (.zx 16) true false s

/-- LDX of a word, sign-extended (R99, R100). -/
def execLdxWSx (d a b : Reg) (la : BitVec 4) (s : State) : Host.Outcome State Fault Refusal :=
  loadX (wordOf (.ldxWSx d a b la)) d a b la 4 (.sx 32) true false s

/-- LDX of a word, zero-extended (R99, R100). -/
def execLdxWZx (d a b : Reg) (la : BitVec 4) (s : State) : Host.Outcome State Fault Refusal :=
  loadX (wordOf (.ldxWZx d a b la)) d a b la 4 (.zx 32) true false s

/-- LDX of 8 bytes (R99, R100). -/
def execLdxD (d a b : Reg) (la : BitVec 4) (s : State) : Host.Outcome State Fault Refusal :=
  loadX (wordOf (.ldxD d a b la)) d a b la 8 (.zx 64) true false s

/-- ST of a byte (R99, R101). -/
def execStB (d a : Reg) (off : BitVec 9) (s : State) : Host.Outcome State Fault Refusal :=
  storeL (wordOf (.stB d a off)) d a off 1 s

/-- ST of a half-word (R99, R101). -/
def execStH (d a : Reg) (off : BitVec 9) (s : State) : Host.Outcome State Fault Refusal :=
  storeL (wordOf (.stH d a off)) d a off 2 s

/-- ST of a word (R99, R101). -/
def execStW (d a : Reg) (off : BitVec 9) (s : State) : Host.Outcome State Fault Refusal :=
  storeL (wordOf (.stW d a off)) d a off 4 s

/-- ST of 8 bytes (R99, R101). -/
def execStD (d a : Reg) (off : BitVec 9) (s : State) : Host.Outcome State Fault Refusal :=
  storeL (wordOf (.stD d a off)) d a off 8 s

/-- STX of a byte (R99, R101). -/
def execStxB (d a b : Reg) (s : State) : Host.Outcome State Fault Refusal :=
  storeX (wordOf (.stxB d a b)) d a b 1 none s

/-- STX of a half-word (R99, R101). -/
def execStxH (d a b : Reg) (s : State) : Host.Outcome State Fault Refusal :=
  storeX (wordOf (.stxH d a b)) d a b 2 none s

/-- STX of a word (R99, R101). -/
def execStxW (d a b : Reg) (s : State) : Host.Outcome State Fault Refusal :=
  storeX (wordOf (.stxW d a b)) d a b 4 none s

/-- STX of 8 bytes (R99, R101). -/
def execStxD (d a b : Reg) (s : State) : Host.Outcome State Fault Refusal :=
  storeX (wordOf (.stxD d a b)) d a b 8 none s

/-! ## Pairs (R239) -/

/-- The even register of a pair, and the odd one. -/
def pairLo (d : BitVec 5) : Reg := BitVec.ofNat 6 (2 * d.toNat)
def pairHi (d : BitVec 5) : Reg := BitVec.ofNat 6 (2 * d.toNat + 1)

/-- LDP: 16 bytes in one access. -/
def execLdp (d : BitVec 5) (a : Reg) (la : BitVec 4) (off : BitVec 9) (s : State) : Host.Outcome State Fault Refusal :=
  issue (wordOf (.ldp d a la off)) [ri a, ri (pairLo d)] (isShared (pairLo d)) (fun p t k s =>
    loadFrom s p t (wordOf (.ldp d a la off)) (eaL (readI k t a) off 16) 16 (.zx 64) [ri (pairLo d), ri (pairHi d)] la.toNat true false) s

/-- STP: 16 bytes as one buffered unit. -/
def execStp (d : BitVec 5) (a : Reg) (off : BitVec 9) (s : State) : Host.Outcome State Fault Refusal :=
  issue (wordOf (.stp d a off)) [ri a, ri (pairLo d)] false (fun p t k s =>
    storeTo s p t (eaL (readI k t a) off 16)
      (leBytes 8 (readI k t (pairLo d)).toNat ++ leBytes 8 (readI k t (pairHi d)).toNat) none) s

/-! ## Acquire, release and fetch (R224, R240 to R242) -/

/-- LDA.w: the word is sign-extended (R240). -/
def execLdaW (d a b : Reg) (la : BitVec 4) (s : State) : Host.Outcome State Fault Refusal :=
  loadX (wordOf (.ldaW d a b la)) d a b la 4 (.sx 32) true true s

/-- LDA.d (R240). -/
def execLdaD (d a b : Reg) (la : BitVec 4) (s : State) : Host.Outcome State Fault Refusal :=
  loadX (wordOf (.ldaD d a b la)) d a b la 8 (.zx 64) true true s

/-- STL.w (R241). -/
def execStlW (d a b : Reg) (s : State) : Host.Outcome State Fault Refusal := storeX (wordOf (.stlW d a b)) d a b 4 (some false) s

/-- STL.d (R241). -/
def execStlD (d a b : Reg) (s : State) : Host.Outcome State Fault Refusal := storeX (wordOf (.stlD d a b)) d a b 8 (some false) s

/-- STL.G.w (R224, R241). -/
def execStlGW (d a b : Reg) (s : State) : Host.Outcome State Fault Refusal := storeX (wordOf (.stlGW d a b)) d a b 4 (some true) s

/-- STL.G.d (R224, R241). -/
def execStlGD (d a b : Reg) (s : State) : Host.Outcome State Fault Refusal := storeX (wordOf (.stlGD d a b)) d a b 8 (some true) s

/-- LDF of a byte, sign-extended: it never migrates (R242). -/
def execLdfBSx (d a b : Reg) (la : BitVec 4) (s : State) : Host.Outcome State Fault Refusal :=
  loadX (wordOf (.ldfBSx d a b la)) d a b la 1 (.sx 8) false false s

/-- LDF of a byte, zero-extended: it never migrates (R242). -/
def execLdfBZx (d a b : Reg) (la : BitVec 4) (s : State) : Host.Outcome State Fault Refusal :=
  loadX (wordOf (.ldfBZx d a b la)) d a b la 1 (.zx 8) false false s

/-- LDF of a half-word, sign-extended: it never migrates (R242). -/
def execLdfHSx (d a b : Reg) (la : BitVec 4) (s : State) : Host.Outcome State Fault Refusal :=
  loadX (wordOf (.ldfHSx d a b la)) d a b la 2 (.sx 16) false false s

/-- LDF of a half-word, zero-extended: it never migrates (R242). -/
def execLdfHZx (d a b : Reg) (la : BitVec 4) (s : State) : Host.Outcome State Fault Refusal :=
  loadX (wordOf (.ldfHZx d a b la)) d a b la 2 (.zx 16) false false s

/-- LDF of a word, sign-extended: it never migrates (R242). -/
def execLdfWSx (d a b : Reg) (la : BitVec 4) (s : State) : Host.Outcome State Fault Refusal :=
  loadX (wordOf (.ldfWSx d a b la)) d a b la 4 (.sx 32) false false s

/-- LDF of a word, zero-extended: it never migrates (R242). -/
def execLdfWZx (d a b : Reg) (la : BitVec 4) (s : State) : Host.Outcome State Fault Refusal :=
  loadX (wordOf (.ldfWZx d a b la)) d a b la 4 (.zx 32) false false s

/-- LDF of 8 bytes: it never migrates (R242). -/
def execLdfD (d a b : Reg) (la : BitVec 4) (s : State) : Host.Outcome State Fault Refusal :=
  loadX (wordOf (.ldfD d a b la)) d a b la 8 (.zx 64) false false s

/-- PREF (R243): a hint, which asks for a page of the context that is not resident; what it brings into a cache changes
no value. DEDUCED: log entry 73. -/
def execPref (a b : Reg) (s : State) : Host.Outcome State Fault Refusal :=
  issue (wordOf (.pref a b)) [ri a, ri b] false (fun p t k s =>
    match lookT s p t (eaX (readI k t a) (readI k t b)) 1 1 needR with
    | .absent page => .done (askPage s (t.ctxId p) page)
    | _ => .done s) s

/-! ## Atomics (R244 to R246) -/

/-- An integer atomic that returns the old value. -/
def atomicI (word : Word) (op : AtomOp) (w : Bool) (d a b : Reg) (la : BitVec 4) (s : State) : Host.Outcome State Fault Refusal :=
  issue word [ri a, ri b, ri d] (isShared d) (fun p t k s =>
    atomic s p t word (readI k t a) op w (ri b) (ri d) (readI k t d) la.toNat) s

/-- A floating-point atomic that returns the old value. -/
def atomicF (word : Word) (op : AtomOp) (w : Bool) (d a b : Reg) (la : BitVec 4) (s : State) : Host.Outcome State Fault Refusal :=
  issue word [ri a, rf b, rf d] (isShared d) (fun p t k s =>
    atomic s p t word (readI k t a) op w (rf b) (rf d) 0 la.toNat) s

/-- A posted integer atomic. -/
def postedI (word : Word) (op : AtomOp) (w : Bool) (d a b : Reg) (s : State) : Host.Outcome State Fault Refusal :=
  issue word [ri a, ri b, ri d] false (fun p t k s =>
    posted s p t word (readI k t a) op w (ri b) (readI k t d)) s

/-- A posted floating-point atomic. -/
def postedF (word : Word) (op : AtomOp) (w : Bool) (a b : Reg) (s : State) : Host.Outcome State Fault Refusal :=
  issue word [ri a, rf b] false (fun p t k s =>
    posted s p t word (readI k t a) op w (rf b) 0) s

/-- AADD (R245). -/
def execAadd (w : Bool) (d a b : Reg) (la : BitVec 4) (s : State) : Host.Outcome State Fault Refusal :=
  atomicI (wordOf (.aadd w d a b la)) .add w d a b la s

/-- AAND (R245). -/
def execAand (w : Bool) (d a b : Reg) (la : BitVec 4) (s : State) : Host.Outcome State Fault Refusal :=
  atomicI (wordOf (.aand w d a b la)) .and w d a b la s

/-- AOR (R245). -/
def execAor (w : Bool) (d a b : Reg) (la : BitVec 4) (s : State) : Host.Outcome State Fault Refusal :=
  atomicI (wordOf (.aor w d a b la)) .or w d a b la s

/-- AXOR (R245). -/
def execAxor (w : Bool) (d a b : Reg) (la : BitVec 4) (s : State) : Host.Outcome State Fault Refusal :=
  atomicI (wordOf (.axor w d a b la)) .xor w d a b la s

/-- AMIN (R245). -/
def execAmin (w : Bool) (d a b : Reg) (la : BitVec 4) (s : State) : Host.Outcome State Fault Refusal :=
  atomicI (wordOf (.amin w d a b la)) .min w d a b la s

/-- AMAX (R245). -/
def execAmax (w : Bool) (d a b : Reg) (la : BitVec 4) (s : State) : Host.Outcome State Fault Refusal :=
  atomicI (wordOf (.amax w d a b la)) .max w d a b la s

/-- AMINU (R245). -/
def execAminu (w : Bool) (d a b : Reg) (la : BitVec 4) (s : State) : Host.Outcome State Fault Refusal :=
  atomicI (wordOf (.aminu w d a b la)) .minu w d a b la s

/-- AMAXU (R245). -/
def execAmaxu (w : Bool) (d a b : Reg) (la : BitVec 4) (s : State) : Host.Outcome State Fault Refusal :=
  atomicI (wordOf (.amaxu w d a b la)) .maxu w d a b la s

/-- AADD.p (R246). -/
def execAaddP (w : Bool) (a b : Reg) (s : State) : Host.Outcome State Fault Refusal :=
  postedI (wordOf (.aaddP w a b)) .add w 0 a b s

/-- AAND.p (R246). -/
def execAandP (w : Bool) (a b : Reg) (s : State) : Host.Outcome State Fault Refusal :=
  postedI (wordOf (.aandP w a b)) .and w 0 a b s

/-- AOR.p (R246). -/
def execAorP (w : Bool) (a b : Reg) (s : State) : Host.Outcome State Fault Refusal :=
  postedI (wordOf (.aorP w a b)) .or w 0 a b s

/-- AXOR.p (R246). -/
def execAxorP (w : Bool) (a b : Reg) (s : State) : Host.Outcome State Fault Refusal :=
  postedI (wordOf (.axorP w a b)) .xor w 0 a b s

/-- AMIN.p (R246). -/
def execAminP (w : Bool) (a b : Reg) (s : State) : Host.Outcome State Fault Refusal :=
  postedI (wordOf (.aminP w a b)) .min w 0 a b s

/-- AMAX.p (R246). -/
def execAmaxP (w : Bool) (a b : Reg) (s : State) : Host.Outcome State Fault Refusal :=
  postedI (wordOf (.amaxP w a b)) .max w 0 a b s

/-- AMINU.p (R246). -/
def execAminuP (w : Bool) (a b : Reg) (s : State) : Host.Outcome State Fault Refusal :=
  postedI (wordOf (.aminuP w a b)) .minu w 0 a b s

/-- AMAXU.p (R246). -/
def execAmaxuP (w : Bool) (a b : Reg) (s : State) : Host.Outcome State Fault Refusal :=
  postedI (wordOf (.amaxuP w a b)) .maxu w 0 a b s

/-- ASWP (R245). -/
def execAswp (w : Bool) (d a b : Reg) (la : BitVec 4) (s : State) : Host.Outcome State Fault Refusal :=
  atomicI (wordOf (.aswp w d a b la)) .swp w d a b la s

/-- ACAS (R245). -/
def execAcas (w : Bool) (d a b : Reg) (la : BitVec 4) (s : State) : Host.Outcome State Fault Refusal :=
  atomicI (wordOf (.acas w d a b la)) .cas w d a b la s

/-- AFADD (R245). -/
def execAfadd (w : Bool) (d a b : Reg) (la : BitVec 4) (s : State) : Host.Outcome State Fault Refusal :=
  atomicF (wordOf (.afadd w d a b la)) .fadd w d a b la s

/-- AFMIN (R245). -/
def execAfmin (w : Bool) (d a b : Reg) (la : BitVec 4) (s : State) : Host.Outcome State Fault Refusal :=
  atomicF (wordOf (.afmin w d a b la)) .fmin w d a b la s

/-- AFMAX (R245). -/
def execAfmax (w : Bool) (d a b : Reg) (la : BitVec 4) (s : State) : Host.Outcome State Fault Refusal :=
  atomicF (wordOf (.afmax w d a b la)) .fmax w d a b la s

/-- ASWP.p (R246). -/
def execAswpP (w : Bool) (a b : Reg) (s : State) : Host.Outcome State Fault Refusal := postedI (wordOf (.aswpP w a b)) .swp w 0 a b s

/-- ACAS.p reads d as the compare value (R246). -/
def execAcasP (w : Bool) (d a b : Reg) (s : State) : Host.Outcome State Fault Refusal := postedI (wordOf (.acasP w d a b)) .cas w d a b s

/-- AFADD.p (R246). -/
def execAfaddP (w : Bool) (a b : Reg) (s : State) : Host.Outcome State Fault Refusal := postedF (wordOf (.afaddP w a b)) .fadd w a b s

/-- AFMIN.p (R246). -/
def execAfminP (w : Bool) (a b : Reg) (s : State) : Host.Outcome State Fault Refusal := postedF (wordOf (.afminP w a b)) .fmin w a b s

/-- AFMAX.p (R246). -/
def execAfmaxP (w : Bool) (a b : Reg) (s : State) : Host.Outcome State Fault Refusal := postedF (wordOf (.afmaxP w a b)) .fmax w a b s

end Sys2Proof.Machine
end

