-- ==== Sys2Proof/Machine/Ordering.lean ====
section
/-! DEFINITION. Region instructions, fences, moves by instruction, active messages, barriers, translation locks and
slack (R51, R223 to R228, R247 to R261, R298). The join forms are in Joins.lean. -/

namespace Sys2Proof.Machine

/-! ## Regions (R247, R248) -/

/-- A commit point that only commits: RSTART is PC + 4. -/
def commitHere (s : State) (p : Place) (t : Thread) (explicit : Bool) (ts : BitVec 32) : Res :=
  match tryCommit s p t explicit ts (t.pc + 4) with
  | some s' => .done s'
  | none => .stall s

/-- RGN. DEDUCED: log entry 22. -/
def execRgn (a : Reg) (s : State) : Host.Outcome State Fault Refusal :=
  issue (wordOf (.rgn a)) [ri a] false (fun p t k s => commitHere s p t true ((readI k t a).truncate 32)) s

/-- CMT. DEDUCED: log entry 22. -/
def execCmt (s : State) : Host.Outcome State Fault Refusal :=
  issue (wordOf .cmt) [] false (fun p t _ s => commitHere s p t false 0) s

/-- ABRT: denied in a pinned or exclusive region; else the region starts again, its count unchanged. -/
def execAbrt (s : State) : Host.Outcome State Fault Refusal :=
  issue (wordOf .abrt) [] false (fun p t _ s =>
    if t.region.fixed then .trap ⟨cAbortDenied, 0⟩ else .gone (abortPlace (s.updThread p (fun t => t.issued false)) p false)) s

/-- The region word (R248). -/
def Region.word (r : Region) : Word :=
  BitVec.ofNat 64 (r.odep.toNat * 2 ^ 16 + r.aborts % 16 * 2 ^ 11 + (if r.exclusive then 2 ^ 10 else 0)
    + (if r.pinned then 2 ^ 9 else 0) + (if r.explicit then 2 ^ 8 else 0) + r.lines % 128)

/-- RGNQ: a long-latency form of lookahead 0 (R236). DEDUCED: log entry 76. -/
def execRgnq (d : Reg) (s : State) : Host.Outcome State Fault Refusal :=
  issue (wordOf (.rgnq d)) [ri d] (isShared d) (fun p t _ s => .done (pendNow s p [ri d] 0 false [t.region.word])) s

/-! ## Fences (R223, R226 to R228, R249, R250) -/

/-- A packet is one of the slot's accesses, not yet performed: its acknowledgement or reply has not arrived. -/
def Body.isAccess : Body → Bool
  | .read .. => true
  | b => b.streamed

/-- The slot's accesses under way. -/
def underWay (s : State) (t : Thread) : List Packet := s.packets.filter (fun q => q.uid == t.uid && q.body.isAccess)

/-- A load, or an atomic that returns a value. -/
def Body.isLoad : Body → Bool
  | .read .. => true
  | .ratomic .. => true
  | _ => false

/-- A packet for another peer than the one that it left (R223). -/
def Packet.abroad (q : Packet) : Bool := saPeer q.ca != q.ctx.peer

/-- The home of a packet lies in a district of its source's device. -/
def homeIs (s : State) (q : Packet) (peer dist : Nat) : Bool :=
  saPeer q.ca == peer && (match resolve s q.ctx q.ca with
    | some (sa, _) => homeDist sa == some dist
    | none => false)

/-- A migrating access of the thread that has not left, to a peer for which `f` holds. -/
def movingTo (s : State) (t : Thread) (f : Nat → Bool) : Bool :=
  s.migs.any (fun m => m.thread.uid == t.uid && m.access.isSome && f m.dst.peer)

/-- FENCE (R223): scope district or device. -/
def execFence (dist : Bool) (s : State) : Host.Outcome State Fault Refusal :=
  issue (wordOf (.fence dist)) [] false (fun p t _ s =>
    let pending :=
      if dist then (underWay s t).any (fun q => q.body.isLoad && homeIs s q p.peer (coreDist p.core))
      else (underWay s t).any (fun q => !q.abroad) || movingTo s t (fun peer => peer == p.peer)
    if pending then .stall s else .done s) s

/-- FENCEP (R223): the slot's packets in every FS stream and its loads from other peers. -/
def execFencep (s : State) : Host.Outcome State Fault Refusal :=
  issue (wordOf .fencep) [] false (fun p t _ s =>
    if (underWay s t).any (fun q => q.abroad) || movingTo s t (fun peer => peer != p.peer) then .stall s
    else .done s) s

/-- IFENCE (R228): later fetches return the current text. -/
def execIfence (s : State) : Host.Outcome State Fault Refusal :=
  issue (wordOf .ifence) [] false (fun p t _ s =>
    match s.ctx (t.ctxId p) with
    | some x => .done (s.updThread p (fun u => { u with seen := x.text.version }))
    | none => .done s) s

/-- LFENCE (R227, R249). -/
def execLfence (s : State) : Host.Outcome State Fault Refusal :=
  issue (wordOf .lfence) [] false (fun p _ _ s => buffered s p .lfence) s

/-- TFENCE (R249, R250). -/
def execTfence (s : State) : Host.Outcome State Fault Refusal :=
  issue (wordOf .tfence) [] false (fun p _ _ s => buffered s p .tfence) s

/-- QFENCE (R226). -/
def execQfence (mask : BitVec 6) (s : State) : Host.Outcome State Fault Refusal :=
  issue (wordOf (.qfence mask)) [] false (fun p _ _ s => buffered s p (.qfence mask)) s

/-- VFENCE (R298): the slot's committed vector commands. -/
def execVfence (s : State) : Host.Outcome State Fault Refusal :=
  issue (wordOf .vfence) [] false (fun _ t k s =>
    if k.cmds.any (fun c => c.uid == t.uid && c.queue == 4 && !c.open_) then .stall s else .done s) s

/-- VWAIT (R298): the vector commands of the core that stand in VQ or in pool lines now. -/
def execVwait (s : State) : Host.Outcome State Fault Refusal :=
  issue (wordOf .vwait) [] false (fun p _ k s =>
    let cids := (k.cmds.filter (fun c => c.queue == 4)).map (·.cid)
    if cids.isEmpty then .done s else .gone (s.updThread p (fun t => { t with wait := .vector cids }))) s

/-! ## Moves by instruction (R251, R252) -/

/-- Conditions 2 and 5 of R194. -/
def maySettle (t : Thread) : Bool := tsDepth t.tstat == 0 && liveFits t

/-- A move to a place is reserved; the thread leaves with no access to perform. DEDUCED: log entry 30. -/
def moveTo (s : State) (p : Place) (t : Thread) (dst : Place) : State :=
  let (id, s) := s.fresh
  reserve s p t dst id none 0 0

/-- The district and peer of a memory place are those the thread runs in. -/
def atHome (s : State) (p : Place) (t : Thread) (ca : Nat) : Bool :=
  match resolve s (t.ctxId p) ca with
  | some (sa, _) => saPeer ca == p.peer && homeDist sa == some (coreDist p.core)
  | none => false

/-- The page of an address on another peer is not resident there (R204). -/
def awayAbsent (s : State) (p : Place) (t : Thread) (ca : Nat) : Bool :=
  saPeer ca != p.peer && (match resolve s (t.ctxId p) ca with
    | some (_, resident) => !resident
    | none => false)

/-- GO, its steps in the order of R251. A page that is not resident is waited for behind the commit; the instruction then
issues again. DEDUCED: log entry 30. -/
def execGo (a : Reg) (s : State) : Host.Outcome State Fault Refusal :=
  issue (wordOf (.go a)) [ri a] false (fun p t k s =>
    let va := readI k t a
    match lookT s p t va 1 1 0 with
    | .fault c => .trap c
    | .absent page =>
      if busyForMove s p t then .trap ⟨cMigrateBusy, va⟩
      else
        match tryCommit s p t false 0 t.pc with
        | none => .stall s
        | some s' => .gone (parkPage s' p page)
    | .ok l =>
      if saKind l.ca = 5 ∨ saKind l.ca = 6 then .trap ⟨cPerm, va⟩
      else if busyForMove s p t then .trap ⟨cMigrateBusy, va⟩
      else if awayAbsent s p t l.ca then
        match tryCommit s p t false 0 t.pc, member s (t.ctxId p) (saPeer l.ca) with
        | some s', some m => .gone (parkPageOn s' p m (saOff l.ca / 4096))
        | _, _ => .stall s
      else
        match tryCommit s p t false 0 (t.pc + 4) with
        | none => .stall s
        | some s' =>
          if !maySettle t || atHome s' p t l.ca || !framesWritable s' p t then .done s'
          else
            match migTarget s' (t.ctxId p) l.ca with
            | some dst => .done (moveTo s' p t dst)
            | none => .done s') s

/-- Where GOHOME takes a thread: its aperture core, or from there its launch core and peer. -/
def homeCore (p : Place) (t : Thread) : CoreId :=
  if p.core ≠ t.apCore then ⟨p.peer, t.apCore⟩ else ⟨t.launchPeer, t.launchCore⟩

/-- A slot of one core for an arriving thread, with an arrival-buffer entry (R195, R252). -/
def slotOn (s : State) (c : CtxId) (core : CoreId) : Option Place :=
  match member s c core.peer with
  | none => none
  | some m =>
    if 4 ≤ (s.core core).arrivals.length then none
    else (arrivalSlot s m core.core true).map (fun slot => ⟨core.peer, core.core, slot⟩)

/-- GOHOME (R252). -/
def execGohome (s : State) : Host.Outcome State Fault Refusal :=
  issue (wordOf .gohome) [] false (fun p t _ s =>
    if busyForMove s p t then .trap ⟨cMigrateBusy, 0⟩
    else
      match tryCommit s p t false 0 (t.pc + 4) with
      | none => .stall s
      | some s' =>
        let home := homeCore p t
        if coreOf p = home ∨ !maySettle t ∨ !framesWritable s' p t then .done s'
        else
          match slotOn s' (t.ctxId p) home with
          | some dst => .done (moveTo s' p t dst)
          | none => .done s') s

/-- AMSG (R253): `a` names a granted scratch byte of the quarter, `b` a handler. DEDUCED: log entry 25. -/
def execAmsg (a b : Reg) (s : State) : Host.Outcome State Fault Refusal :=
  issue (wordOf (.amsg a b)) [ri a, ri b] false (fun p t k s =>
    let va := readI k t a
    let entry := readI k t b
    let x := (s.ctx (t.ctxId p)).getD Ctx.new
    let core := apertureCore t.apCore va
    let off := va.toNat % 2 ^ 17
    let idx := apertureIndex va
    if !inAperture va || (decide (192 ≤ idx) && idx != 255) || !spansCover x.spans core off 1 then .trap ⟨cNomap, va⟩
    else if entry.toNat % 4 ≠ 0 then .trap ⟨cMisalign, entry⟩
    else
      buffered s p (.post (.amsg core entry (BitVec.ofNat 64 off) [readI k t 9, readI k t 10, readI k t 11] t.slk.toNat)
        (s.slack p t))) s

/-! ## Barriers (R255 to R259) -/

/-- A barrier number of the context, or the fault (R255). -/
def barrierNo (s : State) (p : Place) (t : Thread) (a : Word) : Except Trap Nat :=
  match s.ctx (t.ctxId p) with
  | some x => if a.toNat < x.block.barriers then .ok a.toNat else .error ⟨cBarrier, a⟩
  | none => .error ⟨cBarrier, a⟩

/-- BARSET. -/
def execBarset (a b : Reg) (s : State) : Host.Outcome State Fault Refusal :=
  issue (wordOf (.barset a b)) [ri a, ri b] false (fun p t k s =>
    let v := readI k t b
    match barrierNo s p t (readI k t a) with
    | .error c => .trap c
    | .ok n =>
      if wbits v 0 24 = 0 ∨ wbits v 25 39 ≠ 0 then .trap ⟨cBarrier, v⟩
      else buffered s p (.post (.barset n (wbits v 0 24) (wbit v 24)) (s.slack p t))) s

/-- BARREG: not undone by an abort. -/
def execBarreg (a : Reg) (s : State) : Host.Outcome State Fault Refusal :=
  issue (wordOf (.barreg a)) [ri a] false (fun p t k s =>
    match barrierNo s p t (readI k t a) with
    | .error c => .trap c
    | .ok n =>
      if t.bars.any (fun e => e.1 == n) then .done s
      else if 4 ≤ t.bars.length then .trap ⟨cBarrier, readI k t a⟩
      else .done (s.updThread p (fun u => { u with bars := u.bars ++ [(n, false, [])] }))) s

/-- BARA. -/
def execBara (a : Reg) (s : State) : Host.Outcome State Fault Refusal :=
  issue (wordOf (.bara a)) [ri a] false (fun p t k s =>
    match barrierNo s p t (readI k t a) with
    | .error c => .trap c
    | .ok n => buffered s p (.post (.arrival n 1) (s.slack p t))) s

/-- The phase of a barrier. -/
def phaseOf (s : State) (c : CtxId) (n : Nat) : Bool :=
  match s.ctx c with
  | some x => (mgetD x.barriers n Barrier.reset).phase
  | none => false

/-- The thread waits while the phase is the given one; else the instruction is over. DEDUCED: log entry 31. -/
def waitPhase (s : State) (p : Place) (t : Thread) (n : Nat) (phase : Bool) : Res :=
  if phaseOf s (t.ctxId p) n != phase then .done s
  else .gone (s.updThread p (fun u => { u with wait := .barrier n phase false, region := { u.region with rstart := u.pc } }))

/-- BARW: a commit point, then the wait. -/
def execBarw (a b : Reg) (s : State) : Host.Outcome State Fault Refusal :=
  issue (wordOf (.barw a b)) [ri a, ri b] false (fun p t k s =>
    match barrierNo s p t (readI k t a) with
    | .error c => .trap c
    | .ok n =>
      match tryCommit s p t false 0 (t.pc + 4) with
      | none => .stall s
      | some s' => waitPhase s' p t n (wbit (readI k t b) 0)) s

/-- BARAW: the arrival is made at the commit. DEDUCED: log entry 31. -/
def execBaraw (a b : Reg) (s : State) : Host.Outcome State Fault Refusal :=
  issue (wordOf (.baraw a b)) [ri a, ri b] false (fun p t k s =>
    match barrierNo s p t (readI k t a) with
    | .error c => .trap c
    | .ok n =>
      match tryCommit s p t false 0 (t.pc + 4) with
      | none => .stall s
      | some s' =>
        match s'.thread p with
        | none => .stall s
        | some u => waitPhase (arrive s' p u n (s.slack p t)) p t n (wbit (readI k t b) 0)) s

/-! ## Translation locks (R202, R203, R260) -/

/-- The range entry that covers a VA, as walked now; none where the table has a poisoned line (R151). -/
def rangeFor (s : State) (c : CtxId) (va : Word) : Option Range :=
  match s.ctx c with
  | none => none
  | some x => if rangesHit s c x then none else (rangeTable s c x).bind (fun r => r.2.find? (fun e => e.covers va))

/-- RLOCK: a dropped lock of the span is replaced; a poisoned line of the table faults POISON (R151). DESIGN CHOICE: log entry 15. -/
def execRlock (a : Reg) (s : State) : Host.Outcome State Fault Refusal :=
  issue (wordOf (.rlock a)) [ri a] false (fun p t k s =>
    let va := readI k t a
    match rangeFor s (t.ctxId p) va with
    | none => .trap ⟨if (s.ctx (t.ctxId p)).any (rangesHit s (t.ctxId p)) then cPoison else cNomap, va⟩
    | some r =>
      let others := t.locks.filter (fun l => l.range != r && !(l.dropped && l.range.covers va))
      if r.attr / 2 ^ 13 % 2 = 0 ∨ 4 ≤ others.length then .trap ⟨cPerm, va⟩
      else .done (s.updThread p (fun u => { u with locks := others ++ [⟨r, false⟩] }))) s

/-- RUNLK. -/
def execRunlk (a : Reg) (s : State) : Host.Outcome State Fault Refusal :=
  issue (wordOf (.runlk a)) [ri a] false (fun p t k s =>
    let va := readI k t a
    .done (s.updThread p (fun u => { u with locks := u.locks.filter (fun l => !l.range.covers va) }))) s

/-- RPRE: the core's TLB and its quarter's cache are filled as a walk would leave them; it never faults. -/
def execRpre (a : Reg) (s : State) : Host.Outcome State Fault Refusal :=
  issue (wordOf (.rpre a)) [ri a] false (fun p t k s =>
    let va := readI k t a
    let c := t.ctxId p
    match s.ctx c with
    | none => .done s
    | some x =>
      match walk s c x va with
      | some r => .done (cacheFor s p c.id false r)
      | none => .done s) s

/-! ## Slack (R51, R261) -/

/-- LATEQ: the count is kept. -/
def execLateq (d : Reg) (s : State) : Host.Outcome State Fault Refusal :=
  issue (wordOf (.lateq d)) [ri d] (isShared d) (fun p t _ s => .done (pendNow s p [ri d] 0 false [zx t.lateq])) s

/-- SLK. -/
def execSlk (n : BitVec 12) (s : State) : Host.Outcome State Fault Refusal :=
  issue (wordOf (.slk n)) [] false (fun p _ _ s => .done (s.updThread p (fun t => { t with slk := n }))) s

/-- SLK.once: the value holds for the next issued instruction. -/
def execSlkOnce (n : BitVec 12) (s : State) : Host.Outcome State Fault Refusal :=
  issueWith true (wordOf (.slkOnce n)) [] false (fun p _ _ s =>
    .done (s.updThread p (fun t => { t with once := some n }))) s

end Sys2Proof.Machine
end

