-- ==== Sys2Proof/Machine/Turn.lean ====
section
/-! DEFINITION. A slot's turn: the rotation (R53), what may stop the slot from issuing (R27, R57, R62, R217, R219), and
the word it issues next (R41, R70). Which slot's turn comes next, and how far time moves, are the model's choices
(log entries 3 and 8). -/

namespace Sys2Proof.Machine

/-- A place as a number, in the order of device, core and slot. -/
def placeNumber (p : Place) : Nat := p.peer * 2 ^ 17 + p.core * 16 + p.slot

/-- The next occupied place after one, cyclically; the place itself if there is no other. -/
def nextPlace (threads : Map Place Thread) (p : Place) : Place :=
  let pick (l : List Place) : Option Place := l.foldl (fun m q => match m with
    | none => some q
    | some b => if placeNumber q < placeNumber b then some q else some b) none
  let all := threads.map (·.1)
  match pick (all.filter (fun q => decide (placeNumber p < placeNumber q))) with
  | some q => q
  | none => (pick all).getD p

/-- The next turn. DESIGN CHOICE: log entry 3. -/
def rotate (s : State) : State := { s with turn := nextPlace s.threads s.turn }

/-- The core's cycle count reaches the next position of the slot (R53); shared writes that have taken effect are
applied (R61). DESIGN CHOICE: log entry 8. -/
def Core.toTurn (k : Core) (slot : Nat) : Core :=
  let k := { k with cycle := k.cycle + 1 + (slot + 16 - (k.cycle + 1) % 16) % 16 }
  k.settle

/-- The page of the text at which a thread stands is accessed by its fetch (R204). -/
def touchText (s : State) (p : Place) : State :=
  match s.thread p with
  | none => s
  | some t =>
    match s.ctx (t.ctxId p) with
    | none => s
    | some x =>
      if x.text.has t.pc.toNat then
        match x.text.pages[(t.pc.toNat - x.text.va) / 4096]? with
        | some sa => touch s (t.ctxId p) sa
        | none => s
      else s

/-- The position of the slot comes; open choices of its accesses are drawn anew. DESIGN CHOICE: log entry 8. -/
def atTurn (s : State) : State :=
  let s := touchText (s.updCore (coreOf s.turn) (fun k => k.toTurn s.turn.slot)) s.turn
  { s with now := s.now + 1, draws := s.draws + 1 }

/-- Cycles of pinned time, counted from the token step (R62). -/
def pinned (s : State) (p : Place) (t : Thread) : Nat :=
  match t.region.token with
  | some c => if t.region.pinned then (s.core (coreOf p)).cycle - c else 0
  | none => 0

/-- The pin budget of the thread's context. -/
def pinBudgetOf (s : State) (p : Place) (t : Thread) : Nat :=
  match s.ctx (t.ctxId p) with
  | some x => x.pinb.toNat
  | none => 65536

/-- A pinned region, or in a context that is being stopped an exclusive one, has reached the budget plus one cycle (R62, R143). -/
def pinOut (s : State) (p : Place) (t : Thread) : Bool :=
  (t.region.pinned || (t.region.exclusive && (s.ctx (t.ctxId p)).any (fun x => x.state == .stopping)))
    && decide (pinBudgetOf s p t < pinned s p t)

/-- The context lets the slot issue: it is LIVE, or STOPPING with a pinned or exclusive region to be run to its commit,
which is not the region of an unhandled trap (R141, R143). A handler runs to its end. -/
def ctxLets (s : State) (p : Place) (t : Thread) : Bool :=
  match t.role with
  | .handler .. => true
  | _ =>
    match s.ctx (t.ctxId p) with
    | none => false
    | some x =>
      match x.state with
      | .live => true
      | .stopping => t.region.fixed && !x.faulted.contains t.uid
      | _ => false

/-- The window of a pending result has closed, and the result has not arrived (R57 point 2). -/
def Thread.windowWaits (t : Thread) : Bool := t.pend.any (fun q => q.left == 0 && q.value.isNone)

/-- A handler has issued its 64 instructions (R254). -/
def Thread.spent (t : Thread) : Bool :=
  match t.role with
  | .handler _ _ n => decide (64 ≤ n)
  | _ => false

/-- The thread has reserved its place elsewhere by GO or GOHOME, and leaves (R251, R252), or has arrived and is still to perform
its access (R197). DEDUCED: log entry 29. -/
def leaving (s : State) (t : Thread) : Bool := s.migs.any (fun m => m.thread.uid == t.uid && (m.access.isNone || m.landed))

/-- Nothing stops the slot from issuing its next instruction. -/
def slotReady (s : State) (p : Place) (t : Thread) : Bool :=
  ctxLets s p t && !leaving s t && t.wait == .none && !t.windowWaits && !t.spent && !pinOut s p t
    && !(t.region.wantExcl && !t.region.exclusive) && (t.region.explicit || decide (t.region.lines < 48))

/-! ## Replay (R70) -/

/-- The register fields of a captured word that a stagger may move: a lowest bit for each of d, a and b that the word
uses as a register. -/
def staggerFields (w : Nat) : List Nat :=
  let major := fld w 25 7
  if major = 1 then
    let op := fld w 0 6
    if op = 0x0D ∨ (0x1A ≤ op ∧ op ≤ 0x1D) then [19, 13] else [19, 13, 7]
  else if major = 0x0F then
    let op := fld w 0 6
    if (7 ≤ op ∧ op ≤ 9) ∨ 0x0D ≤ op then [19, 13] else [19, 13, 7]
  else [19, 13]

/-- One field staggered: the bank bit is kept. -/
def staggerField (n lo w : Nat) : Nat :=
  let x := fld w lo 6
  let y := x / 32 * 32 + (x % 32 + n) % 32
  w - x * 2 ^ lo + y * 2 ^ lo

/-- The word that a replay executes next. -/
def Replay.word (r : Replay) : Nat :=
  let w := r.words[r.i]?.getD 0
  let pick (lo m : Nat) : Bool := (staggerFields w).contains lo && r.mask.toNat / m % 2 == 1
  let n := r.k * r.stp
  let w := if pick 19 4 then staggerField n 19 w else w
  let w := if pick 13 2 then staggerField n 13 w else w
  if pick 7 1 then staggerField n 7 w else w

/-- The word that a thread issues next, or the fault or missing page of its fetch (R41 steps 1 and 2). -/
def nextWord (s : State) (p : Place) (t : Thread) : Nat ⊕ Look :=
  match t.replay with
  | some r => .inl r.word
  | none => fetch s (t.ctxId p) t.locks t.seen t.pc

/-! ## Waits that end at the slot's own position -/

/-- The wait of a thread ends: its instruction retires. A wait that is a commit point leaves its region with the next
instruction as RSTART; while it lasted that was the wait itself (R141). -/
def endWait (s : State) (p : Place) (commits : Bool) : State :=
  retire (s.updThread p (fun t =>
    { t with wait := .none, region := if commits then { t.region with rstart := t.pc + 4 } else t.region })) p false

/-- A committed counter, read at its home (R256); none where it is no longer granted. -/
def counterAt (s : State) (c : CtxId) (t : Thread) (va : Word) : Option Nat :=
  match look s c t.apCore t.locks va 8 8 needR with
  | .ok l => (resolve s c l.ca).map (fun r => leNat (s.reads r.1 8))
  | _ => none

/-- The line of a counter is poisoned: the read that JWAIT makes again faults (R151). -/
def counterHit (s : State) (c : CtxId) (t : Thread) (va : Word) : Bool :=
  match look s c t.apCore t.locks va 8 8 needR with
  | .ok l => (resolve s c l.ca).any (fun r => poisonHit s r.1 8)
  | _ => false

/-- Every thread that waits in JWAIT on a counter that reads 0 has its wait ended; the counters are looked at after
every step that writes memory (R256). One whose counter is poisoned issues its JWAIT again (R151). -/
def wakeJoins (s : State) : State :=
  { s with threads := s.threads.map (fun e =>
      match e.2.wait with
      | .join va =>
        if counterHit s (e.2.ctxId e.1) e.2 va then (e.1, { e.2 with wait := .none })
        else if counterAt s (e.2.ctxId e.1) e.2 va = some 0 then (e.1, { e.2 with wait := .ended }) else e
      | _ => e) }

/-- What a slot that does not issue does at its position: an ended wait retires its instruction, a region that waits for
exclusive mode takes its token step (R217), a full implicit region commits (R219). -/
def atPosition (s : State) (p : Place) (t : Thread) : State :=
  if !ctxLets s p t then { s with stalled := true }
  else
    match t.wait with
    | .ended => endWait s p true
    | .barrier _ _ true => endWait s p true
    | .vector cids =>
      if cids.any (fun cid => (s.core (coreOf p)).cmds.any (fun c => c.cid == cid)) then { s with stalled := true }
      else endWait s p false
    | .none =>
      if t.region.wantExcl && !t.region.exclusive && canToken s p t then { giveToken s p true with stalled := false }
      else if !t.region.explicit && decide (48 ≤ t.region.lines) && !pinOut s p t then
        match tryCommit s p t false 0 t.pc with
        | some s' => { s' with stalled := false }
        | none => { s with stalled := true }
      else { s with stalled := true }
    | _ => { s with stalled := true }

end Sys2Proof.Machine
end

