-- ==== Sys2Proof/Machine/Kernels.lean ====
section
/-! DEFINITION. Kernels: the items and teams of a launch (R18 to R24), the entries of gain heaps, their order, their sum
and their spill extension (R350 to R353, R359 to R363), and the closure and end of a kernel (R352 to R356, R379). -/

namespace Sys2Proof.Machine

/-! ## Items and teams (R18, R19, R20) -/

/-- The present fields of a launch: width and extent. -/
def Kernel.fields (k : Kernel) : List (Nat × Nat) := (k.widths.zip k.extents).takeWhile (fun e => e.1 != 0)

/-- The WID of the n-th item, in ascending order, from some fields on. -/
def widOf : List (Nat × Nat) → Nat → Nat
  | [], _ => 0
  | (w, e) :: rest, n => n % e + 2 ^ w * widOf rest (n / e)

/-- The number of an item from its WID. -/
def numberOf : List (Nat × Nat) → Nat → Nat
  | [], _ => 0
  | (w, e) :: rest, v => v % 2 ^ w + e * numberOf rest (v / 2 ^ w)

/-- Items of a launch: one if no field is present, none for a heap alone (R24, R347). -/
def Kernel.items (k : Kernel) : Nat := if k.fields.isEmpty ∧ k.mask ≠ 0 then 0 else (k.fields.map (·.2)).prod

/-- Items of a team at a level. -/
def Kernel.inner (k : Kernel) (level : Nat) : Nat := ((k.fields.take (level + 1)).map (·.2)).prod

/-- Teams of the placement level. -/
def Kernel.teamCount (k : Kernel) : Nat := k.items / k.inner k.level

/-- The index of the n-th team of the placement level: the fields above the level, as they stand in a WID. -/
def Kernel.teamIndex (k : Kernel) (n : Nat) : Nat := widOf (k.fields.drop (k.level + 1)) n

/-- The WID of an item of a team, by its number in the team. -/
def Kernel.wid (k : Kernel) (team j : Nat) : Nat := widOf k.fields (team * k.inner k.level + j)

/-- The barrier of an item's team, where the launch asked for team barriers (R281). -/
def Kernel.barrierOf (k : Kernel) (wid : Nat) : Option Nat :=
  k.teamBar.map (fun level => k.wbase + 31 + numberOf k.fields wid / k.inner level)

/-- Every item has been handed out. -/
def Kernel.handed (k : Kernel) : Bool := (k.teams.map (·.given)).sum == k.items

/-- A kernel of a context. -/
def Ctx.kernel (x : Ctx) (num : Nat) : Option Kernel := x.kernels.find? (fun k => k.num == num)

/-- A kernel of a context is replaced. -/
def Ctx.setKernel (x : Ctx) (k : Kernel) : Ctx := { x with kernels := x.kernels.map (fun j => if j.num = k.num then k else j) }

/-- A kernel of a context is replaced in the machine. -/
def State.setKernel (s : State) (c : CtxId) (k : Kernel) : State := s.updCtx c (fun x => x.setKernel k)

/-- The kernel's pending-launch entry is released once the last item has been handed out and, with a heap binding, once it
has closed (R355). -/
def Kernel.release (k : Kernel) : Kernel := if k.handed && (k.mask == 0 || k.closed) then { k with storeQ := none } else k

/-! ## Gains (R350, R351, R363) -/

/-- The value of an FP32 code. -/
def gainVal (g : BitVec 32) : Val := fpVal fp32 g.toNat

/-- `a ≥ b`; false with a NaN. -/
def gainGe (a b : BitVec 32) : Bool :=
  match valCmp (gainVal a) (gainVal b) with
  | some .gt => true
  | some .eq => true
  | _ => false

/-- `a > b`. -/
def gainGt (a b : BitVec 32) : Bool :=
  match valCmp (gainVal a) (gainVal b) with
  | some .gt => true
  | _ => false

/-- The truncation of a finite gain to a multiple of 2^−64, in units of 2^−64 (R363). -/
def quantum (g : BitVec 32) : Int :=
  match gainVal g with
  | .fin neg m e =>
    let e := e + 64
    let v : Nat := if 0 ≤ e then m * 2 ^ e.toNat else m / 2 ^ (-e).toNat
    if neg then -(v : Int) else v
  | _ => 0

/-- sat(): a magnitude above 2^60 becomes ±2^60 (R350); and whether it did. -/
def satGain (g : BitVec 32) : BitVec 32 × Bool :=
  let big := encodeFp fp32 (.fin false 1 60)
  if fpBelow fp32 big (g.toNat % 2 ^ 31) then (BitVec.ofNat 32 (g.toNat / 2 ^ 31 * 2 ^ 31 + big), true) else (g, false)

/-- A gain with a delta added and clamped. -/
def addGain (g x : BitVec 32) : BitVec 32 × Bool := satGain (BitVec.ofNat 32 (fpAdd fp32 g.toNat x.toNat))

/-- SRR changes by an amount; it stops at the ends of its 128-bit range (R350). -/
def Kernel.addSrr (k : Kernel) (d : Int) (sat : Bool) : Kernel :=
  let v := k.srr + d
  let lo : Int := -2 ^ 127
  let hi : Int := 2 ^ 127 - 1
  { k with srr := max lo (min hi v), sat := k.sat || sat || decide (v < lo) || decide (hi < v) }

/-- SRR is below TOL, exactly (R352, R363). -/
def Kernel.belowTol (k : Kernel) : Bool :=
  match valCmp (.fin (decide (k.srr < 0)) k.srr.natAbs (-64)) (gainVal k.tol) with
  | some .lt => true
  | _ => false

/-! ## Entries (R351, R359 to R362) -/

/-- The heaps of a kernel, by number 4d + q. -/
def Kernel.heaps (k : Kernel) : List Nat := maskBits k.mask 32

/-- The home heap of a key (R360). -/
def Kernel.home (k : Kernel) (key : BitVec 32) : Nat :=
  let h := k.heaps
  h[key.toNat * 0x9E3779B1 % 2 ^ 32 / 2 ^ 16 % h.length]?.getD 0

/-- The entry of a key. -/
def Kernel.entryOf (k : Kernel) (key : BitVec 32) : Option HEntry := k.entries.find? (fun e => e.key == key)

/-- An entry is replaced. -/
def Kernel.setEntry (k : Kernel) (e : HEntry) : Kernel :=
  { k with entries := k.entries.map (fun f => if f.key = e.key then e else f) }

/-- An entry leaves the heap. -/
def Kernel.dropEntry (k : Kernel) (key : BitVec 32) : Kernel := { k with entries := k.entries.filter (fun e => e.key != key) }

/-- `a` is dispatched before `b`: the larger gain, then the smaller key (R351). -/
def HEntry.before (a b : HEntry) : Bool := gainGt a.gain b.gain || (!gainGt b.gain a.gain && decide (a.key.toNat < b.key.toNat))

/-- The first of some entries in the order of dispatch. -/
def topOf (es : List HEntry) : Option HEntry :=
  es.foldl (fun m e => match m with
    | none => some e
    | some b => if e.before b then some e else some b) none

/-- The stored and spilled entries of a heap that may be dispatched (R351). -/
def Kernel.ready (k : Kernel) (heap : Nat) : List HEntry :=
  k.entries.filter (fun e => e.state == .stored && gainGe e.gain k.hthr && k.home e.key == heap)

/-- A task of the kernel runs, a pre-empted one included (R380): its key is running. -/
def Kernel.running (k : Kernel) : Nat := (k.entries.filter (fun e => e.state == .running)).length

/-- Entries of a context, which all count against its grant (R359). -/
def Ctx.heapUsed (x : Ctx) : Nat := (x.kernels.map (fun k => k.entries.length)).sum

/-- Entries of a context that stand in the heaps, not in an extension (R362). -/
def Ctx.heapHeld (x : Ctx) : Nat := (x.kernels.map (fun k => (k.entries.filter (fun e => !e.ext)).length)).sum

/-- Physical entries of a heap in use, over all contexts of the device (R359). -/
def physUsed (s : State) (peer heap : Nat) : Nat :=
  ((s.ctxs.filter (fun e => e.1.peer == peer)).map (fun e =>
    (e.2.kernels.map (fun k => (k.entries.filter (fun h => !h.ext && k.home h.key == heap)).length)).sum)).sum

/-- The last of some entries in the order of dispatch. -/
def lastOf (es : List HEntry) : Option HEntry :=
  es.foldl (fun m e => match m with
    | none => some e
    | some b => if b.before e then some e else some b) none

/-- Records in the spill extension. -/
def Kernel.spilled (k : Kernel) : List HEntry := k.entries.filter (fun e => e.ext)

/-- The stored entry of least gain of a heap moves to the extension, if it can (R362); where the grant is short and not the heap
(`other`), and the heap stores none, one of another heap of the kernel does. DEDUCED: log entry 63. -/
def Kernel.spillOne (k : Kernel) (heap : Nat) (other : Bool) : Option Kernel :=
  if k.spill = 0 ∨ k.spillCap ≤ k.spilled.length then none
  else
    let all := k.entries.filter (fun e => e.state == .stored && !e.ext)
    match (lastOf (all.filter (fun e => k.home e.key == heap))).or (if other then lastOf all else none) with
    | some e => some (k.setEntry { e with ext := true })
    | none => none

/-- A heap's 4,096 entries are not all in use. -/
def heapOpen (s : State) (peer heap : Nat) : Bool := decide (physUsed s peer heap < 4096)

/-- Room for one more entry of a heap: the grant and the heap's 4,096 entries. -/
def heapRoom (s : State) (c : CtxId) (x : Ctx) (heap : Nat) : Bool :=
  decide (x.heapUsed < x.block.heap) && heapOpen s c.peer heap

/-! ## The bytes of entries (R359, R362) -/

/-- An entry's 16 bytes. -/
def HEntry.bytes (e : HEntry) (num ctx : Nat) : List Byte :=
  leBytes 4 e.key.toNat ++ leBytes 4 e.gain.toNat
    ++ leBytes 1 e.sel ++ leBytes 1 ((if e.state = .pending then 1 else 0) + (if e.state = .running then 2 else 0))
    ++ leBytes 2 num ++ leBytes 2 (ctx % 2 ^ 14) ++ leBytes 2 0

/-- Entries in ascending key order. -/
def byKey (es : List HEntry) : List HEntry := inOrder (fun a b => decide (a.key.toNat ≤ b.key.toNat)) es

/-- The extension's count and records. -/
def Kernel.spillBytes (k : Kernel) (ctx : Nat) : List Byte :=
  leBytes 8 k.spilled.length ++ (byKey k.spilled).flatMap (fun e => e.bytes k.num ctx)

/-- A write of the device at a VA of a context: performed, held by a region, or in want of a page. -/
inductive Put where
  | ok (s : State)
  /-- a pinned or exclusive region reads one of its lines (R220) -/
  | held
  | absent (page : Nat)
  deriving DecidableEq, Repr

/-- The device's step waits: `s` is the state to wait in, with the page that is wanted asked for (R204). -/
def Put.orWait (s : State) (c : CtxId) : Put → Except State State
  | .ok s' => .ok s'
  | .held => .error s
  | .absent page => .error (askPage s c page)

/-- Bytes that the device writes at a VA of a context, as external writes in pieces of 32-byte blocks (R220), which access
their pages (R204); a piece whose address fails its checks is not written. DESIGN CHOICE: log entry 103. -/
def deviceWrite (s : State) (c : CtxId) (ap : Nat) (locks : List Lock) : Nat → Word → List Byte → Put
  | 0, _, _ => .ok s
  | fuel + 1, va, bs =>
    if bs.isEmpty then .ok s
    else
      let n := min bs.length (32 - va.toNat % 32)
      let next (s : State) : Put := deviceWrite s c ap locks fuel (va + BitVec.ofNat 64 n) (bs.drop n)
      match look s c ap locks va n 1 0 with
      | .ok l =>
        match l.sa.or ((resolve s c l.ca).map (·.1)) with
        | some sa => if blocked s none (linesOf sa n) then .held else next (extWrite (touch s c sa) none sa (bs.take n))
        | none => next s
      | .absent page => .absent page
      | .fault _ => next s

/-- A kernel after a step of its summary heap: with it its extension is written, where it has changed (R362); else the step waits.
DEDUCED: log entry 63. -/
def putKernel (s : State) (c : CtxId) (old k : Kernel) : Except State State :=
  let s' := s.setKernel c k
  if k.spill = 0 ∨ (old.spillBytes c.id = k.spillBytes c.id) then .ok s'
  else (deviceWrite s' c 0 [] (k.spilled.length + 3) (k.spill + 8) (k.spillBytes c.id)).orWait s c

/-! ## Merging (R350, R376) -/

/-- A delta is added to an entry that is present. -/
def Kernel.raise (k : Kernel) (e : HEntry) (x : BitVec 32) : Kernel :=
  let g := addGain e.gain x
  let st := if e.state = .pending ∧ !k.closed ∧ !k.closing ∧ gainGe g.1 k.hthr then EntryState.stored else e.state
  (k.setEntry { e with gain := g.1, state := st }).addSrr (quantum g.1 - quantum e.gain) g.2

/-- A key is inserted; none where there is no room and nothing can be spilled. -/
def Kernel.insert (s : State) (c : CtxId) (x : Ctx) (k : Kernel) (key : BitVec 32) (sel : Nat) (v : BitVec 32) :
    Option Kernel :=
  let heap := k.home key
  let g := satGain v
  let e : HEntry := ⟨key, g.1, sel, if k.closing then .pending else .stored, false⟩
  let put (k : Kernel) : Kernel := ({ k with entries := k.entries ++ [e] } : Kernel).addSrr (quantum g.1) g.2
  if heapRoom s c x heap then some (put k) else (k.spillOne heap (heapOpen s c.peer heap)).map put

/-! ## Closing (R352, R379) -/

/-- The join counter of a kernel falls by 1 by an external decrement (R352): at once, or from its home's queue while a fixed
region reads its line (R220) or a handler runs on its slice (R191). DEDUCED: log entry 66. -/
def externalDec (s : State) (c : CtxId) (ca : Nat) : State :=
  match resolve s c ca with
  | some (sa, _) =>
    if blocked s none (linesOf sa 8) || !sliceFree s sa then
      let (id, s) := s.fresh
      let k : Packet :=
        { id := id, body := .jdec, ca := ca, ctx := c, uid := s.nextId, place := ⟨c.peer, 0, 0⟩, stream := none,
          num := 0, count := 0, global := false, slack := 0, slack0 := 0, late := false, ord := id, entered := s.now,
          kept := true, seen := 0, dup := false, path := [], phase := .arrived, sentAt := none, result := [], va := 0,
          after := 0 }
      { s with packets := s.packets ++ [k] }
    else extWrite s none sa (jdecBytes s.mem sa)
  | none => s

/-- A kernel that has closed: its entries are pending, its slots released, its store entry too once no item is left. -/
def Kernel.close (k : Kernel) : Kernel :=
  ({ k with
    closed := true
    closing := false
    bound := []
    entries := k.entries.map (fun e => if e.state = .stored then { e with state := .pending } else e) } : Kernel).release

/-- Closure: the binding's unit leaves the join counter. -/
def closeKernel (s : State) (c : CtxId) (old k : Kernel) : Except State State :=
  (putKernel s c old k.close).map (fun s => externalDec s c k.joinCa)

/-- The step of a task's QUIT at the summary heap (R352, R379); it waits while the extension cannot be
written. -/
def taskEnd (s : State) (c : CtxId) (num : Nat) (key held : BitVec 32) : Except State State :=
  match (s.ctx c).bind (fun x => x.kernel num) with
  | none => .ok s
  | some k0 =>
    let k := k0.addSrr (-(quantum held)) false
    let k := match k.entryOf key with
      | none => k
      | some e =>
        if e.gain.toNat % 2 ^ 31 = 0 then k.dropEntry key
        else
          k.setEntry { e with state := if k.closing || k.closed then .pending
                                       else if gainGe e.gain k.hthr then .stored else .pending }
    if k.running ≠ 0 ∨ k.closed then putKernel s c k0 k
    else if k.closing ∨ k.belowTol then closeKernel s c k0 k
    else if k.entries.any (fun e => e.state == .stored && gainGe e.gain k.hthr) then putKernel s c k0 k
    else closeKernel s c k0 { k with exhausted := true }

/-! ## Numbers freed and barriers returned (R281, R353) -/

/-- The join counter of a kernel reads 0. -/
def joinZero (s : State) (c : CtxId) (k : Kernel) : Bool :=
  match resolve s c k.joinCa with
  | some (sa, _) => leNat (s.reads sa 8) == 0
  | none => false

/-- A VA of a thread names the join counter of a kernel (R28). -/
def namesJoin (s : State) (c : CtxId) (t : Thread) (va : Word) (k : Kernel) : Bool :=
  match look s c t.apCore t.locks va 8 8 0 with
  | .ok l => l.ca == k.joinCa
  | _ => false

/-- Stores that a thread sent before a launch or spawn of its are not performed yet (R25). -/
def storesOpen (s : State) (uid before : Nat) : Bool :=
  s.packets.any (fun k => k.uid == uid && decide (k.id < before) && unperformed s k && (k.body.plain || (match k.body with
    | .release _ => true
    | _ => false)))

/-- Barriers that return to the context stand as at grant, but for the phase (R255); those of `done` kernels do. -/
def returnBarriers (bars : Map Nat Barrier) (done : List Nat) : Map Nat Barrier :=
  bars.map (fun b => match b.2.kernel with
    | some n => if done.contains n then (b.1, { Barrier.reset with phase := b.2.phase }) else b
    | none => b)

/-- Kernels whose join counter has come to 0 are marked, their barriers returned; a marked kernel with no binding left, and
no pending key, frees its number. -/
def settleCtx (s : State) (c : CtxId) : State :=
  match s.ctx c with
  | none => s
  | some x =>
    let ks := x.kernels.map (fun k => if k.joined || !joinZero s c k then k else { k with joined := true })
    let done := (ks.filter (fun k => k.joined)).map (·.num)
    let back := (x.barriers.filter (fun b => match b.2.kernel with
      | some n => done.contains n
      | none => false)).map (·.1)
    let clear (t : Thread) : Thread :=
      if t.ctx = c.id then { t with bars := t.bars.filter (fun b => !back.contains b.1) } else t
    let s := if back.isEmpty then s else
      { s with threads := s.threads.map (fun (e : Place × Thread) => if e.1.peer = c.peer then (e.1, clear e.2) else e)
               donors := s.donors.map (fun (e : Place × List Thread) => if e.1.peer = c.peer then (e.1, e.2.map clear) else e)
               cores := s.cores.map (fun (e : CoreId × Core) =>
          if e.1.peer = c.peer then
            (e.1, { e.2 with barCounts := e.2.barCounts.filter (fun b => !(b.1.1 == c.id && back.contains b.1.2)) })
          else e) }
    s.setCtx c { x with barriers := returnBarriers x.barriers done
                        kernels := ks.filter (fun k => !(k.joined && (k.mask == 0 || (k.closed && k.entries.isEmpty)))) }

/-- Every context with kernels. -/
def settleKernels (s : State) : State :=
  (s.ctxs.filter (fun e => !e.2.kernels.isEmpty)).foldl (fun s e => settleCtx s e.1) s

/-- What every step is followed by: kernels that are over end, and the waits on join counters are looked at (R256, R353). -/
def settle (s : State) : State := wakeJoins (settleKernels s)

end Sys2Proof.Machine
end

