-- ==== Sys2Proof/Machine/Launch.lean ====
section
/-! DEFINITION. Launching kernels, placing teams, handing out items, and spawning threads (R18 to R26, R281, R347, R348, R355,
R356, R358, R371 to R374). -/

namespace Sys2Proof.Machine

/-! ## Statuses (R163, R354, R382) -/

def stBadEntry : Nat := 0x55
def stNoKernel : Nat := 0x80
def stHeapClosed : Nat := 0x81
def stHeapFull : Nat := 0x82
def stBadGain : Nat := 0x83
def stHeapOpen : Nat := 0x84
def stStoreFull : Nat := 0x85
def stNoSlot : Nat := 0x86
def stBadLaunch : Nat := 0x87
def stLaunchCapacity : Nat := 0x88
def stNoItem : Nat := 0x89
def stNotItem : Nat := 0x8A
def stNotPresent : Nat := 0x8B
def stNoEntry : Nat := 0x8C

/-- A success that carries a value sets bit 63 (R370). -/
def withBit63 (v : Nat) : Word := BitVec.ofNat 64 (2 ^ 63 + v)

/-- A status or number as the word of a destination. -/
def statusWord (n : Nat) : Word := BitVec.ofNat 64 n

/-! ## Launch headers (R18, R347) -/

/-- The fields of a launch header that its bytes hold, as a kernel before its number and its slots. -/
def Kernel.ofHeader (h : List Byte) (uid slk : Nat) : Kernel where
  num := 0
  uid := uid
  entry := BitVec.ofNat 64 (leAt h 0 8)
  widths := (List.range 6).map (fun j => leAt h (8 + j) 1)
  extents := (List.range 6).map (fun j => leAt h (0x10 + 4 * j) 4)
  level := leAt h 0x28 1
  map := if leAt h 0x29 1 % 2 = 1 then
      some (BitVec.ofNat 64 (leAt h 0x30 8), BitVec.ofNat 64 (leAt h 0x38 8), BitVec.ofNat 64 (leAt h 0x40 8))
    else none
  wbase := 0
  teamBar := if leAt h 0x29 1 / 2 % 2 = 1 then some (leAt h 0x2A 1) else none
  arg := BitVec.ofNat 64 (leAt h 0x48 8)
  join := BitVec.ofNat 64 (leAt h 0x50 8)
  joinCa := 0
  born := 0
  mask := leAt h 0x5C 4
  table := []
  tol := BitVec.ofNat 32 (leAt h 0x68 4)
  hthr := BitVec.ofNat 32 (leAt h 0x6C 4)
  spill := if leAt h 0x5C 4 = 0 then 0 else BitVec.ofNat 64 (leAt h 0x70 8)
  spillCap := 0
  spillAt := []
  slk := slk
  storeQ := none
  teams := []
  nextTeam := 0
  rr := 0
  entries := []
  srr := 0
  sat := false
  closed := false
  exhausted := false
  closing := false
  bound := []
  joined := false

/-- The level at which teams are placed (R20, R24): the map's, else the team barriers', else 0. -/
def Kernel.placed (k : Kernel) : Kernel := if k.map.isSome then k else { k with level := k.teamBar.getD 0 }

/-- Presence, sum and extents of the fields (R18, R347). -/
def fieldsOk (widths extents : List Nat) : Bool :=
  let fs := widths.zip extents
  let present := fs.takeWhile (fun e => e.1 != 0)
  (fs.drop present.length).all (fun e => e.1 == 0 && e.2 == 0)
    && present.all (fun e => decide (e.1 ≤ 63) && decide (1 ≤ e.2) && decide (e.2 ≤ 2 ^ e.1))
    && decide ((widths.sum) ≤ 64)

/-- A level names a present field; with none, level 0 names the single item (R347). -/
def levelOk (k : Kernel) (n : Nat) : Bool := decide (n < max 1 k.fields.length)

/-- A TOL that LAUNCH can use: finite and not negative (R347). -/
def tolOk (w : BitVec 32) : Bool := match gainVal w with
  | .fin neg m _ => !neg || m == 0
  | _ => false

/-- An HTHR that LAUNCH can use: not NaN (R347). -/
def hthrOk (w : BitVec 32) : Bool := match gainVal w with
  | .nan => false
  | _ => true

/-- The header keeps R5, R18, R347 and the alignment of R362, as far as its bytes tell. -/
def headerOk (h : List Byte) (k : Kernel) : Bool :=
  let flags := leAt h 0x29 1
  let count := leAt h 0x78 2
  zeros h 0x0E 2 && zeros h 0x2B 5 && zeros h 0x7A 6 && decide (flags < 4)
    && fieldsOk k.widths k.extents
    && (if flags % 2 = 1 then levelOk k (leAt h 0x28 1) else leAt h 0x28 1 == 0)
    && (if flags / 2 = 1 then levelOk k (leAt h 0x2A 1) else leAt h 0x2A 1 == 0)
    && k.join.toNat % 8 == 0
    && (k.mask == 0) == (leAt h 0x58 4 == 0)
    && (if k.mask = 0 then count == 0 else decide (1 ≤ count) && decide (count ≤ 256))
    && (k.items != 0 || k.entry == 0)
    && decide (k.items + (if k.mask = 0 then 0 else 1) < 2 ^ 64)
    && leAt h 0x70 8 % 16 == 0
    && (k.tol == 0xFFFFFFFF || tolOk k.tol)
    && (k.hthr == 0xFFFFFFFF || hthrOk k.hthr)

/-- The quarters, as 4d + q, in which a context holds general slots. -/
def Ctx.quarters (x : Ctx) : List Nat := (x.slots.map (fun e => e.1 / 256)).eraseDups

/-! ## The checks of LAUNCH (R348, R372) -/

/-- What a launch comes to. -/
inductive Launched where
  | status (n : Nat)
  /-- a page of a member that one of its checks needs -/
  | absent (c : CtxId) (page : Nat)
  /-- a poisoned line that one of its checks reads (R151) -/
  | poison (va : Word)
  /-- a line that it writes is read by a pinned or exclusive region (R220) -/
  | held
  | ok (s : State) (num : Nat)
  deriving DecidableEq, Repr

/-- The entry table's words, read as it is checked (R347); an entry needs no alignment. DEDUCED: log entry 65. -/
def tableRead (s : State) (c : CtxId) (ap : Nat) (locks : List Lock) (uid : Nat) : Nat → Word → Except NoBytes (List Word)
  | 0, _ => .ok []
  | n + 1, va =>
    match grabBytes s c ap locks uid 3 va 8 with
    | .error e => .error e
    | .ok bs =>
      match tableRead s c ap locks uid n (va + 8) with
      | .ok ws => .ok (BitVec.ofNat 64 (leNat bs) :: ws)
      | r => r

/-- Where the pages of a stretch of memory lie, as context-physical addresses with lengths; none where one of them cannot be
reached, or lies elsewhere than in HBM and tier-2 (R362). -/
def placesOf (s : State) (c : CtxId) (ap : Nat) (locks : List Lock) : Nat → Word → Nat → Option (List (Nat × Nat))
  | 0, _, _ => some []
  | fuel + 1, va, n =>
    if n = 0 then some []
    else
      let k := min n (4096 - va.toNat % 4096)
      let at_ := match look s c ap locks va k 1 needR with
        | .ok l => if saKind l.ca = 0 then some l.ca else none
        | .absent page => some (mkSa c.peer 0 (4096 * page + va.toNat % 4096))
        | .fault _ => none
      match at_ with
      | none => none
      | some ca => (placesOf s c ap locks fuel (va + BitVec.ofNat 64 k) (n - k)).map (fun l => (ca, k) :: l)

/-- The capacity that a spill extension holds, and where its bytes lie, if it keeps R362. DEDUCED: log entry 63. -/
def spillRead (s : State) (c : CtxId) (ap : Nat) (locks : List Lock) (uid : Nat) (va : Word) :
    Except NoBytes (Nat × List (Nat × Nat)) :=
  if va = 0 then .ok (0, [])
  else if va.toNat % 16 ≠ 0 then .error .refused
  else
    match look s c ap locks va 16 1 needR with
    | .fault _ => .error .refused
    | .absent page => .error (.absent c page)
    | .ok l =>
      if saKind l.ca ≠ 0 then .error .refused
      else
        match grabPiece s c uid va l 8 with
        | .error e => .error e
        | .ok bs =>
          let n := 16 + 16 * leNat bs
          match placesOf s c ap locks (n / 4096 + 2) va n with
          | some l => .ok (leNat bs, l)
          | none => .error .refused

/-- A spawned child has not issued its first instruction, wherever its state is held (R355). -/
def unbegun (s : State) (peer uid : Nat) : Bool :=
  s.threads.any (fun e => e.2.uid == uid && !e.2.begun)
    || s.migs.any (fun m => m.thread.uid == uid && !m.thread.begun)
    || s.ctxs.any (fun e => e.1.peer == peer && e.2.images.any (fun m => m.thread.uid == uid && !m.thread.begun))

/-- Entries of a quarter's pending-launch store in use (R355): kernels, and spawned children that have not issued yet. -/
def storeUsed (s : State) (peer qtr : Nat) : Nat :=
  ((s.ctxs.filter (fun e => e.1.peer == peer)).map (fun e =>
    (e.2.kernels.filter (fun k => k.storeQ == some qtr)).length)).sum
  + ((mgetD (s.dev peer).spawns qtr []).filter (unbegun s peer)).length

/-- The lowest kernel number not in use. -/
def freeNumber (x : Ctx) : Option Nat := ((List.range (min 65535 (x.kernels.length + 1))).map (· + 1)).find? (fun n => (x.kernel n).isNone)

/-- The team barriers of a kernel: their numbers and each E (R281). DEDUCED: log entry 62. -/
def Kernel.teamBars (k : Kernel) : List (Nat × Nat) :=
  match k.teamBar with
  | none => []
  | some level =>
    (List.range (k.items / k.inner level)).map (fun n => (k.wbase + 31 + n, k.inner level))

/-- The team barriers are within the grant, and none is in use by another kernel. DEDUCED: log entry 62. -/
def barsFit (x : Ctx) (bars : List (Nat × Nat)) : Bool :=
  bars.all (fun b => decide (b.1 < x.block.barriers) && (mgetD x.barriers b.1 Barrier.reset).kernel.isNone)

/-- Free general slots of a context in the quarters of a mask, lowest CORE first, then lowest SLOT (R348). -/
def maskSlots (s : State) (c : CtxId) (mask : Nat) : List (Nat × Nat) :=
  inOrder (fun a b => decide (a.1 < b.1 ∨ a.1 = b.1 ∧ a.2 ≤ b.2))
    ((s.freeSlots c).filter (fun e => mask / 2 ^ (e.1 / 256) % 2 == 1))

/-- The count of a kernel's spill extension is written: none of its entries is there yet (R362). DEDUCED: log entry 63. -/
def openSpill (s : State) (c : CtxId) (ap : Nat) (locks : List Lock) (k : Kernel) : Put :=
  if k.spill = 0 then .ok s else deviceWrite s c ap locks 2 (k.spill + 8) (leBytes 8 0)

/-- A launch takes effect: its number, its slots, its store entry, its barriers and its join counter. -/
def launchAt (s : State) (c : CtxId) (x : Ctx) (k : Kernel) (num qtr request joinSa : Nat) : State :=
  let bars := k.teamBars
  let k := { k with
    num := num
    storeQ := some qtr
    bound := if k.mask = 0 then [] else (maskSlots s c k.mask).take request
    tol := if k.tol = 0xFFFFFFFF then x.tol else k.tol
    hthr := if k.hthr = 0xFFFFFFFF then x.hthr else k.hthr }
  let x := { x with
    kernels := x.kernels ++ [k]
    barriers := bars.foldl (fun m b =>
      mset m b.1 { mgetD m b.1 Barrier.reset with e := b.2, count := 0, stat := false, kernel := some num }) x.barriers }
  extWrite (s.setCtx c x) none joinSa (leBytes 8 (k.items + (if k.mask = 0 then 0 else 1)))

/-- The quarter whose pending-launch store a packet has come to. -/
def Packet.storeQtr (k : Packet) : Option Nat :=
  match k.body, k.phase with
  | .spawn core .., .arrived => some (core / 256)
  | _, _ => none

/-- A request has come to a quarter's store before a launch, which waits for its turn (R355). -/
def storeAsked (s : State) (peer qtr : Nat) : Bool := s.packets.any (fun j => j.ctx.peer == peer && j.storeQtr == some qtr)

/-- A launch from a header, for a context, with the aperture core and locks of its issuer, its name, slack and quarter. -/
def launchWith (s : State) (c : CtxId) (ap : Nat) (locks : List Lock) (uid slk qtr : Nat) (h : List Byte) : Launched :=
  match s.ctx c with
  | none => .status stBadLaunch
  | some x =>
    let k := { (Kernel.ofHeader h uid slk).placed with wbase := x.barb.toNat % 2 ^ 15 }
    let codeOk (w : Word) : Bool := w == 0 || x.isCode w
    if !headerOk h k then .status stBadLaunch
    else if !(tolOk (if k.tol = 0xFFFFFFFF then x.tol else k.tol) && hthrOk (if k.hthr = 0xFFFFFFFF then x.hthr else k.hthr)) then
      .status stBadLaunch
    else if k.items ≠ 0 ∧ !x.isCode k.entry then .status stBadLaunch
    else if (maskBits k.mask 32).any (fun q => !x.quarters.contains q) then .status stBadLaunch
    else
      match look s c ap locks k.join 8 8 needW,
          tableRead s c ap locks uid (leAt h 0x78 2) (BitVec.ofNat 64 (leAt h 0x60 8)),
          spillRead s c ap locks uid k.spill with
      | .fault _, _, _ => .status stBadLaunch
      | _, .error .refused, _ => .status stBadLaunch
      | _, _, .error .refused => .status stBadLaunch
      | .absent page, _, _ => .absent c page
      | _, .error (.absent m page), _ => .absent m page
      | _, _, .error (.absent m page) => .absent m page
      | _, .error (.poison va), _ => .poison va
      | _, _, .error (.poison va) => .poison va
      | .ok l, .ok table, .ok cap =>
        if !table.all codeOk then .status stBadLaunch
        else if storeAsked s c.peer qtr then .held
        else if 256 ≤ storeUsed s c.peer qtr then .status stStoreFull
        else if x.block.launches ≤ (x.kernels.filter (fun k => k.storeQ.isSome)).length ∨ !barsFit x k.teamBars then
          .status stLaunchCapacity
        else
          match freeNumber x with
          | none => .status stLaunchCapacity
          | some num =>
            if (maskSlots s c k.mask).length < leAt h 0x58 4 then .status stNoSlot
            else
              let sa := (l.sa.or ((resolve s c l.ca).map (·.1))).getD l.ca
              let k := { k with table := table, spillCap := cap.1, spillAt := cap.2, joinCa := l.ca, born := s.nextId }
              if blocked s none (linesOf sa 8) || !sliceFree s sa then .held
              else
                match openSpill (launchAt s c x k num qtr (leAt h 0x58 4) sa) c ap locks k with
                | .ok s' => .ok s' num
                | .held => .held
                | .absent page => .absent c page

/-- LAUNCH (R348, R372): the header is checked at issue and read after the commit. -/
def execLaunch (d a : Reg) (la : BitVec 4) (s : State) : Host.Outcome State Fault Refusal :=
  issue (wordX 0x68 d.toNat a.toNat 0 la.toNat 0) [ri a, ri d] (isShared d) (fun p t k s =>
    let va := readI k t a
    match readRecord s p t va 128 64 with
    | .stop r => r
    | .ok _ _ =>
      match tryCommit s p t false 0 (t.pc + 4) with
      | none => .stall s
      | some s1 =>
        match s1.thread p with
        | none => .stall s
        | some t1 =>
          match readRecord s1 p t1 va 128 64 with
          | .stop r => r
          | .ok h s2 =>
            match launchWith s2 (t.ctxId p) t.apCore t.locks t.uid t.slk.toNat (p.core / 256) h with
            | .status n => .done (pendNow s2 p [ri d] la.toNat false [statusWord n])
            | .absent c page => (match tryCommit s p t false 0 t.pc with
                | some s' => .gone (parkPageOn s' p c page)
                | none => .stall s)
            | .poison va => .trap ⟨cPoison, va⟩
            | .held => .stall s
            | .ok s3 num => .done (pendNow s3 p [ri d] la.toNat false [withBit63 num])) s

/-! ## New threads (R371) -/

/-- A thread of a context is created in a slot: its entry, role, slack, WID and the values of its creator. -/
def createThread (s : State) (c : CtxId) (p : Place) (pc : Word) (role : Role) (slk : Nat) (wid wsp : Word)
    (regs fregs : List (Nat × Word)) (bar : Option Nat) : State :=
  let (uid, s) := s.fresh
  let seen := match s.ctx c with
    | some x => x.text.version
    | none => 0
  let t := { (Thread.new uid c.id pc p).start regs fregs with
    role := role
    slk := BitVec.ofNat 12 slk
    slkdef := BitVec.ofNat 12 slk
    wid := wid
    wsp := wsp
    seen := seen
    bars := bar.toList.map (fun n => (n, false, [])) }
  placeThread s p t

/-! ## Teams and items (R20, R23, R24, R28) -/

/-- Bytes of a team's range that lie in each district's HBM and are resident (R23). DEDUCED: log entry 77. -/
def residentBytes (s : State) (c : CtxId) (base len : Nat) : Map Nat Nat :=
  let pages := (List.range ((base + len + 4095) / 4096 - base / 4096)).map (· + base / 4096)
  pages.foldl (fun m n =>
    let lo := max base (4096 * n)
    let hi := min (base + len) (4096 * n + 4096)
    match look s c 0 [] (BitVec.ofNat 64 lo) 1 1 0 with
    | .ok l =>
      match l.sa with
      | some sa => if saKind sa = 0 then (match homeDist sa with
          | some d => mset m d (mgetD m d 0 + (hi - lo))
          | none => m) else m
      | none => m
    | _ => m) []

/-- The districts in which a context holds general slots, in ascending order. -/
def Ctx.districts (x : Ctx) : List Nat := (List.range 8).filter (fun d => x.slots.any (fun e => coreDist e.1 == d))

/-- The district with the most bytes; the lower number among equals; none without a byte. -/
def mostBytes (m : Map Nat Nat) : Option Nat :=
  ((List.range 8).foldl (fun b d =>
    let n := mgetD m d 0
    match b with
    | none => if n = 0 then none else some (d, n)
    | some (e, k) => if k < n then some (d, n) else some (e, k)) (none : Option (Nat × Nat))).map (·.1)

/-- The next team of a kernel is placed (R23). DEDUCED: log entry 77. -/
def placeTeam (s : State) (c : CtxId) (x : Ctx) (k : Kernel) : State :=
  let ds := x.districts
  if k.teamCount ≤ k.nextTeam ∨ ds.isEmpty then s
  else
    let byMap := match k.map with
      | none => none
      | some (base, stride, len) =>
        mostBytes (residentBytes s c ((base + BitVec.ofNat 64 (k.teamIndex k.nextTeam) * stride).toNat) len.toNat)
    match byMap.filter (fun d => ds.contains d) with
    | some d => s.setKernel c { k with teams := k.teams ++ [⟨k.nextTeam, d, 0⟩], nextTeam := k.nextTeam + 1 }
    | none =>
      let d := ds[k.rr % ds.length]?.getD 0
      s.setKernel c { k with teams := k.teams ++ [⟨k.nextTeam, d, 0⟩], nextTeam := k.nextTeam + 1, rr := k.rr + 1 }

/-- TEAM_PLACEMENT. -/
def execTeamPlacement (c : CtxId) (kernel : Nat) (s : State) : Host.Outcome State Fault Refusal :=
  .next (match s.ctx c with
    | some x =>
      match x.kernel kernel with
      | some k => placeTeam s c x k
      | none => s
    | none => s)

/-- The team from which the next item of a district comes: one's own first, then the lowest placed there (R20, R28). -/
def Kernel.nextFrom (k : Kernel) (dist : Nat) (own : Option Nat) : Option Team :=
  let left := k.teams.filter (fun (u : Team) => decide (u.given < k.inner k.level))
  let mine := match own with
    | some n => left.find? (fun (u : Team) => u.index == n)
    | none => none
  mine.or ((left.filter (fun (u : Team) => u.dist == dist)).foldl (fun (m : Option Team) (t : Team) => match m with
    | none => some t
    | some b => if t.index < b.index then some t else some b) none)

/-- The next item of a team is given: its WID, and the kernel after it. -/
def Kernel.give (k : Kernel) (t : Team) : Nat × Kernel :=
  (k.wid t.index t.given,
    Kernel.release { k with teams := k.teams.map (fun u => if u.index = t.index then { u with given := u.given + 1 } else u) })

/-- The slot for an item (R24): the quarter with the most free slots of the context, the lowest CORE, the lowest SLOT. -/
def itemSlot (s : State) (c : CtxId) (dist : Nat) : Option (Nat × Nat) :=
  let free := (s.freeSlots c).filter (fun e => coreDist e.1 == dist)
  let inQ (q : Nat) : List (Nat × Nat) := free.filter (fun e => coreQtr e.1 == q)
  let best := [0, 1, 2, 3].foldl (fun m q => if (inQ m).length < (inQ q).length then q else m) 0
  lowest (inQ best)

/-- A parent's donation is to this kernel (R28). -/
def donatesTo (s : State) (c : CtxId) (k : Kernel) (t : Thread) : Bool :=
  match t.wait with
  | .donating va => t.uid == k.uid && namesJoin s c t va k && !joinZero s c k
  | _ => false

/-- An idle donated slot of a kernel in a district, lowest CORE and SLOT first, with the team of its parent (R28). -/
def donatedSlot (s : State) (c : CtxId) (k : Kernel) (dist : Nat) : Option (Place × Option Nat) :=
  let idle := s.donors.filter (fun e => e.1.peer == c.peer && coreDist e.1.core == dist && (s.thread e.1).isNone
    && !s.migs.any (fun m => m.dst == e.1) && (match e.2.head? with
      | some t => t.ctx == c.id && donatesTo s c k t
      | none => false))
  match lowest (idle.map (fun e => (e.1.core, e.1.slot))) with
  | none => none
  | some (core, slot) =>
    let p : Place := ⟨c.peer, core, slot⟩
    let own := match (mgetD s.donors p []).head? with
      | some t => (match t.role with
          | .item n true team => if n = k.num then some team else none
          | _ => none)
      | none => none
    some (p, own)

/-- An item of a kernel starts in a slot (R371); its thread is registered on its team's barrier (R281). -/
def startItem (s : State) (c : CtxId) (k : Kernel) (p : Place) (team : Team) : State :=
  let (wid, k') := k.give team
  createThread (s.setKernel c k') c p k.entry (.item k.num true team.index) k.slk (BitVec.ofNat 64 wid) 0
    [(8, BitVec.ofNat 64 wid), (9, BitVec.ofNat 64 k.num), (10, k.arg)] [] (k.barrierOf wid)

/-- The next item of a district starts in a free general slot, or else in a donated one (R24, R28), once every earlier store of
the launching thread has been performed (R25). DEDUCED: log entry 98. -/
def distribute (s : State) (c : CtxId) (k : Kernel) (dist : Nat) : State :=
  if storesOpen s k.uid k.born then s else
  match itemSlot s c dist with
  | some (core, slot) =>
    match k.nextFrom dist none with
    | some team => startItem s c k ⟨c.peer, core, slot⟩ team
    | none => s
  | none =>
    match donatedSlot s c k dist with
    | some (p, own) =>
      match k.nextFrom dist (own.filter (fun n => k.teams.any (fun (u : Team) => u.index == n && u.dist == dist))) with
      | some team => startItem s c k p team
      | none => s
    | none => s

/-- ITEM_DISTRIBUTION: only a LIVE context's threads start. -/
def execItemDistribution (c : CtxId) (kernel dist : Nat) (s : State) : Host.Outcome State Fault Refusal :=
  .next (match s.ctx c with
    | some x =>
      match x.kernel kernel with
      | some k => if x.state = .live then distribute s c k dist else s
      | none => s
    | none => s)

/-! ## WNEXT (R373) -/

/-- The context that keeps a thread's own kernel: the member where it was launched (R381). DEDUCED: log entry 66. -/
def kernelCtx (s : State) (p : Place) (t : Thread) : CtxId := (member s (t.ctxId p) t.launchPeer).getD (t.ctxId p)

/-- The join decrement of a counter, as an item of the thread's region (R213, R256); none where it cannot be reached. -/
def decItem (s : State) (p : Place) (t : Thread) (ca : Nat) : Option Item :=
  (resolve s (t.ctxId p) ca).map (fun r =>
    if saPeer r.1 = p.peer ∧ homeDist r.1 = some (coreDist p.core) then .jdec r.1 else .packet ca .jdec false (s.slack p t))

/-- The decrement that a thread's item owes its kernel's counter. -/
def owedItem (s : State) (p : Place) (t : Thread) : Option Item :=
  match t.role with
  | .item num true _ =>
    ((s.ctx (kernelCtx s p t)).bind (fun x => x.kernel num)).bind (fun k => decItem s p t k.joinCa)
  | _ => none

/-- A line is available for the join decrement of the thread's item (R219). -/
def itemRoom (s : State) (p : Place) (t : Thread) : Bool :=
  match owedItem s p t with
  | some i => t.region.exclusive || lineFree s p t (newLines t.region i)
  | none => true

/-- The join decrement of the thread's item is buffered. DEDUCED: log entry 66. -/
def finishItem (s : State) (p : Place) (t : Thread) : State :=
  match owedItem s p t with
  | some i => s.setThread p { t with region := { t.region with items := t.region.items ++ [i] } }
  | none => s

/-- The thread moves from one team barrier to another (R281). -/
def moveBarrier (s : State) (p : Place) (old new : Option Nat) : State :=
  if old = new then s
  else
    let s := match old, s.thread p with
      | some n, some t => withdraw s p t n
      | _, _ => s
    match new with
    | some n => s.updThread p (fun t => if t.bars.any (fun b => b.1 == n) then t else { t with bars := t.bars ++ [(n, false, [])] })
    | none => s

/-- The claim of WNEXT: the thread takes its next item, or holds none. -/
def claimItem (s : State) (p : Place) (num team : Nat) (wid : Word) : State × Nat :=
  let none_ : State × Nat := (s.updThread p (fun t => { t with role := .item num false team }), stNoItem)
  match s.thread p with
  | none => (s, stNoItem)
  | some t =>
    let c := kernelCtx s p t
    match s.ctx c with
    | none => none_
    | some x =>
      match x.kernel num with
      | none => none_
      | some k =>
        match k.nextFrom (if p.peer = c.peer then coreDist p.core else 8) (some team) with
        | none => none_
        | some u =>
          let (w, k') := k.give u
          let s := s.setKernel c k'
          let s := s.updThread p (fun t => { t with role := .item num true u.index, wid := BitVec.ofNat 64 w })
          (moveBarrier s p (k.barrierOf wid.toNat) (k.barrierOf w), 0)

/-- The region that WNEXT opens has its d in the checkpoint: an abort restarts behind the claim (R373). DEDUCED: log entry 104. -/
def checkpointed (s : State) (p : Place) (d : Reg) (v : Word) : State :=
  if isShared d then s
  else s.updThread p (fun t =>
    { t with region := { t.region with check := { t.region.check with i := ({ t with i := t.region.check.i }.setReg (ri d) v).i } } })

/-- WNEXT. -/
def execWnext (d : Reg) (la : BitVec 4) (s : State) : Host.Outcome State Fault Refusal :=
  issue (wordX 0x68 d.toNat 0 0 la.toNat 1) [ri d] (isShared d) (fun p t _ s =>
    match t.role with
    | .item num true team =>
      if !itemRoom s p t then .stall (noLine s p t) else
      let s0 := finishItem s p t
      match s0.thread p with
      | none => .stall s
      | some t0 =>
        match tryCommit s0 p t0 false 0 (t.pc + 4) with
        | none => .stall s
        | some s1 =>
          let (s2, st) := claimItem s1 p num team t.wid
          .done (pendNow (checkpointed s2 p d (statusWord st)) p [ri d] la.toNat false [statusWord st])
    | _ => .done (pendNow s p [ri d] la.toNat false [statusWord stNotItem])) s

/-! ## SPAWN (R358, R374) -/

/-- A request of a thread to a unit of a quarter, whose reply is a pending result. -/
def askUnit (s : State) (p : Place) (t : Thread) (c : CtxId) (qtr : Nat) (body : Body) (d : Dst) (la : Nat) : State :=
  let src := coreDist p.core
  let (s, plane) := if c.peer = p.peer then (s, 0) else nextPlane s p.peer src none
  let path := pathBetween p.peer src plane c.peer (qtr / 4) (some t.ctx) ++ [.homeIn c.peer (qtr / 4) (qtr % 4)]
  let (s, q) := mkRequestTo s p t body path (s.slack p t)
  pendLater { s with packets := s.packets ++ [{ q with ctx := c }] } p [d] la false q.id

/-- A unit's reply leaves for the slot that asked, with what its service has left of the slack (R232). -/
def answerUnit (s : State) (k : Packet) (qtr : Nat) (vs : List Word) : State :=
  let r := replySlack k.slack k.late (s.now - k.entered)
  let d := qtr / 4
  let peer := k.ctx.peer
  let (s, plane) := if peer = k.place.peer then (s, 0) else nextPlane s peer d none
  let path := pathBack k.place.peer (coreDist k.place.core) plane peer d
  let (s, k) := atQueue s { k with path := path, result := vs, slack := r.1, late := r.2 } peer d
  setPacket s { k with phase := .reply }

/-- SPAWN: the checks of its operands, the commit, the request. DEDUCED: log entry 86. -/
def execSpawn (d a b : Reg) (la : BitVec 4) (s : State) : Host.Outcome State Fault Refusal :=
  issue (wordX 0x68 d.toNat a.toNat b.toNat la.toNat 2) [ri a, ri b, ri d] (isShared d) (fun p t k s =>
    let target := readI k t a
    let entry := readI k t b
    let x := (s.ctx (t.ctxId p)).getD Ctx.new
    if entry.toNat % 4 ≠ 0 then .trap ⟨cMisalign, entry⟩
    else if wbits target 13 51 ≠ 0 ∨ !coreOk target.toNat then .done (pendNow s p [ri d] la.toNat false [statusWord stBadLaunch])
    else if !x.isCode entry then .done (pendNow s p [ri d] la.toNat false [statusWord stBadEntry])
    else
      match tryCommit s p t false 0 (t.pc + 4) with
      | none => .stall s
      | some s1 =>
        .done (askUnit s1 p t (t.ctxId p) (target.toNat / 256)
          (.spawn target.toNat entry [readI k t 8, readI k t 9, readI k t 10, readI k t 11] t.wid t.slk.toNat) (ri d) la.toNat)) s

/-- The child of an accepted spawn starts (R371). DEDUCED: log entry 86. -/
def startChild (s : State) (c : CtxId) (core slot qtr : Nat) (entry : Word) (args : List Word) (wid : Word) (slk : Nat) : State :=
  let uid := s.nextId
  let s := createThread s c ⟨c.peer, core, slot⟩ entry .child slk wid ((args[3]?.getD 0) &&& ~~~7)
    (([8, 9, 10, 11] : List Nat).zip args) [] none
  let dv := s.dev c.peer
  let live := (mgetD dv.spawns qtr []).filter (unbegun s c.peer)
  s.setDev c.peer { dv with spawns := mset dv.spawns qtr (live ++ [uid]) }

/-- A quarter's store serves its requests one at a time, in the order in which they have arrived (R355). -/
def spawnTurn (s : State) (k : Packet) : Bool :=
  !s.packets.any (fun j => j.ctx.peer == k.ctx.peer && decide (j.ord < k.ord) && j.storeQtr == k.storeQtr)

/-- SPAWN_ACCEPT: one step of the target's quarter, once every earlier store of the parent has been performed (R25). DEDUCED:
log entry 86. DEDUCED: log entry 98. -/
def execSpawnAccept (pkt : Nat) (s : State) : Host.Outcome State Fault Refusal :=
  .next (match findPacket s pkt with
    | none => s
    | some k =>
      match k.body, k.phase with
      | .spawn core entry args wid slk, .arrived =>
        let qtr := core / 256
        if storesOpen s k.uid k.id || !spawnTurn s k then s else
        match lowest ((s.freeSlots k.ctx).filter (fun e => e.1 == core)) with
        | none => answerUnit s k qtr [statusWord stNoSlot]
        | some (_, slot) =>
          if 256 ≤ storeUsed s k.ctx.peer qtr then answerUnit s k qtr [statusWord stStoreFull]
          else answerUnit (startChild s k.ctx core slot qtr entry args wid slk) k qtr [0]
      | _, _ => s)

end Sys2Proof.Machine
end

