-- ==== Sys2Proof/Machine/Heaps.lean ====
section
/-! DEFINITION. The heap forms, the updates of a summary heap and the dispatch of tasks (R349 to R353, R359 to R363, R375 to
R380). -/

namespace Sys2Proof.Machine

/-! ## Operands (R349, R375) -/

/-- The fields of a key operand. -/
def opKernel (a : Word) : Nat := wbits a 40 16
def opSel (a : Word) : Nat := wbits a 32 8
def opKey (a : Word) : BitVec 32 := a.truncate 32

/-- A reserved bit or an unused field of a key operand is set: HMERGE (0) uses the selector and the key, HADD (1) and HQRY
(2) of items 0 and 1 the key, HDRAIN (4) the capacity; the others use neither. -/
def badOperand (fn : Nat) (a item : Word) : Bool :=
  let keyed := fn == 0 || fn == 1 || fn == 4 || (fn == 2 && decide (item.toNat < 2))
  wbits a 56 8 != 0 || (fn != 0 && opSel a != 0) || (!keyed && wbits a 0 32 != 0)

/-- The context and number of the kernel that a thread's operand names; 0 names the issuing task's own. DEDUCED: log entry 64. -/
def heapKernel (s : State) (p : Place) (t : Thread) (a : Word) : CtxId × Nat :=
  if opKernel a ≠ 0 then (t.ctxId p, opKernel a)
  else match t.role with
    | .task num _ _ => (kernelCtx s p t, num)
    | _ => (t.ctxId p, 0)

/-- A heap kernel of a context. -/
def Ctx.heapOf (x : Ctx) (num : Nat) : Option Kernel := (x.kernel num).filter (fun k => k.mask != 0)

/-- A heap kernel in the machine. -/
def State.heapOf (s : State) (c : CtxId) (num : Nat) : Option Kernel := (s.ctx c).bind (fun x => x.heapOf num)

/-- A delta is not a number. -/
def isNan32 (g : BitVec 32) : Bool := match gainVal g with
  | .nan => true
  | _ => false

/-! ## Updates (R350, R353, R376, R379) -/

/-- What a step of the summary heap gives: the machine and d; or the state in which the request waits, while an external write of
the step is held or in want of a page (R204, R220). -/
abbrev HeapStep := Except State (State × Word)

/-- A status, with no other effect. -/
def heapStatus (s : State) (n : Nat) : HeapStep := .ok (s, statusWord n)

/-- HMERGE's step (R350). -/
def mergeStep (s : State) (c : CtxId) (x : Ctx) (k : Kernel) (a b : Word) : HeapStep :=
  let v : BitVec 32 := b.truncate 32
  if k.closed then heapStatus s stHeapClosed
  else if k.table[opSel a]?.getD 0 = 0 then heapStatus s stBadGain
  else
    match k.entryOf (opKey a) with
    | some e => (putKernel s c k (k.raise e v)).map (fun s => (s, 0))
    | none =>
      match Kernel.insert s c x k (opKey a) (opSel a) v with
      | some k' => (putKernel s c k k').map (fun s => (s, 0))
      | none => heapStatus s stHeapFull

/-- HADD's step (R376). -/
def addStep (s : State) (c : CtxId) (k : Kernel) (a b : Word) : HeapStep :=
  let v : BitVec 32 := b.truncate 32
  if isNan32 v then heapStatus s stBadGain
  else if k.closed then heapStatus s stHeapClosed
  else
    match k.entryOf (opKey a) with
    | some e => (putKernel s c k (k.raise e v)).map (fun s => (s, 0))
    | none => heapStatus s stNotPresent

/-- HCLOSE's step (R379). -/
def closeStep (s : State) (c : CtxId) (k : Kernel) : HeapStep :=
  if k.closed then heapStatus s stHeapClosed
  else if k.closing then heapStatus s 0
  else
    let k' := { k with
      closing := true
      entries := k.entries.map (fun e => if e.state = .stored then { e with state := EntryState.pending } else e) }
    if k'.running = 0 then (closeKernel s c k k').map (fun s => (s, 0)) else (putKernel s c k k').map (fun s => (s, 0))

/-- HDRAIN's step (R353): the lowest pending keys are written and removed; where an address that passed its checks at the issue
fails them now, nothing is. DESIGN CHOICE: log entry 103. -/
def drainStep (s : State) (c : CtxId) (k : Kernel) (ap : Nat) (locks : List Lock) (a b : Word) : HeapStep :=
  if !k.closed then heapStatus s stHeapOpen
  else
    let pend := byKey (k.entries.filter (fun e => e.state == .pending))
    let out := pend.take (wbits a 0 32)
    let bytes := out.flatMap (fun e => leBytes 4 e.key.toNat ++ leBytes 4 e.gain.toNat)
    let k' := out.foldl (fun (k : Kernel) (e : HEntry) => (k.dropEntry e.key).addSrr (-(quantum e.gain)) false) k
    match lookSpan s c ap locks needW (bytes.length / 8 + 2) b bytes.length with
    | some (.fault _) => .ok (s, withBit63 pend.length)
    | _ =>
      match (deviceWrite s c ap locks (bytes.length / 8 + 2) b bytes).orWait s c with
      | .error s' => .error s'
      | .ok s' =>
        match putKernel s' c k k' with
        | .error _ => .error s
        | .ok s' => .ok (s', withBit63 (pend.length - out.length))

/-- The state number of an entry (R377). -/
def HEntry.code (e : HEntry) : Nat := match e.state with
  | .stored => if e.ext then 4 else 1
  | .pending => 2
  | .running => 3

/-- The items of HQRY (R377). -/
def heapItem (k : Kernel) (key : BitVec 32) (item : Nat) : Word :=
  match item with
  | 0 => withBit63 (((k.entryOf key).map (fun e => e.gain.toNat)).getD 0)
  | 1 => withBit63 (((k.entryOf key).map HEntry.code).getD 0)
  | 2 => withBit63 k.running
  | 3 => withBit63 (k.entries.filter (fun e => e.state == .stored)).length
  | 4 => withBit63 (k.entries.filter (fun e => e.state == .pending)).length
  | 5 => withBit63 k.bound.length
  | _ => statusWord stBadGain

/-- The words of SRRD (R353). -/
def srrItem (k : Kernel) (item : Nat) : Word :=
  let v := (k.srr % 2 ^ 128).toNat
  match item with
  | 0 => BitVec.ofNat 64 v
  | 1 => BitVec.ofNat 64 (v / 2 ^ 64)
  | 2 => BitVec.ofNat 64 ((if k.sat then 1 else 0) + (if k.closed then 2 else 0) + (if k.exhausted then 4 else 0))
  | _ => statusWord stBadGain

/-- The entry with the largest gain of all the kernel's heaps that may be dispatched (R378). -/
def Kernel.topReady (k : Kernel) : Option HEntry :=
  topOf (k.entries.filter (fun e => e.state == .stored && gainGe e.gain k.hthr))

/-- The answer of HTOP (R378). -/
def Kernel.topWord (k : Kernel) : Word :=
  match if k.closed || k.closing then none else k.topReady with
  | some e => withBit63 (2 ^ 32 * k.home e.key + e.key.toNat)
  | none => statusWord stNoEntry

/-- The step of a heap request at its summary heap. -/
def heapStep (s : State) (c : CtxId) (num fn : Nat) (ap : Nat) (locks : List Lock) (a b : Word) : HeapStep :=
  if badOperand fn a b || (fn == 0 && isNan32 (b.truncate 32)) then heapStatus s stBadGain
  else
    match s.ctx c with
    | none => heapStatus s stNoKernel
    | some x =>
      match x.heapOf num with
      | none => heapStatus s stNoKernel
      | some k =>
        match fn with
        | 0 => mergeStep s c x k a b
        | 1 => addStep s c k a b
        | 2 => .ok (s, heapItem k (opKey a) b.toNat)
        | 3 => closeStep s c k
        | 5 => .ok (s, srrItem k b.toNat)
        | 6 => .ok (s, k.topWord)
        | _ => drainStep s c k ap locks a b

/-- The summary heap of a kernel, as 4d + q (R360). DEDUCED: log entry 64. -/
def Kernel.summary (k : Kernel) : Nat := k.heaps.headD 0

/-- The request of a heap form behind its commit goes to the summary heap; where there is no heap to ask, the status is
answered at once. `orig` is the state at the issue. -/
def heapAsk (p : Place) (t : Thread) (orig s1 : State) (ck : CtxId × Nat) (fn : Nat) (a b : Word) (d : Dst) (la : Nat) : Res :=
  match s1.heapOf ck.1 ck.2 with
  | some k => .done (askUnit s1 p t ck.1 k.summary (.heap fn a b ck.2) d la)
  | none =>
    match heapStep s1 ck.1 ck.2 fn t.apCore t.locks a b with
    | .ok r => .done (pendNow r.1 p [d] la false [r.2])
    | .error _ => .stall orig

/-- A heap form that changes the heap (R213, R375): it commits, then asks. -/
def heapForm (p : Place) (t : Thread) (s : State) (fn : Nat) (a b : Word) (d : Dst) (la : Nat) : Res :=
  let ck := heapKernel s p t a
  match tryCommit s p t false 0 (t.pc + 4) with
  | none => .stall s
  | some s1 => heapAsk p t s s1 ck fn a b d la

/-- A heap form whose b is a floating-point field, which may name a stream (R38, R271, R273, R370): its checks come first,
and the element is popped at the issue, before the commit. -/
def heapFormF (p : Place) (t : Thread) (s : State) (word : Word) (fn : Nat) (a : Word) (b : Dst) (d : Dst) (la : Nat) : Res :=
  match operands s p t word [b] none with
  | .stop r => r
  | .ok vs s1 =>
    let ck := heapKernel s p t a
    match s1.thread p with
    | none => .stall s
    | some t1 =>
      match tryCommit s1 p t1 false 0 (t.pc + 4) with
      | none => .stall s
      | some s2 => heapAsk p t s s2 ck fn a (vs.headD 0) d la

/-- HEAP_UPDATE (R350, R360). -/
def execHeapUpdate (pkt : Nat) (s : State) : Host.Outcome State Fault Refusal :=
  .next (match findPacket s pkt with
    | none => s
    | some q =>
      match q.body, q.phase with
      | .heap fn a b num, .arrived =>
        let u := (s.findThread q.uid).map (·.2)
        let qtr := ((s.heapOf q.ctx num).map (·.summary)).getD (q.place.core / 256)
        match heapStep s q.ctx num fn ((u.map (·.apCore)).getD 0) ((u.map (·.locks)).getD []) a b with
        | .ok (s', v) => answerUnit s' (q.aged s.now) qtr [v]
        | .error s' => s'
      | _, _ => s)

/-- HMERGE (R350): b is an F operand. -/
def execHmerge (d a b : Reg) (la : BitVec 4) (s : State) : Host.Outcome State Fault Refusal :=
  let word := wordX 0x69 d.toNat a.toNat b.toNat la.toNat 0
  issue word [ri a, rf b, ri d] (isShared d) (fun p t k s =>
    heapFormF p t s word 0 (readI k t a) (rf b) (ri d) la.toNat) s

/-- HADD (R376). -/
def execHadd (d a b : Reg) (la : BitVec 4) (s : State) : Host.Outcome State Fault Refusal :=
  let word := wordX 0x69 d.toNat a.toNat b.toNat la.toNat 1
  issue word [ri a, rf b, ri d] (isShared d) (fun p t k s =>
    heapFormF p t s word 1 (readI k t a) (rf b) (ri d) la.toNat) s

/-- HCLOSE (R379). -/
def execHclose (d a : Reg) (la : BitVec 4) (s : State) : Host.Outcome State Fault Refusal :=
  issue (wordX 0x69 d.toNat a.toNat 0 la.toNat 3) [ri a, ri d] (isShared d) (fun p t k s =>
    heapForm p t s 3 (readI k t a) 0 (ri d) la.toNat) s

/-- HDRAIN (R349, R353): the record bytes are checked at issue as writes. -/
def execHdrain (d a b : Reg) (la : BitVec 4) (s : State) : Host.Outcome State Fault Refusal :=
  issue (wordX 0x69 d.toNat a.toNat b.toNat la.toNat 4) [ri a, ri b, ri d] (isShared d) (fun p t k s =>
    let va := readI k t b
    let n := 8 * wbits (readI k t a) 0 32
    if canonical va && va.toNat % 8 != 0 then .trap ⟨cMisalign, va⟩
    else
      match lookSpan s (t.ctxId p) t.apCore t.locks needW (n / 8 + 2) va n with
      | some (.fault c) => .trap c
      | some (.absent page) => .gone (parkPage s p page)
      | _ => heapForm p t s 4 (readI k t a) va (ri d) la.toNat) s

/-! ## The forms that read (R353, R377, R378) -/

/-- A read of a heap's state: its request goes to the summary heap and commits nothing (R375, R377). -/
def heapRead (p : Place) (t : Thread) (s : State) (fn : Nat) (a item : Word) (d : Dst) (la : Nat) : Res :=
  heapAsk p t s s (heapKernel s p t a) fn a item d la

/-- HQRY (R377). -/
def execHqry (d a b : Reg) (la : BitVec 4) (s : State) : Host.Outcome State Fault Refusal :=
  issue (wordX 0x69 d.toNat a.toNat b.toNat la.toNat 2) [ri a, ri b, ri d] (isShared d) (fun p t k s =>
    heapRead p t s 2 (readI k t a) (readI k t b) (ri d) la.toNat) s

/-- SRRD (R349, R353): SRR is read at the issue. -/
def execSrrd (d a b : Reg) (la : BitVec 4) (s : State) : Host.Outcome State Fault Refusal :=
  issue (wordX 0x69 d.toNat a.toNat b.toNat la.toNat 5) [ri a, ri b, ri d] (isShared d) (fun p t k s =>
    let ck := heapKernel s p t (readI k t a)
    match heapStep s ck.1 ck.2 5 t.apCore t.locks (readI k t a) (readI k t b) with
    | .ok r => .done (pendNow s p [ri d] la.toNat false [r.2])
    | .error _ => .stall s) s

/-- HTOP (R378). -/
def execHtop (d a : Reg) (la : BitVec 4) (s : State) : Host.Outcome State Fault Refusal :=
  issue (wordX 0x69 d.toNat a.toNat 0 la.toNat 6) [ri a, ri d] (isShared d) (fun p t k s =>
    heapRead p t s 6 (readI k t a) 0 (ri d) la.toNat) s

/-! ## Dispatch (R351, R361, R362, R380) -/

/-- The heap from which a slot of a heap is served: its own, else the nearest around the ring that has a ready entry; of two
at one distance the one with the larger top, then the lower number (R361). -/
def Kernel.source (k : Kernel) (own : Nat) : Option Nat :=
  let hs := k.heaps
  let n := hs.length
  match hs.findIdx? (· == own) with
  | none => none
  | some i =>
    let near (dist : Nat) : List Nat := ([hs[(i + dist) % n]?.getD own, hs[(i + n - dist) % n]?.getD own] : List Nat)
    let better (m : Option (Nat × HEntry)) (h : Nat) : Option (Nat × HEntry) :=
      match topOf (k.ready h), m with
      | none, m => m
      | some e, none => some (h, e)
      | some e, some (g, f) => if gainGt e.gain f.gain || (!gainGt f.gain e.gain && decide (h < g)) then some (h, e) else some (g, f)
    (List.range (n / 2 + 1)).findSome? (fun dist => ((near dist).foldl better none).map (·.1))

/-- An entry becomes a running key: a spilled one comes back first, and the lowest entry makes room if it must; where none can,
it keeps its place in the extension (R362). DEDUCED: log entry 63. -/
def takeEntry (s : State) (c : CtxId) (x : Ctx) (k : Kernel) (heap : Nat) (e : HEntry) : Kernel :=
  let run (k : Kernel) (ext : Bool) : Kernel := k.setEntry { e with state := .running, gain := 0, ext := ext }
  if !e.ext then run k false
  else if decide (x.heapHeld < x.block.heap) && heapOpen s c.peer heap then run k false
  else
    match (run k false).spillOne heap (heapOpen s c.peer heap) with
    | some k' => k'
    | none => run k true

/-- The lowest free slot bound to a kernel, by CORE, then SLOT (R361). -/
def freeBound (s : State) (c : CtxId) (k : Kernel) : Option (Nat × Nat) :=
  lowest (k.bound.filter (fun e => s.slotFree ⟨c.peer, e.1, e.2⟩))

/-- A pre-empted task of the kernel waits for a slot (R380). -/
def taskWaits (x : Ctx) (num : Nat) : Bool :=
  x.images.any (fun m => match m.thread.role with
    | .task n _ _ => n == num
    | _ => false)

/-- A dispatch into a bound slot. -/
def dispatchTo (s : State) (c : CtxId) (x : Ctx) (k : Kernel) (core slot : Nat) : State :=
  let own := core / 256
  match k.source own with
  | none => s
  | some heap =>
    match topOf (k.ready heap) with
    | none => s
    | some e =>
      match putKernel s c k (takeEntry s c x k heap e) with
      | .error s' => s'
      | .ok s' =>
        createThread s' c ⟨c.peer, core, slot⟩ (k.table[e.sel]?.getD 0) (.task k.num e.key e.gain) k.slk (zx e.key) 0
          [(8, zx e.key), (9, BitVec.ofNat 64 own), (10, k.arg)] [(8, zx e.gain)] none

/-- DISPATCH: a task starts once every store that its kernel's launcher made before the launch has been performed (R25).
DEDUCED: log entry 98. -/
def execDispatch (c : CtxId) (kernel : Nat) (s : State) : Host.Outcome State Fault Refusal :=
  .next (match s.ctx c with
    | none => s
    | some x =>
      match x.heapOf kernel with
      | none => s
      | some k =>
        if k.closed || k.closing || storesOpen s k.uid k.born || x.state != .live || taskWaits x kernel || !k.bound.all (fun e => x.slots.contains e) then s
        else match freeBound s c k with
          | some (core, slot) => dispatchTo s c x k core slot
          | none => s)

end Sys2Proof.Machine
end

