-- ==== Sys2Proof/Machine/Joins.lean ====
section
/-! DEFINITION. Join counters, the donation of a slot, and the end of a thread (R28, R108, R148, R256, R357, R381). -/

namespace Sys2Proof.Machine

/-! ## The slot-state record (R148) -/

/-- The kind and the object of a wait, as the record holds them. -/
def Wait.record : Wait → Nat × Nat
  | .barrier n _ _ => (1, n)
  | .join va => (2, va.toNat)
  | .event _ code _ _ => (3, code)
  | .donating va => (4, va.toNat)
  | .page _ n => (5, n)
  | _ => (0, 0)

/-- Words as little-endian bytes. -/
def wordBytes (ws : List Word) : List Byte := ws.flatMap (fun v => leBytes 8 v.toNat)

/-- The 616 bytes of a thread's slot state. -/
def slotRecord (t : Thread) (index core slot : Nat) : List Byte :=
  let w := t.wait.record
  leBytes 4 index ++ leBytes 2 core ++ leBytes 1 slot ++ leBytes 1 w.1
    ++ wordBytes [t.region.rstart, t.wid] ++ wordBytes ((t.i.toList.drop 1).take 15) ++ wordBytes t.f.toList
    ++ wordBytes [t.tpc, t.tcause, t.tval, t.tvec, t.tstat, t.wsp, BitVec.ofNat 64 t.wdep.toNat]
    ++ leBytes 4 t.region.rts.toNat ++ leBytes 2 t.slk.toNat ++ leBytes 2 t.slkdef.toNat
    ++ leBytes 4 (if t.lateev then 1 else 0) ++ leBytes 4 t.live.toNat ++ wordBytes (t.i.toList.drop 16)
    ++ leBytes 8 w.2 ++ leBytes 4 t.lateq.toNat ++ leBytes 4 0

/-! ## JSET, JDEC -/

/-- A join counter's place (R256): in host memory or a device window PERM. -/
def counterLook (s : State) (p : Place) (t : Thread) (va : Word) (need : Nat) : Except Res Loc :=
  match lookT s p t va 8 8 need with
  | .fault c => .error (.trap c)
  | .absent page => .error (.gone (parkPage s p page))
  | .ok l => if saKind l.ca = 5 ∨ saKind l.ca = 6 then .error (.trap ⟨cPerm, va⟩) else .ok l

/-- JSET: a buffered store of b. -/
def execJset (a b : Reg) (s : State) : Host.Outcome State Fault Refusal :=
  issue (wordOf (.jset a b)) [ri a, ri b] false (fun p t k s =>
    if t.acquiring then .stall s
    else
      match counterLook s p t (readI k t a) needW with
      | .error r => r
      | .ok l => buffered s p (storeItemAt p l (leBytes 8 (readI k t b).toNat) (s.slack p t))) s

/-- JDEC: a buffered posted decrement. -/
def execJdec (a : Reg) (s : State) : Host.Outcome State Fault Refusal :=
  issue (wordOf (.jdec a)) [ri a] false (fun p t k s =>
    if t.acquiring then .stall s
    else
      match counterLook s p t (readI k t a) needRW with
      | .error r => r
      | .ok l =>
        match localSa p.core l with
        | some sa => buffered s p (.jdec sa)
        | none => buffered s p (.packet l.ca .jdec false (s.slack p t))) s

/-! ## JWAIT and donation (R28, R256) -/

/-- The kernel that a thread launched, on its present device or on another member's, and whose join counter lies at a place: one
with work items (R28, R352). -/
def ownGrid (s : State) (c : CtxId) (t : Thread) (ca : Nat) : Option Kernel :=
  s.ctxs.findSome? (fun e =>
    if member s c e.1.peer = some e.1 then e.2.kernels.find? (fun k => k.uid == t.uid && k.items != 0 && k.joinCa == ca) else none)

/-- Where the parked parent's record goes (R28). -/
def recordAddr (t : Thread) : Word := t.wsp + BitVec.ofNat 64 (136 * t.wdep.toNat)

/-- What a donation comes to. -/
inductive Donation where
  | ok (s : State)
  | wait
  | bad (va : Word)
  deriving DecidableEq, Repr

/-- The parent is parked in the slot's window area, and the slot is lent. DEDUCED: log entry 67. -/
def donate (s : State) (p : Place) (va : Word) : Donation :=
  match s.thread p with
  | none => .ok s
  | some t =>
    match scratchPieces s p t needW 77 (recordAddr t) with
    | none => .bad (recordAddr t)
    | some sas =>
      if piecesBlocked s t.uid sas then .wait
      else
        match flushFrames s p with
        | .bad va => .bad va
        | .wait => .wait
        | .ok s =>
          match s.thread p with
          | none => .ok s
          | some t =>
            let t := { t with wait := .donating va, region := { t.region with rstart := t.pc } }
            let s := writePieces s t.uid sas (slotRecord t 0 p.core p.slot)
            .ok { s.freeSlot p with donors := mset s.donors p (t :: mgetD s.donors p []) }

/-- The wait of JWAIT, or its donation, behind the commit: what the state comes to, or the trap. -/
def joinWait (s : State) (p : Place) (t : Thread) (va : Word) (ca : Nat) (orig : State) : Res :=
  let at_ := (resolve s (t.ctxId p) ca).map (·.1)
  let zero := match at_ with
    | some sa => leNat (s.reads sa 8) == 0
    | none => false
  if at_.any (fun sa => poisonHit s sa 8) then .trap ⟨cPoison, va⟩
  else if zero then .done s
  else
    let wait : Res := .gone (s.updThread p (fun u => { u with wait := .join va, region := { u.region with rstart := u.pc } }))
    if (ownGrid s (t.ctxId p) t ca).isNone ∨ 4 ≤ (mgetD s.donors p []).length then wait
    else
      match donate s p va with
      | .ok s' => .gone s'
      | .wait => .stall orig
      | .bad w => .trap ⟨cWstack, w⟩

/-- JWAIT: a commit point. -/
def execJwait (a : Reg) (s : State) : Host.Outcome State Fault Refusal :=
  issue (wordOf (.jwait a)) [ri a] false (fun p t k s =>
    let va := readI k t a
    match counterLook s p t va needR with
    | .error r => r
    | .ok l =>
      match tryCommit s p t false 0 (t.pc + 4) with
      | none => .stall s
      | some s1 => joinWait s1 p t va l.ca s) s

/-- DONOR_RESUME (R28): at an item boundary, once the counter reads 0, or its read faults (R151). DEDUCED: log entry 67. -/
def execDonorResume (p : Place) (s : State) : Host.Outcome State Fault Refusal :=
  .next (match mgetD s.donors p [] with
    | [] => s
    | t :: rest =>
      let va := match t.wait with
        | .donating va => va
        | _ => 0
      let live := match s.ctx (t.ctxId p) with
        | some x => x.state == .live
        | none => false
      let hit := counterHit s (t.ctxId p) t va
      if live && (s.thread p).isNone && !s.migs.any (fun m => m.dst == p) && (hit || counterAt s (t.ctxId p) t va == some 0) then
        let s := { s with donors := if rest.isEmpty then mdel s.donors p else mset s.donors p rest }
        placeThread s p { t with wait := if hit then .none else .ended }
      else s)

/-! ## The end of a thread (R108, R177, R381) -/

/-- A program event (R177). -/
def Event.isProgram (e : Event) : Bool := decide (e.code < 0x40)

/-- What a retired thread leaves in its queues and in the store (R177): its program events are dropped and counted, the rest
becomes unaddressed. DEDUCED: log entry 70. -/
def leaveQueues (s : State) (c : CtxId) (t : Thread) : State :=
  let drops := (t.events.filter Event.isProgram).length
  let keep := t.events.filter (fun e => !e.isProgram && e.code != evCompletion)
  let s := (List.range drops).foldl (fun s _ => countDrop s c) s
  let s := s.updCtx c (fun x =>
    { x with store := x.store.map (fun e => if e.uid = some t.uid then { e with uid := none, reserved := false } else e)
             held := x.held.map (fun e => if e.uid = some t.uid then { e with uid := none } else e) })
  let s := keep.foldl (fun s e => storeItem s c none (.inl e) (.fault none none)) s
  t.records.foldl (fun s r => storeItem s c none (.inr r) (.record none)) s

/-- A thread leaves the machine: its engines, claims, registrations and messages are given up, and its slot is free. -/
def retireThread (s : State) (p : Place) : State :=
  match s.thread p with
  | none => s
  | some t =>
    let s := withdrawAll (cancelMigs s t.uid) p
    let s := s.updCore (coreOf p) (fun k =>
      ({ k with streams := k.streams.filter (fun e => e.2.holder != some t.uid) } : Core).releaseAll t.uid)
    let s := s.updCtx (t.ctxId p) (fun x => { x with token_ := if x.token_ = some t.uid then none else x.token_ })
    leaveQueues (s.freeSlot p) (t.ctxId p) t

/-- The step of a task's end at its summary heap (R352, R379), or what it waits in. -/
def endTask (s : State) (p : Place) (t : Thread) : Except State State :=
  match t.role with
  | .task num key held => taskEnd s (kernelCtx s p t) num key held
  | _ => .ok s

/-- The page that the end of a task wants is asked for, while its QUIT waits (R204). -/
def endAsks (s : State) (p : Place) (t : Thread) : State :=
  match endTask s p t with
  | .ok _ => s
  | .error s' => s'

/-- QUIT: the item's decrement, the commit, the releases, the end by creator. A handler just ends (R254). -/
def execQuit (s : State) : Host.Outcome State Fault Refusal :=
  issue (wordOf .quit) [] false (fun p t _ s =>
    if t.isHandler then (if t.settled then .gone (s.freeSlot p) else .stall s)
    else
      if !itemRoom s p t then .stall (noLine s p t) else
      let s0 := finishItem s p t
      match s0.thread p with
      | none => .stall s
      | some t0 =>
        match tryCommit s0 p t0 false 0 (t.pc + 4) with
        | none => .stall s
        | some s1 =>
          match endTask (retireThread s1 p) p t with
          | .ok s2 => .gone s2
          | .error _ => .stall (endAsks s p t)) s

end Sys2Proof.Machine
end

