-- ==== Sys2Proof/Machine/Limits.lean ====
section
/-! DEFINITION. The bandwidth limiters of a context (R180, R364, R365). -/

namespace Sys2Proof.Machine

/-- Bytes of a context's grant placed at a memory controller, and its whole grant of that kind (R364). -/
def Ctx.placed (x : Ctx) (site : Nat) : Nat × Nat :=
  let at_ (l : List Nat) : Nat × Nat := (4096 * (l.filter (fun sa => memSite sa == some site)).length, 4096 * l.length)
  at_ (if site < 16 then x.hbm.map (·.sa) else x.tier2)

/-- A share of a rate, rounded up to a multiple of 16 MB/s, and at least 16 (R364). -/
def rateShare (rate num den : Nat) : Nat := if rate = 0 then 0 else max 16 (roundUp ((rate * num + den - 1) / den) 16)

/-- The rate at a limiter, in MB/s, that the places of a context's grant give (R364): on the fabric by the slots of the grant in the
plane's district, all of which a FRACTIONAL grant has in that of its core. -/
def Ctx.rateNow (x : Ctx) (site : Nat) : Nat :=
  if site < 32 then
    let pb := x.placed site
    if pb.2 = 0 then rateShare x.block.memRate 1 (if site < 16 then 16 else 12) else rateShare x.block.memRate pb.1 pb.2
  else
    let held := if x.fractional then [x.coreHome] else x.slots.map (·.1)
    let here := (held.filter (fun core => coreDist core == (site - 32) / 2)).length
    rateShare x.block.fabRate here (2 * max 1 held.length)

/-- The rate in force at a limiter: that of the last change of the grant (R364). -/
def Ctx.rate (x : Ctx) (site : Nat) : Nat := mgetD x.rates site 0

/-- A full bucket, in 1/1900 byte. -/
def fullBucket : Nat := 65536 * 1900

/-- The level of a limiter now, in 1/1900 byte: 1 MB/s is 1 byte per µs, that is per 1,900 reference cycles (R365). -/
def Ctx.level (x : Ctx) (site now : Nat) : Nat :=
  match mget x.levels site with
  | none => fullBucket
  | some (l, t) => min fullBucket (l + x.rate site * (now - t))

/-- Before the rates of a context change every level is brought to the moment (R180, R365). -/
def Ctx.settleLevels (x : Ctx) (now : Nat) : Ctx :=
  { x with levels := x.levels.map (fun (e : Nat × (Nat × Nat)) => (e.1, (x.level e.1 now, now))) }

/-- The rates of a context are recomputed, at a change of its grant, a split or an amendment (R364): HBM stacks 0 to 15, tier-2
controllers 16 to 27, fabric planes 32 to 47. -/
def Ctx.reckon (x : Ctx) (now : Nat) : Ctx :=
  { x.settleLevels now with
    rates := (List.range 28 ++ (List.range 16).map (· + 32)).map (fun site => (site, x.rateNow site)) }

/-- The rates of a context of the machine recomputed. -/
def State.reckon (s : State) (c : CtxId) : State := s.updCtx c (fun x => x.reckon s.now)

/-- A counted request of `n` bytes is admitted, if the level is at least `n` (R365); a fabric rate of 0 admits none.
DESIGN CHOICE: log entry 35. -/
def Ctx.limiterPass (x : Ctx) (site now n : Nat) : Option Ctx :=
  let l := x.level site now
  if l < n * 1900 ∨ (32 ≤ site ∧ x.rate site = 0) then none
  else some { x with levels := mset x.levels site (l - n * 1900, now) }

/-- The value that RLIMQ returns (R180). DESIGN CHOICE: log entry 35, the rate returned is the lower of two where the rates in force at
the district's two controllers or planes differ. -/
def rlimValue (x : Ctx) (now dist : Nat) (sel : Word) : Word :=
  let sites : List Nat := match wbits sel 0 2 with
    | 0 => [2 * dist, 2 * dist + 1]
    | 1 => [16 + dist]
    | _ => [32 + 2 * dist, 33 + 2 * dist]
  let f (site : Nat) : Nat := if wbit sel 2 then x.rate site else x.level site now / 1900
  if wbits sel 0 2 = 3 ∨ wbits sel 3 61 ≠ 0 then BitVec.allOnes 64
  else BitVec.ofNat 64 ((sites.map f).foldl min (2 ^ 63))

/-- RLIMQ. -/
def execRlimq (d a : Reg) (la : BitVec 4) (s : State) : Host.Outcome State Fault Refusal :=
  issue (wordX 0x49 d.toNat a.toNat 0 la.toNat 5) [ri a, ri d] (isShared d) (fun p t k s =>
    match s.ctx (t.ctxId p) with
    | none => .done s
    | some x => .done (pendNow s p [ri d] la.toNat false [rlimValue x s.now (coreDist p.core) (readI k t a)])) s

end Sys2Proof.Machine
end

