-- ==== Sys2Proof/Machine/Packets.lean ====
section
/-! DEFINITION. The steps of packets: the queues they pass, the performance of stores, loads and atomics at their homes, and
the replies and acknowledgements (R182, R183, R190, R201, R204, R212, R220 to R224, R229 to R235). A step whose conditions do
not hold changes nothing. -/

namespace Sys2Proof.Machine

/-! ## Queues (R13, R230 to R235) -/

/-- The packet that a queue serves next: least slack as it stands now, then earliest entry (R230). -/
def leastSlack (now : Nat) (ks : List Packet) : Option Packet :=
  ks.foldl (fun m k => match m with
    | none => some k
    | some b =>
      let x := (k.aged now).slack
      let y := (b.aged now).slack
      if x < y ∨ (x = y ∧ k.ord < b.ord) then some k else some b) none

/-- A packet leaves the queue that it stands in for the next of its path, behind the decrements of its wait; a request with
nothing before it has arrived. -/
def moveOn (s : State) (k : Packet) : State :=
  let k := k.aged s.now
  let (o, s) := s.fresh
  let rest := k.path.tail
  setPacket s { k with path := rest, ord := o, entered := s.now,
                       phase := if rest.isEmpty && k.phase == .request then .arrived else k.phase }

/-- A packet moves on where its next queue takes it (R233). -/
def moveIf (s : State) (k : Packet) : State := if nextTakes s (k.aged s.now) then moveOn s k else s

/-! ### HQ (R191) -/

/-- The thread runs as the handler of the slice of an address. -/
def handlerAt (s : State) (sa uid : Nat) : Bool := (s.thread ⟨saPeer sa, scratchCore (saOff sa), 15⟩).any (fun h => h.uid == uid)

/-- A packet is the operation that the handler of its slice performs next, while no handler runs: the first of HQ, or one that was
held under R220 and has left HQ for CQ; a running handler's own such write too. Packets for other memory are not carried by a
handler. DEDUCED: log entry 101. -/
def handlerLets (s : State) (k : Packet) (sa : Nat) : Bool :=
  saKind sa != 3 || (k.kept && handlerAt s sa k.uid)
    || (sliceFree s sa && (k.kept || (hqItems s ⟨saPeer sa, scratchCore (saOff sa)⟩).head? == some (.fixed k.id)))

/-- A packet is held at its home under R220: it waits in CQ, and no longer in HQ. -/
def hold (s : State) (k : Packet) (sa : Nat) : State :=
  let s := setPacket s { k with kept := true }
  if saKind sa = 3 then
    s.updCore ⟨saPeer sa, scratchCore (saOff sa)⟩ (fun h => { h with hq := h.hq.filter (fun i => i != .fixed k.id) })
  else s

/-- The 8-byte words that a packet addresses. -/
def Packet.words (k : Packet) : List Nat :=
  let n := max 1 (match k.body with
    | .store d => d.length
    | .release d => d.length
    | .patomic _ w _ _ => if w then 4 else 8
    | .ratomic _ w _ _ => if w then 4 else 8
    | _ => 8)
  (List.range ((k.ca + n - 1) / 8 - k.ca / 8 + 1)).map (· + k.ca / 8)

/-- Conditions 2 and 3 of R222: a release's count is met, and no earlier packet of the stream is open on a word of it. -/
def streamLets (s : State) (k : Packet) : Bool :=
  let earlier := s.packets.filter (fun q => q.stream == k.stream && k.stream.isSome && q.num != 0
    && decide (q.num < k.num) && unperformed s q)
  let rel := match k.body with
    | .release _ => earlier.any (fun q => q.body.plain && decide (k.after < q.num))
    | _ => false
  !rel && !earlier.any (fun q => q.body.streamed && q.words.any (fun w => k.words.contains w))

/-- A queue serves a packet. Shaping queues are served by their limiters and transmit queues by their transmitters; what
leaves a handler's input takes a place of HQ, for which a packet waits that its stream does not let go yet (R191, R222). -/
def serve (s : State) (q : XQ) : State :=
  match q with
  | .shaping .. => s
  | .fabTx .. => s
  | .window key =>
    match (inOrder (fun a b => decide (a.num ≤ b.num)) (inXQ s q)).head? with
    | some k => if outstanding s key < 64 then moveIf s k else s
    | none => s
  | .handlerIn peer core =>
    let c : CoreId := ⟨peer, core⟩
    match leastSlack s.now ((inXQ s q).filter (streamLets s)) with
    | none => s
    | some k =>
      if 32 ≤ (hqItems s c).length then s
      else
        match k.body with
        | .amsg _ entry off args slk =>
          (dropPacket s k.id).updCore c (fun h =>
            { h with hq := hqItems s c ++ [.code ⟨k.ctx, k.uid, k.place.slot, entry, off, args, slk⟩] })
        | _ => (moveOn s k).updCore c (fun h => { h with hq := hqItems s c ++ [.fixed k.id] })
  | _ =>
    match leastSlack s.now (inXQ s q) with
    | some k => moveIf s k
    | none => s

/-- QUEUE_SERVICE (R230, R233). -/
def execQueueService (q : XQ) (s : State) : Host.Outcome State Fault Refusal := .next (serve s q)

/-- What waits in CQ of its home until it is performed: stores, atomics and external writes (R210, R220); a read is served. -/
def Body.inCQ (b : Body) : Bool :=
  b.streamed || (match b with
    | .cwrite .. => true
    | .hwrite _ => true
    | _ => false)

/-- A packet waits in a queue: in XQ, in a stream's window, in RH or CQ of its home (R230), or at a queue's controller or a summary
heap (R285, R360). -/
def Packet.waiting (k : Packet) : Bool :=
  !k.path.isEmpty || (k.phase == .arrived && (k.body.inCQ || (match k.body with
    | .queue .. => true
    | .heap .. => true
    | _ => false)))

/-- SLACK_DECREMENT (R231): one decrement of a packet that has waited for 32 full reference cycles in its queue. A step that
takes a packet from its queue makes up for those that are due. DEDUCED: log entry 80. -/
def execSlackDecrement (pkt : Nat) (s : State) : Host.Outcome State Fault Refusal :=
  .next (match findPacket s pkt with
    | some k =>
      if k.waiting && k.phase != .held && k.phase != .lost && decide (k.entered + 32 ≤ s.now) then
        setPacket s (k.aged (k.entered + 32))
      else s
    | none => s)

/-- Payload bytes of a packet. -/
def Body.payload : Body → Nat
  | .store d => d.length
  | .release d => d.length
  | .patomic _ _ _ _ => 16
  | .ratomic _ _ _ _ => 16
  | .heap .. => 16
  | .queue .. => 16
  | .spawn .. => 64
  | .cwrite _ d => d.length
  | .hwrite d => d.length
  | .mig _ part => ([256, 160, 256, 256, 104] : List Nat)[part]?.getD 0
  | .redeem _ => 32
  | _ => 0

/-- Flits of a packet: a header, and 32 bytes of payload each (R209). -/
def Body.flits (b : Body) : Nat := 1 + (b.payload + 31) / 32

/-- Bytes that a packet counts at a limiter: its flits on a plane, its lines at a memory (R364). -/
def Packet.counted (k : Packet) (site : Nat) : Nat :=
  if 32 ≤ site then 32 * k.body.flits
  else 64 * (linesOf k.ca (max 1 (match k.body with
    | .read n _ => n
    | .fetch _ _ n => n
    | .cread _ n => n
    | .cwrite _ d => d.length
    | b => min 8 b.payload))).length

/-- LIMITER_ADMIT (R234, R365): the least slack of a shaping queue, as tokens allow. DESIGN CHOICE: log entry 35. -/
def execLimiterAdmit (pkt : Nat) (s : State) : Host.Outcome State Fault Refusal :=
  .next (match findPacket s pkt with
    | none => s
    | some k =>
      match k.path.head? with
      | some (.shaping peer ctx site) =>
        if (leastSlack s.now (inXQ s (.shaping peer ctx site))).map (·.id) ≠ some pkt ∨ nextTakes s (k.aged s.now) = false
        then s
        else
          let c := limiterCtx s k.ctx peer
          match s.ctx c, k.target with
          | none, _ => moveOn s k
          | _, some _ => moveOn s k
          | some x, none =>
            match x.limiterPass site s.now (k.counted site) with
            | some x' => moveOn (s.setCtx c x') k
            | none => s
      | _ => s)

/-- The peer to which a packet at a transmit queue goes. -/
def Packet.fabDst (k : Packet) : Nat := match k.path.tail.head? with
  | some (.fabRx q _) => q
  | _ => k.ctx.peer

/-- The packet that a free transmitter sends (R235): further packets to the tuned destination while no packet to another has
less slack than the batch's head had; else the least slack of the queue. DEDUCED: log entry 60. -/
def txChoice (now : Nat) (ks : List Packet) (tuned batch : Option Nat) : Option Packet :=
  match tuned with
  | none => leastSlack now ks
  | some dst =>
    let same := ks.filter (fun k => k.fabDst == dst)
    if ks.any (fun k => k.fabDst != dst && decide ((k.aged now).slack < batch.getD 0)) || same.isEmpty then leastSlack now ks
    else leastSlack now same

/-- TRANSMIT (R208, R209, R235): a transmitter sends to a peer that is up and does not hold it. DEDUCED: log entry 60. -/
def execTransmit (peer plane tx : Nat) (s : State) : Host.Outcome State Fault Refusal :=
  let dv := s.dev peer
  let open_ := (inXQ s (.fabTx peer plane)).filter (fun k =>
    dv.peersUp.contains k.fabDst && !dv.holds.contains (plane, k.fabDst))
  .next (if 4 ≤ tx then s else
    match txChoice s.now open_ (mget dv.tuned (plane, tx)) (mget dv.batch (plane, tx)) with
    | none => s
    | some k =>
      let k := k.aged s.now
      if !nextTakes s k then s else
      let same := mget dv.tuned (plane, tx) == some k.fabDst
      let dv := { dv with tuned := mset dv.tuned (plane, tx) k.fabDst
                          batch := if same then dv.batch else mset dv.batch (plane, tx) k.slack }
      let first := k.sentAt.isNone && !k.dup
      moveOn (s.setDev peer dv) { k with sentAt := some s.now, slack0 := if first then k.slack else k.slack0 })

/-- LINK_REPLAY (R209): invisible to programs. DEDUCED: log entry 60. -/
def execLinkReplay (_pkt : Nat) (s : State) : Host.Outcome State Fault Refusal := .next s

/-- HOLD_RELEASE_SIGNAL (R209): a receiver's signal reaches the transmitting device. -/
def execHoldReleaseSignal (peer plane dst : Nat) (hold : Bool) (s : State) : Host.Outcome State Fault Refusal :=
  let dv := s.dev peer
  let rest := dv.holds.filter (fun h => h != (plane, dst))
  .next (s.setDev peer { dv with holds := if hold then rest ++ [(plane, dst)] else rest })

/-! ## Performing stream packets (R182, R201, R222) -/

/-- A packet of a stream is performed (R183): its number, and the reply cache, which keeps the 64 highest-numbered packets
performed, and any whose acknowledgement has not arrived, so that each is performed once. -/
def StreamSt.perform (st : StreamSt) (num : Nat) (res : List Word) (open_ : List Nat) : StreamSt :=
  let all := inOrder (fun a b => decide (b.1 ≤ a.1)) ((num, res) :: st.cache)
  { st with done := num :: st.done, cache := all.take 64 ++ (all.drop 64).filter (fun e => open_.contains e.1) }

/-- The numbers of a stream that are not acknowledged. -/
def openNums (s : State) (key : StreamKey) : List Nat :=
  (s.packets.filter (fun q => q.stream == some key && q.num != 0)).map (·.num)

/-- The reply or acknowledgement of a packet leaves its home with what its service has left of its slack (R232), on a plane of
the district that replies (R208). -/
def reply (s : State) (k : Packet) (res : List Word) : State :=
  let r := replySlack k.slack k.late (s.now - k.entered)
  let sa := ((placeOf s k).map (·.1)).getD k.ca
  let own := k.place.peer
  let src := coreDist k.place.core
  let peer := saPeer k.ca
  let dist := match k.body with
    | .heap .. => none
    | .queue .. => none
    | .spawn .. => none
    | _ => homeDist sa
  let d := dist.getD src
  let (s, plane) := if peer = own then (s, 0) else nextPlane s peer d (if k.num = 0 then none else some k.num)
  let path := if dist.isNone && peer == own then [] else pathBack own src plane peer d
  let (s, k) := atQueue s { k with path := path, result := res, slack := r.1, late := r.2 } peer d
  setPacket s { k with phase := .reply }

/-- A packet is performed: its write, its entry in the target's records, its reply. -/
def performed (s : State) (k : Packet) (sa : Option Nat) (res : List Word) : State :=
  let s := match sa with
    | some a =>
      let s := (k.memberOf s).elim s (fun m => touch s m a)
      extWriteBy (saPeer k.ca == k.ctx.peer) s none a (k.body.bytes s.mem a)
    | none => s
  match k.stream with
  | none => reply s k res
  | some key =>
    let st := mgetD s.streams key StreamSt.reset
    reply { s with streams := mset s.streams key (st.perform k.num res (openNums s key)) } k res

/-- The reply that a stream's target has for a packet it has performed (R183). -/
def cached (s : State) (k : Packet) : Option (List Word) :=
  k.stream.bind (fun key =>
    let st := mgetD s.streams key StreamSt.reset
    if st.done.contains k.num then some ((mget st.cache k.num).getD []) else none)

/-- Packets held under R220 go once they are let go, the least slack first (R230). -/
def cqLets (s : State) (k : Packet) (sa : Nat) : Bool :=
  !k.kept || !s.packets.any (fun j => j.id != k.id && j.kept && j.phase == .arrived && streamLets s j
    && (match placeOf s j with
      | some (a, _) => homeQueue (saPeer j.ca) a == homeQueue (saPeer k.ca) sa && !blocked s none (linesOf a 8)
      | none => false)
    && (decide ((j.aged s.now).slack < (k.aged s.now).slack)
      || ((j.aged s.now).slack == (k.aged s.now).slack && decide (j.ord < k.ord))))

/-- The page of a member that a packet needs is asked for there (R204). -/
def askMember (s : State) (k : Packet) : State :=
  match k.memberOf s with
  | none => s
  | some m => askPage s m (saOff k.ca / 4096)

/-- A write of a command counts among the bytes that it has written (R268). -/
def countWrite (s : State) (k : Packet) : State :=
  let count (q : Cmd) : Cmd := match k.body with
    | .cwrite cid d => if q.cid = cid then { q with count := q.count + d.length } else q
    | _ => q
  { s with cores := s.cores.map (fun (e : CoreId × Core) => (e.1, { e.2 with cmds := e.2.cmds.map count })) }

/-- A write from the host port that was held is performed (R220): nobody awaits it, and poison stays (R151). -/
def hostPerform (s : State) (k : Packet) (data : List Byte) : State := extWriteBy false (dropPacket s k.id) none k.ca data

/-- PERFORM_PACKET (R201, R220, R222): a packet that its member refuses has no effect, and is acknowledged; its slack falls with its
wait in RH or CQ (R231). DESIGN CHOICE: log entry 90. -/
def execPerformPacket (pkt : Nat) (s : State) : Host.Outcome State Fault Refusal :=
  .next (match findPacket s pkt with
    | none => s
    | some k =>
      let k := k.aged s.now
      if k.phase ≠ .arrived ∨ !(k.body.plain || (match k.body with
          | .release _ => true
          | .cwrite .. => true
          | .hwrite _ => true
          | _ => false)) then s
      else
        match cached s k with
        | some res => reply s k res
        | none =>
          if !streamLets s k then s
          else
            match placeOf s k with
            | none => performed s k none []
            | some (sa, resident) =>
              if !resident then askMember s k
              else if !handlerLets s k sa || !cqLets s k sa then s
              else if blocked s none (linesOf sa (max 1 (k.body.bytes s.mem sa).length)) then
                (if k.kept then s else hold s k sa)
              else
                match k.body with
                | .hwrite d => hostPerform s k d
                | _ => performed (countWrite s k) k (some sa) [])

/-! ## Loads and atomics at their homes (R212, R213, R245, R272) -/

/-- Two packets are one: the packet and a copy that was sent again (R183). -/
def Packet.same (k q : Packet) : Bool :=
  q.id == k.id || (k.num != 0 && k.stream.any (fun key => key.fabric) && q.stream == k.stream && q.num == k.num)

/-- The name of a packet, which its copies share. -/
def originalOf (s : State) (k : Packet) : Nat := ((s.packets.find? (fun q => k.same q && !q.dup)).getD k).id

/-- A packet has been acknowledged, or is given up: neither it nor a copy is kept (R183). -/
def settlePacket (s : State) (k : Packet) : State := { s with packets := s.packets.filter (fun q => !k.same q) }

/-- An access at its home meets a page that is not resident (R204): the packet and its copies are gone, and its slot parks for the
page. A load's region re-runs; an atomic's region, which opened for it, re-runs with the atomic. A pinned or exclusive region
stalls at its access (R205), as does an atomic whose migration was given up behind other instructions. DEDUCED: log entry 26. -/
def parkFar (s : State) (k : Packet) : State :=
  let s := askMember s k
  match s.findThread k.uid, k.memberOf s with
  | some (p, t), some m =>
    if t.region.fixed || t.wait != .none || k.stays then s
    else
      let again := match k.body with
        | .ratomic .. => t.pend.any (fun q => q.id == originalOf s k)
        | _ => false
      let s := parkPageOn (settlePacket s k) p m (saOff k.ca / 4096)
      if again then
        s.updThread p (fun u => { u with pc := u.pc - 4, region := { u.region with rstart := u.region.rstart - 4 } })
      else s
  | _, _ => s

/-- Memory as a load at its home sees it (R104, R212): M behind the stores that its slot made before it.
DEDUCED: log entry 93. -/
def viewFor (s : State) (k : Packet) : List Host.Cell :=
  let m := ownMem s k.uid k.id
  match s.findThread k.uid with
  | some (_, t) => (t.region.items.take k.seen).foldl (fun m i => i.over s k.ctx m) m
  | none => m

/-- The bytes that a load at its home returns; those of a line poisoned behind its issue are unstated (R59, R151).
DESIGN CHOICE: log entry 71. -/
def homeBytes (s : State) (k : Packet) (sa n : Nat) : List Byte :=
  if poisonHit s sa n then
    (leBytes 8 (Config.poisoned s.draws).toNat ++ leBytes 8 (Config.poisoned (s.draws + 1)).toNat).take n
  else if saKind sa = 6 then readSa s sa n
  else memReads (viewFor s k) sa n

/-- The line of a load that is performed at a home of the slot's own district joins the read set of its region (R212). -/
def joinHome (s : State) (k : Packet) (sa n : Nat) : State :=
  match s.findThread k.uid with
  | some (p, t) =>
    if homeDist sa = some (coreDist p.core) ∧ saPeer sa = p.peer ∧ t.pend.any (fun q => q.id == k.id) then
      s.updThread p (fun u => if u.isHandler then u else { u with region := u.region.read sa n })
    else s
  | none => s

/-- A read at a home is answered. -/
def answerRead (s : State) (k : Packet) (sa n : Nat) (res : List Word) : State :=
  let s := (k.memberOf s).elim s (fun m => touch s m sa)
  reply (if poisonHit s sa n then { s with draws := s.draws + 2 } else s) k res

/-- REMOTE_PERFORM: one step at the home. A read that the member refuses reads 0 (R201). DEDUCED: log entry 26.
DESIGN CHOICE: log entry 71. DEDUCED: log entry 93. -/
def execRemotePerform (pkt : Nat) (s : State) : Host.Outcome State Fault Refusal :=
  .next (match findPacket s pkt with
    | none => s
    | some k =>
      if k.phase ≠ .arrived then s
      else
        match k.body, placeOf s k with
        | .read size conv, none => reply s k (readWords size conv (List.replicate size 0))
        | .fetch .., none => reply s k [0]
        | .cread _ n, none => reply s k (List.replicate n 0)
        | .cread _ n, some (sa, resident) =>
          if !resident then askMember s k
          else if !handlerLets s k sa then s
          else if poisonHit s sa n then reply s k []
          else answerRead s k sa n ((readSa s sa n).map (fun b => b.zeroExtend 64))
        | .read size conv, some (sa, resident) =>
          if !resident then parkFar s k
          else if !handlerLets s k sa then s
          else answerRead (joinHome s k sa size) k sa size (readWords size conv (homeBytes s k sa size))
        | .fetch _ _ size, some (sa, resident) =>
          if !resident then parkFar s k
          else if !handlerLets s k sa then s
          else if poisonHit s sa size then reply s k []
          else answerRead s k sa size [BitVec.ofNat 64 (leNat (homeBytes s k sa size))]
        | .ratomic op w v c, r =>
          let k := k.aged s.now
          match cached s k with
          | some res => reply s k res
          | none =>
            if !streamLets s k then s
            else
              match r with
              | none => performed s k none [0]
              | some (sa, resident) =>
                if !resident then parkFar s k
                else if !handlerLets s k sa || !cqLets s k sa then s
                else if poisonHit s sa (if w then 4 else 8) then
                  performed { s with draws := s.draws + 1 } k none [(atomConv op w).apply (Config.poisoned s.draws).toNat]
                else if blocked s none (linesOf sa 8) then (if k.kept then s else hold s k sa)
                else performed s k (some sa) [(atomConv op w).apply (atomBytes s.mem sa op w v c).1]
        | _, _ => s)

/-! ## Acknowledgements and results (R57, R182, R183, R224, R232) -/

/-- A packet travels in a stream of the fabric. -/
def Packet.onFabric (k : Packet) : Bool :=
  match k.stream with
  | some key => key.fabric && k.num != 0
  | none => false

/-- A late store, release or posted atomic is counted among the performance counters (R232). -/
def noteLate (s : State) (k : Packet) : State :=
  if k.target.isSome then s else s.updCtx k.ctx (fun x => { x with perf := { x.perf with late := x.perf.late + 1 } })

/-- ACKNOWLEDGEMENT: it reaches the source, or is lost on the fabric. -/
def execAcknowledgement (pkt : Nat) (lost : Bool) (s : State) : Host.Outcome State Fault Refusal :=
  .next (match findPacket s pkt with
    | none => s
    | some k =>
      if k.phase ≠ .reply then s
      else if lost then
        (if !k.onFabric then s else if k.dup then dropPacket s pkt else setPacket s { k with phase := .lost, path := [] })
      else if !k.path.isEmpty || k.body.returns then s
      else releaseHeld (settlePacket (if k.late then noteLate s k else s) k) k.uid 64)

/-- 8 µs in reference cycles (R4, R183). -/
def resendTime : Nat := 15200

/-- RETRANSMIT (R183): 8 µs after a transmission that is not acknowledged the packet is sent again, with its number and the
slack that it was first sent with; one that is still on its way is followed by a copy. -/
def execRetransmit (pkt : Nat) (s : State) : Host.Outcome State Fault Refusal :=
  .next (match findPacket s pkt with
    | none => s
    | some k =>
      if !k.onFabric || k.dup || !k.sentAt.any (fun t => decide (t + resendTime ≤ s.now)) then s
      else
        let fresh : Packet := { k with phase := .request, slack := k.slack0, late := false, kept := false,
                                       sentAt := some s.now, result := [] }
        let (s, again) := routed s fresh
        let again := { again with path := again.path.filter (fun q => match q with
          | .window _ => false
          | _ => true) }
        if k.phase = .lost then
          let (s, again) := atQueue s again k.place.peer (coreDist k.place.core)
          setPacket s again
        else
          let (id, s) := (setPacket s { k with sentAt := some s.now }).fresh
          let (s, again) := atQueue s { again with id := id, dup := true } k.place.peer (coreDist k.place.core)
          { s with packets := s.packets ++ [again] })

/-- A fetched element reaches its engine (R272). -/
def arriveElement (s : State) (p : Place) (t : Thread) (eng idx size : Nat) (res : List Word) : State :=
  let bs := match res with
    | [] => []
    | w :: _ => leBytes size w.toNat
  let take (e : Nat × Stream) : Nat × Stream :=
    if e.1 = eng ∧ e.2.holder = some t.uid ∧ e.2.pos ≤ idx then (e.1, { e.2 with got := e.2.got ++ [(idx, bs)] }) else e
  s.updCore (coreOf p) (fun k => { k with streams := k.streams.map take })

/-- Bytes reach the command that reads them (R225); none of a poisoned line. -/
def arriveBytes (s : State) (k : Packet) : State :=
  let take (q : Cmd) : Cmd := match k.body with
    | .cread cid n => if q.cid = cid then { q with fetched := q.fetched ++ [(k.va, n, k.result.map (fun w => w.truncate 8))] } else q
    | _ => q
  { settlePacket s k with
    cores := s.cores.map (fun (e : CoreId × Core) => (e.1, { e.2 with cmds := e.2.cmds.map take })) }

/-- A result reaches its thread: a late one is counted (R232). The pending result is the original packet's. -/
def arriveAt (s : State) (p : Place) (t : Thread) (k : Packet) : State :=
  let id := originalOf s k
  let s := settlePacket s k
  let s := if k.late then lateReply s p t else s
  match k.body with
  | .fetch eng idx size => arriveElement s p t eng idx size k.result
  | _ => arriveValue s p id k.result

/-- RESULT_ARRIVAL (R57). -/
def execResultArrival (pkt : Nat) (s : State) : Host.Outcome State Fault Refusal :=
  .next (match findPacket s pkt with
    | none => s
    | some k =>
      if k.phase ≠ .reply ∨ !k.path.isEmpty ∨ !k.body.returns then s
      else
        let s' := match k.body, s.findThread k.uid with
          | .cread .., _ => arriveBytes s k
          | _, some (p, t) => arriveAt s p t k
          | _, none => settlePacket s k
        releaseHeld s' k.uid 64)

/-! ## Barriers (R257, R279, R332) -/

/-- BARRIER_ARRIVAL. -/
def execBarrierArrival (pkt : Nat) (s : State) : Host.Outcome State Fault Refusal :=
  .next (match findPacket s pkt with
    | none => s
    | some k =>
      match k.body, k.phase with
      | .arrival bar units, .arrived => barrierCount (dropPacket s pkt) k.ctx bar units
      | _, _ => s)

/-- The cores on which a context holds slots. -/
def Ctx.coreList (x : Ctx) : List Nat := (x.slots.map (·.1) ++ x.cores).eraseDups

/-- The sums of a context's five counters over its cores, each saturating. -/
def counterSums (s : State) (c : CtxId) (x : Ctx) : List Nat :=
  let ms := x.coreList.map (fun n => (s.core ⟨c.peer, n⟩).mat c.id)
  let f (g : MatRegs → BitVec 16) : Nat := min (2 ^ 32 - 1) ((ms.map (fun m => (g m).toNat)).sum)
  [f (·.ncnan), f (·.ncovf), f (·.ncunf), f (·.ncinx), f (·.ncscl)]

/-- The 64 bytes of a statistics record. -/
def statRecord (s : State) (c : CtxId) (x : Ctx) (n : Nat) (b : Barrier) : List Byte :=
  (counterSums s c x).flatMap (leBytes 4) ++ leBytes 4 x.coreList.length ++ leBytes 4 n
    ++ leBytes 1 (if b.phase then 0 else 1) ++ leBytes 3 0 ++ leBytes 8 (s.dtime c.peer) ++ leBytes 8 (b.flips + 1)
    ++ leBytes 16 0

/-- A context's counters on its cores are zeroed. -/
def zeroCounters (s : State) (c : CtxId) (x : Ctx) : State :=
  x.coreList.foldl (fun s n => s.updCore ⟨c.peer, n⟩ (fun k =>
    { k with mregs := mset k.mregs c.id { k.mat c.id with ncnan := 0, ncovf := 0, ncunf := 0, ncinx := 0, ncscl := 0 } })) s

/-- Where the statistics record of a barrier goes (R332). -/
def statVa (x : Ctx) (bar : Nat) : Word := BitVec.ofNat 64 (x.barb.toNat / 2 ^ 21 * 2 ^ 21 + 64 * bar)

/-- The record of a gather is written, where its address passes the checks (R332). -/
def writeStat (s : State) (c : CtxId) (x : Ctx) (bar : Nat) (record : List Byte) : Put :=
  match look s c 0 [] (statVa x bar) 64 64 needW with
  | .ok _ => deviceWrite s c 0 [] 3 (statVa x bar) record
  | .absent page => .absent page
  | .fault _ => .ok s

/-- A barrier of a context is replaced. -/
def setBarrier (s : State) (c : CtxId) (bar : Nat) (b : Barrier) : State :=
  s.updCtx c (fun x => { x with barriers := mset x.barriers bar b })

/-- STATISTICS_GATHER (R332): the counters are read and zeroed, and E leaves the count; the record is still to be written.
DEDUCED: log entry 32. -/
def execStatisticsGather (c : CtxId) (bar : Nat) (s : State) : Host.Outcome State Fault Refusal :=
  .next (match s.ctx c with
    | none => s
    | some x =>
      let b := mgetD x.barriers bar Barrier.reset
      if !b.stat || decide (x.barb.toNat / 2 ^ 21 = 0) || b.gathered || decide (b.e = 0) || decide (b.count < b.e) then s
      else
        zeroCounters (setBarrier s c bar
          { b with count := b.count - b.e, gathered := true, record := some (statRecord s c x bar b) }) c x)

/-- STATISTICS_FLIP: the record is written and the phase flips; while a write of it is held, or its page is not resident, the flip
waits (R204, R220, R332). DEDUCED: log entry 32. -/
def execStatisticsFlip (c : CtxId) (bar : Nat) (s : State) : Host.Outcome State Fault Refusal :=
  .next (match s.ctx c with
    | none => s
    | some x =>
      let b := mgetD x.barriers bar Barrier.reset
      if b.gathered then
        match (writeStat s c x bar (b.record.getD [])).orWait s c with
        | .error s' => s'
        | .ok s' =>
          wakeBarrier (setBarrier s' c bar { b with gathered := false, record := none, phase := !b.phase, flips := b.flips + 1 }) c bar
      else s)

end Sys2Proof.Machine
end

