-- ==== Sys2Proof/Machine/Moves.lean ====
section
/-! DEFINITION. Steps of a slot beside its issue (R54, R62, R64, R191, R202, R214, R216, R254), restart points (R141), and the
moves of threads (R145, R146, R195 to R197). A step whose conditions do not hold changes
nothing. -/

namespace Sys2Proof.Machine

/-! ## Regions -/

/-- A word that is a commit point with no check of its own before the commit: CMT, and RGN of a private register. -/
def commitWord (w : Nat) : Bool := w == 0x80000001 || (w &&& 0xFFF81FFF == 0x80000000 && !w.testBit 18)

/-- The slot stands at a commit point: a full implicit region, or CMT or RGN as its next instruction. The other commit points
(R218) check their operands first, and commit in their own step. DEDUCED: log entry 33. -/
def atCommitPoint (s : State) (p : Place) (t : Thread) : Bool :=
  (!t.region.explicit && decide (48 ≤ t.region.lines)) || (match nextWord s p t with
    | .inl w => commitWord w
    | .inr _ => false)

/-- COMMIT_REGION (R214): the region of a slot at a commit point commits, once its conditions hold. The instruction of the
commit point then finds an empty region. DEDUCED: log entry 33. -/
def execCommitRegion (p : Place) (s : State) : Host.Outcome State Fault Refusal :=
  .next (match s.thread p with
    | none => s
    | some t =>
      if t.isHandler || t.wait != .none || pinOut s p t || !atCommitPoint s p t then s else (tryCommit s p t false 0 t.pc).getD s)

/-- TOKEN_STEP (R216, R217): the token is given to a region that waits for it. -/
def execTokenStep (p : Place) (s : State) : Host.Outcome State Fault Refusal :=
  .next (match s.thread p with
    | none => s
    | some t =>
      if t.region.fixed || !canToken s p t then s
      else if t.region.wantExcl then giveToken s p true
      else if t.region.want then giveToken s p false
      else s)

/-- The results that a thread waits for, without those of migrations that it has not left for. -/
def Thread.landing (s : State) (t : Thread) : List Pend := t.pend.filter (fun q => !s.migs.any (fun m => m.id == q.id))

/-- PIN_BUDGET (R62): fatal, with the cycles counted, behind the slot's pending results (R71); a migration that the slot has reserved
is given up with its access. -/
def execPinBudget (p : Place) (s : State) : Host.Outcome State Fault Refusal :=
  .next (match s.thread p with
    | none => s
    | some t =>
      if pinOut s p t && (t.landing s).all (fun q => q.value.isSome) then
        let s := drain (cancelMigs (s.setThread p { t with pend := t.landing s }) t.uid) p
        (s.thread p).elim s (fun u => parkFault s p u ⟨0x12, BitVec.ofNat 64 (pinBudgetOf s p t + 1)⟩)
      else s)

/-! ## Windows, walks and handlers -/

/-- WINDOW_SPILL (R64): the lowest frame that the area does not hold is written. DEDUCED: log entry 16. -/
def execWindowSpill (p : Place) (s : State) : Host.Outcome State Fault Refusal :=
  .next (match s.thread p with
    | none => s
    | some t =>
      match t.unspilled with
      | [] => s
      | (n, f) :: _ => (match spillFrame s p t n f with
          | .ok s' => s'
          | _ => s))

/-- WINDOW_FILL (R64): the top frame becomes resident. DEDUCED: log entry 16. -/
def execWindowFill (p : Place) (s : State) : Host.Outcome State Fault Refusal :=
  .next (match s.thread p with
    | none => s
    | some t => if t.frames.isEmpty && t.wdep != 0 && !fillAway s p t then (fillFrame s p t).getD s else s)

/-- WALK_COMPLETE (R202): the entry that a walk finds for a waiting slot is cached for its core and its quarter. DEDUCED: log
entry 15. -/
def execWalkComplete (p : Place) (va : Word) (s : State) : Host.Outcome State Fault Refusal :=
  .next (match s.thread p with
    | none => s
    | some t =>
      let c := t.ctxId p
      match s.ctx c with
      | none => s
      | some x =>
        if !(s.cached c va).isEmpty then s
        else match walk s c x va with
          | some r => cacheFor s p c.id (r.covers t.pc) r
          | none => s)

/-- A HANDLER_FAULT event that found no room holds back the handler queue of a core (R177). -/
def hqHeld (s : State) (c : CoreId) : Bool :=
  s.ctxs.any (fun e => e.1.peer == c.peer && e.2.held.any (fun h => h.hq == some c.core))

/-- ACTIVE_MESSAGE (R191, R253): slot 15 takes the next message; its handler starts. -/
def execActiveMessage (c : CoreId) (s : State) : Host.Outcome State Fault Refusal :=
  let p : Place := ⟨c.peer, c.core, 15⟩
  .next (match hqItems s c, s.thread p with
    | .code m :: rest, none =>
      if hqHeld s c then s else
      let s := s.updCore c (fun k => { k with hq := rest })
      match s.ctx m.ctx with
      | none => s
      | some x =>
        let (uid, s) := s.fresh
        let t := (Thread.new uid m.ctx.id m.entry p).start (([8, 9, 10, 11] : List Nat).zip (m.off :: m.args)) []
        s.setThread p { t with role := .handler m.uid m.slot 0, slk := BitVec.ofNat 12 m.slk, seen := x.text.version }
    | _, _ => s)

/-- HANDLER_INSTRUCTION_LIMIT (R254): the 65th instruction of a handler does not issue. -/
def execHandlerInstructionLimit (c : CoreId) (s : State) : Host.Outcome State Fault Refusal :=
  let p : Place := ⟨c.peer, c.core, 15⟩
  .next (match s.thread p with
    | some t => if t.spent && t.settled then endHandler s p t 0x100 else s
    | none => s)

/-! ## Restart points (R141) -/

/-- A thread whose wait has ended is behind its wait instruction. -/
def behindWait (s : State) (p : Place) : State :=
  match s.thread p with
  | none => s
  | some t =>
    match t.wait with
    | .ended => endWait s p true
    | .barrier _ _ true => endWait s p true
    | _ => s

/-- A thread is brought to its restart point; none while it must run on, or a write of its frames is held. A thread that waits
resumes at the wait instruction; one that has arrived by a migration and waits for the page of its access resumes behind the move, with the
access still to be made (R197). DEDUCED: log entry 45. -/
def toRestart (s : State) (p : Place) : Option State :=
  let s := behindWait s p
  match s.thread p with
  | none => some s
  | some t =>
    if t.region.fixed || t.isHandler then none
    else
      let s :=
        if s.migs.any (fun m => m.landed && m.thread.uid == t.uid) then
          openRegion (s.updThread p (fun u => { u with wait := .none })) p false 0 t.pc
        else match t.wait with
          | .none => abortPlace s p false
          | .vector _ => abortPlace s p false
          | _ => s.updThread p (fun u => { u with wait := .none, pend := [] })
      match flushFrames s p with
      | .ok s' => some s'
      | .bad _ => some s
      | .wait => none

/-! ## Migration (R195 to R197) -/

/-- An arrival-buffer entry of a core is free again. -/
def freeArrival (s : State) (dst : Place) (id : Nat) : State :=
  s.updCore (coreOf dst) (fun k => { k with arrivals := k.arrivals.filter (· != id) })

/-- What travels of a thread (R196): no trap registers, no locks, four f-registers at most, frames to be filled. -/
def Thread.travel (t : Thread) (pend : List Pend) : Thread :=
  { t with
    tpc := 0, tcause := 0, tval := 0, tstat := 0, shadow := Loops.zero, locks := [], frames := [], once := none
    f := Vector.ofFn (fun (j : Fin 32) => if t.live.toNat / 2 ^ j.val % 2 = 1 then t.f[j.val]?.getD 0 else 0)
    pend := pend }

/-- A reserved migration is given up: its access is performed in place, at the far home that its checks found (R65, R195). One that
other instructions of its slot stand behind is not made again. -/
def accessHere (s : State) (p : Place) (t : Thread) (m : Mig) (stays : Bool) : State :=
  let s := freeArrival { s with migs := s.migs.filter (fun n => n.id != m.id) } m.dst m.id
  match m.access with
  | none => s
  | some (va, body, _) =>
    let r := mkPacket s p t m.ca body false m.slack
    sendPacket r.1 { r.2 with id := m.id, va := va, stays := stays }

/-- An atomic performed in place commits its region first, with the slot's other results written (R59, R213); its own is still
to come. While the commit waits, so does the atomic, and none is made of a region that has spent its budget (R62). -/
def stayHere (s : State) (p : Place) (t : Thread) (m : Mig) : State :=
  match m.access with
  | some (_, .ratomic .., _) =>
    let mine := t.pend.filter (fun q => q.id == m.id)
    let u := { t with pend := t.pend.filter (fun q => q.id != m.id) }
    if pinOut s p t then s else
    match tryCommit (s.setThread p u) p u false 0 t.pc with
    | none => s
    | some s' =>
      let s' := s'.updThread p (fun v => { v with pend := mine ++ v.pend })
      (s'.thread p).elim s (fun v => accessHere s' p v m true)
  | _ => accessHere s p t m false

/-- The packets of a thread's message leave for its target (R196): two for a migration, and three for the slot-state record
of a displacement. -/
def sendThread (s : State) (p : Place) (c : CtxId) (uid mid : Nat) (dst : Place) (parts : List Nat) (slack : Nat) : State :=
  parts.foldl (fun s n => sendTo s p c uid (.mig mid n) dst.peer (coreDist dst.core) true slack) s

/-- The thread leaves its slot; its message is on the way. What its queue holds when it goes to another peer stays behind as a
retired thread's does. DESIGN CHOICE: log entry 111. -/
def leaveSlot (s : State) (p : Place) (m : Mig) (q : List Pend) : State :=
  let s := withdrawAll s p
  match s.thread p with
  | none => s
  | some u =>
    let s := s.updCore (coreOf p) (fun k => { k with streams := k.streams.filter (fun e => e.2.holder != some u.uid) })
    let away := m.dst.peer != p.peer
    let s := if away then leaveQueues s (u.ctxId p) u else s
    let u := if away then { u with events := [], records := [] } else u
    let go (n : Mig) : Mig := if n.id = m.id then { n with thread := u.travel q } else n
    let s := { s.freeSlot p with migs := s.migs.map go }
    sendThread s p (u.ctxId p) u.uid m.id m.dst [0, 1] m.slack

/-- A migration of the thread in a place leaves, if it may now. DEDUCED: log entry 29. DEDUCED: log entry 87. -/
def depart (s : State) (p : Place) (t : Thread) (m : Mig) : State :=
  let mine := t.pend.filter (fun q => q.id == m.id)
  let others := t.pend.filter (fun q => q.id != m.id)
  if pinOut s p t || (mine.any (fun q => q.left != 0) && !m.early) then s
  else if !others.all (fun q => q.value.isSome) then s
  else if !framesWritable s p t then stayHere s p t m
  else
    let s1 := s.setThread p { t with pend := others }
    match tryCommit s1 p { t with pend := others } false 0 t.pc with
    | none => s
    | some s2 =>
      match flushFrames s2 p with
      | .ok s3 => leaveSlot s3 p m mine
      | _ => s

/-- MIGRATION_DEPART. -/
def execMigrationDepart (p : Place) (s : State) : Host.Outcome State Fault Refusal :=
  .next (match s.thread p with
    | none => s
    | some t =>
      match s.migs.find? (fun m => m.thread.uid == t.uid && !m.displaced) with
      | some m => depart s p t m
      | none => s)

/-- The access at an arrival: values, or a trap, or a page, or a line that is held. -/
inductive Arrived where
  | ok (s : State) (vs : List Word)
  | trap (c : Trap)
  | absent (page : Nat)
  | held
  deriving DecidableEq, Repr

/-- The access that a thread brings is performed as one of its new district (R197), behind what the thread has stored before; an
atomic waits until that has been performed (R104), and is counted as one of the district (R193). What lies in another slice waits for
its turn there (R191). DEDUCED: log entry 93. -/
def arrivalAccess (s : State) (c : CtxId) (uid : Nat) (dst : Place) (va : Word) (body : Body) : Arrived :=
  let n := match body with
    | .read n _ => n
    | .ratomic _ w _ _ => if w then 4 else 8
    | _ => 1
  let need := match body with
    | .read .. => needR
    | _ => needRW
  let own := ownMem s uid s.nextId
  match look s c dst.core [] va n n need with
  | .fault f => .trap f
  | .absent page => .absent page
  | .ok l =>
    match l.sa.or ((resolve s c l.ca).map (·.1)) with
    | none => .ok s (match body with
        | .read n conv => readWords n conv (List.replicate n 0)
        | _ => [0])
    | some sa =>
      if poisonHit s sa n then .trap ⟨cPoison, va⟩
      else if otherSlice dst sa && !messageLets s sa then .held
      else
        match body with
        | .read n conv =>
          .ok (touch s c sa) (readWords n conv (if saKind sa = 6 then readSa s sa n else memReads own sa n))
        | .ratomic op w v cmp =>
          if memReads own sa n != memReads s.mem sa n then .held else
          let r := atomBytes s.mem sa op w v cmp
          if blocked s none (linesOf sa n) then .held
          else .ok (notePredictor (extWrite (touch s c sa) none sa r.2) c sa (!l.uncached)) [(atomConv op w).apply r.1]
        | _ => .ok s []

/-- The thread takes its reserved slot; the arrival-buffer entry is free again. The access of `m` is still to be performed. -/
def takeSlot (s : State) (c : CtxId) (m : Mig) : State :=
  let seen := match s.ctx c with
    | some x => x.text.version
    | none => 0
  let t := { m.thread with
    ctx := c.id
    apCore := m.dst.core
    seen := if m.dst.peer = m.src.peer then m.thread.seen else seen
    pend := [] }
  (freeArrival s m.dst m.id).setThread m.dst t

/-- The thread is in its slot, with its result if it has one; its region opens behind that. -/
def land (s : State) (c : CtxId) (m : Mig) (vs : Option (List Word)) : State :=
  let s := { (if m.landed then s else takeSlot s c m) with migs := s.migs.filter (fun n => n.id != m.id) }
  let s := match vs, m.thread.pend with
    | some vs, q :: _ => writePend s m.dst { q with value := some vs, push := none }
    | _, _ => s
  drainStore (openRegion s m.dst false 0 m.thread.pc) c m.thread.uid 300

/-- The thread takes its slot and parks there for the page of its access (R197, R204). -/
def landParked (s : State) (c : CtxId) (m : Mig) (page : Nat) : State :=
  let s := if m.landed then s else takeSlot s c m
  let mark (n : Mig) : Mig := if n.id = m.id then { n with landed := true } else n
  let s := { s with migs := s.migs.map mark }
  askPage (s.updThread m.dst (fun t => { t with wait := .page c.peer page })) c page

/-- The result of an arriving access would go to a shared register of a core that the thread's context does not own (R60). -/
def deniedAt (s : State) (c : CtxId) (m : Mig) : Bool :=
  (m.access.any (fun a => a.2.2.any (fun d => isShared d.reg))) && !(s.ctx c).any (fun x => x.owns m.dst.core)

/-- Every packet of a thread's message has arrived, and none is kept. -/
def carried (s : State) (mid : Nat) : Bool :=
  (s.packets.filter (fun k => match k.body with
    | .mig id _ => id == mid
    | _ => false)).all (fun k => k.phase == .arrived)

/-- The packets of a thread's message are gone. -/
def uncarry (s : State) (mid : Nat) : State :=
  { s with packets := s.packets.filter (fun k => match k.body with
    | .mig id _ => id != mid
    | _ => true) }

/-- The thread of a migration is on its way, or has landed and may perform its access now. -/
def arriving (s : State) (m : Mig) : Bool :=
  match s.findThread m.thread.uid with
  | none => carried s m.id
  | some (_, t) => m.landed && t.wait == .none

/-- MIGRATION_ARRIVAL: once both packets of the message have arrived, the thread is placed and performs its access; one whose
access waits for a page parks in its slot, and the step retries the access when the page has come. An access for a shared register that
the context does not own here is not made: SHARED_DENIED is taken with TPC = the resume PC. DEDUCED: log entry 26.
DESIGN CHOICE: log entry 90. DEDUCED: log entry 108. -/
def execMigrationArrival (mid : Nat) (s : State) : Host.Outcome State Fault Refusal :=
  .next (match s.migs.find? (fun m => m.id == mid && !m.displaced) with
    | none => s
    | some m =>
      if !arriving s m then s
      else
        match member s ⟨m.src.peer, m.thread.ctx⟩ m.dst.peer with
        | none => s
        | some c =>
          let s0 := uncarry s m.id
          match m.access with
          | none => land s0 c m none
          | some (va, body, _) =>
            if deniedAt s c m then raise (land s0 c m none) m.dst ⟨cShared, m.word⟩ else
            match arrivalAccess s0 c m.thread.uid m.dst va body with
            | .ok s' vs => land s' c m (some vs)
            | .trap f => raise (land s0 c m none) m.dst f
            | .absent page => landParked s0 c m page
            | .held => s)

/-! ## Displacement (R145, R146, R368, R369) -/

/-- The thread waits for another's pinned or exclusive region to commit (R145): for the token, or at a commit that such a
region holds back. -/
def waitsForFixed (s : State) (p : Place) (t : Thread) : Bool :=
  let other := s.threads.any (fun e => e.1.peer == p.peer && e.2.ctx == t.ctx && e.2.uid != t.uid && e.2.region.fixed
    && (s.ctx (t.ctxId p)).any (fun x => x.token_ == some e.2.uid))
  ((t.region.want || t.region.wantExcl) && other)
    || ((t.stuck || (!t.region.explicit && decide (48 ≤ t.region.lines)))
      && (!tokenLets s p t || blocked s (some t.uid) t.region.written))

/-- A thread may be displaced (R65, R143, R145): its context runs, and its frames can be written. -/
def mayDisplace (s : State) (p : Place) (t : Thread) : Bool :=
  decide (p.slot < 14) && !busyForMove s p t && !t.region.fixed && !waitsForFixed s p t && framesWritable s p t
    && (s.ctx (t.ctxId p)).any (fun x => x.state == .live) && !s.migs.any (fun m => m.thread.uid == t.uid)

/-- The target of a displacement: the first core of the order with a free general slot of the context and room for two
arrivals. DEDUCED: log entry 28. -/
def displaceTarget (s : State) (p : Place) (c : CtxId) : Option Place :=
  (districtOrder s p.peer (coreDist p.core) (coreQtr p.core)).findSome? (fun core =>
    if core = p.core ∨ 3 ≤ (s.core ⟨p.peer, core⟩).arrivals.length then none
    else (arrivalSlot s c core false).map (fun slot => ⟨p.peer, core, slot⟩))

/-- A thread is displaced, if it can be. DEDUCED: log entry 87. -/
def displace (s : State) (p : Place) (t : Thread) : Option State :=
  if !mayDisplace s p t then none
  else
    match displaceTarget s p (t.ctxId p), toRestart s p with
    | some dst, some s1 =>
      let s1 := withdrawAll s1 p
      match s1.thread p with
      | none => none
      | some u =>
        let (id, s2) := s1.fresh
        let s2 := s2.updCore (coreOf dst) (fun k => { k with arrivals := k.arrivals ++ [id, id] })
        let slack := s2.slack p u
        let s3 := { s2.freeSlot p with migs := s2.migs ++ [⟨id, u, p, dst, true, none, false, slack, false, 0, 0⟩] }
        some (sendThread s3 p (u.ctxId p) u.uid id dst [2, 3, 4] slack)
    | _, _ => none

/-- The threads of a core's general slots, the highest slot first. -/
def generalThreads (s : State) (c : CoreId) : List (Place × Thread) :=
  inOrder (fun a b => decide (b.1.slot ≤ a.1.slot))
    (s.threads.filter (fun e => e.1.peer == c.peer && e.1.core == c.core && decide (e.1.slot < 14)))

/-- The core of an island with the most occupied general slots; the lower among equals (R369). -/
def fullestCore (s : State) (peer island : Nat) : Nat :=
  let n (core : Nat) : Nat := (generalThreads s ⟨peer, core⟩).length
  [1, 2, 3].foldl (fun b j => if n b < n (4 * island + j) then 4 * island + j else b) (4 * island)

/-- An island, by number: district, quarter and group as in CORE. -/
def Device.island (d : Device) (n : Nat) : Island := mgetD d.islands n Island.reset

/-- An island is replaced. -/
def Device.setIsland (d : Device) (n : Nat) (i : Island) : Device := { d with islands := mset d.islands n i }

/-- The 10 µs of an island's steps since one of them have passed (R366, R369). DESIGN CHOICE: log entry 82. -/
def tenMicros (last : Option Nat) (now : Nat) : Bool := last.all (fun at_ => decide (at_ + 19000 ≤ now))

/-- An island sheds at this moment, as its device records it (R369). -/
def Device.shed (d : Device) (n now : Nat) : Device := d.setIsland n { d.island n with shedAt := some now }

/-- THERMAL_DISPLACEMENT (R369): a hot island displaces one thread every 10 µs; a thread that no target takes is passed over.
DESIGN CHOICE: log entry 82. -/
def execThermalDisplacement (peer island : Nat) (s : State) : Host.Outcome State Fault Refusal :=
  let i := (s.dev peer).island island
  .next (if i.hot && tenMicros i.shedAt s.now then
      let s1 := ((generalThreads s ⟨peer, fullestCore s peer island⟩).findSome? (fun e => displace s e.1 e.2)).getD s
      s1.setDev peer ((s1.dev peer).shed island s.now)
    else s)

/-- DISPLACEMENT_ARRIVAL (R145, R146): the thread keeps its aperture core and its locks. -/
def execDisplacementArrival (mid : Nat) (s : State) : Host.Outcome State Fault Refusal :=
  .next (match s.migs.find? (fun m => m.id == mid && m.displaced) with
    | none => s
    | some m =>
      if !carried s mid then s else
      let s := uncarry s mid
      placeThread (freeArrival { s with migs := s.migs.filter (fun n => n.id != m.id) } m.dst m.id) m.dst m.thread)

end Sys2Proof.Machine
end

