-- ==== Sys2Proof/Machine/Notices.lean ====
section
/-! DEFINITION. The forms that act under R161, and of them the events, the capability table, time and nonces (R114, R160, R161,
R172 to R175, R177 to R179, R303). -/

namespace Sys2Proof.Machine

/-! ## Forms that act behind a commit (R161) -/

/-- The check of a VA operand at issue: its first byte and its alignment. DEDUCED: log entry 73. -/
def checkVa (s : State) (p : Place) (t : Thread) (va : Word) (align need : Nat) : Option Res :=
  match lookT s p t va 1 align need with
  | .ok _ => none
  | .fault c => some (.trap c)
  | .absent page => some (.gone (parkPage s p page))

/-- The commit of a form that commits, and its act behind it. DEDUCED: log entry 5. DESIGN CHOICE: log entry 72. -/
def commitThen (s : State) (p : Place) (t : Thread) (act : State → Thread → Res) : Res :=
  match tryCommit s p t false 0 (t.pc + 4) with
  | none => .stall s
  | some s1 =>
    match s1.thread p with
    | none => .stall s
    | some t1 => act s1 t1

/-- A page is missing behind the commit: the thread waits for it, and the form issues again. -/
def waitFormOn (s : State) (p : Place) (t : Thread) (c : CtxId) (page : Nat) : Res :=
  match tryCommit s p t false 0 t.pc with
  | none => .stall s
  | some s1 => .gone (parkPageOn s1 p c page)

/-- The missing page is of the thread's own context. -/
def waitForm (s : State) (p : Place) (t : Thread) (page : Nat) : Res := waitFormOn s p t (t.ctxId p) page

/-- What a form comes to that cannot read its record behind the commit (R151, R161, R204): `bad` where a byte is refused; POISON is
raised in `s1`, the state behind the commit. DESIGN CHOICE: log entry 72. -/
def noRecord (orig s1 : State) (p : Place) (t : Thread) (bad : Res) : NoBytes → Res
  | .refused => bad
  | .absent c page => waitFormOn orig p t c page
  | .poison va => .gone (raise s1 p ⟨cPoison, va⟩)

/-- A record is written to the program's memory, not through a region (R161). -/
def putBytes (s : State) (c : CtxId) (ap : Nat) (locks : List Lock) (va : Word) (bs : List Byte) : Put :=
  deviceWrite s c ap locks (bs.length / 16 + 3) va bs

/-- A form writes a record and then its d: `s1` is the state behind the commit, `orig` the one to stall in. -/
def writeThen (orig s1 : State) (p : Place) (t : Thread) (va : Word) (bs : List Byte) (d : Dst) (la : Nat) (v : State → Word) : Res :=
  match putBytes s1 (t.ctxId p) t.apCore t.locks va bs with
  | .ok s2 => .done (pendNow s2 p [d] la false [v s2])
  | .held => .stall orig
  | .absent page => waitForm orig p t page

/-! ## Completion records (R268, R278, R303) -/

/-- An item is a record. -/
def Stored.isRec (e : Stored) : Bool := match e.item with
  | .inr _ => true
  | .inl _ => false

/-- Records held for a slot: those in its queue, and those that wait for it in the store (R177, R278). DEDUCED: log entry 40. -/
def heldRecords (x : Ctx) (t : Thread) : Nat :=
  t.records.length + (x.store.filter (fun e => e.uid == some t.uid && e.isRec)).length

/-- A slot's record is the last that it held: its pending COMPLETION goes with it (R303), in its queue or in the store. -/
def noRecords (s : State) (c : CtxId) (p : Place) (uid : Nat) : State :=
  (s.updThread p (fun u => { u with events := u.events.filter (fun e => e.code != evCompletion) })).updCtx c (fun x =>
    ({ x with store := x.store.filter (fun e => !(e.uid == some uid && isEvent evCompletion e.item)) } : Ctx).admitHeld)

/-- The oldest record for a thread: of its queue, else of the records that wait in the store for its slot, else the oldest
unaddressed one; with what is left (R278, R303). -/
def takeRecord (s : State) (p : Place) (t : Thread) : Option (Rec × State) :=
  let c := t.ctxId p
  let left (s : State) : State :=
    match s.ctx c, s.thread p with
    | some x, some u => if heldRecords x u = 0 then noRecords s c p t.uid else s
    | _, _ => s
  match t.records with
  | r :: rest => some (r, left (drainStore (s.setThread p { t with records := rest }) c t.uid 300))
  | [] =>
    match s.ctx c with
    | none => none
    | some x =>
      match (x.store.findIdx? (fun e => e.uid == some t.uid && e.isRec)).or
          (x.store.findIdx? (fun e => e.uid.isNone && e.isRec)) with
      | none => none
      | some n =>
        match (x.store[n]?).map (fun (e : Stored) => e.item) with
        | some (.inr r) => some (r, left (s.setCtx c ({ x with store := x.store.eraseIdx n } : Ctx).admitHeld))
        | _ => none

/-- The count that EVRD returns. -/
def recordsLeft (s : State) (p : Place) : Word :=
  match s.thread p with
  | none => 0
  | some t => match s.ctx (t.ctxId p) with
    | some x => BitVec.ofNat 64 (heldRecords x t)
    | none => 0

/-- EVRD. -/
def execEvrd (d a : Reg) (la : BitVec 4) (s : State) : Host.Outcome State Fault Refusal :=
  issue (wordX 0x49 d.toNat a.toNat 0 la.toNat 6) [ri a, ri d] (isShared d) (fun p t k s =>
    let va := readI k t a
    match checkVa s p t va 16 needW with
    | some r => r
    | none => commitThen s p t (fun s1 t1 =>
        match takeRecord s1 p t1 with
        | none => .done (pendNow s1 p [ri d] la.toNat false [BitVec.allOnes 64])
        | some (r, s2) => writeThen s s2 p t1 va r.bytes (ri d) la.toNat (fun s3 => recordsLeft s3 p))) s

/-! ## EVWAIT and EVPOST (R114, R177 to R179) -/

/-- A code that EVWAIT may wait for (R177, R254, R346). -/
def eventCodeOk (v : Word) : Bool := decide (v.toNat < 0x40) || (decide (0x60 ≤ v.toNat) && decide (v.toNat ≤ 0x66))

/-- An event that an item of the store stands for: an unaddressed record stands as COMPLETION (log entry 40, DEDUCED). -/
def Stored.code (e : Stored) : Nat := match e.item with
  | .inl v => v.code
  | .inr _ => evCompletion

/-- The event that EVWAIT takes: its code, the record's bytes and the state without it; a COMPLETION stays.
DEDUCED: log entry 40. -/
def pickEvent (s : State) (p : Place) (t : Thread) (code : Nat) : Option (Nat × List Byte × State) :=
  let c := t.ctxId p
  match s.ctx c with
  | none => none
  | some x =>
    match t.events.findIdx? (fun e => code == 0 || e.code == code) with
    | some n =>
      match t.events[n]? with
      | none => none
      | some e =>
        if e.code = evCompletion then some (e.code, e.bytes (BitVec.ofNat 64 (heldRecords x t)), s)
        else some (e.code, e.bytes (e.shown t), drainStore (s.setThread p { t with events := t.events.eraseIdx n }) c t.uid 300)
    | none =>
      match x.store.findIdx? (fun e => e.uid.isNone && (code == 0 || e.code == code)) with
      | none => none
      | some n =>
        match (x.store[n]?).map (fun (e : Stored) => e.item) with
        | some (.inl e) =>
          some (e.code, e.bytes e.exit, s.setCtx c ({ x with store := x.store.eraseIdx n } : Ctx).admitHeld)
        | some (.inr _) =>
          let n := (x.store.filter (fun e => e.uid.isNone && e.isRec)).length
          some (evCompletion, (⟨evCompletion, c.id, 0, 0⟩ : Event).bytes (BitVec.ofNat 64 n), s)
        | none => none

/-- The thread waits for an event; its wait is a restart point (R27, R141). -/
def eventWait (s : State) (p : Place) (area : Word) (code : Nat) (d : Dst) (la : Nat) : State :=
  s.updThread p (fun u => { u with wait := .event area code d la, region := { u.region with rstart := u.pc } })

/-- EVWAIT. -/
def execEvwait (d a b : Reg) (la : BitVec 4) (s : State) : Host.Outcome State Fault Refusal :=
  issue (wordX 0x49 d.toNat a.toNat b.toNat la.toNat 3) [ri a, ri b, ri d] (isShared d) (fun p t k s =>
    let va := readI k t a
    let code := readI k t b
    match checkVa s p t va 16 needW with
    | some r => r
    | none => commitThen s p t (fun s1 t1 =>
        if !eventCodeOk code then .done (pendNow s1 p [ri d] la.toNat false [0])
        else
          match pickEvent s1 p t1 code.toNat with
          | none => .gone (eventWait s1 p va code.toNat (ri d) la.toNat)
          | some (n, bs, s2) => writeThen s s2 p t1 va bs (ri d) la.toNat (fun _ => BitVec.ofNat 64 n))) s

/-- A slot that waits in EVWAIT at its position: an event that has come ends the wait. A shared d needs the token first. -/
def eventPosition (s : State) (p : Place) (t : Thread) (area : Word) (code : Nat) (d : Dst) (la : Nat) : State :=
  let idle := { s with stalled := true }
  match pickEvent s p t code with
  | none => idle
  | some (n, bs, s1) =>
    if isShared d.reg && !t.region.fixed && !canToken s p t then idle
    else
      match putBytes s1 (t.ctxId p) t.apCore t.locks area bs with
      | .held => idle
      | .absent page => askPage idle (t.ctxId p) page
      | .ok s2 =>
        let s2 := if isShared d.reg && !t.region.fixed then giveToken s2 p false else s2
        endWait (pendNow s2 p [d] la false [BitVec.ofNat 64 n]) p true

/-- What a slot that does not issue does at its position. -/
def slotPosition (s : State) (p : Place) (t : Thread) : State :=
  match t.wait with
  | .event area code d la => if ctxLets s p t then eventPosition s p t area code d la else { s with stalled := true }
  | _ => atPosition s p t

/-- EVPOST: buffered, and posted at the commit. -/
def execEvpost (a b : Reg) (s : State) : Host.Outcome State Fault Refusal :=
  issue (wordX 0x49 0 a.toNat b.toNat 0 4) [ri a, ri b] false (fun p t k s =>
    buffered s p (.post (.evpost (readI k t a) (readI k t b)) (s.slack p t))) s

/-! ## Time and nonces (R124, R174, R175) -/

/-- The value of DTIME d, a. -/
def dtimeValue (s : State) (peer : Nat) (bound : Word) : Word :=
  if (s.dev peer).timeA.isSome ∧ s.dunc peer ≤ bound.toNat then BitVec.ofNat 64 (s.dtime peer) else BitVec.allOnes 64

/-- DTIME: the time at issue. -/
def execDtime (d a : Reg) (la : BitVec 4) (s : State) : Host.Outcome State Fault Refusal :=
  issue (wordX 0x49 d.toNat a.toNat 0 la.toNat 0) [ri a, ri d] (isShared d) (fun p t k s =>
    .done (pendNow s p [ri d] la.toNat false [dtimeValue s p.peer (readI k t a)])) s

/-- A fresh nonce becomes the outstanding one of a device: its 16 bytes (R124, R154, R175). -/
def drawNonce (s : State) (peer : Nat) : State × List Byte :=
  let dv := s.dev peer
  let n := (Config.nonce peer dv.nonceCount).toNat
  (s.setDev peer { dv with nonce := some (dv.nonceCount, s.now), nonceCount := dv.nonceCount + 1
                           nonce0 := BitVec.ofNat 64 n, nonce1 := BitVec.ofNat 64 (n / 2 ^ 64) },
    leBytes 16 n)

/-- TNONCE. -/
def execTnonce (d a : Reg) (la : BitVec 4) (s : State) : Host.Outcome State Fault Refusal :=
  issue (wordX 0x49 d.toNat a.toNat 0 la.toNat 1) [ri a, ri d] (isShared d) (fun p t k s =>
    let va := readI k t a
    match checkVa s p t va 16 needW with
    | some r => r
    | none => commitThen s p t (fun s1 t1 =>
        let r := drawNonce s1 p.peer
        writeThen s r.1 p t1 va r.2 (ri d) la.toNat (fun _ => 0))) s

/-! ## CAPRD and WQRY (R132, R172, R173) -/

/-- What CAPRD writes, and the alignment of its address; none for another index. -/
def capRecord (s : State) (peer : Nat) (idx : Word) : Option (Nat × List Byte) :=
  if wbit idx 63 then some (64, capHeader peer (s.dev peer))
  else if idx.toNat < capCount then some (32, capEntry (s.dev peer) idx.toNat) else none

/-- CAPRD: its address is checked at issue whatever the index (R161), for the alignment of what b[63] asks for; with an index
that names nothing no byte is written. -/
def execCaprd (d a b : Reg) (la : BitVec 4) (s : State) : Host.Outcome State Fault Refusal :=
  issue (wordX 0x48 d.toNat a.toNat b.toNat la.toNat 7) [ri a, ri b, ri d] (isShared d) (fun p t k s =>
    let va := readI k t a
    let idx := readI k t b
    match checkVa s p t va (if wbit idx 63 then 64 else 32) needW with
    | some r => r
    | none => commitThen s p t (fun s1 t1 =>
        match capRecord s1 p.peer idx with
        | none => .done (pendNow s1 p [ri d] la.toNat false [BitVec.allOnes 64])
        | some (_, bs) => writeThen s s1 p t1 va bs (ri d) la.toNat (fun s2 =>
            BitVec.ofNat 64 (s2.dev p.peer).capGen.toNat))) s

/-- The floor of an amount under a ratio with 8 fraction bits, in quanta (R132). -/
def floorOf (amount ratio : Nat) : Nat := (amount * 256 + ratio - 1) / ratio

/-- The slot floor of a context (R132): the grant for Guaranteed, 0 for Scavenger. -/
def slotFloor (d : Device) (x : Ctx) : Nat :=
  if x.cls = 0 then x.block.slots
  else if x.cls = 2 then 0
  else max (floorOf x.block.slots (d.ratio 2).2) (14 * x.block.cores)

/-- An item of a block that a context or a child has (R172). -/
def Block.item (b : Block) : Nat → Option Nat
  | 5 => some b.slots
  | 6 => some b.scratch
  | 7 => some b.hbm
  | 10 => some b.memRate
  | 11 => some b.fabRate
  | 12 => some b.depth
  | _ => none

/-- Flags, class and presentation as one item. -/
def flagsItem (x : Ctx) (fractional presented : Bool) : Nat :=
  x.flags.toNat / 2 * 2 + (if fractional then 1 else 0) + x.cls * 2 ^ 16 + (if presented then 2 ^ 24 else 0)

/-- An item of the context's own (R172). -/
def selfItem (d : Device) (x : Ctx) (n : Nat) : Option Nat :=
  match n with
  | 0 => some x.rootSerial
  | 1 => some x.serial
  | 2 => some (flagsItem x x.fractional false)
  | 3 => some (if x.noTimeBound then 2 ^ 64 - 1 else x.notAfter)
  | 4 => some x.slots.length
  | 9 => some x.granted.tier2
  | 8 => some (4096 * (x.hbm.filter (fun g => g.where_ == .hbm)).length)
  | 13 => some x.children.length
  | 14 => some x.dropped.toNat
  | 15 => some (slotFloor d x)
  | n => x.block.item n

/-- An item of a child warrant (R172): once presented it has what its context holds. -/
def childItem (x : Ctx) (ch : Child) (y : Option Ctx) (n : Nat) : Option Nat :=
  match n with
  | 0 => some x.rootSerial
  | 1 => some ch.serial
  | 2 => some (flagsItem x (ch.block.cores == 0) ch.presented.isSome)
  | 3 => some (if x.noTimeBound then 2 ^ 64 - 1 else x.notAfter)
  | 13 => some ((y.map (fun v => v.children.length)).getD 0)
  | 9 => some (((y.map (·.granted)).getD ch.block).tier2)
  | n => ((y.map (·.block)).getD ch.block).item n

/-- The value of WQRY. -/
def wqryValue (s : State) (c : CtxId) (serial item : Word) : Word :=
  let n := if item.toNat < 16 then item.toNat else 16
  let v := match s.ctx c with
    | none => none
    | some x =>
      if serial = 0 then selfItem (s.dev c.peer) x n
      else match x.children.find? (fun ch => ch.serial == serial.toNat) with
        | none => none
        | some ch => childItem x ch (ch.presented.bind (fun id => s.ctx ⟨c.peer, id⟩)) n
  match v with
  | some n => BitVec.ofNat 64 n
  | none => BitVec.allOnes 64

/-- WQRY: read at issue, beside no step of admission (R162). -/
def execWqry (d a b : Reg) (la : BitVec 4) (s : State) : Host.Outcome State Fault Refusal :=
  issue (wordX 0x48 d.toNat a.toNat b.toNat la.toNat 6) [ri a, ri b, ri d] (isShared d) (fun p t k s =>
    .done (pendNow s p [ri d] la.toNat false [wqryValue s (t.ctxId p) (readI k t a) (readI k t b)])) s

end Sys2Proof.Machine
end

