-- ==== Sys2Proof/Machine/Places.lean ====
section
/-! DEFINITION. What a device has left to give: resource blocks (R117), the class test (R132, R133, R136), pages (R14, R201),
slots, cores and scratch (R24, R113, R117, R120), and where a grant is placed. Of the places that the spec allows the device
takes those of `State.plan`, or else the lowest (log entry 7). -/

namespace Sys2Proof.Machine

/-! ## Resource blocks (R117) -/

/-- The block that 128 bytes hold. -/
def Block.ofBytes (r : List Byte) : Block where
  slots := leAt r 0x00 4
  cores := leAt r 0x04 4
  scratch := leAt r 0x08 8
  hbm := leAt r 0x10 8
  tier2 := leAt r 0x18 8
  oslots := leAt r 0x20 4
  tiles := leAt r 0x24 4
  queues := leAt r 0x28 4
  heap := leAt r 0x2C 4
  barriers := leAt r 0x30 4
  streams := leAt r 0x34 4
  memRate := leAt r 0x38 8
  fabRate := leAt r 0x40 8
  launches := leAt r 0x48 4
  depth := leAt r 0x4C 4

/-- The limits that hold for a decrease too: quanta and totals. -/
def Block.quantaOk (b : Block) (fractional : Bool) : Bool :=
  (if fractional then b.cores == 0 && b.scratch % 32 == 0 else b.slots == 14 * b.cores && b.scratch % 4096 == 0)
    && b.hbm % 4096 == 0 && b.tier2 % 4096 == 0

/-- A block keeps R117 under its flags and class. -/
def Block.ok (b : Block) (fractional : Bool) (cls : Nat) : Bool :=
  let n := max 1 b.cores
  b.quantaOk fractional
    && (if fractional then decide (1 ≤ b.slots) && decide (b.slots ≤ 14) && decide (b.scratch ≤ 131072)
        else decide (1 ≤ b.cores) && decide (b.cores ≤ 6144) && decide (b.scratch ≤ 131072 * b.cores))
    && (cls != 2 || decide (b.hbm ≤ b.tier2))
    && decide (b.oslots ≤ 32 * n) && decide (b.tiles ≤ 4 * n) && decide (b.streams ≤ 8 * n)
    && decide (b.queues ≤ 131072) && decide (b.heap ≤ 131072) && decide (b.barriers ≤ 32768)
    && ((b.hbm == 0 && b.tier2 == 0) || decide (1 ≤ b.memRate))
    && decide (b.launches ≤ 8192) && decide (b.depth ≤ 7)

/-- Two blocks joined amount by amount; the split depth is the first one's. -/
def Block.join (f : Nat → Nat → Nat) (a b : Block) : Block where
  slots := f a.slots b.slots
  cores := f a.cores b.cores
  scratch := f a.scratch b.scratch
  hbm := f a.hbm b.hbm
  tier2 := f a.tier2 b.tier2
  oslots := f a.oslots b.oslots
  tiles := f a.tiles b.tiles
  queues := f a.queues b.queues
  heap := f a.heap b.heap
  barriers := f a.barriers b.barriers
  streams := f a.streams b.streams
  memRate := f a.memRate b.memRate
  fabRate := f a.fabRate b.fabRate
  launches := f a.launches b.launches
  depth := a.depth

/-- The amounts of a block in the order of R138's kinds 2 to 15, in the units of R117. -/
def Block.amounts (b : Block) : List Nat :=
  [b.slots, b.cores, b.scratch, b.hbm, b.tier2, b.oslots, b.tiles, b.queues, b.heap, b.barriers, b.streams, b.memRate, b.fabRate,
    b.launches]

/-- Every amount of one block is at most the other's. -/
def Block.le (a b : Block) : Bool := (a.amounts.zip b.amounts).all (fun e => decide (e.1 ≤ e.2))

/-- Amounts taken away, and added. -/
def Block.minus (a b : Block) : Block := Block.join (· - ·) a b
def Block.plus (a b : Block) : Block := Block.join (· + ·) a b

/-- An amount of a kind in quanta (R138); a context counts one. -/
def Block.quanta (b : Block) (kind : Nat) : Nat :=
  if kind = 1 then 1 else (b.amounts[kind - 2]?.getD 0) / (if kind = 4 then 32 else if kind = 5 ∨ kind = 6 then 4096 else 1)

/-! ## The class test and the counters (R132, R133, R138) -/

/-- The root contexts of a device. -/
def roots (s : State) (peer : Nat) : List Ctx :=
  (s.ctxs.filter (fun e => e.1.peer == peer && e.2.parent.isNone)).map (·.2)

/-- The root of a context's warrant tree; a split is at most 7 deep (R117). -/
def rootOf (s : State) (peer : Nat) (x : Ctx) : Nat → Ctx
  | 0 => x
  | fuel + 1 =>
    match x.parent.bind (fun id => s.ctx ⟨peer, id⟩) with
    | some y => rootOf s peer y fuel
    | none => x

/-- The floor of a Burstable grant in a resource (R132). -/
def Block.floor (d : Device) (b : Block) (kind : Nat) : Nat :=
  let f := floorOf (b.quanta kind) (d.ratio kind).2
  if kind = 2 then max f (14 * b.cores) else f

/-- The floors of the Burstable grants of a device: a context's is itself in the Contexts kind. -/
def floors (s : State) (peer kind : Nat) : Nat :=
  let d := s.dev peer
  if kind = 1 then (d.counter 1).burst
  else if (d.ratio kind).2 = 256 ∧ kind ≠ 2 then (d.counter kind).burst
  else (((roots s peer).filter (fun x => x.cls == 1)).map (fun x => x.granted.floor d kind)).sum

/-- The test of R133 in one resource, for a grant that goes from `old` to `new`; a grant of nothing more passes without it.
DESIGN CHOICE: log entry 112. -/
def kindFits (s : State) (peer cls : Nat) (r : CapRow) (old new : Block) (fresh : Bool) : Bool :=
  let d := s.dev peer
  let t := d.total r
  let c := d.counter r.kind
  let x := if r.kind = 1 then (if fresh then 1 else 0) else new.quanta r.kind - old.quanta r.kind
  let lim := if r.kind = 1 then 256 else (d.ratio r.kind).1
  let rat := if r.kind = 1 then 256 else (d.ratio r.kind).2
  let was := if fresh then 0 else if r.kind = 1 then 1 else old.floor d r.kind
  if x = 0 then true
  else if cls = 0 then decide (c.guar + x ≤ lim * t / 256) && decide (c.guar + x + floors s peer r.kind ≤ t)
  else if cls = 1 then
    decide (c.burst + x ≤ rat * (t - c.guar) / 256)
      && decide (c.guar + (floors s peer r.kind - was) + (if r.kind = 1 then 1 else new.floor d r.kind) ≤ t)
  else true

/-- The class capacity test for every resource. -/
def classTest (s : State) (peer cls : Nat) (old new : Block) (fresh : Bool) : Bool :=
  capResources.all (fun r => kindFits s peer cls r old new fresh)

/-- A counter of a class changed. -/
def Counter.put (c : Counter) (cls : Nat) (f : Nat → Nat) : Counter :=
  if cls = 0 then { c with guar := f c.guar } else if cls = 1 then { c with burst := f c.burst } else { c with scav := f c.scav }

/-- The counters of some kinds take a grant in, or give it back. -/
def Device.count (d : Device) (cls : Nat) (kinds : List Nat) (b : Block) (up : Bool) : Device :=
  { d with counters := kinds.foldl (fun m k =>
      mset m k ((mgetD m k ⟨0, 0, 0⟩).put cls (fun n => if up then n + b.quanta k else n - b.quanta k))) d.counters }

/-- The kinds that a grant counts in, but for Contexts. -/
def grantKinds : List Nat := (List.range 14).map (· + 2)

/-! ## Pages (R14, R201) -/

/-- The n-th HBM page of a device, and the n-th page of its tier-2, the module's first. -/
def hbmAt (peer n : Nat) : Nat := mkSa peer 0 (n / 25165824 * 2 ^ 39 + n % 25165824 * 4096)
def tier2At (peer n : Nat) : Nat :=
  if n < 10 ^ 9 then mkSa peer 1 (4096 * n)
  else mkSa peer 2 ((n - 10 ^ 9) / (5 * 10 ^ 8) * 2 ^ 49 + (n - 10 ^ 9) % (5 * 10 ^ 8) * 4096)

/-- How many there are. -/
def hbmPages : Nat := 201326592
def tier2Pages : Nat := 3000000000

/-- Where a page lies for which the device has no memory left: behind the host port. DESIGN CHOICE: log entry 43. -/
def spareAt (peer n : Nat) : Nat := 2 ^ 80 + mkSa peer 5 (4096 * n)

/-- A page lies in HBM. -/
def inHbm (a : Nat) : Bool := saKind a == 0

/-- Where a page of an HBM grant lies, by its place (R201). -/
def residenceOf (a : Nat) : Residence := if inHbm a then .hbm else if saKind a = 5 then .host else .tier2

/-- The pages that a context's images take up (R149). -/
def Ctx.imagePages (x : Ctx) : List Nat := x.images.flatMap (·.pages) ++ x.whole.getD []

/-- The pages that a context holds, with its text, the texts that its children map, and its images. -/
def Ctx.pagesHeld (x : Ctx) : List Nat :=
  x.hbm.map (·.sa) ++ x.tier2 ++ x.text.pages ++ x.oldTexts.flatMap (·.pages) ++ x.children.flatMap (fun ch => ch.text.pages)
    ++ x.imagePages

/-- The places that a device's contexts hold, in HBM or in tier-2. DESIGN CHOICE: log entry 43. -/
def usedPlaces (s : State) (peer : Nat) (hbm : Bool) : List Nat :=
  (((s.ctxs.filter (fun e => e.1.peer == peer)).flatMap (fun e => e.2.pagesHeld)).filter (fun a => inHbm a == hbm)).eraseDups

/-- The lowest `n` free places, or fewer where fewer are left. DESIGN CHOICE: log entry 43. -/
def freePlaces (s : State) (peer : Nat) (hbm : Bool) (n : Nat) : List Nat :=
  let used := usedPlaces s peer hbm
  let total := if hbm then hbmPages else tier2Pages
  (((List.range (min total (used.length + n))).map (if hbm then hbmAt peer else tier2At peer)).filter
    (fun a => !used.contains a)).take n

/-- The lowest free place. -/
def freePlace (s : State) (peer : Nat) (hbm : Bool) : Option Nat := (freePlaces s peer hbm 1).head?

/-- Pages of the module: the first of tier-2. -/
def modulePages : Nat := 10 ^ 9

/-- Pages of the module that tier-2 grants may still take: those outside the spill reserve (R134, R201). An HBM-grant page that
lies there is in the reserve. DESIGN CHOICE: log entry 43. -/
def moduleRoom (s : State) (peer : Nat) : Nat :=
  let spilled := (s.ctxs.filter (fun e => e.1.peer == peer)).flatMap (fun e => e.2.hbm.map (·.sa))
  modulePages - (s.dev peer).reserve / 4096
    - ((usedPlaces s peer false).filter (fun a => saKind a == 1 && !spilled.contains a)).length

/-- Places for `n` pages of a tier-2 grant: on the module while there is a page outside the spill reserve, then behind the CXL
ports (R201). -/
def tier2Places (s : State) (peer n : Nat) : List Nat :=
  let used := usedPlaces s peer false
  let some_ (first total k : Nat) : List Nat :=
    (((List.range (min total (used.length + k))).map (fun j => tier2At peer (first + j))).filter (fun a => !used.contains a)).take k
  let inside := some_ 0 modulePages (min n (moduleRoom s peer))
  inside ++ some_ modulePages (tier2Pages - modulePages) (n - inside.length)

/-- Places behind the host port for `n` pages. -/
def sparePlaces (s : State) (peer n : Nat) : List Nat :=
  let used := usedPlaces s peer false
  (((List.range (used.length + n)).map (spareAt peer)).filter (fun a => !used.contains a)).take n

/-- Pages are zeroed, and their poison goes (R151, R167). -/
def zeroPages (s : State) (pages : List Nat) : State :=
  { s with mem := s.mem.filter (fun e => !pages.contains (e.1 / 4096 * 4096))
           poisoned := s.poisoned.filter (fun l => !pages.contains (64 * l / 4096 * 4096))
           repair := s.repair.filter (fun e => !pages.contains (64 * e.1 / 4096 * 4096)) }

/-- A byte of a span. -/
def Span.has (sp : Span) (peer a : Nat) : Bool :=
  let lo := scratchSa peer sp.core sp.off
  decide (lo ≤ a) && decide (a < lo + sp.len)

/-- Scratch is zeroed (R113). -/
def zeroSpans (s : State) (peer : Nat) (spans : List Span) : State :=
  { s with mem := s.mem.filter (fun e => !spans.any (fun sp => sp.has peer e.1))
           poisoned := s.poisoned.filter (fun l => !spans.any (fun sp => sp.has peer (64 * l)))
           repair := s.repair.filter (fun e => !spans.any (fun sp => sp.has peer (64 * e.1))) }

/-! ## Slots, cores and scratch (R24, R113, R117) -/

/-- The contexts of a device. -/
def ctxsOf (s : State) (peer : Nat) : List Ctx := (s.ctxs.filter (fun e => e.1.peer == peer)).map (·.2)

/-- The child warrants of a device that no context has been built from. -/
def unpresented (s : State) (peer : Nat) : List Child :=
  (ctxsOf s peer).flatMap (fun x => x.children.filter (fun ch => ch.presented.isNone))

/-- A core is held whole. -/
def coreOwned (s : State) (peer core : Nat) : Bool :=
  (ctxsOf s peer).any (fun x => x.cores.contains core) || (unpresented s peer).any (fun ch => ch.cores.contains core)

/-- A slot is held by a context or a child warrant. -/
def slotHeld (s : State) (peer core slot : Nat) : Bool :=
  (ctxsOf s peer).any (fun x => x.slots.contains (core, slot) || x.cores.contains core)
    || (unpresented s peer).any (fun ch => ch.slots.contains (core, slot) || ch.cores.contains core)

/-- The general slots of a core that nothing holds, ascending. -/
def freeOn (s : State) (peer core : Nat) : List Nat :=
  (List.range 14).filter (fun n => !slotHeld s peer core n && s.slotFree ⟨peer, core, n⟩)

/-- The FRACTIONAL contexts that have a core as theirs. -/
def tenants (s : State) (peer core : Nat) : List Ctx := (ctxsOf s peer).filter (fun x => x.fractional && x.coreHome == core)

/-- The FRACTIONAL child warrants on a core, not presented. -/
def tenantWarrants (s : State) (peer core : Nat) : List Child :=
  (unpresented s peer).filter (fun ch => ch.block.cores == 0 && ch.slots.any (fun e => e.1 == core))

/-- Slots of a core that are promised: Guaranteed grants, Burstable floors, and slots carved to child warrants (R30, R135).
DEDUCED: log entry 49. -/
def promisedOn (s : State) (peer core : Nat) : Nat :=
  ((tenants s peer core).map (slotFloor (s.dev peer))).sum + ((tenantWarrants s peer core).map (fun ch => ch.slots.length)).sum

/-- The spans of a core's slice that are granted. -/
def spansOn (s : State) (peer core : Nat) : List Span :=
  ((ctxsOf s peer).flatMap (·.spans) ++ (unpresented s peer).flatMap (·.spans)).filter (fun sp => sp.core == core)

/-- Bytes of a slice that nothing holds. -/
def gapFree (spans : List Span) (off n : Nat) : Bool :=
  decide (off + n ≤ 131072) && spans.all (fun sp => decide (off + n ≤ sp.off) || decide (sp.off + sp.len ≤ off))

/-- The lowest contiguous free bytes of a slice. -/
def lowestGap (spans : List Span) (n : Nat) : Option Nat :=
  ((0 :: spans.map (fun sp => sp.off + sp.len)).filter (fun off => gapFree spans off n)).foldl
    (fun (m : Option Nat) off => match m with
      | none => some off
      | some b => some (min b off)) none

/-- Operand slots, tiles and streams of a core that its tenants have. -/
def sharesOn (s : State) (peer core : Nat) (f : Block → Nat) : Nat :=
  ((tenants s peer core).map (fun x => f x.block)).sum + ((tenantWarrants s peer core).map (fun ch => f ch.block)).sum

/-- A FRACTIONAL grant of a class fits on a core (R117, R120 step 7); a Scavenger is promised no slot, so that it always does by
its slots (R133). DEDUCED: log entry 49. -/
def fitsOn (s : State) (peer core cls : Nat) (b : Block) : Bool :=
  coreOk core && !coreOwned s peer core && (cls == 2 || decide (promisedOn s peer core + b.slots ≤ 14))
    && decide (sharesOn s peer core (·.oslots) + b.oslots ≤ 32) && decide (sharesOn s peer core (·.tiles) + b.tiles ≤ 4)
    && decide (sharesOn s peer core (·.streams) + b.streams ≤ 8)

/-- A core is free to be granted whole. -/
def coreFree (s : State) (peer core : Nat) : Bool :=
  coreOk core && !coreOwned s peer core && (tenants s peer core).isEmpty && (tenantWarrants s peer core).isEmpty
    && (spansOn s peer core).isEmpty

/-- Every CORE value, ascending (R9). -/
def allCores : List Nat :=
  (List.range 32).flatMap (fun q => (List.range 192).map (fun n => 256 * q + n))

/-- The first `n` of a list that pass a test, looked for no further. -/
def firstN {α : Type} (f : α → Bool) : Nat → List α → List α
  | 0, _ => []
  | _, [] => []
  | n + 1, a :: l => if f a then a :: firstN f n l else firstN f (n + 1) l

/-- Scratch of whole cores: 4 KiB pages spread evenly, one more on the lowest, from the slices' start on. -/
def spreadScratch (cores : List Nat) (bytes : Nat) : List Span :=
  let pages := bytes / 4096
  ((List.range cores.length).zip cores).filterMap (fun e =>
    let n := pages / cores.length + (if e.1 < pages % cores.length then 1 else 0)
    if n = 0 then none else some ⟨e.2, 0, 4096 * n⟩)

/-! ## The plan of a build (R120) -/

/-- The lowest free context id (R22). -/
def freeId (s : State) (peer : Nat) : Option Nat := (firstN (fun n => (s.ctx ⟨peer, n⟩).isNone) 1 (List.range (min 16384 (s.ctxs.length + 1)))).head?

/-- The pages of a grant: HBM places while there are some, then tier-2 places; and the tier-2 grant's own. Where the device has
no place left a page lies behind the host port: memory is no test of a grant but by its class (R121, R133).
DESIGN CHOICE: log entry 7. DESIGN CHOICE: log entry 43. -/
def planPages (s : State) (peer : Nat) (b : Block) : List Nat × List Nat :=
  let n := b.hbm / 4096
  let m := b.tier2 / 4096
  let inside := freePlaces s peer true n
  let tier2 := tier2Places s peer m
  let outside := ((freePlaces s peer false (n - inside.length + m)).filter (fun a => !tier2.contains a)).take (n - inside.length)
  let hbm := inside ++ outside
  let spare := sparePlaces s peer (n - hbm.length + (m - tier2.length))
  (hbm ++ spare.take (n - hbm.length), tier2 ++ spare.drop (n - hbm.length))

/-- The lowest places of a FRACTIONAL grant: core, slots and scratch. -/
def planShare (s : State) (peer cls : Nat) (b : Block) : Option (Nat × List (Nat × Nat) × List Span) :=
  (firstN (fun core => fitsOn s peer core cls b && (lowestGap (spansOn s peer core) b.scratch).isSome) 1 allCores).head?.map (fun core =>
    (core, ((freeOn s peer core).take b.slots).map (fun n => (core, n)),
      if b.scratch = 0 then [] else [⟨core, (lowestGap (spansOn s peer core) b.scratch).getD 0, b.scratch⟩]))

/-- The general slots of some cores. -/
def slotsOf (cores : List Nat) : List (Nat × Nat) := cores.flatMap (fun core => (List.range 14).map (fun n => (core, n)))

/-- The lowest places of a whole-core grant. -/
def planWhole (s : State) (peer : Nat) (b : Block) : Option (Nat × List (Nat × Nat) × List Span) :=
  let cores := firstN (coreFree s peer) b.cores allCores
  if cores.length < b.cores then none else some (cores.headD 0, slotsOf cores, spreadScratch cores b.scratch)

/-- The places that the device takes of its own accord. DESIGN CHOICE: log entry 7. -/
def defaultPlan (s : State) (peer cls : Nat) (b : Block) (fractional : Bool) : Option Plan :=
  match freeId s peer, (if fractional then planShare s peer cls b else planWhole s peer b) with
  | some id, some (core, slots, spans) =>
    let pages := planPages s peer b
    some ⟨id, core, slots, spans, pages.1, pages.2⟩
  | _, _ => none

/-- The cores of a plan. -/
def Plan.cores (q : Plan) : List Nat := (q.slots.map (·.1)).eraseDups

/-- Slots and scratch of a plan are places that the spec lets the device take. -/
def Plan.slotsOk (s : State) (peer cls : Nat) (b : Block) (fractional : Bool) (q : Plan) : Bool :=
  decide (q.slots.Nodup) && decide ((q.spans.map (·.len)).sum = b.scratch)
    && (if fractional then
        fitsOn s peer q.core cls b && decide (q.slots.length = min b.slots (freeOn s peer q.core).length)
          && q.slots.all (fun e => e.1 == q.core && (freeOn s peer q.core).contains e.2)
          && (match q.spans with
            | [] => b.scratch == 0
            | [sp] => sp.core == q.core && sp.off % 32 == 0 && gapFree (spansOn s peer q.core) sp.off sp.len
            | _ => false)
      else
        decide (q.cores.length = b.cores) && q.cores.all (coreFree s peer) && q.slots == slotsOf q.cores
          && decide ((q.spans.map (·.core)).Nodup)
          && q.spans.all (fun sp => q.cores.contains sp.core && sp.off % 4096 == 0 && sp.len % 4096 == 0
              && decide (sp.off + sp.len ≤ 131072)))

/-- Pages of a plan are free places of the device, as many in HBM as it has, and tier-2 grants on the module while it has room
for them (R201). -/
def Plan.pagesOk (s : State) (peer : Nat) (b : Block) (q : Plan) : Bool :=
  let all := q.hbm ++ q.tier2
  let n := (q.hbm.filter inHbm).length
  decide (q.hbm.length = b.hbm / 4096) && decide (q.tier2.length = b.tier2 / 4096) && decide (all.Nodup)
    && all.all (fun a => a % 4096 == 0 && saPeer a == peer && decide (saKind a < 3) && !(usedPlaces s peer (inHbm a)).contains a)
    && q.tier2.all (fun a => !inHbm a)
    && decide ((q.tier2.filter (fun a => saKind a == 1)).length
        = ((tier2Places s peer (b.tier2 / 4096)).filter (fun a => saKind a == 1)).length)
    && decide (n = (freePlaces s peer true (b.hbm / 4096)).length)

/-- The places of a build: those of the plan if the device may take them, else the lowest; with what is left of the plan.
DESIGN CHOICE: log entry 7. -/
def choosePlan (s : State) (peer cls : Nat) (b : Block) (fractional : Bool) : Option (Plan × State) :=
  match s.plan with
  | q :: rest =>
    if decide (q.ctx < 16384) && (s.ctx ⟨peer, q.ctx⟩).isNone && q.slotsOk s peer cls b fractional && q.pagesOk s peer b then
      some (q, { s with plan := rest })
    else (defaultPlan s peer cls b fractional).map (fun q => (q, s))
  | [] => (defaultPlan s peer cls b fractional).map (fun q => (q, s))

/-! ## Barriers (R12, R255) -/

/-- The first `n` of some barriers, by the quarters whose tables hold them, and the others. -/
def barTake : List (Nat × Nat) → Nat → List (Nat × Nat)
  | [], _ => []
  | (q, k) :: rest, n => if n = 0 then [] else if k ≤ n then (q, k) :: barTake rest (n - k) else [(q, n)]
def barDrop : List (Nat × Nat) → Nat → List (Nat × Nat)
  | [], _ => []
  | (q, k) :: rest, n => if k ≤ n then barDrop rest (n - k) else (q, k - n) :: rest

/-- Barriers of a quarter's table that are granted. -/
def barUsed (s : State) (peer qtr : Nat) : Nat :=
  (((ctxsOf s peer).flatMap (·.barAt) ++ (unpresented s peer).flatMap (·.barAt)).filter (fun e => e.1 == qtr)).map (·.2) |>.sum

/-- Tables for `n` barriers: the lowest quarters with room among their 1,024 (R12); what finds no room, of a Scavenger, stands in
the lowest. DESIGN CHOICE: log entry 7. -/
def barPlaces (s : State) (peer n : Nat) : List (Nat × Nat) :=
  let r := (List.range 32).foldl (fun (m : List (Nat × Nat) × Nat) q =>
    let k := min m.2 (1024 - barUsed s peer q)
    if k = 0 then m else (m.1 ++ [(q, k)], m.2 - k)) ([], n)
  if r.2 = 0 then r.1 else r.1 ++ [(0, r.2)]

/-! ## Cores between grants (R60, R276, R312) -/

/-- Registers of a core at its grant (R60, R276, R312); they are so again when the grant ends, before another context receives
the core (R60). -/
def Core.granted (k : Core) : Core :=
  { k with
    j := Vector.replicate 32 0
    g := Vector.replicate 32 0
    late := []
    lateCsr := []
    vshare := 1
    credit := 0
    mregs := []
    mseq := 0
    oslots := []
    tiles := [] }

/-- The grant of some cores ends, or begins. -/
def resetCores (s : State) (peer : Nat) (cores : List Nat) : State :=
  cores.foldl (fun s core => s.updCore ⟨peer, core⟩ Core.granted) s

/-! ## Lookups over the warrant tree -/

/-- The contexts that a context's child warrants have built. -/
def childCtxs (s : State) (c : CtxId) : List CtxId :=
  match s.ctx c with
  | none => []
  | some x => x.children.filterMap (fun ch => ch.presented.map (fun id => ⟨c.peer, id⟩))

/-- A context that is not FRACTIONAL has all slots of its cores again, but for those carved to children (R140). -/
def Ctx.takeBack (x : Ctx) : Ctx :=
  if x.fractional then x
  else { x with slots := (slotsOf x.cores).filter (fun e => !x.children.any (fun ch => ch.slots.contains e)) }

end Sys2Proof.Machine
end

