-- ==== Sys2Proof/Machine/Pages.lean ====
section
/-! DEFINITION. Pages on the move, reclaimed and given back (R135, R136, R152, R158, R167, R169, R171, R201, R204). -/

namespace Sys2Proof.Machine

/-! ## Pages (R135, R152, R158, R201, R204) -/

/-- An address under the exchange of two pages. -/
def swapAddr (a b x : Nat) : Nat :=
  if x / 4096 * 4096 = a then b + x % 4096 else if x / 4096 * 4096 = b then a + x % 4096 else x

/-- An item under an exchange of pages. -/
def Item.swap (a b : Nat) : Item → Item
  | .store sa d => .store (swapAddr a b sa) d
  | .patomic sa op w v c h => .patomic (swapAddr a b sa) op w v c h
  | .jdec sa => .jdec (swapAddr a b sa)
  | i => i

/-- A text under an exchange of pages. -/
def Text.swap (a b : Nat) (x : Text) : Text := { x with pages := x.pages.map (swapAddr a b) }

/-- A context under an exchange of pages. -/
def Ctx.swap (a b : Nat) (x : Ctx) : Ctx :=
  { x with
    hbm := x.hbm.map (fun g => { g with sa := swapAddr a b g.sa })
    tier2 := x.tier2.map (swapAddr a b)
    shared := x.shared.map (swapAddr a b)
    text := x.text.swap a b
    oldTexts := x.oldTexts.map (Text.swap a b)
    children := x.children.map (fun (ch : Child) => { ch with text := ch.text.swap a b })
    queues := x.queues.map (fun (e : Nat × Queue) => (e.1, { e.2 with pages := e.2.pages.map (swapAddr a b) }))
    lp := x.lp.map (fun e => (swapAddr a b e.1, e.2))
    images := x.images.map (fun m => { m with pages := m.pages.map (swapAddr a b) })
    whole := x.whole.map (·.map (swapAddr a b)) }

/-- The migration engine exchanges the contents of two 4 KiB places of a device; everything that names a byte of them goes
with it. DEDUCED: log entry 42. -/
def swapPages (s : State) (a b : Nat) : State :=
  if a = b then s
  else
    let pa := memReads s.mem a 4096
    let pb := memReads s.mem b 4096
    let line (l : Nat) : Nat := swapAddr a b (64 * l) / 64
    { s with
      mem := memWrites (memWrites s.mem a pb) b pa
      poisoned := s.poisoned.map line
      repair := s.repair.foldl (fun v e => mset v (line e.1) e.2) []
      ctxs := s.ctxs.map (fun (e : CtxId × Ctx) => (e.1, e.2.swap a b))
      threads := s.threads.map (fun (e : Place × Thread) =>
        (e.1, { e.2 with region := { e.2.region with items := e.2.region.items.map (Item.swap a b)
                                                     reads := e.2.region.reads.map line } })) }

/-- Resident pages of a context's HBM grant. -/
def Ctx.resident (x : Ctx) : Nat := (x.hbm.filter (fun g => g.where_ == .hbm)).length

/-- The least recently used resident page but one; the lower number among equals. DEDUCED: log entry 42. -/
def Ctx.oldest (x : Ctx) (not : Nat) : Option Nat :=
  (((List.range x.hbm.length).zip x.hbm).filter (fun e => e.2.where_ == .hbm && e.1 != not)).foldl
    (fun (m : Option (Nat × Nat)) e => match m with
      | none => some (e.1, e.2.used)
      | some b => if e.2.used < b.2 then some (e.1, e.2.used) else some b) none |>.map (·.1)

/-- A page of a grant changes its place. -/
def Ctx.putPage (x : Ctx) (n : Nat) (g : Page) : Ctx := { x with hbm := x.hbm.set n g }

/-- Every slot that waits for a page of a context goes on (R204). -/
def wakePage (s : State) (c : CtxId) (page : Nat) : State :=
  let s := s.updCtx c (fun x => { x with asked := x.asked.filter (fun n => n != page) })
  { s with threads := s.threads.map (fun (e : Place × Thread) =>
      if e.2.wait = .page c.peer page ∧ member s (e.2.ctxId e.1) c.peer = some c then (e.1, { e.2 with wait := .none }) else e) }

/-! ## Residency summaries (R199, R200) -/

/-- What RES says of a stretch of context-physical addresses: 0 every page resident, 1 some page of the HBM grant in tier-2 and
none in host memory, 2 some page in host memory (R199). -/
def Ctx.residency (x : Ctx) (peer target len : Nat) : Nat :=
  let pages := if saPeer target = peer ∧ saKind target = 0 then (x.hbm.drop (saOff target / 4096)).take (len / 4096) else []
  if pages.any (·.where_ == .host) then 2 else if pages.any (·.where_ == .tier2) then 1 else 0

/-- The valid entries of a context's range table: the address of the attribute word, the target and the length. -/
def rangeWords (s : State) (c : CtxId) (x : Ctx) : List (Nat × Nat × Nat) :=
  let table := x.rtbase.toNat
  if table = 0 then []
  else (List.range (min 16383 ((walkRead s c x (table + 8) 4).getD 0))).filterMap (fun i =>
    let e := table + 0x20 + 32 * i
    match walkRead s c x (e + 8) 8, walkRead s c x (e + 16) 8, walkRead s c x (e + 24) 8 with
    | some len, some target, some attr => if attr % 2 = 1 then some (e + 24, target, len) else none
    | _, _, _ => none)

/-- The valid leaves of a context's page table below a table, by the levels above them: the address of the entry and the
target. -/
def leafWords (s : State) (c : CtxId) (x : Ctx) : Nat → Nat → List (Nat × Nat)
  | 0, table => (List.range 512).filterMap (fun i =>
      (pageEntry s c x table i).map (fun e => (table + 8 * i, mkSa c.peer 0 (e / 4096 * 4096))))
  | n + 1, table => (List.range 512).flatMap (fun i =>
      match pageEntry s c x table i with
      | some e => leafWords s c x n (mkSa c.peer 0 (e / 4096 * 4096))
      | none => [])

/-- The device writes RES, two bits of an entry from bit `sh` on; while a pinned or exclusive region reads the entry's line the
write is left to the next change. DESIGN CHOICE: log entry 100. -/
def putRes (s : State) (c : CtxId) (x : Ctx) (ca sh v : Nat) : State :=
  match x.stage2 c.peer c.id ca with
  | some (sa, _, _) =>
    let w := leNat (s.reads sa 8)
    let w' := w - w / 2 ^ sh % 4 * 2 ^ sh + v * 2 ^ sh
    if w' = w ∨ blocked s none (linesOf sa 8) then s else extWrite s none sa (leBytes 8 w')
  | none => s

/-- A page of a context has changed its residence: the device brings RES of every entry that maps a page of the context up to
date (R199, R200). DESIGN CHOICE: log entry 100. -/
def noteResidence (s : State) (c : CtxId) : State :=
  match s.ctx c with
  | none => s
  | some x =>
    let root := if x.rtbase = 0 then 0 else (walkRead s c x x.rtbase.toNat 8).getD 0
    let s := (rangeWords s c x).foldl (fun s e => putRes s c x e.1 11 (x.residency c.peer e.2.1 e.2.2)) s
    if root = 0 then s
    else (leafWords s c x 3 root).foldl (fun s e => putRes s c x e.1 5 (x.residency c.peer e.2 4096)) s

/-! ## Pages in and out -/

/-- Nothing is stored in a page, and no line of it is poisoned. -/
def blankPage (s : State) (a : Nat) : Bool :=
  !s.mem.any (fun e => e.1 / 4096 * 4096 == a) && !s.poisoned.any (fun l => 64 * l / 4096 * 4096 == a)

/-- The last page of a context's tier-2 grant that is free, which a page from HBM may take (R135, R167): one that holds nothing.
DEDUCED: log entry 42. -/
def Ctx.freeTier2 (s : State) (x : Ctx) : Option Nat :=
  (List.range x.tier2.length).reverse.find? (fun k => (x.tier2[k]?.map (blankPage s)).getD false)

/-- A place outside HBM that no context holds: in tier-2, where the spill reserve lies lowest, or else behind the host port.
DESIGN CHOICE: log entry 43. -/
def outPlace (s : State) (peer : Nat) : Nat :=
  ((freePlace s peer false).or (sparePlaces s peer 1).head?).getD (spareAt peer 0)

/-- A context without its least recently used resident page. A page that a split or a decrease displaces, and a Scavenger's that is
reclaimed, takes a free page of the context's own tier-2 grant, whose offset is served from a place that no context holds from then on;
a Burstable context's that is reclaimed, and one for which there is no such page, goes to that place, the spill reserve (R135, R167).
What the context holds in HBM falls by one. DEDUCED: log entry 42. -/
def evictPage (s : State) (c : CtxId) (displaced : Bool) : Option State :=
  match s.ctx c with
  | none => none
  | some x =>
    (x.oldest x.hbm.length).bind (fun n => (x.hbm[n]?).map (fun g =>
      let room := outPlace s c.peer
      let own := if displaced || x.cls != 1 then x.freeTier2 s else none
      let place := (own.bind (fun k => x.tier2[k]?)).getD room
      noteResidence ((swapPages s g.sa place).updCtx c (fun y =>
        { y.putPage n ⟨place, residenceOf place, g.used⟩ with
          tier2 := match own with
            | some k => y.tier2.set k room
            | none => y.tier2
          cap := min y.cap (x.resident - 1) })) c))

/-- The pages of HBM below which a context's class does not let it fall (R132). -/
def pageFloor (d : Device) (x : Ctx) : Nat :=
  if x.cls = 0 then x.block.hbm / 4096 else if x.cls = 1 then floorOf (x.block.hbm / 4096) (d.ratio 5).2 else 0

/-- Of some contexts the one whose last commit is oldest; the higher id among equals (R135). DEDUCED: log entry 44. -/
def oldestCommit (l : List (CtxId × Ctx)) : Option CtxId :=
  (l.foldl (fun (m : Option (CtxId × Ctx)) e => match m with
    | none => some e
    | some b => if e.2.lastCommit < b.2.lastCommit ∨ e.2.lastCommit = b.2.lastCommit ∧ b.1.id < e.1.id then some e else some b)
    none).map (·.1)

/-- The context from which another takes a page of HBM (R135): a Scavenger, or for a Guaranteed context or one below its floor
a Burstable context above its own. -/
def pageVictim (s : State) (c : CtxId) (x : Ctx) : Option CtxId :=
  let d := s.dev c.peer
  let others := s.ctxs.filter (fun e => e.1.peer == c.peer && e.1 != c)
  if x.cls = 2 then none
  else
    (oldestCommit (others.filter (fun e => e.2.cls == 2 && decide (0 < e.2.resident)))).or
      (if x.cls = 0 ∨ x.resident < pageFloor d x then
        oldestCommit (others.filter (fun e => e.2.cls == 1 && decide (pageFloor d e.2 < e.2.resident)))
      else none)

/-- A free place in HBM for one more page of a context, within its grant (R135): a free one, or a victim's. -/
def gainPlace (s : State) (c : CtxId) (x : Ctx) : Option (State × Nat) :=
  if (x.block.hbm - x.owed.hbm) / 4096 ≤ x.resident then none
  else
    match freePlace s c.peer true with
    | some place => some (s, place)
    | none =>
      match (pageVictim s c x).bind (fun v => evictPage s v false) with
      | some s' => (freePlace s' c.peer true).map (fun place => (s', place))
      | none => none

/-- A page of a grant becomes resident (R204): in an HBM place that the context holds or gains, else in the place of its least
recently used page, which takes the place that the page leaves. -/
def bringPage (s : State) (c : CtxId) (x : Ctx) (page : Nat) (g : Page) : State :=
  match gainPlace s c x with
  | some (s', place) =>
    wakePage (noteResidence ((swapPages s' g.sa place).updCtx c (fun y =>
      { y.putPage page ⟨place, .hbm, s.now⟩ with cap := max y.cap (x.resident + 1) })) c) c page
  | none =>
    match (x.oldest page).bind (fun n => (x.hbm[n]?).map (fun h => (n, h))) with
    | some (n, h) =>
      wakePage (noteResidence ((swapPages s g.sa h.sa).updCtx c (fun y =>
        (y.putPage page ⟨h.sa, .hbm, s.now⟩).putPage n ⟨g.sa, residenceOf g.sa, h.used⟩)) c) c page
    | none => s

/-- PAGE_ARRIVAL (R204): a page that lies in tier-2. -/
def execPageArrival (c : CtxId) (page : Nat) (s : State) : Host.Outcome State Fault Refusal :=
  .next (match s.ctx c with
    | none => s
    | some x =>
      match x.hbm[page]? with
      | some g => if g.where_ = .tier2 then bringPage s c x page g else s
      | none => s)

/-- PAGE_RESPONSE (R158): applied under the function's current generation, else dropped and counted. -/
def execPageResponse (c : CtxId) (fn gen page : Nat) (bytes : List Byte) (s : State) : Host.Outcome State Fault Refusal :=
  let now := (mgetD (s.dev c.peer).doors fn (Door.reset fn)).gen.toNat
  .next (if gen ≠ now then
      let d := s.dev c.peer
      s.setDev c.peer { d with pridrop := if d.pridrop = BitVec.allOnes 64 then d.pridrop else d.pridrop + 1 }
    else
      match s.ctx c with
      | none => s
      | some x =>
        match x.hbm[page]? with
        | some g =>
          if x.doorFn = fn ∧ g.where_ = .host ∧ x.requests.any (fun r => r.1 == page) then
            let s := s.setCtx c { x with requests := x.requests.filter (fun r => r.1 != page) }
            let s := s.writes g.sa ((bytes.take 4096) ++ List.replicate (4096 - bytes.length) 0)
            bringPage s c x page g
          else s
        | none => s)

/-! ## Decreases (R136, R169, R171) -/

/-- Amounts leave a context's grant: to its parent, or for a root to the device and out of its counters; the rates of the contexts
are recomputed (R364). -/
def giveBack (s : State) (c : CtxId) (b : Block) : State :=
  match s.ctx c with
  | none => s
  | some x =>
    let left := x.block.barriers - b.barriers
    let s := s.setCtx c (Ctx.reckon { x with
      block := x.block.minus b, granted := x.granted.minus b, owed := x.owed.minus b, barAt := barTake x.barAt left } s.now)
    match x.parent with
    | some id =>
      s.updCtx ⟨c.peer, id⟩ (fun y =>
        Ctx.reckon { y with
          block := y.block.plus b
          barAt := y.barAt ++ barDrop x.barAt left
          children := y.children.map (fun (ch : Child) => if ch.presented = some c.id then { ch with block := ch.block.minus b } else ch) }
          s.now)
    | none => s.capUpdate c.peer (fun d => d.count x.cls grantKinds b false)

/-- What of the amounts owed has been released: slots with whole cores, and HBM. -/
def Ctx.released (x : Ctx) : Block :=
  let slots := x.owed.slots != 0 && decide (x.slots.length + x.owed.slots ≤ x.block.slots)
  let hbm := x.owed.hbm != 0 && decide (4096 * x.resident + x.owed.hbm ≤ x.block.hbm)
  { Block.zero with
    slots := if slots then x.owed.slots else 0
    cores := if slots then x.owed.cores else 0
    hbm := if hbm then x.owed.hbm else 0 }

/-- A decrease takes effect once the amounts are released. DEDUCED: log entry 51. -/
def settleOwed (s : State) (c : CtxId) : State :=
  match s.ctx c with
  | none => s
  | some x => if x.released = Block.zero then s else giveBack s c x.released

/-- PAGE_MOVE_COMPLETE (R135, R136): the least recently used page of a context that is above its cap has left HBM. -/
def execPageMoveComplete (c : CtxId) (page : Nat) (s : State) : Host.Outcome State Fault Refusal :=
  .next (match s.ctx c with
    | none => s
    | some x =>
      if x.cap < x.resident ∧ x.oldest x.hbm.length = some page then
        match evictPage s c true with
        | some s' => settleOwed (s'.updCtx c (fun y => { y with cap := x.cap })) c
        | none => s
      else s)

end Sys2Proof.Machine
end

