-- ==== Sys2Proof/Machine/Streams.lean ====
section
/-! DEFINITION. Stream forms (R263 to R265, R270, R289, R383), and the issue of vector and engine commands (R266, R268,
R290, R297, R299). What the commands do is in VectorUnit.lean and Engines.lean. -/

namespace Sys2Proof.Machine

/-! ## Codes (R269) -/

def sNoEngine : Word := 0x70
def sBadConfig : Word := 0x71

/-! ## The share of a core (R383) -/

/-- The cores of a whole-core grant on which the context holds general slots. -/
def Ctx.slotCores (x : Ctx) : List Nat := x.cores.filter (fun c => x.slots.any (fun e => e.1 == c))

/-- The share of an amount of the grant that a core has. -/
def Ctx.share (x : Ctx) (core amount : Nat) : Nat :=
  if x.fractional then if x.slots.any (fun e => e.1 == core) then amount else 0
  else if x.slotCores.contains core then
    let n := x.slotCores.length
    let rank := (x.slotCores.filter (fun c => decide (c < core))).length
    amount / n + (if rank < amount % n then 1 else 0)
  else 0

/-! ## Stream forms -/

/-- A result that is known at issue (R56, R289). -/
def give (s : State) (p : Place) (d : Reg) (la : BitVec 4) (v : Word) : Res := .done (pendNow s p [ri d] la.toNat false [v])

/-- The engine of a number that the thread holds. -/
def Core.holds (k : Core) (uid : Nat) (a : Word) : Option Stream :=
  match mget k.streams a.toNat with
  | some e => if e.holder = some uid ∧ !e.released then some e else none
  | none => none

/-- An engine of a core is replaced. -/
def State.setStream (s : State) (p : Place) (n : Nat) (e : Stream) : State :=
  s.updCore (coreOf p) (fun k => { k with streams := mset k.streams n e })

/-- A thread of a context in a slot of a device, or parked in a donated one (R28). -/
def runsFor (s : State) (peer ctx uid : Nat) : Bool :=
  s.threads.any (fun e => e.1.peer == peer && e.2.uid == uid && e.2.ctx == ctx)
    || s.donors.any (fun e => e.1.peer == peer && e.2.any (fun t => t.uid == uid && t.ctx == ctx))

/-- Engines of a core that threads of a context hold (R270). -/
def enginesHeld (s : State) (p : Place) (ctx : Nat) : Nat :=
  ((s.core (coreOf p)).streams.filter (fun e => !e.2.released && e.2.holder.any (runsFor s p.peer ctx))).length

/-- The lowest engine that no slot holds; one that the slot itself has released may be taken again. -/
def freeEngine (k : Core) (uid : Nat) : Option Nat :=
  (List.range 8).find? (fun n => match mget k.streams n with
    | none => true
    | some e => e.released && e.holder == some uid)

/-- The configuration word breaks its limits (R263). -/
def badConfig (k : Core) (uid : Nat) (b : Word) : Bool :=
  wbits b 11 53 != 0 || wbits b 6 2 != 0 || decide (8 ≤ wbits b 0 4)
    || (if wbit b 5 then (k.holds uid (BitVec.ofNat 64 (wbits b 8 3))).isNone else wbits b 8 3 != 0)

/-- What a check that makes no access finds (R102): a page that is not resident passes. -/
def checkAt (s : State) (p : Place) (t : Thread) (va : Word) (size align need : Nat) : Option Trap :=
  match lookT s p t va size align need with
  | .fault c => some c
  | _ => none

/-- SCFG (R263): the limits of b's word, then the checks of R102, then the alignment of the base, then NO_ENGINE.
DESIGN CHOICE: log entry 117. -/
def execScfg (d a b : Reg) (la : BitVec 4) (s : State) : Host.Outcome State Fault Refusal :=
  issue (wordOf (.scfg d a b la)) [ri a, ri b, ri d] (isShared d) (fun p t k s =>
    let va := readI k t a
    let w := readI k t b
    let type := wbits w 0 4
    let dir := wbit w 4
    if badConfig k t.uid w then give s p d la sBadConfig
    else
      match checkAt s p t va (typeSize type) 1 (if dir then needW else needR) with
      | some c => .trap c
      | none =>
        if va.toNat % typeSize type ≠ 0 then give s p d la sBadConfig
        else if wbit w 5 then
          let n := wbits w 8 3
          match mget k.streams n with
          | none => give s p d la sBadConfig
          | some e =>
            give ((dropFetched s (coreOf p) t.uid).setStream p n
              { e with base := va, type := type, dir := dir, pos := 0, got := [] }) p d la (BitVec.ofNat 64 n)
        else
          let share := match s.ctx (t.ctxId p) with
            | some x => x.share p.core x.block.streams
            | none => 0
          match freeEngine k t.uid with
          | none => give s p d la sNoEngine
          | some n =>
            if share ≤ enginesHeld s p t.ctx then give s p d la sNoEngine
            else
              give (s.setStream p n ⟨some t.uid, p.slot, type, dir, none, va, [], [], 0, false, []⟩) p d la (BitVec.ofNat 64 n)) s

/-- SBND: the bounds record is read as the slot's loads read, behind an acquiring load of the slot (R240), and
before the test that the slot holds the engine (R264). DESIGN CHOICE: log entry 118. -/
def execSbnd (d a b : Reg) (la : BitVec 4) (s : State) : Host.Outcome State Fault Refusal :=
  issue (wordOf (.sbnd d a b la)) [ri a, ri b, ri d] (isShared d) (fun p t k s =>
    if t.acquiring then .stall s else
    match readRecord s p t (readI k t b) 32 8 with
    | .stop r => r
    | .ok bs s' =>
      match k.holds t.uid (readI k t a) with
      | none => give s' p d la sBadConfig
      | some e =>
        let counts := (List.range 4).map (fun j => leAt bs (8 * j) 4)
        let strides := (List.range 4).map (fun j => signed 32 (leAt bs (8 * j + 4) 4))
        let e' := { e with counts := counts, strides := strides, got := [] }
        if strides.any (fun l => l % (typeSize e.type : Int) != 0) || decide (2 ^ 32 ≤ e'.count) then
          give s' p d la sBadConfig
        else give ((dropFetched s' (coreOf p) t.uid).setStream p (readI k t a).toNat e') p d la 0) s

/-- SMAP: an engine has at most one name, and a name one engine. -/
def execSmap (d a b : Reg) (la : BitVec 4) (s : State) : Host.Outcome State Fault Refusal :=
  issue (wordOf (.smap d a b la)) [ri a, ri b, ri d] (isShared d) (fun p t k s =>
    let w := readI k t b
    match k.holds t.uid (readI k t a) with
    | none => give s p d la sBadConfig
    | some e =>
      if wbits w 2 62 ≠ 0 then give s p d la sBadConfig
      else
        let name := wbits w 0 2
        let s := match k.named t.uid name with
          | some (n, old) => s.setStream p n { old with name := none }
          | none => s
        give (s.setStream p (readI k t a).toNat { e with name := some name }) p d la 0) s

/-- SUNMAP: the engine is released, and stays reserved to the slot until its region commits. -/
def execSunmap (d a : Reg) (la : BitVec 4) (s : State) : Host.Outcome State Fault Refusal :=
  issue (wordOf (.sunmap d a la)) [ri a, ri d] (isShared d) (fun p t k s =>
    let s := match k.named t.uid (wbits (readI k t a) 0 2) with
      | some (n, e) => (dropFetched s (coreOf p) t.uid).setStream p n { e with name := none, released := true, got := [] }
      | none => s
    give s p d la 0) s

/-- The state word of an engine (R270). -/
def Stream.word (e : Stream) : Word :=
  BitVec.ofNat 64 (e.pos % 2 ^ 32 * 2 ^ 32 + (if e.levels.isEmpty then 0 else 2 ^ 16)
    + (match e.name with
      | some n => 2 ^ 15 + n % 4 * 2 ^ 13
      | none => 0)
    + (if e.dir then 2 ^ 12 else 0) + e.type % 16 * 2 ^ 8 + e.slot % 16 * 2 ^ 4 + 8)

/-- SQRY. -/
def execSqry (d a : Reg) (la : BitVec 4) (s : State) : Host.Outcome State Fault Refusal :=
  issue (wordOf (.sqry d a la)) [ri a, ri d] (isShared d) (fun p t k s =>
    let n := readI k t a
    if wbits n 3 61 ≠ 0 then give s p d la sBadConfig
    else
      give s p d la (match mget k.streams n.toNat with
        | some e => if e.released then 0 else e.word
        | none => 0)) s

/-! ## Queued commands (R225) -/

/-- A command of the thread in a place, with what it captured. -/
def mkCmd (s : State) (p : Place) (t : Thread) (queue ct : Nat) (work : Work) : State × Cmd :=
  let (id, s) := s.fresh
  (s, { cid := id, uid := t.uid, slot := p.slot, ctx := t.ctxId p, core := coreOf p, apCore := t.apCore, queue := queue,
        tag := t.pc, ct := ct, work := work, slack := s.slack p t, entered := false, started := false, startedAt := 0,
        record := [], prog := 0, sub := 0, hold := none, got := [], fetched := [], runs := [], budget := 0, writes := [],
        count := 0, waits := [], since := s.now, lost := 0, open_ := false, refused := false, ended := none })

/-- A command is buffered (R213). -/
def bufferCmd (s : State) (p : Place) (t : Thread) (queue ct : Nat) (work : Work) : Res :=
  let r := mkCmd s p t queue ct work
  buffered r.1 p (.command r.2)

/-! ## Vector commands (R290, R292) -/

/-- A vector command: it captures its streams, the scalar, the control word and the seed (R266, R292). -/
def vectorCmd (word : Word) (fn : Nat) (sd : BitVec 2) (sa sb : Option (BitVec 2)) (a b : Reg) (s : State) :
    Host.Outcome State Fault Refusal :=
  issue word [rf a, ri b] false (fun p t k s =>
    let cap (n : BitVec 2) : StreamOp := (k.named t.uid n.toNat).map (fun e => { e.2 with got := [] })
    bufferCmd s p t 4 0 (.vector fn (cap sd) (sa.bind cap) (sb.bind cap) ((sb.map (fun n => n.toNat)).getD 0) (readF k t a) (readI k t b) (k.mat t.ctx).srndseed)) s

/-- VADD (R293). -/
def execVadd (sd sa sb : BitVec 2) (a b : Reg) (s : State) : Host.Outcome State Fault Refusal :=
  vectorCmd (wordOf (.vadd sd sa sb a b)) 0x00 sd (some sa) (some sb) a b s

/-- VSUB (R293). -/
def execVsub (sd sa sb : BitVec 2) (a b : Reg) (s : State) : Host.Outcome State Fault Refusal :=
  vectorCmd (wordOf (.vsub sd sa sb a b)) 0x01 sd (some sa) (some sb) a b s

/-- VMUL (R266, R293). -/
def execVmul (sd sa sb : BitVec 2) (a b : Reg) (s : State) : Host.Outcome State Fault Refusal :=
  vectorCmd (wordOf (.vmul sd sa sb a b)) 0x02 sd (some sa) (some sb) a b s

/-- VFMA (R293). -/
def execVfma (sd sa sb : BitVec 2) (a b : Reg) (s : State) : Host.Outcome State Fault Refusal :=
  vectorCmd (wordOf (.vfma sd sa sb a b)) 0x03 sd (some sa) (some sb) a b s

/-- VFMS (R293). -/
def execVfms (sd sa sb : BitVec 2) (a b : Reg) (s : State) : Host.Outcome State Fault Refusal :=
  vectorCmd (wordOf (.vfms sd sa sb a b)) 0x04 sd (some sa) (some sb) a b s

/-- VDIV (R293). -/
def execVdiv (sd sa sb : BitVec 2) (a b : Reg) (s : State) : Host.Outcome State Fault Refusal :=
  vectorCmd (wordOf (.vdiv sd sa sb a b)) 0x05 sd (some sa) (some sb) a b s

/-- VMIN (R293). -/
def execVmin (sd sa sb : BitVec 2) (a b : Reg) (s : State) : Host.Outcome State Fault Refusal :=
  vectorCmd (wordOf (.vmin sd sa sb a b)) 0x06 sd (some sa) (some sb) a b s

/-- VMAX (R293). -/
def execVmax (sd sa sb : BitVec 2) (a b : Reg) (s : State) : Host.Outcome State Fault Refusal :=
  vectorCmd (wordOf (.vmax sd sa sb a b)) 0x07 sd (some sa) (some sb) a b s

/-- VABS (R293). -/
def execVabs (sd sa : BitVec 2) (a b : Reg) (s : State) : Host.Outcome State Fault Refusal :=
  vectorCmd (wordOf (.vabs sd sa a b)) 0x08 sd (some sa) none a b s

/-- VCVT (R294). -/
def execVcvt (sd sa : BitVec 2) (a b : Reg) (s : State) : Host.Outcome State Fault Refusal :=
  vectorCmd (wordOf (.vcvt sd sa a b)) 0x09 sd (some sa) none a b s

/-- VCMP (R293). -/
def execVcmp (sd sa sb : BitVec 2) (a b : Reg) (s : State) : Host.Outcome State Fault Refusal :=
  vectorCmd (wordOf (.vcmp sd sa sb a b)) 0x0A sd (some sa) (some sb) a b s

/-- VSEL (R293). -/
def execVsel (sd sa sb : BitVec 2) (a b : Reg) (s : State) : Host.Outcome State Fault Refusal :=
  vectorCmd (wordOf (.vsel sd sa sb a b)) 0x0B sd (some sa) (some sb) a b s

/-- VAND (R293). -/
def execVand (sd sa sb : BitVec 2) (a b : Reg) (s : State) : Host.Outcome State Fault Refusal :=
  vectorCmd (wordOf (.vand sd sa sb a b)) 0x0C sd (some sa) (some sb) a b s

/-- VOR (R293). -/
def execVor (sd sa sb : BitVec 2) (a b : Reg) (s : State) : Host.Outcome State Fault Refusal :=
  vectorCmd (wordOf (.vor sd sa sb a b)) 0x0D sd (some sa) (some sb) a b s

/-- VXOR (R293). -/
def execVxor (sd sa sb : BitVec 2) (a b : Reg) (s : State) : Host.Outcome State Fault Refusal :=
  vectorCmd (wordOf (.vxor sd sa sb a b)) 0x0E sd (some sa) (some sb) a b s

/-- VSHL (R293). -/
def execVshl (sd sa sb : BitVec 2) (a b : Reg) (s : State) : Host.Outcome State Fault Refusal :=
  vectorCmd (wordOf (.vshl sd sa sb a b)) 0x0F sd (some sa) (some sb) a b s

/-- VSHR (R293). -/
def execVshr (sd sa sb : BitVec 2) (a b : Reg) (s : State) : Host.Outcome State Fault Refusal :=
  vectorCmd (wordOf (.vshr sd sa sb a b)) 0x10 sd (some sa) (some sb) a b s

/-- VIOTA (R293). -/
def execViota (sd : BitVec 2) (a b : Reg) (s : State) : Host.Outcome State Fault Refusal :=
  vectorCmd (wordOf (.viota sd a b)) 0x11 sd none none a b s

/-- VSHOP (R295). -/
def execVshop (sd sa : BitVec 2) (a b : Reg) (s : State) : Host.Outcome State Fault Refusal :=
  vectorCmd (wordOf (.vshop sd sa a b)) 0x12 sd (some sa) none a b s

/-- VEXP2 (R296). -/
def execVexp2 (sd sa : BitVec 2) (a b : Reg) (s : State) : Host.Outcome State Fault Refusal :=
  vectorCmd (wordOf (.vexp2 sd sa a b)) 0x13 sd (some sa) none a b s

/-- VLOG2 (R296). -/
def execVlog2 (sd sa : BitVec 2) (a b : Reg) (s : State) : Host.Outcome State Fault Refusal :=
  vectorCmd (wordOf (.vlog2 sd sa a b)) 0x14 sd (some sa) none a b s

/-- VRCP (R296). -/
def execVrcp (sd sa : BitVec 2) (a b : Reg) (s : State) : Host.Outcome State Fault Refusal :=
  vectorCmd (wordOf (.vrcp sd sa a b)) 0x15 sd (some sa) none a b s

/-- VRSQ (R296). -/
def execVrsq (sd sa : BitVec 2) (a b : Reg) (s : State) : Host.Outcome State Fault Refusal :=
  vectorCmd (wordOf (.vrsq sd sa a b)) 0x16 sd (some sa) none a b s

/-- VSQRT (R296). -/
def execVsqrt (sd sa : BitVec 2) (a b : Reg) (s : State) : Host.Outcome State Fault Refusal :=
  vectorCmd (wordOf (.vsqrt sd sa a b)) 0x17 sd (some sa) none a b s

/-- VSIN (R296). -/
def execVsin (sd sa : BitVec 2) (a b : Reg) (s : State) : Host.Outcome State Fault Refusal :=
  vectorCmd (wordOf (.vsin sd sa a b)) 0x18 sd (some sa) none a b s

/-- VCOS (R296). -/
def execVcos (sd sa : BitVec 2) (a b : Reg) (s : State) : Host.Outcome State Fault Refusal :=
  vectorCmd (wordOf (.vcos sd sa a b)) 0x19 sd (some sa) none a b s

/-- VTANH (R296). -/
def execVtanh (sd sa : BitVec 2) (a b : Reg) (s : State) : Host.Outcome State Fault Refusal :=
  vectorCmd (wordOf (.vtanh sd sa a b)) 0x1A sd (some sa) none a b s

/-! ## Engine commands (R268, R299) -/

/-- CPY: a one-byte check of each end, the source first. -/
def execCpy (d a b : Reg) (q : BitVec 2) (ct : BitVec 5) (s : State) : Host.Outcome State Fault Refusal :=
  issue (wordOf (.cpy d a b q ct)) [ri a, ri b, ri d] false (fun p t k s =>
    let dst := readI k t a
    let src := readI k t b
    match (checkAt s p t src 1 1 needR).or (checkAt s p t dst 1 1 needW) with
    | some c => .trap c
    | none => bufferCmd s p t q.toNat ct.toNat (.cpy dst src (wbits (readI k t d) 0 32))) s

/-- A command with a layout record: the record, the destination, then the source (R299). -/
def recordCmd (word : Word) (d a b : Reg) (q : BitVec 2) (ct : BitVec 5) (srcSize : Nat) (work : Word → Word → Word → Work)
    (s : State) : Host.Outcome State Fault Refusal :=
  issue word [ri a, ri b, ri d] false (fun p t k s =>
    let rec_ := readI k t d
    let dst := readI k t a
    let src := readI k t b
    match ((checkAt s p t rec_ 32 32 needR).or (checkAt s p t dst 1 1 needW)).or (checkAt s p t src srcSize srcSize needR) with
    | some c => .trap c
    | none => bufferCmd s p t q.toNat ct.toNat (work rec_ dst src)) s

/-- CPY2D (R300). -/
def execCpy2d (d a b : Reg) (q : BitVec 2) (ct : BitVec 5) (s : State) : Host.Outcome State Fault Refusal :=
  recordCmd (wordOf (.cpy2d d a b q ct)) d a b q ct 1 Work.cpy2d s

/-- GATH (R301). -/
def execGath (d a b : Reg) (q : BitVec 2) (ct : BitVec 5) (s : State) : Host.Outcome State Fault Refusal :=
  recordCmd (wordOf (.gath d a b q ct)) d a b q ct 1 Work.gath s

/-- SCAT (R301). -/
def execScat (d a b : Reg) (q : BitVec 2) (ct : BitVec 5) (s : State) : Host.Outcome State Fault Refusal :=
  recordCmd (wordOf (.scat d a b q ct)) d a b q ct 1 Work.scat s

/-- COLL (R302). -/
def execColl (d a b : Reg) (q : BitVec 2) (ct : BitVec 5) (s : State) : Host.Outcome State Fault Refusal :=
  recordCmd (wordOf (.coll d a b q ct)) d a b q ct 8 Work.coll s

end Sys2Proof.Machine
end

