-- ==== Sys2Proof/Machine/Commands.lean ====
section
/-! DEFINITION. What queued commands share: their place in the queues, reads and writes as steps of their own, layout
records, and the end of a command (R225 to R227, R268, R278, R279, R299). -/

namespace Sys2Proof.Machine

/-- A command of a name. -/
def State.findCmd (s : State) (cid : Nat) : Option Cmd := (s.cores.flatMap (fun e => e.2.cmds)).find? (fun q => q.cid == cid)

/-- A command is replaced. -/
def State.setCmd (s : State) (q : Cmd) : State :=
  s.updCore q.core (fun k => { k with cmds := k.cmds.map (fun d => if d.cid = q.cid then q else d) })

/-- The head of a queue. -/
def Core.head (k : Core) (queue : Nat) : Option Cmd := k.cmds.find? (fun q => q.queue == queue && q.entered)

/-- A command may start (R225, R226): it is the head of its queue, and nothing that it waits for stands in a queue of any core;
what a stop has taken out of its queue counts as completed. -/
def mayStart (s : State) (q : Cmd) : Bool :=
  (((s.core q.core).head q.queue).map (·.cid)) == some q.cid && !q.started && !q.waits.any (fun w => (s.findCmd w.2).isSome)

/-! ## Reads (R225) -/

/-- What a read of a command gives. -/
inductive CmdGot where
  | ok (bs : List Byte)
  | bad (code : Nat)
  | absent (page : Nat)
  /-- the bytes do not lie in the core's own slice, and have not come yet -/
  | away (va : Word) (ca n : Nat)
  deriving DecidableEq, Repr

/-- The locked entries under which a command's addresses translate: those of the issuing thread for a matrix command (R315). -/
def cmdLocks (s : State) (q : Cmd) : List Lock :=
  if q.queue = 5 then ((s.findThread q.uid).map (fun e => e.2.locks)).getD [] else []

/-- The place of a command's access, under its context's translation. -/
def cmdPlace (s : State) (q : Cmd) (va : Word) (size align need : Nat) : Look :=
  look s q.ctx q.apCore (cmdLocks s q) va size align need

/-- The place of an access that a command makes without a packet: in the slice of its own core. Every other goes to its home
(R187, R189, R364). -/
def Cmd.own (q : Cmd) (l : Loc) : Option Nat :=
  l.sa.filter (fun sa => saKind sa == 3 && saPeer sa == q.core.peer && scratchCore (saOff sa) == q.core.core && q.apCore == q.core.core)

/-- A read within one 32-byte block: M in the slice of the command's own core, and what a packet has brought from elsewhere. -/
def cmdGet (s : State) (q : Cmd) (va : Word) (n align : Nat) : CmdGot :=
  match cmdPlace s q va n align needR with
  | .fault c => .bad c.code
  | .absent page => .absent page
  | .ok l =>
    match q.own l with
    | some sa => if poisonHit s sa n then .bad cPoison else .ok (s.reads sa n)
    | none =>
      match q.fetched.find? (fun e => e.1 == va && e.2.1 == n) with
      | some (_, _, bs) => if bs.isEmpty then .bad cPoison else .ok bs
      | none => .away va l.ca n

/-- Bytes that a command has read are no longer kept for it. -/
def Cmd.took (q : Cmd) (va : Word) (n : Nat) : Cmd :=
  { q with fetched := q.fetched.filter (fun e => !(decide (va.toNat ≤ e.1.toNat) && decide (e.1.toNat < va.toNat + n))) }

/-- A read in pieces that cross no 32-byte boundary: the whole, or the first that brings nothing. -/
def cmdGets (s : State) (q : Cmd) : Nat → Word → Nat → CmdGot
  | 0, _, _ => .ok []
  | fuel + 1, va, n =>
    if n = 0 then .ok []
    else
      let k := min n (32 - va.toNat % 32)
      match cmdGet s q va k 1 with
      | .ok bs =>
        match cmdGets s q fuel (va + BitVec.ofNat 64 k) (n - k) with
        | .ok cs => .ok (bs ++ cs)
        | r => r
      | r => r

/-- A packet of a command, with the slack that its instruction had at issue (R229). -/
def cmdPacket (s : State) (q : Cmd) (va : Word) (ca : Nat) (body : Body) : State × Packet :=
  let (id, s) := s.fresh
  (s, { id := id, body := body, ca := ca, va := va, ctx := q.ctx, uid := q.uid, place := ⟨q.core.peer, q.core.core, q.slot⟩,
        stream := none, num := 0, count := 0, after := 0, global := false, slack := q.slack, slack0 := q.slack, late := false,
        ord := id, entered := s.now, kept := false, seen := 0, path := [], phase := .request, sentAt := none, dup := false,
        result := [] })

/-- A packet of a command leaves for its home. -/
def cmdSend (s : State) (q : Cmd) (va : Word) (ca : Nat) (body : Body) : State :=
  let (s, k) := cmdPacket s q va ca body
  launchPacket s k

/-- The packets of a command that are under way. -/
def cmdPackets (s : State) (q : Cmd) : List Packet :=
  s.packets.filter (fun k => match k.body with
    | .cread cid _ => cid == q.cid
    | .cwrite cid _ => cid == q.cid
    | _ => false)

/-- Far bytes are fetched, where they are not on their way already. -/
def cmdFetch (s : State) (q : Cmd) (va : Word) (ca n : Nat) : State :=
  if (cmdPackets s q).any (fun k => k.va == va && k.body == .cread q.cid n) then s else cmdSend s q va ca (.cread q.cid n)

/-- A command's read has brought nothing: a page is asked for, far bytes are fetched, or a fault ends the command. -/
def cmdStop (s : State) (q : Cmd) (bad : Nat → State) : CmdGot → State
  | .ok _ => s
  | .bad c => bad c
  | .absent page => askPage s q.ctx page
  | .away va ca n => cmdFetch s q va ca n

/-- A read of M in one piece, for a layout record. -/
def cmdPeek (s : State) (q : Cmd) (va : Word) (n : Nat) : CmdGot :=
  match cmdPlace s q va n 1 needR with
  | .fault c => .bad c.code
  | .absent page => .absent page
  | .ok l =>
    match l.sa.or ((resolve s q.ctx l.ca).map (·.1)) with
    | some sa => if poisonHit s sa n then .bad cPoison else .ok (readSa s sa n)
    | none => .ok (List.replicate n 0)

/-- A read of a layout record's bytes, in pieces that cross no 32-byte boundary. -/
def cmdPeeks (s : State) (q : Cmd) : Nat → Word → Nat → CmdGot
  | 0, _, _ => .ok []
  | fuel + 1, va, n =>
    if n = 0 then .ok []
    else
      let k := min n (32 - va.toNat % 32)
      match cmdPeek s q va k with
      | .ok bs =>
        match cmdPeeks s q fuel (va + BitVec.ofNat 64 k) (n - k) with
        | .ok cs => .ok (bs ++ cs)
        | r => r
      | r => r

/-- Bytes cut into writes that cross no 32-byte boundary. -/
def cmdCuts : Nat → Word → List Byte → List CmdWrite
  | 0, _, _ => []
  | fuel + 1, va, bs =>
    if bs.isEmpty then []
    else
      let k := min bs.length (32 - va.toNat % 32)
      ⟨va, bs.take k, none⟩ :: cmdCuts fuel (va + BitVec.ofNat 64 k) (bs.drop k)

/-! ## Layout records (R227) -/

/-- Bytes that a copy of a layout record holds when the machine makes it unasked: the longest record.
DESIGN CHOICE: log entry 78. -/
def lpLength : Nat := 256

/-- The pages of a layout record that is read are accessed (R135, R204). -/
def lpTouch (s : State) (q : Cmd) (va : Word) (n : Nat) : State :=
  [va, va + BitVec.ofNat 64 (n - 1)].foldl (fun s va => match cmdPlace s q va 1 1 needR with
    | .ok l => (member s q.ctx (saPeer l.ca)).elim s (fun m => l.sa.elim s (touch s m))
    | _ => s) s

/-- A read of a layout record, through LP: the copy, or a copy made now. DESIGN CHOICE: log entry 78. -/
def lpRead (s : State) (q : Cmd) (va : Word) (n : Nat) : State × CmdGot :=
  match cmdPlace s q va 32 32 needR with
  | .fault c => (s, .bad c.code)
  | .absent page => (s, .absent page)
  | .ok l =>
    match l.sa.or ((resolve s q.ctx l.ca).map (·.1)), s.ctx q.ctx with
    | some sa, some x =>
      match mget x.lp sa with
      | some bs =>
        if n ≤ bs.length then (s, .ok (bs.take n))
        else (lpTouch (s.setCtx q.ctx { x with lp := mset x.lp sa (readSa s sa n) }) q va n, .ok (readSa s sa n))
      | none =>
        match cmdPeeks s q (n / 16 + 3) va n with
        | .ok bs => (lpTouch (s.setCtx q.ctx { x with lp := mset x.lp sa bs }) q va n, .ok bs)
        | r => (s, r)
    | _, _ => (s, .ok (List.replicate n 0))

/-! ## Writes (R220) -/

/-- A write of a command: performed, on its way to be performed, or failing. -/
inductive CmdPut where
  | ok (s : State)
  | sent (s : State)
  | bad (code : Nat)
  | absent (page : Nat)
  deriving DecidableEq, Repr

/-- Where a write of a command goes: a drain's was checked before it (R343), any other is checked now. -/
def writePlace (s : State) (q : Cmd) (w : CmdWrite) : Look :=
  match w.ca with
  | some ca => .ok ⟨ca, (resolve s q.ctx ca).map (·.1), false, false⟩
  | none => cmdPlace s q w.va w.data.length 1 needW

/-- One write of a command: an external write in the slice of its own core, where one that a region holds waits in CQ with its
slack (R220, R230), or a packet to its home (R225). -/
def cmdPut (s : State) (q : Cmd) (w : CmdWrite) : CmdPut :=
  match writePlace s q w with
  | .fault c => .bad c.code
  | .absent page => .absent page
  | .ok l =>
    match q.own l with
    | some sa =>
      if blocked s none (linesOf sa w.data.length) then
        let (s, k) := cmdPacket s q w.va l.ca (.cwrite q.cid w.data)
        .sent (keepPacket s k)
      else .ok (extWrite s none sa w.data)
    | none => .sent (cmdSend s q w.va l.ca (.cwrite q.cid w.data))

/-- A command makes its writes in their order (R268, R300, R301). -/
def Work.inOrder : Work → Bool
  | .cpy .. => true
  | .cpy2d .. => true
  | .gath .. => true
  | .scat .. => true
  | _ => false

/-- Two writes touch one byte. -/
def CmdWrite.meets (v w : CmdWrite) : Bool :=
  decide (v.va.toNat < w.va.toNat + w.data.length) && decide (w.va.toNat < v.va.toNat + v.data.length)

/-- The writes of a command that are on their way and not yet performed. -/
def sentWrites (s : State) (q : Cmd) : List CmdWrite :=
  (cmdPackets s q).filterMap (fun k => match k.body with
    | .cwrite _ d => if unperformed s k then some ⟨k.va, d, none⟩ else none
    | _ => none)

/-- A write of a command may be the next that is performed (R225): the first, or one that touches no byte of those before it,
where the command's writes have no order; those on their way come before it. -/
def mayWrite (s : State) (q : Cmd) (n : Nat) : Bool :=
  match q.writes[n]? with
  | some w =>
    let before := sentWrites s q ++ q.writes.take n
    if q.work.inOrder then before.isEmpty else !before.any (fun v => v.meets w)
  | none => false

/-! ## The end of a command (R225, R268, R278) -/

/-- An arrival leaves a core for its barrier's quarter on behalf of a command (R279). -/
def cmdArrive (s : State) (q : Cmd) (bar : Nat) : State :=
  let c := q.core
  let n := match s.ctx q.ctx with
    | some x => barQtr x.barAt bar
    | none => 0
  let (id, s) := s.fresh
  let (s, k) := atQueue s
    { id := id, body := .arrival bar 1, ca := 0, va := 0, ctx := q.ctx, uid := q.uid, place := ⟨c.peer, c.core, q.slot⟩,
      stream := none, num := 0, count := 0, after := 0, global := false, slack := q.slack, slack0 := q.slack, late := false,
      ord := id, entered := s.now, kept := false, seen := 0,
      path := crossings c.peer (coreDist c.core) (n / 4) ++ [.homeIn c.peer (n / 4) (n % 4)],
      phase := .request, sentAt := none, dup := false, result := [] } c.peer (coreDist c.core)
  { s with packets := s.packets ++ [k] }

/-- A command leaves its queue; waiting ones enter (R274), and the credit of an empty vector queue is 0 (R276). -/
def removeCmd (s : State) (q : Cmd) : State :=
  s.updCore q.core (fun k =>
    let k := Core.enter { k with cmds := k.cmds.filter (fun d => d.cid != q.cid)
                                 oclaims := claimsAfter k.oclaims q.cid, tclaims := claimsAfter k.tclaims q.cid } s.now 16
    if k.cmds.any (fun d => d.queue == 4) then k else { k with credit := 0 })

/-- The barrier that a completion target names (R32, R255); none where the context has no such barrier. -/
def targetBarrier (s : State) (q : Cmd) : Option Nat :=
  match s.ctx q.ctx with
  | some x =>
    let n := x.barb.toNat % 2 ^ 15 + q.ct - 1
    if n < x.block.barriers then some n else none
  | none => none

/-- What a command posts waits for room (R177, R278). -/
def recordHeld (s : State) (q : Cmd) : Bool :=
  match s.ctx q.ctx with
  | some x => x.held.any (fun h => h.cid == some q.cid)
  | none => false

/-- A command has posted its record or its event: it is complete, unless that found no room; then its queue waits. -/
def afterPost (s : State) (q : Cmd) : State :=
  if recordHeld s q then s.setCmd { q with refused := true } else removeCmd s q

/-- The count of a completion record: bytes written, and of the scattered forms those of whole elements (R268, R301). -/
def Cmd.moved (q : Cmd) : Nat :=
  let es := 2 ^ leAt q.record 4 1
  match q.work with
  | .gath .. => q.count / es * es
  | .scat .. => q.count / es * es
  | _ => q.count

/-- An engine command completes: its record goes to the issuing slot, then its arrival is made (R225, R268). With ct = 0
and no room for the record it is not complete (R278). -/
def finishEngine (s : State) (q : Cmd) : State :=
  let status := if q.ct ≠ 0 ∧ (targetBarrier s q).isNone then cBarrier else q.ended.getD 0
  let item : Event ⊕ Rec := .inr ⟨q.tag, status, q.moved, 0⟩
  if q.ct = 0 then afterPost (deliver s q.ctx q.uid item (.record (some q.cid))) q
  else
    let s := removeCmd (deliver s q.ctx q.uid item (.record none)) q
    match targetBarrier s q with
    | some n => cmdArrive s q n
    | none => s

/-- A vector or matrix command ends with a fault: an event for the issuing slot, for which its queue waits where there is no
room (R177, R292, R346). -/
def cmdFault (s : State) (q : Cmd) (event code : Nat) : State :=
  afterPost (deliver s q.ctx q.uid (.inl ⟨event, q.ctx.id, BitVec.ofNat 64 code, 0⟩) (.fault (some q.cid) none)) q

/-- The commands of a context whose record or event has entered its store. -/
def entered (s : State) (c : CtxId) : List Cmd :=
  (s.cores.flatMap (fun e => e.2.cmds)).filter (fun q => q.ctx == c && q.refused && !recordHeld s q)

/-- Held events and records enter the store in the order in which they were refused, while it has room, and go on to their
threads; a command whose record or event has entered is complete (R177, R278). -/
def enterHeld (s : State) (c : CtxId) : State :=
  match s.ctx c with
  | none => s
  | some x =>
    let x := x.admitHeld
    let s := (x.store.filterMap (·.uid)).eraseDups.foldl (fun s u => drainStore s c u 300) (s.setCtx c x)
    (entered s c).foldl removeCmd s

end Sys2Proof.Machine
end

