-- ==== Sys2Proof/Machine/VectorUnit.lean ====
section
/-! DEFINITION. What a vector command does when it runs: its checks, its elements and its slices (R266, R275, R276, R291
to R296, R325). -/

namespace Sys2Proof.Machine

/-! ## Element types (R263) -/

/-- The element width in bits. -/
def typeBits (type : Nat) : Nat := 8 * typeSize type

/-- A floating-point TYPE. -/
def typeFp (type : Nat) : Bool := decide (4 ≤ type)

/-- The format of a floating-point TYPE. -/
def typeFmt (type : Nat) : FpFmt := if type = 4 then fp32 else if type = 5 then fp64 else if type = 6 then fp16 else bf16

/-! ## Control words (R291, R293) -/

/-- The control bits that an operation lists. -/
def ctlMask (fn : Nat) : Nat :=
  if fn ≤ 1 then 7
  else if fn ≤ 4 then 1
  else if fn ≤ 7 then 5
  else if fn = 9 then 0x1E
  else if fn = 0x0A then 0xE5
  else if 0x0C ≤ fn ∧ fn ≤ 0x0F then 1
  else if fn = 0x10 then 5
  else if fn = 0x12 then 0x7E4
  else 0

/-- A control word outside its operation's definition; for VMUL, SB = 1 with a stream named in sb too (R266). -/
def badControl (fn : Nat) (ctl : Word) (sbNo : Nat) : Bool :=
  (ctl.toNat &&& ctlMask fn) != ctl.toNat || (fn == 9 && wbits ctl 3 2 == 3)
    || ((fn == 0x0A || fn == 0x12) && decide (6 ≤ wbits ctl 5 3)) || (fn == 0x12 && decide (6 ≤ wbits ctl 8 3))
    || (fn == 2 && wbit ctl 0 && sbNo != 0)

/-- The operation reads the stream in its sa field. -/
def readsA (fn : Nat) : Bool := fn != 0x11

/-- The operation reads the stream in its sb field. -/
def readsB (fn : Nat) (ctl : Word) : Bool :=
  if fn = 3 ∨ fn = 4 ∨ fn = 0x0B then true
  else ctlMask fn % 2 == 1 && !wbit ctl 0

/-- The streams break the operation's type relation. -/
def typesWrong (fn : Nat) (d a b : Option Nat) : Bool :=
  match d with
  | none => true
  | some d =>
    let same (x : Option Nat) (y : Nat) : Bool := match x with
      | some x => x == y
      | none => true
    if fn = 9 then false
    else if fn = 0x0A then
      (match a with
        | some a => typeFp d || typeBits d != typeBits a || !same b a
        | none => false)
    else if fn = 0x0B then
      !same b d || (match a with
        | some a => typeFp a || typeBits a != typeBits d
        | none => false)
    else !same a d || !same b d

/-- The checks of a command as it starts (R292): the fault code, if any. -/
def vectorCheck (fn : Nat) (sd sa sb : StreamOp) (sbNo : Nat) (ctl : Word) : Option Nat :=
  let a := if readsA fn then sa else none
  let b := if readsB fn ctl then sb else none
  let wrongDir := (match sd with
      | some e => !e.dir
      | none => true)
    || (readsA fn && (match sa with
      | some e => e.dir
      | none => true))
    || (readsB fn ctl && (match sb with
      | some e => e.dir
      | none => true))
  let n := (sd.map Stream.count).getD 0
  let counts := (a.map Stream.count).getD n != n || (b.map Stream.count).getD n != n
  let type := ((if fn = 0x11 then sd else sa).map (·.type)).getD 0
  let dtype := (sd.map (·.type)).getD 0
  if badControl fn ctl sbNo then some 0x17
  else if wrongDir || counts || typesWrong fn (sd.map (·.type)) (a.map (·.type)) (b.map (·.type)) then some 0x16
  else if ((fn == 0x0F || fn == 0x10) && typeFp type) || (decide (0x13 ≤ fn) && !typeFp type) then some 0x19
  else if fn = 9 then
    if (wbit ctl 2 && typeFp type && typeFp dtype) || (wbit ctl 1 && typeFp dtype) then some 0x17 else none
  else if (wbit ctl 1 || wbit ctl 2) && typeFp type then some 0x17
  else none

/-! ## Element arithmetic -/

/-- An integer element as a number, unsigned with U. -/
def elemInt (w : Nat) (u : Bool) (x : Nat) : Int := if u then (x : Int) else signed w x

/-- An integer wrapped to `w` bits. -/
def wrapTo (w : Nat) (v : Int) : Nat := (v % 2 ^ w).toNat

/-- An integer saturated to the signed or unsigned range. -/
def satTo (w : Nat) (u : Bool) (v : Int) : Nat :=
  let lo : Int := if u then 0 else -2 ^ (w - 1)
  let hi : Int := if u then 2 ^ w - 1 else 2 ^ (w - 1) - 1
  wrapTo w (max lo (min hi v))

/-- Integer division of elements (R293). -/
def elemDiv (w : Nat) (u : Bool) (x y : Nat) : Nat :=
  if y = 0 then 2 ^ w - 1
  else if u then x / y
  else wrapTo w ((elemInt w false x).tdiv (elemInt w false y))

/-- The smaller or larger of two elements. -/
def elemMin (type : Nat) (u : Bool) (x y : Nat) : Nat :=
  if typeFp type then fpMin (typeFmt type) x y
  else if elemInt (typeBits type) u y < elemInt (typeBits type) u x then y else x

def elemMax (type : Nat) (u : Bool) (x y : Nat) : Nat :=
  if typeFp type then fpMax (typeFmt type) x y
  else if elemInt (typeBits type) u x < elemInt (typeBits type) u y then y else x

/-- Addition of elements, wrapping or rounding. -/
def elemAdd (type x y : Nat) : Nat :=
  if typeFp type then fpAdd (typeFmt type) x y else (x + y) % 2 ^ typeBits type

/-- The operation of VSHOP and COLL (R295, R302): its number in CC or OP. -/
def elemOp (op type : Nat) (u : Bool) (x y : Nat) : Nat :=
  match op with
  | 0 => elemAdd type x y
  | 1 => elemMin type u x y
  | 2 => elemMax type u x y
  | 3 => x &&& y
  | 4 => x ||| y
  | _ => x ^^^ y

/-- A comparison of elements by CC (R291, R293): a NaN makes every condition false but NE. -/
def elemCmp (type cc : Nat) (u : Bool) (x y : Nat) : Bool :=
  let o : Option Ordering :=
    if typeFp type then valCmp (fpVal (typeFmt type) x) (fpVal (typeFmt type) y)
    else some (compare (elemInt (typeBits type) u x) (elemInt (typeBits type) u y))
  match cc, o with
  | 0, some .eq => true
  | 1, some .eq => false
  | 1, _ => true
  | 2, some .lt => true
  | 3, some .lt => true
  | 3, some .eq => true
  | 4, some .gt => true
  | 5, some .gt => true
  | 5, some .eq => true
  | _, _ => false

/-- The 32 random bits of an element (R325). -/
def stochastic (seed : Word) (i : Nat) : Nat :=
  let z : Word := seed + BitVec.ofNat 64 (i + 1) * 0x9E3779B97F4A7C15
  let z := (z ^^^ (z >>> 30)) * 0xBF58476D1CE4E5B9
  let z := (z ^^^ (z >>> 27)) * 0x94D049BB133111EB
  let z := z ^^^ (z >>> 31)
  z.toNat / 2 ^ 32

/-- The rounding that RM chooses. -/
def rounding (rm : Nat) (seed : Word) (i : Nat) : Rnd :=
  if rm = 0 then .rne else if rm = 1 then .rtz else .sto (stochastic seed i)

/-- VCVT of element `i` (R294). -/
def elemCvt (src dst : Nat) (ctl seed : Word) (i x : Nat) : Nat :=
  let rnd := rounding (wbits ctl 3 2) seed i
  let u := wbit ctl 2
  let w := typeBits dst
  if typeFp src then
    let v := fpVal (typeFmt src) x
    if typeFp dst then encodeFpR rnd (typeFmt dst) v
    else
      let lo : Int := if u then 0 else -2 ^ (w - 1)
      let hi : Int := if u then 2 ^ w - 1 else 2 ^ (w - 1) - 1
      wrapTo w (valToInt rnd lo hi v)
  else
    let v := elemInt (typeBits src) u x
    if typeFp dst then encodeFpR rnd (typeFmt dst) (valOfInt v)
    else if wbit ctl 1 then satTo w u v else wrapTo w v

/-! ## Special functions (R296) -/

/-- A value is the power of two of this exponent. -/
def powerOf : Val → Option Int
  | .fin false m e => if m ≠ 0 ∧ 2 ^ Nat.log2 m = m then some (e + Nat.log2 m) else none
  | _ => none

/-- A value that is an integer. -/
def intOf : Val → Option Int
  | .fin neg m e =>
    let v : Int := if 0 ≤ e then m * 2 ^ e.toNat else m / 2 ^ (-e).toNat
    if e < 0 ∧ m % 2 ^ (-e).toNat ≠ 0 then none else some (if neg then -v else v)
  | _ => none

/-- Two to an integer power, where the format holds it. -/
def pow2Code (f : FpFmt) (k : Int) : Option Nat :=
  let c := encodeFp f (.fin false 1 k)
  match fpVal f c with
  | .fin false m e => if m ≠ 0 ∧ 2 ^ Nat.log2 m = m ∧ e + Nat.log2 m = k then some c else none
  | _ => none

/-- A finite magnitude `m · 2^e` is at least `p ÷ q`. -/
def atLeast (p q m : Nat) (e : Int) : Bool :=
  decide (p * 2 ^ (-e).toNat ≤ q * m * 2 ^ e.toNat)

/-- A code among those within 2 ulp of a positive number that lies from the code `c` to the next: from `c − 1` to `c + 2`,
and to `c + 1` where a binade ends there. -/
def around (f : FpFmt) (c free : Nat) : Nat :=
  if (c + 1) % 2 ^ f.m = 0 then c + free % 3 - 1 else c + free % 4 - 1

/-- The exact values of the table: a code, for the inputs that have one. -/
def exactSpecial (fn : Nat) (f : FpFmt) (x : Nat) : Option Nat :=
  let one := encodeFp f (.fin false 1 0)
  match fn, fpVal f x with
  | _, .nan => some f.nan
  | 0x13, .inf neg => some (if neg then f.zero false else f.inf false)
  | 0x13, v => (intOf v).bind (pow2Code f)
  | 0x14, .inf neg => some (if neg then f.nan else f.inf false)
  | 0x14, .fin neg m e =>
    if m = 0 then some (f.inf true)
    else if neg then some f.nan
    else (powerOf (.fin neg m e)).map (fun k => encodeFp f (valOfInt k))
  | 0x15, .inf neg => some (f.zero neg)
  | 0x15, .fin neg m e =>
    if m = 0 then some (f.inf neg) else (powerOf (.fin neg m e)).bind (fun k => pow2Code f (-k))
  | 0x16, .inf neg => some (if neg then f.nan else f.zero false)
  | 0x16, .fin neg m e =>
    if m = 0 then some (f.inf neg)
    else if neg then some f.nan
    else (powerOf (.fin neg m e)).bind (fun k => if k % 2 = 0 then pow2Code f (-(k / 2)) else none)
  | 0x17, _ => some (fpSqrt f x)
  | 0x1A, .inf neg => some (if neg then f.zero true + one else one)
  | 0x1A, .fin neg m e =>
    if m = 0 then some (f.zero neg)
    else if f = fp32 ∧ atLeast 91 10 m e then
      some (if neg then f.zero true + one else one)
    else none
  | 0x18, .inf _ => some f.nan
  | 0x18, .fin neg m _ => if m = 0 then some (f.zero neg) else none
  | 0x19, .inf _ => some f.nan
  | 0x19, .fin _ m _ => if m = 0 then some one else none
  | _, _ => none

/-- The quotient 1 ÷ √x rounded toward zero, of a positive finite value. -/
def rsqDown (f : FpFmt) (m : Nat) (e : Int) : Nat :=
  let odd := e % 2 != 0
  let m' := if odd then 2 * m else m
  let e' := if odd then e - 1 else e
  let k := 160 + Nat.log2 m'
  encodeFinS .rtz f false (isqrt (2 ^ (2 * k) / m')) (-(k : Int) - e' / 2) false

/-! Fixed-point numbers with `fracBits` bits of fraction, for the functions that R296 only bounds. -/

/-- Bits of fraction: every finite FP64 value, and the cube of one, is seen with them. -/
def fracBits : Nat := 3400

/-- A finite value as a fixed-point number. -/
def fixOf (neg : Bool) (m : Nat) (e : Int) : Int :=
  let v : Int := m * 2 ^ (e + fracBits).toNat
  if neg then -v else v

/-- Terms of 2^(−k) ÷ k, whose sum is ln 2. -/
def lnTwoFrom : Nat → Nat → Nat
  | 0, _ => 0
  | fuel + 1, k => 2 ^ fracBits / (k * 2 ^ k) + lnTwoFrom fuel (k + 1)

/-- The terms of e^y from the `k`-th. -/
def expFrom (y : Nat) : Nat → Nat → Nat → Nat
  | 0, _, _ => 0
  | fuel + 1, k, term => term + expFrom y fuel (k + 1) (term * y / 2 ^ fracBits / (k + 1))

/-- e^y. -/
def expFix (y : Nat) : Nat := expFrom y 1300 0 (2 ^ fracBits)

/-- Binary digits of the logarithm of a number from 1 to 2, behind those of `acc`. -/
def logDigits : Nat → Nat → Nat → Nat
  | 0, _, acc => acc
  | fuel + 1, m, acc =>
    let m' := m * m / 2 ^ fracBits
    if 2 ^ (fracBits + 1) ≤ m' then logDigits fuel (m' / 2) (2 * acc + 1) else logDigits fuel m' (2 * acc)

/-- The terms of arctan (1 ÷ n) from the `k`-th; `p` is 1 ÷ n^(2k + 1). -/
def atanFrom (n : Nat) : Nat → Nat → Nat → Int
  | 0, _, _ => 0
  | fuel + 1, k, p => (p / (2 * k + 1) : Nat) - atanFrom n fuel (k + 1) (p / (n * n))

/-- 2π, as 32 arctan (1 ÷ 5) − 8 arctan (1 ÷ 239). -/
def twoPi : Int := 32 * atanFrom 5 760 0 (2 ^ fracBits / 5) - 8 * atanFrom 239 760 0 (2 ^ fracBits / 239)

/-- The terms of a sine or cosine from the one of degree `k`. -/
def sinFrom (y : Int) : Nat → Nat → Int → Int
  | 0, _, _ => 0
  | fuel + 1, k, term =>
    term + sinFrom y fuel (k + 2) (-(term * (y * y / 2 ^ fracBits) / 2 ^ fracBits) / ((k + 1) * (k + 2) : Nat))

/-- The sine or the cosine of a number. -/
def sinFix (x : Int) : Int := let y := x % twoPi; sinFrom y 350 1 y
def cosFix (x : Int) : Int := sinFrom (x % twoPi) 350 0 (2 ^ fracBits)

/-- The codes within 2 ulp of a number whose magnitude `mag · 2^exp` is rounded toward zero; `free` chooses among them. -/
def nearby (f : FpFmt) (neg : Bool) (mag : Nat) (exp : Int) (free : Nat) : Nat :=
  f.zero neg + min (around f (encodeFinS .rtz f false mag exp false) free) (f.inf false)

/-- As `nearby`, of a fixed-point number. -/
def nearFix (f : FpFmt) (v : Int) (free : Nat) : Nat := nearby f (decide (v < 0)) v.natAbs (-(fracBits : Int)) free

/-- 2^x; where it is beyond the format, the largest finite value or +Inf. -/
def exp2In (f : FpFmt) (x : Int) (free : Nat) : Nat :=
  let k := x / 2 ^ fracBits
  if 2 ^ (f.e - 1) ≤ k then f.inf false - free % 2
  else
    let y := (x % 2 ^ fracBits).toNat * lnTwoFrom fracBits 1 / 2 ^ fracBits
    nearby f false (expFix y) (max k (-4096) - fracBits) free

/-- log2 of a positive number. -/
def log2In (f : FpFmt) (m : Nat) (e : Int) (free : Nat) : Nat :=
  let n := Nat.log2 m
  let v : Int := (e + n) * 2 ^ 300 + logDigits 300 (m * 2 ^ fracBits / 2 ^ n) 0
  nearby f (decide (v < 0)) v.natAbs (-300) free

/-- tanh x, whose value in FP64 beyond 32 is that at 32 rounded toward zero. -/
def tanhIn (f : FpFmt) (x : Int) (free : Nat) : Nat :=
  let t := expFix (2 * min x.natAbs (32 * 2 ^ fracBits))
  let v : Int := ((t - 2 ^ fracBits) * 2 ^ fracBits / (t + 2 ^ fracBits) : Nat)
  nearFix f (if x < 0 then -v else v) free

/-- A sine or cosine `v` of `x`: within 2 ulp for arguments up to 2^16 or 2^32, beyond that a code within the absolute error. -/
def trigIn (f : FpFmt) (x v : Int) (free : Nat) : Nat :=
  let (range, err) := if f = fp32 then (16, 22) else (32, 50)
  if x.natAbs ≤ 2 ^ (fracBits + range) then nearFix f v free
  else
    match fpVal f (free % 2 ^ f.width) with
    | .fin neg m e =>
      if (fixOf neg m e - v).natAbs ≤ 2 ^ (fracBits - err) then free % 2 ^ f.width
      else encodeFinS .rne f (decide (v < 0)) v.natAbs (-(fracBits : Int)) false
    | _ => encodeFinS .rne f (decide (v < 0)) v.natAbs (-(fracBits : Int)) false

/-- VRCP of a finite number that is not 0: one of the two codes about the quotient; where the quotient lies beyond the format, the
infinity of R37. DESIGN CHOICE: log entry 11. -/
def recipIn (f : FpFmt) (neg : Bool) (m : Nat) (e : Int) (free : Nat) : Nat :=
  if fpQuot .rne f (.fin false 1 0) (.fin neg m e) = f.inf neg then f.inf neg
  else fpQuot .rtz f (.fin false 1 0) (.fin neg m e) + free % 2

/-- A special function in FP32 or FP64: exact where the table says so; else a free value within the table's bound of the exact
one. DESIGN CHOICE: log entry 11. -/
def specialIn (fn type x : Nat) : Nat :=
  let f := typeFmt type
  let free := (Config.special fn type (BitVec.ofNat 64 x)).toNat
  match exactSpecial fn f x, fpVal f x with
  | some c, _ => c
  | none, .fin neg m e =>
    let v := fixOf neg m e
    match fn with
    | 0x13 => exp2In f v free
    | 0x14 => log2In f m e free
    | 0x15 => recipIn f neg m e free
    | 0x16 => around f (rsqDown f m e) free
    | 0x18 => trigIn f v (sinFix v) free
    | 0x19 => trigIn f v (cosFix v) free
    | _ => tanhIn f v free
  | none, _ => free % 2 ^ f.width

/-- A special function of any floating-point TYPE: the 16-bit ones through FP32, rounded once. -/
def special (fn type x : Nat) : Nat :=
  if type = 4 ∨ type = 5 then specialIn fn type x
  else encodeFp (typeFmt type) (fpVal fp32 (specialIn fn 4 (encodeFp fp32 (fpVal (typeFmt type) x))))

/-! ## One element (R293) -/

/-- Element `i` of the result, from the operands' elements: `x` of sa, `y` the second operand, `z` of sb. -/
def vectorElem (fn dtype atype : Nat) (a ctl seed : Word) (i x y z : Nat) : Nat :=
  let w := typeBits dtype
  let f := typeFmt dtype
  let u := wbit ctl 2
  let s := a.toNat % 2 ^ w
  let fp := typeFp dtype
  let arith (fpR : Nat) (v : Int) : Nat := if fp then fpR else if wbit ctl 1 then satTo w u v else wrapTo w v
  let xi := elemInt w u x
  let yi := elemInt w u y
  let p := if wbit ctl 0 then s else z
  let q := if wbit ctl 0 then z else s
  match fn with
  | 0x00 => arith (fpAdd f x y) (xi + yi)
  | 0x01 => arith (fpSub f x y) (xi - yi)
  | 0x02 => if fp then fpMul f x y else x * y % 2 ^ w
  | 0x03 => if fp then fpFma f q x p else (x * p + q) % 2 ^ w
  | 0x04 => if fp then fpFms f q x p else wrapTo w ((x : Int) * p - q)
  | 0x05 => if fp then fpDiv f x y else elemDiv w u x y
  | 0x06 => elemMin dtype u x y
  | 0x07 => elemMax dtype u x y
  | 0x08 => if fp then x % 2 ^ (w - 1) else if signed w x < 0 then wrapTo w (-(signed w x)) else x
  | 0x09 => elemCvt atype dtype ctl seed i x
  | 0x0A =>
    let c := a.toNat % 2 ^ typeBits atype
    if elemCmp atype (wbits ctl 5 3) u x (if wbit ctl 0 then c else z) then 2 ^ w - 1 else 0
  | 0x0B => if x ≠ 0 then z else s
  | 0x0C => x &&& y
  | 0x0D => x ||| y
  | 0x0E => x ^^^ y
  | 0x0F => x * 2 ^ (y % w) % 2 ^ w
  | 0x10 => if u then x / 2 ^ (y % w) else wrapTo w (signed w x / 2 ^ (y % w))
  | 0x11 => if fp then encodeFp f (valAdd (fpVal f s) (valOfInt i)) else (s + i) % 2 ^ w
  | 0x12 => elemOp (wbits ctl 5 3) dtype u x y
  | _ => special fn dtype x

/-! ## Slices (R275) -/

/-- Elements of a slice. -/
def sliceLen (type : Nat) : Nat := if typeSize type = 8 then 8 else 64 / typeSize type

/-- Slices of a command. -/
def sliceCount (q : Cmd) : Nat :=
  match q.work with
  | .vector _ (some sd) .. => (sd.count + sliceLen sd.type - 1) / sliceLen sd.type
  | _ => 0

/-- The address and size of an element that a command reads; none where the operation does not read the stream. -/
def elemAt (e : StreamOp) (i : Nat) : Option (Word × Nat) := e.map (fun e => (e.addr i, typeSize e.type))

/-- An element that a command reads. -/
def elemGet (s : State) (q : Cmd) (at_ : Option (Word × Nat)) : CmdGot :=
  match at_ with
  | none => .ok []
  | some (va, n) => cmdGet s q va n n

/-- The write of element `i`, checked as it is read. -/
def elemPut (s : State) (q : Cmd) (sd : Stream) (va : Word) : Option CmdGot :=
  match cmdPlace s q va (typeSize sd.type) (typeSize sd.type) needW with
  | .ok _ => none
  | .fault c => some (.bad c.code)
  | .absent page => some (.absent page)

/-- Element `i`'s second operand: of sb, or for VSHOP the partner in sa. -/
def secondAt (fn : Nat) (sd : Stream) (sa sb : StreamOp) (ctl : Word) (i : Nat) : Option (Word × Nat) :=
  let j := i ^^^ 2 ^ wbits ctl 8 3
  if fn = 0x12 then (if j < sd.count then elemAt sa j else none) else elemAt (if readsB fn ctl then sb else none) i

/-- What element `i` becomes, from the bytes of its operands. -/
def elemValue (fn : Nat) (sd : Stream) (sa : StreamOp) (a ctl seed : Word) (i : Nat) (xb zb : List Byte) : List Byte :=
  let atype := (sa.map (·.type)).getD sd.type
  let x := leNat xb
  let z := leNat zb
  let y := if fn = 0x12 then z else if wbit ctl 0 then a.toNat % 2 ^ typeBits sd.type else z
  let lone := fn == 0x12 && decide (sd.count ≤ i ^^^ 2 ^ wbits ctl 8 3)
  leBytes (typeSize sd.type) (if lone then x else vectorElem fn sd.type atype a ctl seed i x y z)

/-- A slice has gone on; one that has run all its elements leaves its lane group. -/
def Cmd.setRun (q : Cmd) (r : SliceRun) (per total : Nat) : Cmd :=
  { q with runs := q.runs.filterMap (fun x =>
      if x.slice ≠ r.slice then some x
      else if r.next < min per (total - r.slice * per) then some r else none) }

/-- A slice that a lane group runs reads its next operand (R225, R275); with the last of an element its write joins those still
to be performed. A fault ends the command at the slice. DEDUCED: log entry 17. -/
def vectorRead (s : State) (q : Cmd) (slice : Nat) : State :=
  match q.work, q.runs.find? (fun r => r.slice == slice) with
  | .vector fn (some sd) sa sb _ a ctl seed, some r =>
    let per := sliceLen sd.type
    let i := slice * per + r.next
    let bad (c : Nat) : State := s.setCmd { q with ended := some c, runs := [], writes := if fn = 0x12 then [] else q.writes }
    let first := elemAt (if readsA fn then sa else none) i
    match r.first with
    | none =>
      match elemGet s q first with
      | .ok bs =>
        let q := (first.map (fun e => q.took e.1 e.2)).getD q
        s.setCmd (q.setRun { r with first := some bs } per sd.count)
      | e => cmdStop s q bad e
    | some xb =>
      let second := secondAt fn sd sa sb ctl i
      match elemGet s q second, (if fn = 0x12 then none else elemPut s q sd (sd.addr i)) with
      | .ok zb, none =>
        let q := (second.map (fun e => q.took e.1 e.2)).getD q
        s.setCmd { q.setRun { r with next := r.next + 1, first := none } per sd.count with
          writes := q.writes ++ [⟨sd.addr i, elemValue fn sd sa a ctl seed i xb zb, none⟩] }
      | .ok _, some e => cmdStop s q bad e
      | e, _ => cmdStop s q bad e
  | _, _ => s

/-- The writes of a command may be performed: VSHOP reads every element first (R295). -/
def writesOpen (q : Cmd) : Bool :=
  match q.work with
  | .vector 0x12 .. => q.ended.isSome || (q.prog == sliceCount q && q.runs.isEmpty)
  | _ => true

/-! ## Sharing the lane groups (R276) -/

/-- A core's head command, if it has a slice not yet taken. DEDUCED: log entry 81. -/
def eligible (s : State) (c : CoreId) : Option Cmd :=
  match (s.core c).head 4 with
  | some q => if q.started && q.ended.isNone && decide (q.prog < sliceCount q) then some q else none
  | none => none

/-- Lane groups of a group's vector unit that run a slice (R275). -/
def lanesBusy (s : State) (cores : List CoreId) : Nat :=
  ((cores.flatMap (fun c => (s.core c).cmds)).map (fun q => q.runs.length)).sum

/-- One of the four lane groups of a unit is free: it chooses a core of its group by credit, and takes a slice of its head
(R275, R276). DEDUCED: log entry 81. -/
def sliceSelect (s : State) (peer dist qtr grp : Nat) : State :=
  let cores := (groupCores dist qtr grp).map (fun c => (⟨peer, c⟩ : CoreId))
  let elig := cores.filter (fun c => (eligible s c).isSome)
  let weight (c : CoreId) : Nat := (s.core c).vshare.toNat
  let e := elig.filter (fun c => weight c != 0)
  let take (s : State) (c : CoreId) : State :=
    match eligible s c with
    | some q => s.setCmd { q with prog := q.prog + 1, runs := q.runs ++ [⟨q.prog, 0, none⟩] }
    | none => s
  if 4 ≤ lanesBusy s cores then s else
  match e with
  | [] =>
    match elig with
    | c :: _ => take s c
    | [] => s
  | c0 :: rest =>
    let s := e.foldl (fun s c => s.updCore c (fun k => { k with credit := k.credit + (weight c : Int) })) s
    let w := rest.foldl (fun b c => if (s.core b).credit < (s.core c).credit then c else b) c0
    let total : Nat := (e.map weight).sum
    take (s.updCore w (fun k => { k with credit := k.credit - (total : Int) })) w

end Sys2Proof.Machine
end

