-- ==== Sys2Proof/Machine/Engines.lean ====
section
/-! DEFINITION. What an engine command does when it runs, and which command an engine serves (R268, R277, R299 to
R302). -/

namespace Sys2Proof.Machine

/-- The status of a record that breaks its layout (R309). -/
def cBadDesc : Nat := 0x78

/-! ## Layout records -/

/-- The VA of the layout record that a command names. -/
def Work.layout : Work → Option Word
  | .cpy2d r _ _ => some r
  | .gath r _ _ => some r
  | .scat r _ _ => some r
  | .coll r _ _ => some r
  | _ => none

/-- A record keeps its layout (R300 to R302). -/
def recordOk (work : Work) (r : List Byte) : Bool :=
  match work with
  | .cpy2d .. => decide (leAt r 0 4 ≤ 2 ^ 20) && decide (leAt r 4 4 ≤ 2 ^ 24) && zeros r 0x18 8
  | .coll .. =>
    decide (leAt r 0 4 ≤ 2 ^ 24) && decide (leAt r 4 1 ≤ 7) && decide (leAt r 5 1 ≤ 5) && decide (1 ≤ leAt r 6 1)
      && decide (leAt r 6 1 ≤ 16) && decide (leAt r 7 1 ≤ 3) && zeros r 8 24
  | _ =>
    decide (leAt r 0 4 ≤ 2 ^ 24) && decide (leAt r 4 1 ≤ 6) && decide (leAt r 5 1 ≤ 1) && zeros r 6 2
      && leAt r 8 8 % (if leAt r 5 1 = 0 then 4 else 8) == 0 && zeros r 0x18 8

/-- A source address of a collective command (R302), from the list behind its record. -/
def collSource (q : Cmd) (j : Nat) : Word := BitVec.ofNat 64 (leAt q.record (32 + 8 * j) 8)

/-- An engine command starts: it reads its record. -/
def engineStart (s : State) (q : Cmd) : State :=
  let go (s : State) (q : Cmd) : State := s.setCmd { q with started := true, startedAt := s.now, since := s.now }
  match q.work.layout with
  | none => go s q
  | some va =>
    match lpRead s q va 32 with
    | (s, .ok r) => if recordOk q.work r then go s { q with record := r } else go s { q with ended := some cBadDesc }
    | (s, r) => cmdStop s q (fun c => go s { q with ended := some c }) r

/-- How many bytes (a copy), elements or indices the command moves. -/
def engineTotal (q : Cmd) : Nat :=
  match q.work with
  | .cpy _ _ len => len
  | .cpy2d .. => leAt q.record 0 4 * leAt q.record 4 4
  | _ => leAt q.record 0 4

/-- A collective command has read its list of sources. -/
def Cmd.listed (q : Cmd) : Bool :=
  match q.work with
  | .coll .. => decide (32 + 8 * leAt q.record 6 1 ≤ q.record.length)
  | _ => true

/-- The command has something left to read. -/
def engineLeft (q : Cmd) : Bool := !q.listed || decide (q.prog < engineTotal q)

/-! ## Moving -/

/-- A command's budget falls by the bytes it has moved; at the end of its piece it waits for an engine again (R277). -/
def Cmd.spend (q : Cmd) (n now : Nat) : Cmd := { q with budget := q.budget - n, since := if q.budget ≤ n then now else q.since }

/-- A step of a command that moves bytes: what a read gives decides. -/
def engineTake (s : State) (q : Cmd) (got : CmdGot) (next : List Byte → Cmd) : State :=
  match got with
  | .ok bs => s.setCmd (next bs)
  | r => cmdStop s q (fun c => s.setCmd { q with ended := some c }) r

/-- A copy moves the next bytes, up to a 32-byte boundary of either end and `row` bytes; `n` of them at most, unless it
is 0. -/
def copyStep (s : State) (q : Cmd) (dst src : Word) (row n : Nat) : State :=
  let m := min (min row q.budget) (min (32 - src.toNat % 32) (32 - dst.toNat % 32))
  let k := if n = 0 then m else min m n
  engineTake s q (cmdGet s q src k 1) (fun bs =>
    { (q.took src k).spend k s.now with prog := q.prog + k, writes := q.writes ++ [⟨dst, bs, none⟩] })

/-- Gather and scatter read the next index, or move the next element or byte of one (R301): `place` gives its source and
destination from its index. -/
def gatherStep (s : State) (q : Cmd) (place : Int → Word × Word) : State :=
  let es : Nat := 2 ^ leAt q.record 4 1
  let iw := if leAt q.record 5 1 = 0 then 4 else 8
  let bound := leAt q.record 0x10 8
  match q.hold with
  | none =>
    let va := BitVec.ofNat 64 (leAt q.record 8 8 + q.prog * iw)
    engineTake s q (cmdGet s q va iw iw) (fun bs =>
      let x := signed (8 * iw) (leNat bs)
      let q := q.took va iw
      if bound ≠ 0 ∧ (x < 0 ∨ (bound : Int) ≤ x) then { q with prog := q.prog + 1 } else { q with hold := some x })
  | some x =>
    let (src, dst) := place x
    if es ≤ 8 ∧ src.toNat % es = 0 ∧ dst.toNat % es = 0 then
      engineTake s q (cmdGet s q src es es) (fun bs =>
        { (q.took src es).spend es s.now with prog := q.prog + 1, hold := none, writes := q.writes ++ [⟨dst, bs, none⟩] })
    else
      let off := BitVec.ofNat 64 q.sub
      let last := decide (es ≤ q.sub + 1)
      engineTake s q (cmdGet s q (src + off) 1 1) (fun bs =>
        { (q.took (src + off) 1).spend 1 s.now with
          prog := if last then q.prog + 1 else q.prog
          sub := if last then 0 else q.sub + 1
          hold := if last then none else q.hold
          writes := q.writes ++ [⟨dst + off, bs, none⟩] })

/-- A collective command's element so far: with its last source it is written (R302). -/
def Cmd.reduced (q : Cmd) (va : Word) (w v sub now : Nat) : Cmd :=
  if leAt q.record 6 1 ≤ sub then
    { q.spend w now with prog := q.prog + 1, sub := 0, hold := none, writes := q.writes ++ cmdCuts 3 va (leBytes w v) }
  else { q with sub := sub, hold := some (v : Int) }

/-- A collective command reads the next address of its list, or the next operand of an element (R302). -/
def collStep (s : State) (q : Cmd) (a b : Word) : State :=
  let type := leAt q.record 4 1
  let w := typeSize type
  let flags := leAt q.record 7 1
  let va := a + BitVec.ofNat 64 (q.prog * w)
  let source (j : Nat) : Word := collSource q j + BitVec.ofNat 64 (q.prog * w)
  if !q.listed then
    let at_ := b + BitVec.ofNat 64 (q.record.length - 32)
    engineTake s q (cmdGet s q at_ 8 8) (fun bs =>
      { q.took at_ 8 with record := q.record ++ bs, ended := if leNat bs % w = 0 then none else some cMisalign })
  else
    match q.hold with
    | some v =>
      engineTake s q (cmdGet s q (source q.sub) w w) (fun bs =>
        (q.took (source q.sub) w).reduced va w (elemOp (leAt q.record 5 1) type (flags % 2 == 1) v.toNat (leNat bs))
          (q.sub + 1) s.now)
    | none =>
      if flags / 2 = 1 then engineTake s q (cmdGets s q 3 va w) (fun bs => (q.took va w).reduced va w (leNat bs) 0 s.now)
      else engineTake s q (cmdGet s q (source 0) w w) (fun bs => (q.took (source 0) w).reduced va w (leNat bs) 1 s.now)

/-- The next step of a command that an engine serves (R268, R300 to R302); a copy moves `n` bytes at most, unless it is 0. -/
def engineRead (s : State) (q : Cmd) (n : Nat) : State :=
  let off (n : Nat) : Word := BitVec.ofNat 64 n
  match q.work with
  | .cpy a b len => copyStep s q (a + off q.prog) (b + off q.prog) (len - q.prog) n
  | .cpy2d _ a b =>
    let rb := leAt q.record 4 4
    let r := q.prog / rb
    let j := q.prog % rb
    let stride (o : Nat) : Word := off (leAt q.record o 8)
    copyStep s q (a + off r * stride 8 + off j) (b + off r * stride 0x10 + off j) (rb - j) n
  | .gath _ a b =>
    let es : Nat := 2 ^ leAt q.record 4 1
    gatherStep s q (fun x => (b + BitVec.ofInt 64 (x * es), a + off (q.prog * es)))
  | .scat _ a b =>
    let es : Nat := 2 ^ leAt q.record 4 1
    gatherStep s q (fun x => (b + off (q.prog * es), a + BitVec.ofInt 64 (x * es)))
  | .coll _ a b => collStep s q a b
  | _ => s

/-! ## Engines (R277) -/

/-- The kind of engine that serves a command: 0 copy, 1 gather and scatter, 2 collective. -/
def Work.engine : Work → Option Nat
  | .cpy .. => some 0
  | .cpy2d .. => some 0
  | .gath .. => some 1
  | .scat .. => some 1
  | .coll .. => some 2
  | _ => none

/-- Engines of a kind in a quarter. -/
def engineCount (kind : Nat) : Nat := if kind = 0 then 8 else if kind = 1 then 4 else 1

/-- The longest piece that an engine serves. -/
def pieceBytes : Nat := 65536

/-- The commands of a quarter's engine queues. -/
def quarterCmds (s : State) (peer dist qtr : Nat) : List Cmd :=
  (s.cores.filter (fun e => e.1.peer == peer && coreDist e.1.core == dist && coreQtr e.1.core == qtr)).flatMap
    (fun e => e.2.cmds.filter (fun q => decide (q.queue < 4) && q.entered))

/-- A command is served by an engine now: its piece has bytes left to move, or writes to perform. -/
def Cmd.served (q : Cmd) : Bool :=
  q.started && ((q.ended.isNone && q.budget != 0 && engineLeft q) || !q.writes.isEmpty)

/-- A started head that waits for an engine. -/
def Cmd.offers (q : Cmd) : Bool := q.started && q.ended.isNone && !q.served && engineLeft q

/-- What the slack of a head has fallen by when an engine takes it (R231). -/
def Cmd.fallen (q : Cmd) (now : Nat) : Nat := q.lost + (now - q.since) / 32

/-- A free engine takes the started head of least slack as it stands now, the earliest started among equals (R277). -/
def engineSelect (s : State) (peer dist qtr kind : Nat) : State :=
  let all := (quarterCmds s peer dist qtr).filter (fun q => q.work.engine == some kind)
  let slack (q : Cmd) : Nat := q.slack - q.fallen s.now
  if engineCount kind ≤ (all.filter Cmd.served).length then s
  else
    match all.filter Cmd.offers with
    | [] => s
    | q0 :: rest =>
      let q := rest.foldl (fun b q =>
        if slack q < slack b ∨ slack q = slack b ∧ q.startedAt < b.startedAt then q else b) q0
      s.setCmd { q with budget := pieceBytes, lost := q.fallen s.now }

end Sys2Proof.Machine
end

