-- ==== Sys2Proof/Machine/Csr.lean ====
section
/-! DEFINITION. The control registers (R43, R75 to R77, R96 to R98, R198, R255, R276, R310, R312, R330, R367). -/

namespace Sys2Proof.Machine

/-- A ranking register's word (R367). -/
def Rank.word (r : Rank) : Word :=
  BitVec.ofNat 64 (r.free % 256 * 2 ^ 32 + (r.temp % 65536).toNat * 2 ^ 16 + r.freq % 256 * 2 ^ 8
    + (if r.hot then 128 else 0) + r.grp % 64)

/-- A ranking register before its first sample: every island at its reset state and all its slots free (log entry 21, DESIGN CHOICE). -/
def Rank.reset (n : Nat) : Rank := ⟨n, 0, 76, false, 56⟩

/-- The n-th ranking register of the quarter of a core. -/
def thrank (s : State) (p : Place) (n : Nat) : Word :=
  (((mgetD (s.dev p.peer).ranks (coreDist p.core * 4 + coreQtr p.core) [])[n]?).getD (Rank.reset n)).word

/-- The value of a control register; none for an unallocated number (R43). -/
def csrRead (s : State) (p : Place) (t : Thread) (k : Core) (n : Nat) : Option Word :=
  let m := k.mat t.ctx
  let x := (s.ctx (t.ctxId p)).getD Ctx.new
  match n with
  | 0x000 => some t.tpc
  | 0x001 => some t.tcause
  | 0x002 => some t.tval
  | 0x003 => some t.tvec
  | 0x004 => some t.tstat
  | 0x008 => some t.loops.ls0
  | 0x009 => some t.loops.le0
  | 0x00A => some t.loops.lc0
  | 0x00B => some t.loops.ls1
  | 0x00C => some t.loops.le1
  | 0x00D => some t.loops.lc1
  | 0x010 => some t.shadow.ls0
  | 0x011 => some t.shadow.le0
  | 0x012 => some t.shadow.lc0
  | 0x013 => some t.shadow.ls1
  | 0x014 => some t.shadow.le1
  | 0x015 => some t.shadow.lc1
  | 0x018 => some t.wsp
  | 0x019 => some (zx t.wdep)
  | 0x01A => some t.region.rstart
  | 0x01B => some (zx t.region.rts)
  | 0x020 => some (zx t.slk)
  | 0x021 => some (zx t.slkdef)
  | 0x022 => some (if t.lateev then 1 else 0)
  | 0x023 => some (zx t.live)
  | 0x028 => some t.wid
  | 0x029 => some (BitVec.ofNat 64 t.ctx)
  | 0x02A => some (BitVec.ofNat 64 p.slot)
  | 0x02B => some (BitVec.ofNat 64 p.core)
  | 0x02C => some (BitVec.ofNat 64 p.peer)
  | 0x100 => some m.fmta
  | 0x101 => some m.fmtb
  | 0x102 => some m.fmtc
  | 0x103 => some m.scla
  | 0x104 => some m.sclb
  | 0x105 => some m.srndseed
  | 0x106 => some k.mseq
  | 0x107 => some (zx k.vshare)
  | 0x110 => some (zx m.ncnan)
  | 0x111 => some (zx m.ncovf)
  | 0x112 => some (zx m.ncunf)
  | 0x113 => some (zx m.ncinx)
  | 0x114 => some (zx m.ncscl)
  | 0x200 => some x.rtbase
  | 0x201 => some x.barb
  | 0x202 => some (zx x.pinb)
  | 0x203 => some (zx x.tol)
  | 0x204 => some (zx x.hthr)
  | 0x205 => some (zx x.lateCnt)
  | 0x300 => some (BitVec.ofNat 64 (s.dtime p.peer))
  | 0x301 => some (BitVec.ofNat 64 (s.dunc p.peer))
  | n => if 0x340 ≤ n ∧ n ≤ 0x36F then some (thrank s p (n - 0x340)) else none

/-- Every field of the register is read-only (R75, R77, R97). -/
def csrReadOnly (n : Nat) : Bool :=
  [0x019, 0x01A, 0x01B, 0x021, 0x028, 0x029, 0x02A, 0x02B, 0x02C, 0x106, 0x300, 0x301].contains n
    || (decide (0x340 ≤ n) && decide (n ≤ 0x36F))

/-- The read-only bits of a register that also has writable ones: DEPTH of TSTAT (R76). -/
def csrMixed (n : Nat) : Word := if n = 0x004 then 3 else 0

/-- The reserved bits of a writable register. DEDUCED: log entry 36. -/
def csrReserved (n : Nat) : Word :=
  match n with
  | 0x000 => 3
  | 0x001 => 0xFFFFFFFFFFFFFF00
  | 0x003 => 3
  | 0x004 => 0x00000000E0FFFEE4
  | 0x008 => 3
  | 0x009 => 3
  | 0x00B => 3
  | 0x00C => 3
  | 0x010 => 3
  | 0x011 => 3
  | 0x013 => 3
  | 0x014 => 3
  | 0x018 => 7
  | 0x020 => 0xFFFFFFFFFFFFF000
  | 0x022 => 0xFFFFFFFFFFFFFFFE
  | 0x023 => 0xFFFFFFFF00000000
  | 0x100 => 0xFFFFFFFF0C000080
  | 0x101 => 0xFFFFFFFF0C000080
  | 0x102 => 0xFFFFFFFF0C000080
  | 0x107 => 0xFFFFFFFFFFFFFFF0
  | 0x110 => 0xFFFFFFFFFFFF0000
  | 0x111 => 0xFFFFFFFFFFFF0000
  | 0x112 => 0xFFFFFFFFFFFF0000
  | 0x113 => 0xFFFFFFFFFFFF0000
  | 0x114 => 0xFFFFFFFFFFFF0000
  | 0x200 => 0xFFF
  | 0x201 => 0x1F8000
  | 0x202 => 0xFFFFFFFF00000000
  | 0x203 => 0xFFFFFFFF00000000
  | 0x204 => 0xFFFFFFFF00000000
  | 0x205 => 0xFFFFFFFF00000000
  | _ => 0

/-- A write of the register pins the region (R97). -/
def csrPins (n : Nat) : Bool :=
  (decide (0x100 ≤ n) && decide (n ≤ 0x107) && n != 0x106) || (decide (0x110 ≤ n) && decide (n ≤ 0x114))
    || (decide (0x200 ≤ n) && decide (n ≤ 0x205))

/-- A slot control register is written. -/
def Thread.setCsr (t : Thread) (n : Nat) (v : Word) : Thread :=
  match n with
  | 0x000 => { t with tpc := v }
  | 0x001 => { t with tcause := v }
  | 0x002 => { t with tval := v }
  | 0x003 => { t with tvec := v }
  | 0x004 => { t with tstat := v }
  | 0x008 => { t with loops := { t.loops with ls0 := v } }
  | 0x009 => { t with loops := { t.loops with le0 := v } }
  | 0x00A => { t with loops := { t.loops with lc0 := v } }
  | 0x00B => { t with loops := { t.loops with ls1 := v } }
  | 0x00C => { t with loops := { t.loops with le1 := v } }
  | 0x00D => { t with loops := { t.loops with lc1 := v } }
  | 0x010 => { t with shadow := { t.shadow with ls0 := v } }
  | 0x011 => { t with shadow := { t.shadow with le0 := v } }
  | 0x012 => { t with shadow := { t.shadow with lc0 := v } }
  | 0x013 => { t with shadow := { t.shadow with ls1 := v } }
  | 0x014 => { t with shadow := { t.shadow with le1 := v } }
  | 0x015 => { t with shadow := { t.shadow with lc1 := v } }
  | 0x018 => { t with wsp := v }
  | 0x020 => { t with slk := v.truncate 12 }
  | 0x022 => { t with lateev := v == 1 }
  | 0x023 => { t with live := v.truncate 32 }
  | _ => t

/-- A context control register is written. -/
def Ctx.setCsr (x : Ctx) (n : Nat) (v : Word) : Ctx :=
  match n with
  | 0x200 => { x with rtbase := v }
  | 0x201 => { x with barb := v }
  | 0x202 => { x with pinb := v.truncate 32 }
  | 0x203 => { x with tol := v.truncate 32 }
  | 0x204 => { x with hthr := v.truncate 32 }
  | 0x205 => { x with lateCnt := v.truncate 32 }
  | _ => x

/-- A control register is written (R96 step 5, R98): a core register when R61 says. DEDUCED: log entry 75. -/
def csrWrite (s : State) (p : Place) (t : Thread) (n : Nat) (v : Word) : State :=
  if n < 0x100 then s.updThread p (fun u => u.setCsr n v)
  else if n < 0x200 then
    s.updCore (coreOf p) (fun k => { k with lateCsr := k.lateCsr ++ [⟨t.ctx, n, v, k.cycle + 12, p.slot⟩] })
  else s.updCtx (t.ctxId p) (fun x => x.setCsr n v)

/-- A write instruction, its checks in the order of R96. -/
def csrSet (word : Word) (a : Reg) (csr : BitVec 13) (f : Word → Word → Word) (s : State) : Host.Outcome State Fault Refusal :=
  issue word [] (csrPins csr.toNat) (fun p t k s =>
    let n := csr.toNat
    match csrRead s p t k n with
    | none => .trap ⟨cIllegal, word⟩
    | some cr =>
      let new := f cr (readI k t a)
      if (isShared a || n == 0x107) && !s.ownsCore p t then .trap ⟨cShared, word⟩
      else if csrReadOnly n || new &&& csrMixed n != cr &&& csrMixed n then .trap ⟨cPerm, BitVec.ofNat 64 n⟩
      else if new &&& csrReserved n != 0 then .trap ⟨cCsrReserved, BitVec.ofNat 64 n⟩
      else .done (csrWrite s p t n new)) s

/-- CSRR (R96): ILLEGAL for an unallocated number comes before the bank of d (R41). DEDUCED: log entry 74. -/
def execCsrr (d : Reg) (csr : BitVec 13) (s : State) : Host.Outcome State Fault Refusal :=
  issue (wordOf (.csrr d csr)) [] (isShared d) (fun p t k s =>
    match csrRead s p t k csr.toNat with
    | none => .trap ⟨cIllegal, wordOf (.csrr d csr)⟩
    | some v =>
      if isShared d && !s.ownsCore p t then .trap ⟨cShared, wordOf (.csrr d csr)⟩
      else .done (s.writeReg p (ri d) v)) s

/-- CSRW (R96): new := a. -/
def execCsrw (a : Reg) (csr : BitVec 13) (s : State) : Host.Outcome State Fault Refusal :=
  csrSet (wordOf (.csrw a csr)) a csr (fun _ x => x) s

/-- CSRS (R96): new := CR OR a. -/
def execCsrs (a : Reg) (csr : BitVec 13) (s : State) : Host.Outcome State Fault Refusal :=
  csrSet (wordOf (.csrs a csr)) a csr (fun c x => c ||| x) s

/-- CSRC (R96): new := CR AND NOT a. -/
def execCsrc (a : Reg) (csr : BitVec 13) (s : State) : Host.Outcome State Fault Refusal :=
  csrSet (wordOf (.csrc a csr)) a csr (fun c x => c &&& ~~~x) s

end Sys2Proof.Machine
end

