-- ==== Sys2Proof/Machine/Numbers.lean ====
section
/-! DEFINITION. The formats of the matrix unit: what a code means, how a value is rounded into a format and which counter
that adds to, scales, and one MMA step (R310, R311, R319 to R329, R331). -/

namespace Sys2Proof.Machine

/-- The fields of a format register (R310). -/
structure Fmt where
  kind : Nat
  rnd : Nat
  blk : Nat
  sck : Nat
  sub : Bool
  pol : Nat
  bias : Int
  m : Nat
  e : Nat
  s : Bool
  deriving DecidableEq, Repr

/-- A format register's fields. -/
def fmtFields (v : Word) : Fmt where
  kind := wbits v 28 4
  rnd := wbits v 24 2
  blk := wbits v 22 2
  sck := wbits v 19 3
  sub := wbit v 18
  pol := wbits v 16 2
  bias := signed 8 (wbits v 8 8)
  m := wbits v 4 3
  e := wbits v 1 3
  s := wbit v 0

/-- The value is valid for the register: 0 FMTA, 1 FMTB, 2 FMTC (R310). -/
def fmtValid (n : Nat) (v : Word) : Bool :=
  let f := fmtFields v
  let w := f.e + f.m + (if f.s then 1 else 0)
  decide (f.kind ≤ 3) && f.rnd != 3 && decide (f.blk ≤ 1) && decide (f.sck ≤ 3)
    && (f.kind == 0 || wbits v 0 19 == 0)
    && (f.kind != 0 || (w != 0 && decide (w ≤ 8) && (if f.pol = 3 then f.e == 0 else f.e != 0)))
    && (n != 2 || f.sck == 0)
    && v &&& 0xFFFFFFFF0C000080 == 0

/-- The format as its codes are read: the standard ones in the fields of narrow ones (R319), and an IEEE-like format with
no mantissa as POL 1 (R320). -/
def Fmt.eff (f : Fmt) : Fmt :=
  let std (e m : Nat) (bias : Int) : Fmt := { f with sub := true, pol := 0, bias := bias, m := m, e := e, s := true }
  match f.kind with
  | 0 => if f.pol = 0 ∧ f.m = 0 then { f with pol := 1 } else f
  | 1 => std 5 10 15
  | 2 => std 8 7 127
  | _ => std 8 23 127

/-- Bytes of an element, which is also the number of operand slots of a tile (R311, R336). -/
def Fmt.size (f : Fmt) : Nat := if f.kind = 0 then 1 else if f.kind = 3 then 4 else 2

/-- Values that share a scale (R310, R326). -/
def Fmt.block (f : Fmt) : Nat := if f.blk = 1 then 16 else 32

/-- The format has a scale per block. -/
def Fmt.blocked (f : Fmt) : Bool := f.sck == 1 || f.sck == 2

/-- Bits of a code. -/
def Fmt.width (f : Fmt) : Nat := f.e + f.m + (if f.s then 1 else 0)

/-- FP32 as a format of the unit. -/
def fmt32 : Fmt := (fmtFields 0x30000000).eff

/-- The sign bit of a code, where the format has one. -/
def Fmt.sign (f : Fmt) (neg : Bool) : Nat := if f.s && neg then 2 ^ (f.e + f.m) else 0

/-- The value of a code of an effective format (R311, R319, R320). -/
def Fmt.val (f : Fmt) (code : Nat) : Val :=
  let c := code % 2 ^ f.width
  let neg := f.s && c / 2 ^ (f.e + f.m) == 1
  if f.pol = 3 then
    let n : Int := if f.s then signed (f.m + 1) c else c
    .fin (decide (n < 0)) n.natAbs (-f.bias)
  else
    let ex := c / 2 ^ f.m % 2 ^ f.e
    let m := c % 2 ^ f.m
    if f.pol = 1 ∧ c = 2 ^ f.width - 1 then .nan
    else if f.pol = 0 ∧ ex = 2 ^ f.e - 1 then (if m = 0 then .inf neg else .nan)
    else if ex = 0 then .fin neg (if f.sub then m else 0) (1 - f.bias - f.m)
    else .fin neg (2 ^ f.m + m) ((ex : Int) - f.bias - f.m)

/-- The code of the NaN that the device writes (R321); the substitute under POL 2 and 3 (R323). -/
def Fmt.nanCode (f : Fmt) : Nat :=
  match f.pol with
  | 0 => (2 ^ f.e - 1) * 2 ^ f.m + 2 ^ (f.m - 1)
  | 1 => 2 ^ f.width - 1
  | _ => 0

/-- The largest finite magnitude of a sign, as a code without its sign bit, or as an integer under POL 3 (R320). -/
def Fmt.top (f : Fmt) (neg : Bool) : Nat :=
  match f.pol with
  | 0 => (2 ^ f.e - 1) * 2 ^ f.m - 1
  | 1 => 2 ^ (f.e + f.m) - (if f.s && !neg then 1 else 2)
  | 2 => 2 ^ (f.e + f.m) - 1
  | _ => 2 ^ f.m - (if f.s && neg then 0 else 1)

/-- What an element result adds to (R331). -/
inductive Tally where
  | none | nan | ovf | unf | inx | scl
  deriving DecidableEq, Repr

/-- The code of a magnitude: with the sign, or as an integer under POL 3. -/
def Fmt.code (f : Fmt) (neg : Bool) (n : Nat) : Nat :=
  if f.pol = 3 then (if neg && f.s then (2 ^ f.width - n) % 2 ^ f.width else n) else f.sign neg + n

/-- A magnitude rounded, with an unbounded exponent and with subnormals, and whether that was inexact (R322, R324). -/
def Fmt.round (f : Fmt) (rnd : Rnd) (mant : Nat) (exp : Int) (sticky : Bool) : Nat × Bool :=
  if f.pol = 3 then
    if -f.bias ≤ exp then (mant * 2 ^ (exp + f.bias).toNat, sticky)
    else
      let k := (-f.bias - exp).toNat
      let q := mant / 2 ^ k
      (if roundsUp rnd q (mant % 2 ^ k) (2 ^ k) sticky then q + 1 else q, mant % 2 ^ k != 0 || sticky)
  else
    let emin : Int := 1 - f.bias - f.m
    let r := roundTo rnd (f.m + 1) emin mant exp sticky
    (if r.1 = 0 then 0 else (r.2.1 - emin).toNat * 2 ^ f.m + r.1, r.2.2)

/-- A finite non-zero value into an effective format, with its counter (R322 to R324, R331). -/
def Fmt.encodeFin (f : Fmt) (rnd : Rnd) (neg : Bool) (mant : Nat) (exp : Int) (sticky : Bool) : Nat × Tally :=
  let down := f.round .rtz mant exp sticky
  let beyond := decide (f.top neg < down.1) || (down.1 == f.top neg && down.2)
  let rnd' : Rnd := match rnd with
    | .sto u => if beyond then .rne else .sto u
    | r => r
  let r := f.round rnd' mant exp sticky
  if f.top neg < r.1 ∨ (rnd = .rtz ∧ beyond) then
    (if rnd = .rtz ∨ 2 ≤ f.pol then f.code neg (f.top neg)
      else if f.pol = 0 then f.sign neg + (2 ^ f.e - 1) * 2 ^ f.m else f.nanCode, .ovf)
  else if r.1 = 0 ∨ (f.pol ≠ 3 ∧ !f.sub ∧ r.1 < 2 ^ f.m) then (if f.pol = 3 then 0 else f.sign neg, .unf)
  else (f.code neg r.1, if r.2 && f.kind == 0 then .inx else .none)

/-- A value into an effective format, with its counter (R322 to R324, R331); `sticky` marks a part below the mantissa.
DEDUCED: log entry 39. -/
def Fmt.encode (f : Fmt) (rnd : Rnd) (v : Val) (sticky : Bool) : Nat × Tally :=
  match v with
  | .nan => (f.nanCode, if 2 ≤ f.pol then .nan else .none)
  | .inf neg =>
    if neg && !f.s then (f.nanCode, .nan)
    else
      match f.pol with
      | 0 => (f.sign neg + (2 ^ f.e - 1) * 2 ^ f.m, .none)
      | 1 => (f.nanCode, .nan)
      | _ => (f.code neg (f.top neg), .nan)
  | .fin neg m e =>
    if m = 0 then (if f.pol = 3 then 0 else f.sign neg, .none)
    else if neg && !f.s then (f.nanCode, .ovf)
    else f.encodeFin rnd neg m e sticky

/-- The rounding of a format for an element index (R322, R325). -/
def Fmt.rounding (f : Fmt) (seed : Word) (i : Nat) : Rnd :=
  if f.rnd = 0 then .rne else if f.rnd = 1 then .rtz else .sto (stochastic seed i)

/-- A quotient into an effective format, rounded once (R327, R342). -/
def Fmt.quot (f : Fmt) (rnd : Rnd) (x y : Val) : Nat × Tally :=
  match x, y with
  | .nan, _ => f.encode rnd .nan false
  | _, .nan => f.encode rnd .nan false
  | .inf _, .inf _ => ((f.encode rnd .nan false).1, .nan)
  | .inf a, .fin n _ _ => f.encode rnd (.inf (a != n)) false
  | .fin n _ _, .inf b => f.encode rnd (.fin (n != b) 0 0) false
  | .fin n1 m1 e1, .fin n2 m2 e2 =>
    if m2 = 0 then
      if m1 = 0 then ((f.encode rnd .nan false).1, .nan) else f.encode rnd (.inf (n1 != n2)) false
    else
      let k := 96 + Nat.log2 m2
      let q := m1 * 2 ^ k / m2
      f.encode rnd (.fin (n1 != n2) q (e1 - e2 - k)) (m1 * 2 ^ k % m2 != 0)

/-! ## Scales (R326, R327) -/

/-- S1 E4 M3, bias 7, with subnormals: the scale format of SCK 2. -/
def fmtScale : Fmt := (fmtFields 0x00050739).eff

/-- The value of a scale byte. -/
def scaleByte (sck x : Nat) : Val :=
  if sck = 1 then (if x = 0xFF then .nan else .fin false 1 ((x : Int) - 127))
  else if x % 128 = 0x7F then .nan else fmtScale.val x

/-- `x ≤ y` for magnitudes: mantissas with exponents. -/
def magLe (x y : Nat × Int) : Bool :=
  let e := min x.2 y.2
  decide (x.1 * 2 ^ (x.2 - e).toNat ≤ y.1 * 2 ^ (y.2 - e).toNat)

/-- The largest magnitude among finite values. -/
def magMax (vs : List Val) : Nat × Int :=
  vs.foldl (fun b v => match v with
    | .fin _ m e => if magLe (m, e) b then b else (m, e)
    | _ => b) (0, 0)

/-- The scale that a block of values gets: its byte, its value, and whether it was clamped (R327). The scale times L is at
least a. For SCK 2 a choice is clamped where a ÷ L lies below the smallest positive value, 2^-9, or above the largest.
DEDUCED: log entry 39. -/
def chooseScale (f : Fmt) (vs : List Val) : Nat × Val × Bool :=
  let a := magMax vs
  let l : Nat × Int := match f.val (f.code false (f.top false)) with
    | .fin _ m e => (m, e)
    | _ => (0, 0)
  let fits (v : Val) : Bool := match v with
    | .fin _ m e => magLe a (m * l.1, e + l.2)
    | _ => false
  if a.1 = 0 then
    if f.sck = 1 then (0x7F, scaleByte 1 0x7F, false) else (0x38, scaleByte 2 0x38, false)
  else if f.sck = 1 then
    match (List.range 0xFF).find? (fun b => fits (scaleByte 1 b)) with
    | some b => (b, scaleByte 1 b, b == 0 && fits (.fin false 1 (-128)))
    | none => (0xFE, scaleByte 1 0xFE, true)
  else
    match (List.range 0x7E).find? (fun j => fits (scaleByte 2 (j + 1))) with
    | some j => (j + 1, scaleByte 2 (j + 1), j == 0 && !magLe (l.1, l.2 - 9) a)
    | none => (0x7E, scaleByte 2 0x7E, true)

/-! ## One MMA step (R328, R329, R331) -/

/-- The exact sum of the products of a block; it starts from −0, the identity of exact addition. DEDUCED: log entry 39. -/
def blockSum (xs ys : List Val) : Val := (xs.zip ys).foldl (fun p e => valAdd p (valMul e.1 e.2)) (.fin true 0 0)

/-- A value is NaN. -/
def Val.isNan : Val → Bool
  | .nan => true
  | _ => false

/-- A value is finite. -/
def Val.isFin : Val → Bool
  | .fin .. => true
  | _ => false

/-- A block of an element: its scaled sum rounded to FP32, and the counter that it asks for. -/
def blockRound (xs ys : List Val) (sa sb : Val) : Nat × Tally :=
  let p := valMul (valMul (blockSum xs ys) sa) sb
  let fed := xs.any Val.isNan || ys.any Val.isNan || sa.isNan || sb.isNan
  match p with
  | .nan => (fp32.nan, if fed then .none else .nan)
  | p => fmt32.encode .rne p false

/-- A block is added to the accumulator: the new accumulator, and the counters asked for. -/
def blockAdd (acc : Nat) (b : Nat × Tally) : Nat × List Tally :=
  let r := fpAdd fp32 acc b.1
  let x := fpVal fp32 acc
  let y := fpVal fp32 b.1
  let z := fpVal fp32 r
  let t := if z.isNan && !x.isNan && !y.isNan then [Tally.nan]
    else if !z.isFin && !z.isNan && x.isFin && y.isFin then [b.2, Tally.ovf] else [b.2]
  (r, t)

/-- The first counter of R331 that applies among those asked for. -/
def firstTally (ts : List Tally) : Tally :=
  if ts.contains .nan then .nan else if ts.contains .ovf then .ovf else if ts.contains .unf then .unf else .none

/-- An element of a step: `scales` gives the pair of scales of the block that starts at k. -/
def elemStep (bs : Nat) (xs ys : List Val) (scales : Nat → Val × Val) (acc : Nat) : Nat × Tally :=
  let r := (List.range (32 / bs)).foldl (fun (s : Nat × List Tally) t =>
    let k := t * bs
    let b := blockRound ((xs.drop k).take bs) ((ys.drop k).take bs) (scales k).1 (scales k).2
    let n := blockAdd s.1 b
    (n.1, s.2 ++ n.2)) (acc, [])
  (r.1, firstTally r.2)

end Sys2Proof.Machine
end

