-- ==== Sys2Proof/Machine/Matrix.lean ====
section
/-! DEFINITION. The matrix instructions at their issue: claims, formats, the checks and the buffering of commands
(R310 to R318, R333 to R345). What the commands do is in MatrixUnit.lean. -/

namespace Sys2Proof.Machine

/-! ## Codes (R318, R346) -/

def sClaimBusy : Word := 0x7C
def sClaimQuota : Word := 0x7D
def sBadFormat : Word := 0x7E
def sNoClaim : Word := 0x7F
def cMatrixClaim : Nat := 0x1A
def cMatrixFormat : Nat := 0x1B
def cMatrixArg : Nat := 0x1C

/-- The word of an M form (R39). -/
def wordM (cd cs oa ob fn : Nat) : Word :=
  BitVec.ofNat 64 (0x60 * 2 ^ 25 + cd * 2 ^ 22 + cs * 2 ^ 19 + oa * 2 ^ 14 + ob * 2 ^ 9 + fn)

/-- The word of a matrix X form. -/
def wordMx (op : Nat) (d a b : Reg) (la : BitVec 4) (fn : Nat) : Word := wordX op d.toNat a.toNat b.toNat la.toNat fn

/-! ## Claims (R313, R337) -/

/-- The thread holds a claim of every number. -/
def claimed (claims : Map Nat Claim) (uid : Nat) (numbers : List Nat) : Bool :=
  numbers.all (fun n => match mget claims n with
    | some c => c.uid == uid && c.releasing.isNone
    | none => false)

/-- The thread may take the number: it is free, or it is its own. -/
def claimable (claims : Map Nat Claim) (uid n : Nat) : Bool :=
  match mget claims n with
  | some c => c.uid == uid
  | none => true

/-- Numbers that threads of a context hold, and those that QUIT left to an MGEMM (R315). -/
def heldClaims (claims : Map Nat Claim) (ctx : Nat) : Nat :=
  (claims.filter (fun e => e.2.ctx == ctx && (e.2.releasing.isNone || e.2.kept))).length

/-- Numbers that a claim would add. DEDUCED: log entry 38. -/
def newClaims (claims : Map Nat Claim) (uid : Nat) (numbers : List Nat) : List Nat :=
  numbers.filter (fun n => !claimed claims uid [n])

/-- Numbers are claimed. DEDUCED: log entry 38. -/
def putClaims (claims : Map Nat Claim) (t : Thread) (numbers : List Nat) : Map Nat Claim :=
  numbers.foldl (fun m n => mset m n ⟨t.uid, t.ctx, none, false⟩) claims

/-- The share of a resource on the core (R383). -/
def coreShare (s : State) (p : Place) (t : Thread) (amount : Block → Nat) : Nat :=
  match s.ctx (t.ctxId p) with
  | some x => x.share p.core (amount x.block)
  | none => 0

/-- MCLAIM (R313): all or none, at issue. -/
def execMclaim (d a b : Reg) (la : BitVec 4) (s : State) : Host.Outcome State Fault Refusal :=
  issue (wordMx 0x61 d a b la 0) [ri a, ri b, ri d] (isShared d) (fun p t k s =>
    let x := readI k t a
    let y := readI k t b
    if wbits x 32 32 ≠ 0 ∨ wbits y 4 60 ≠ 0 then give s p d la sBadFormat
    else
      let slots := maskBits x.toNat 32
      let tiles := maskBits y.toNat 4
      if !slots.all (claimable k.oclaims t.uid) || !tiles.all (claimable k.tclaims t.uid) then give s p d la sClaimBusy
      else
        let ns := newClaims k.oclaims t.uid slots
        let nt := newClaims k.tclaims t.uid tiles
        if coreShare s p t (·.oslots) < heldClaims k.oclaims t.ctx + ns.length
            ∨ coreShare s p t (·.tiles) < heldClaims k.tclaims t.ctx + nt.length then give s p d la sClaimQuota
        else
          let fresh (claims : Map Nat Claim) (n : Nat) : Bool := (mget claims n).isNone
          give (s.updCore (coreOf p) (fun k =>
            { k with oclaims := putClaims k.oclaims t ns, tclaims := putClaims k.tclaims t nt
                     oslots := k.oslots.filter (fun e => !(ns.contains e.1 && fresh k.oclaims e.1))
                     tiles := k.tiles.filter (fun e => !(nt.contains e.1 && fresh k.tclaims e.1)) })) p d la 0) s

/-- A command is buffered and its status given (R314, R337, R342). -/
def bufferGive (s : State) (p : Place) (t : Thread) (d : Reg) (la : BitVec 4) (work : Work) : Res :=
  match bufferCmd s p t 5 0 work with
  | .done s' => give s' p d la 0
  | r => r

/-- MREL (R337): the release is buffered. -/
def execMrel (d a b : Reg) (la : BitVec 4) (s : State) : Host.Outcome State Fault Refusal :=
  issue (wordMx 0x61 d a b la 1) [ri a, ri b, ri d] (isShared d) (fun p t k s =>
    let x := readI k t a
    let y := readI k t b
    if wbits x 32 32 ≠ 0 ∨ wbits y 4 60 ≠ 0 then give s p d la sBadFormat
    else if !claimed k.oclaims t.uid (maskBits x.toNat 32) || !claimed k.tclaims t.uid (maskBits y.toNat 4) then
      give s p d la sNoClaim
    else bufferGive s p t d la (.mrel x.toNat y.toNat)) s

/-! ## Format and scale registers -/

/-- MFMT (R313): a write pins the region (R312); a refusal changes nothing. -/
def execMfmt (d a b : Reg) (la : BitVec 4) (s : State) : Host.Outcome State Fault Refusal :=
  issue (wordMx 0x61 d a b la 2) [ri a, ri b, ri d] (isShared d) (fun p t k s =>
    let x := readI k t a
    let n := (readI k t b).toNat
    if 3 ≤ n ∨ !fmtValid n x then give s p d la sBadFormat
    else issuePinned s p t (fun p t _ s => give (csrWrite s p t (0x100 + n) x) p d la 0)) s

/-- MSCL (R313): its address is checked as a one-byte read. -/
def execMscl (d a b : Reg) (la : BitVec 4) (s : State) : Host.Outcome State Fault Refusal :=
  issue (wordMx 0x61 d a b la 3) [ri a, ri b, ri d] (isShared d) (fun p t k s =>
    let x := readI k t a
    let n := (readI k t b).toNat
    match checkAt s p t x 1 1 needR with
    | some c => .trap c
    | none =>
      if 2 ≤ n then give s p d la sBadFormat
      else issuePinned s p t (fun p t _ s => give (csrWrite s p t (0x103 + n) x) p d la 0)) s

/-! ## Commands of one tile (R334, R338 to R340) -/

/-- The first check of R334 that fails: the address, the operands, the claims, the formats. -/
def tileChecks (s : State) (p : Place) (t : Thread) (k : Core) (word : Word) (addr : Option (Word × Nat × Nat))
    (arg : Option Nat) (work : Work) (fmts : List Nat) : Option Trap :=
  let m := k.mat t.ctx
  let reg (n : Nat) : Word := if n = 0 then m.fmta else if n = 1 then m.fmtb else m.fmtc
  let claim := claimed k.oclaims t.uid work.slots && claimed k.tclaims t.uid work.tiles
  (((addr.bind (fun e => checkAt s p t e.1 e.2.1 e.2.1 e.2.2)).or (arg.map (fun v => ⟨cMatrixArg, BitVec.ofNat 64 v⟩))).or
    (if claim then none else some ⟨cMatrixClaim, word⟩)).or
    ((fmts.find? (fun n => !fmtValid n (reg n))).map (fun n => ⟨cMatrixFormat, BitVec.ofNat 64 (0x100 + n)⟩))

/-- The load of a tile: MLDT and MTRN. -/
def loadTile (word : Word) (o a b : Reg) (work : Word → Word → Work) (s : State) : Host.Outcome State Fault Refusal :=
  issue word [ri a, ri b] false (fun p t k s =>
    let y := readI k t b
    let code := wbits y 32 2
    let es := if code = 3 then 1 else 2 ^ code
    let arg := if code = 3 ∨ wbits y 34 30 ≠ 0 ∨ wbits y 0 32 % es ≠ 0 then some y.toNat
      else if o.toNat % es ≠ 0 then some o.toNat else none
    match tileChecks s p t k word (some (readI k t a, es, needR)) arg (work (readI k t a) y) [] with
    | some c => .trap c
    | none => bufferCmd s p t 5 0 (work (readI k t a) y)) s

/-- MLDT (R338). -/
def execMldt (o : BitVec 5) (a b : Reg) (s : State) : Host.Outcome State Fault Refusal :=
  loadTile (wordX 0x61 o.toNat a.toNat b.toNat 0 4) (o.zeroExtend 6) a b (.mldt o.toNat) s

/-- MTRN (R338). -/
def execMtrn (o : BitVec 5) (a b : Reg) (s : State) : Host.Outcome State Fault Refusal :=
  loadTile (wordX 0x61 o.toNat a.toNat b.toNat 0 5) (o.zeroExtend 6) a b (.mtrn o.toNat) s

/-- MRD (R339). -/
def execMrd (c : BitVec 2) (a b : Reg) (s : State) : Host.Outcome State Fault Refusal :=
  let word := wordX 0x61 c.toNat a.toNat b.toNat 0 6
  issue word [ri a, ri b] false (fun p t k s =>
    let m := k.mat t.ctx
    let y := readI k t b
    let es := fmtSlots m.fmtc
    let arg := if wbits y 32 32 ≠ 0 ∨ y.toNat % es ≠ 0 then some y.toNat else none
    let work : Work := .mrd c.toNat (readI k t a) y m.fmtc m.srndseed
    match tileChecks s p t k word (some (readI k t a, es, needW)) arg work [2] with
    | some c => .trap c
    | none => bufferCmd s p t 5 0 work) s

/-- A tile product: MMA and MMAZ. -/
def tileProduct (word : Word) (cd : Nat) (cs : Option Nat) (oa ob : Nat) (s : State) : Host.Outcome State Fault Refusal :=
  issue word [] false (fun p t k s =>
    let m := k.mat t.ctx
    let arg := if oa % fmtSlots m.fmta ≠ 0 then some oa else if ob % fmtSlots m.fmtb ≠ 0 then some ob else none
    let work : Work := .mma cd cs oa ob m.fmta m.fmtb m.scla m.sclb
    match tileChecks s p t k word none arg work [0, 1] with
    | some c => .trap c
    | none => bufferCmd s p t 5 0 work) s

/-- MMA (R340). -/
def execMma (cd cs : BitVec 3) (oa ob : BitVec 5) (s : State) : Host.Outcome State Fault Refusal :=
  tileProduct (wordM cd.toNat cs.toNat oa.toNat ob.toNat 0) cd.toNat (some cs.toNat) oa.toNat ob.toNat s

/-- MMAZ (R340). -/
def execMmaz (cd : BitVec 3) (oa ob : BitVec 5) (s : State) : Host.Outcome State Fault Refusal :=
  tileProduct (wordM cd.toNat 0 oa.toNat ob.toNat 1) cd.toNat none oa.toNat ob.toNat s

/-- MZERO (R340). -/
def execMzero (cd : BitVec 3) (s : State) : Host.Outcome State Fault Refusal :=
  let word := wordM cd.toNat 0 0 0 2
  issue word [] false (fun p t k s =>
    match tileChecks s p t k word none none (.mzero cd.toNat) [] with
    | some c => .trap c
    | none => bufferCmd s p t 5 0 (.mzero cd.toNat)) s

/-! ## Macro-ops (R314, R342) -/

/-- MCVT (R342). -/
def execMcvt (d a b : Reg) (la : BitVec 4) (s : State) : Host.Outcome State Fault Refusal :=
  issue (wordMx 0x61 d a b la 7) [ri a, ri b, ri d] (isShared d) (fun p t k s =>
    let m := k.mat t.ctx
    let x := readI k t a
    let n := (readI k t b).toNat
    let fmt := if n = 0 then m.fmta else if n = 1 then m.fmtb else m.fmtc
    match checkAt s p t x 64 64 needR with
    | some c => .trap c
    | none =>
      if 3 ≤ n ∨ !fmtValid n fmt then give s p d la sBadFormat
      else bufferGive s p t d la (.mcvt x fmt m.srndseed)) s

/-- MGEMM (R314). -/
def execMgemm (d a b : Reg) (la : BitVec 4) (s : State) : Host.Outcome State Fault Refusal :=
  issue (wordMx 0x62 d a b la 0) [ri a, ri b, ri d] (isShared d) (fun p t k s =>
    let m := k.mat t.ctx
    let x := readI k t a
    let y := readI k t b
    let oa := wbits y 2 5
    let ob := wbits y 7 5
    let work : Work := .mgemm x (wbits y 0 2) oa ob m.fmta m.fmtb m.fmtc m.scla m.sclb m.srndseed
    let bad := wbits y 12 52 != 0 || !fmtValid 0 m.fmta || !fmtValid 1 m.fmtb || !fmtValid 2 m.fmtc
      || oa % fmtSlots m.fmta != 0 || ob % fmtSlots m.fmtb != 0
      || (slotsFrom oa (fmtSlots m.fmta)).any (fun n => (slotsFrom ob (fmtSlots m.fmtb)).contains n)
    match checkAt s p t x 64 64 needR with
    | some c => .trap c
    | none =>
      if bad then give s p d la sBadFormat
      else if !claimed k.oclaims t.uid work.slots || !claimed k.tclaims t.uid work.tiles then give s p d la sNoClaim
      else bufferGive s p t d la work) s

/-! ## Queries, bursts, waits (R317, R344, R345) -/

/-- A mask with the bits of some numbers. -/
def maskOf (numbers : List Nat) (shift : Nat) : Nat := (numbers.eraseDups.map (fun n => 2 ^ (n + shift))).sum

/-- MSEQQ (R344). -/
def execMseqq (d a : Reg) (la : BitVec 4) (s : State) : Host.Outcome State Fault Refusal :=
  issue (wordX 0x62 d.toNat a.toNat 0 la.toNat 1) [ri a, ri d] (isShared d) (fun p t k s =>
    let cmds := k.cmds.filter (fun q => q.queue == 5 && !q.work.isRelease)
    let mine (claims : Map Nat Claim) : List Nat :=
      (claims.filter (fun e => e.2.uid == t.uid && e.2.releasing.isNone)).map (·.1)
    let free (claims : Map Nat Claim) (n : Nat) : List Nat := (List.range n).filter (fun j => (mget claims j).isNone)
    let left (claims : Map Nat Claim) (amount : Block → Nat) : Nat := coreShare s p t amount - heldClaims claims t.ctx
    let v : Word := match (readI k t a).toNat with
      | 0 => BitVec.ofNat 64 (cmds.filter (fun q => q.uid == t.uid)).length
      | 1 => BitVec.ofNat 64 cmds.length
      | 2 => BitVec.ofNat 64 (maskOf (mine k.oclaims) 0 + maskOf (mine k.tclaims) 32)
      | 3 => BitVec.ofNat 64 (maskOf (free k.oclaims 32) 0 + maskOf (free k.tclaims 4) 32)
      | 4 => BitVec.ofNat 64 (left k.oclaims (·.oslots) % 2 ^ 32 + left k.tclaims (·.tiles) % 2 ^ 32 * 2 ^ 32)
      | _ => 0xFFFFFFFFFFFFFFFF
    give s p d la v) s

/-- MBURST (R345): a declared burst warms the unit and ends a ramp-down; n = 0 ends the declaration. DESIGN CHOICE: log entry 8,
that n = 0 begins no ramp-down. -/
def execMburst (a : Reg) (s : State) : Host.Outcome State Fault Refusal :=
  issue (wordX 0x62 0 a.toNat 0 0 2) [ri a] false (fun p t k s =>
    let n := (readI k t a).toNat % 2 ^ 16
    .done (s.updCore (coreOf p) (fun k =>
      { k with burst := n, burstAt := k.cycle, rampAt := if n = 0 then k.rampAt else none }))) s

/-- MWAIT (R317): it stalls while a matrix command of the slot's committed regions has not completed. -/
def execMwait (s : State) : Host.Outcome State Fault Refusal :=
  issue (wordX 0x62 0 0 0 0 3) [] false (fun _ t k s =>
    if k.cmds.any (fun q => q.uid == t.uid && q.queue == 5 && !q.open_) then .stall s else .done s) s

end Sys2Proof.Machine
end

