-- ==== Sys2Proof/Machine/MatrixUnit.lean ====
section
/-! DEFINITION. What a matrix command does when it runs: tile loads, products, drains, the sequencer of MGEMM and the
conversions of MCVT (R315, R316, R326, R330, R336, R338 to R340, R342, R343). -/

namespace Sys2Proof.Machine

/-! ## Slots, tiles and counters -/

/-- The bytes of `n` operand slots (R336). -/
def Core.operand (k : Core) (o n : Nat) : List Byte :=
  (slotsFrom o n).flatMap (fun j => mgetD k.oslots j (List.replicate 1024 0))

/-- Bytes are put into operand slots, 1024 in each. -/
def Core.putOperand (k : Core) (o : Nat) (bs : List Byte) : Core :=
  (List.range (bs.length / 1024)).foldl (fun k j =>
    { k with oslots := mset k.oslots (o + j) ((bs.drop (1024 * j)).take 1024) }) k

/-- An accumulator tile. -/
def Core.tile (k : Core) (c : Nat) : List (BitVec 32) := mgetD k.tiles c (List.replicate 1024 0)

/-- One event is counted; a counter stops at 0xFFFF (R330, R331). -/
def MatRegs.count (m : MatRegs) (t : Tally) : MatRegs :=
  let up (n : BitVec 16) : BitVec 16 := if n = 0xFFFF then n else n + 1
  match t with
  | .none => m
  | .nan => { m with ncnan := up m.ncnan }
  | .ovf => { m with ncovf := up m.ncovf }
  | .unf => { m with ncunf := up m.ncunf }
  | .inx => { m with ncinx := up m.ncinx }
  | .scl => { m with ncscl := up m.ncscl }

/-- The writes of a context's counters that take effect by this cycle are applied (R61, R98, R331). -/
def Core.applyCounters (k : Core) (ctx : Nat) : Core :=
  let due (w : LateCsr) : Bool :=
    w.ctx == ctx && decide (0x110 ≤ w.csr) && decide (w.csr ≤ 0x114) && decide (w.cycle ≤ k.cycle)
  let ordered := inOrder (fun a b => decide (a.cycle < b.cycle ∨ a.cycle = b.cycle ∧ a.slot ≤ b.slot)) (k.lateCsr.filter due)
  { ordered.foldl (fun k w => k.setCsr w.ctx w.csr w.value) k with lateCsr := k.lateCsr.filter (fun w => !due w) }

/-- The events of a command are counted in the set of its context on the core, behind a write of a counter that takes effect in
the same cycle (R331). DEDUCED: log entry 39. -/
def countAll (s : State) (q : Cmd) (ts : List Tally) : State :=
  s.updCore q.core (fun k =>
    let k := k.applyCounters q.ctx.id
    { k with mregs := mset k.mregs q.ctx.id (ts.foldl MatRegs.count (k.mat q.ctx.id)) })

/-! ## Reads (R225, R326, R338) -/

/-- A read that a command makes: address, bytes, and whether they must be scratch of the context (R338). -/
structure Need where
  va : Word
  n : Nat
  scratch : Bool
  deriving DecidableEq, Repr

/-- The context-physical place of bytes of scratch that a command may access; PERM for any other memory. -/
def scratchAt (s : State) (q : Cmd) (va : Word) (n need : Nat) : Except CmdGot Nat :=
  match cmdPlace s q va n n need with
  | .fault c => .error (.bad c.code)
  | .absent page => .error (.absent page)
  | .ok l => if saKind l.ca = 3 then .ok l.ca else .error (.bad cPerm)

/-- What a read brings. -/
def needGet (s : State) (q : Cmd) (d : Need) : CmdGot :=
  match (if d.scratch then scratchAt s q d.va d.n needR else .ok 0) with
  | .error e => e
  | .ok _ => cmdGet s q d.va d.n d.n

/-- Reads are made in order, until one brings nothing. -/
def takeNeeds (s : State) (q : Cmd) : List Need → Cmd × CmdGot
  | [] => (q, .ok [])
  | d :: ds =>
    match needGet s q d with
    | .ok bs => takeNeeds s { q.took d.va d.n with got := q.got ++ [bs] } ds
    | r => (q, r)

/-- A number as an address part. -/
def offW (n : Nat) : Word := BitVec.ofNat 64 n

/-- The addresses of a tile's elements by row and column. -/
def tileAddrs (f : Nat → Nat → Word) : List Word := (List.range 32).flatMap (fun r => (List.range 32).map (fun c => f r c))

/-- The reads of a tile of `es`-byte elements, by row and column. -/
def tileNeeds (es : Nat) (f : Nat → Nat → Word) : List Need := (tileAddrs f).map (fun va => ⟨va, es, true⟩)

/-! ## Scales (R326, R340) -/

/-- The reads of the scales of a step for one operand, by row or column and by block of the operand: a tensor has one. -/
def scaleNeeds (f : Fmt) (base : Word) (addr : Nat → Nat → Nat) : List Need :=
  if f.sck = 0 then []
  else if f.sck = 3 then [⟨base, 4, false⟩]
  else (List.range 32).flatMap (fun x => (List.range (32 / f.block)).map (fun t => ⟨base + offW (addr x t), 1, false⟩))

/-- The scales that were read, by row or column and by block; none is 1. -/
def scaleGrid (f : Fmt) (bss : List (List Byte)) (x t : Nat) : Val :=
  if f.sck = 0 then .fin false 1 0
  else if f.sck = 3 then fpVal fp32 (leNat (bss.headD []))
  else scaleByte f.sck (leNat (bss[x * (32 / f.block) + t]?.getD []))

/-! ## A step (R328) -/

/-- The values of a tile's elements. -/
def tileVals (f : Fmt) (bs : List Byte) : List Val := (List.range 1024).map (fun i => f.val (leAt bs (f.size * i) f.size))

/-- The block size of a step (R328). -/
def stepBlock (fa fb : Fmt) : Nat := if (fa.blocked ∧ fa.blk = 1) ∨ (fb.blocked ∧ fb.blk = 1) then 16 else 32

/-- One step over whole tiles: the accumulator and what each element counts. -/
def tileStep (fa fb : Fmt) (abytes bbytes : List Byte) (sa sb : Nat → Nat → Val) (acc : List (BitVec 32)) :
    List (BitVec 32 × Tally) :=
  let a := tileVals fa abytes
  let b := tileVals fb bbytes
  let bs := stepBlock fa fb
  (List.range 32).flatMap (fun r =>
    let xs := (a.drop (32 * r)).take 32
    (List.range 32).map (fun c =>
      let ys := (List.range 32).map (fun k => b[32 * k + c]?.getD .nan)
      let e := elemStep bs xs ys (fun k => (sa r (k / fa.block), sb c (k / fb.block))) ((acc[32 * r + c]?.getD 0).toNat)
      (BitVec.ofNat 32 e.1, e.2)))

/-- A command that runs MMA steps. -/
def Work.steps : Work → Bool
  | .mma .. => true
  | .mgemm .. => true
  | _ => false

/-- Steps of an MGEMM. -/
def gemmTotal (r : List Byte) : Nat := leAt r 0 2 / 32 * (leAt r 2 2 / 32) * (leAt r 4 2 / 32)

/-- A command has MMA steps to run, of which the one at hand is no longer one. -/
def Cmd.moreSteps (d q : Cmd) : Bool :=
  d.entered && d.work.steps && (d.cid != q.cid || decide (q.prog + 1 < gemmTotal q.record))

/-- The unit has run a step (R345): a declared burst is one step shorter, and after the last step of a burst it ramps down. The
moments are cycles of the core's island (R4). -/
def Core.stepped (k : Core) (q : Cmd) : Core :=
  { k with mmaAt := some k.cycle, burst := k.burst - 1
           rampAt := if k.burst ≤ 1 ∧ k.cmds.any (fun d => d.moreSteps q) = false then some k.cycle else none }

/-- The unit is cold (R345): no step in the 256 cycles before, no declared burst and no ramp-down. -/
def Core.cold (k : Core) : Bool :=
  decide (k.burst = 0) && k.rampAt.isNone && k.mmaAt.all (fun last => decide (last + 256 ≤ k.cycle))

/-- A step's results are put into a tile and counted. -/
def putStep (s : State) (q : Cmd) (cd : Nat) (r : List (BitVec 32 × Tally)) : State :=
  countAll (s.updCore q.core (fun k => ({ k with tiles := mset k.tiles cd (r.map (fun (e : BitVec 32 × Tally) => e.1)) }).stepped q)) q (r.map (·.2))

/-! ## Drains (R315, R339) -/

/-- The writes of a tile in a format from an address on, with what each element counts; up to the first that fails. They keep the
places that the checks found: none fails later (R343). -/
def drainList (s : State) (q : Cmd) (f : Fmt) (seed : Word) (tile : List (BitVec 32)) (va : Word) (stride : Nat)
    (index : Nat → Nat → Nat) : List (Nat × Nat) → List (CmdWrite × Tally) × Option CmdGot
  | [] => ([], none)
  | (r, c) :: rest =>
    let a := va + offW (r * stride + c * f.size)
    match scratchAt s q a f.size needW with
    | .error e => ([], some e)
    | .ok ca =>
      let x := fpVal fp32 (tile[32 * r + c]?.getD 0).toNat
      let e := f.eff.encode (f.rounding seed (index r c)) x false
      let d := drainList s q f seed tile va stride index rest
      ((⟨a, leBytes f.size e.1, some ca⟩, e.2) :: d.1, d.2)

/-- Rows and columns of a tile in their order. -/
def tileCells : List (Nat × Nat) := (List.range 32).flatMap (fun r => (List.range 32).map (fun c => (r, c)))

/-! ## Commands of one tile -/

/-- A command has run: its writes, if any, are then to be performed. -/
def Cmd.ran (q : Cmd) : Cmd := { q with ended := some 0, got := [] }

/-- What a single-tile command reads (R338, R340). -/
def Work.needs : Work → List Need
  | .mldt _ a b =>
    let es := 2 ^ wbits b 32 2
    tileNeeds es (fun r c => a + offW (r * wbits b 0 32 + c * es))
  | .mtrn _ a b =>
    let es := 2 ^ wbits b 32 2
    tileNeeds es (fun r c => a + offW (c * wbits b 0 32 + r * es))
  | .mma _ _ _ _ fmta fmtb scla sclb =>
    let fa := fmtFields fmta
    let fb := fmtFields fmtb
    scaleNeeds fa scla (fun r t => r * (32 / fa.block) + t) ++ scaleNeeds fb sclb (fun c t => t * 32 + c)
  | _ => []

/-- A single-tile command acts, with all that it reads. -/
def tileRun (s : State) (q : Cmd) : State :=
  let k := s.core q.core
  match q.work with
  | .mldt o _ _ => (s.updCore q.core (fun k => k.putOperand o q.got.flatten)).setCmd q.ran
  | .mtrn o _ _ => (s.updCore q.core (fun k => k.putOperand o q.got.flatten)).setCmd q.ran
  | .mrd c a b fmtc seed =>
    let d := drainList s q (fmtFields fmtc) seed (k.tile c) a (wbits b 0 32) (fun r c => r * 32 + c) tileCells
    let end_ (e : Nat) : State := countAll (s.setCmd { q.ran with writes := d.1.map (·.1), ended := some e }) q (d.1.map (·.2))
    (d.2.map (cmdStop s q end_)).getD (end_ 0)
  | .mma cd cs oa ob fmta fmtb scla _ =>
    let fa := fmtFields fmta
    let fb := fmtFields fmtb
    let acc := match cs with
      | some c => k.tile c
      | none => List.replicate 1024 0
    let na := (scaleNeeds fa scla (fun _ _ => 0)).length
    (putStep s q cd (tileStep fa.eff fb.eff (k.operand oa fa.size) (k.operand ob fb.size)
      (scaleGrid fa (q.got.take na)) (scaleGrid fb (q.got.drop na)) acc)).setCmd q.ran
  | .mzero cd => (s.updCore q.core (fun k => { k with tiles := mset k.tiles cd (List.replicate 1024 0) })).setCmd q.ran
  | _ => s

/-! ## MGEMM (R314 to R316, R343) -/

/-- The record of an MGEMM keeps its layout (R314). -/
def gemmOk (r : List Byte) : Bool :=
  let dim (n : Nat) : Bool := n % 32 == 0 && decide (32 ≤ n) && decide (n ≤ 65504)
  dim (leAt r 0 2) && dim (leAt r 2 2) && dim (leAt r 4 2) && decide (leAt r 6 2 ≤ 1) && zeros r 0x30 16

/-- MSEQ (R312). DEDUCED: log entry 37. -/
def mseqWord (step : Nat) (act dp : Bool) : Word :=
  BitVec.ofNat 64 ((if dp then 2 ^ 33 else 0) + (if act then 2 ^ 32 else 0) + step % 2 ^ 32)

/-- The sequencer shows where a command stands; `budget` 1 is its drain that is pending. -/
def showSeq (s : State) (q : Cmd) (act : Bool) : State :=
  s.updCore q.core (fun k => { k with mseq := mseqWord q.prog act (act && q.budget == 1) })

/-- An MGEMM ends with a fault: STEP keeps its count (R343). -/
def gemmFault (s : State) (q : Cmd) (code : Nat) : State := showSeq (s.setCmd { q with ended := some code }) q false

/-- An MGEMM starts or is continued: it reads its record through LP. -/
def gemmStart (s : State) (q : Cmd) (rec_ : Word) : State :=
  let q' := { q with started := true, startedAt := s.now }
  match lpRead s q rec_ 64 with
  | (s, .ok r) =>
    if gemmOk r then showSeq (s.setCmd { q' with record := r }) q' true
    else gemmFault s { q' with prog := 0, budget := 0 } cBadDesc
  | (s, r) => cmdStop s q (gemmFault s q') r

/-- The place of step `n` in its loops: mt, nt, kt. -/
def gemmAt (r : List Byte) (n : Nat) : Nat × Nat × Nat :=
  let kn := leAt r 4 2 / 32
  let nn := leAt r 2 2 / 32
  (n / (kn * nn), n / kn % nn, n % kn)

/-- What the next step of an MGEMM reads: the tiles of A and B, then their scales; nothing while a drain is pending. -/
def gemmNeeds (q : Cmd) : List Need :=
  match q.work with
  | .mgemm _ _ _ _ fmta fmtb _ scla sclb _ =>
    let r := q.record
    let fa := fmtFields fmta
    let fb := fmtFields fmtb
    let (mt, nt, kt) := gemmAt r q.prog
    if q.budget ≠ 0 ∨ gemmTotal r ≤ q.prog then []
    else
      tileNeeds fa.size (fun i j => offW (leAt r 8 8) + offW ((32 * mt + i) * leAt r 0x20 4 + (32 * kt + j) * fa.size))
      ++ tileNeeds fb.size (fun i j => offW (leAt r 0x10 8) + offW ((32 * kt + i) * leAt r 0x24 4 + (32 * nt + j) * fb.size))
      ++ scaleNeeds fa scla (fun x t => (32 * mt + x) * leAt r 0x2C 2 + 32 * kt / fa.block + t)
      ++ scaleNeeds fb sclb (fun x t => (32 * kt / fb.block + t) * leAt r 0x2E 2 + 32 * nt + x)
  | _ => []

/-- One MMA step of the sequencer, with all that it reads. -/
def gemmStep (s : State) (q : Cmd) : State :=
  match q.work with
  | .mgemm _ tile oa ob fmta fmtb _ scla _ _ =>
    let r := q.record
    let fa := fmtFields fmta
    let fb := fmtFields fmtb
    let kt := (gemmAt r q.prog).2.2
    let abytes := (q.got.take 1024).flatten
    let bbytes := ((q.got.drop 1024).take 1024).flatten
    let scales := q.got.drop 2048
    let na := (scaleNeeds fa scla (fun _ _ => 0)).length
    let acc := if kt = 0 ∧ leAt r 6 2 = 0 then List.replicate 1024 0 else (s.core q.core).tile tile
    let s := s.updCore q.core (fun k => (k.putOperand oa abytes).putOperand ob bbytes)
    let s := putStep s q tile (tileStep fa.eff fb.eff abytes bbytes (scaleGrid fa (scales.take na))
      (scaleGrid fb (scales.drop na)) acc)
    let q' := { q with prog := q.prog + 1, got := [], budget := if kt + 1 = leAt r 4 2 / 32 then 1 else 0 }
    showSeq (s.setCmd q') q' true
  | _ => s

/-- The drain of an output tile; after the last the sequence has ended. -/
def gemmDrain (s : State) (q : Cmd) : State :=
  match q.work with
  | .mgemm _ tile _ _ _ _ fmtc _ _ seed =>
    let r := q.record
    let f := fmtFields fmtc
    let (mt, nt, _) := gemmAt r (q.prog - 1)
    let va := offW (leAt r 0x18 8) + offW (32 * mt * leAt r 0x28 4 + 32 * nt * f.size)
    let d := drainList s q f seed ((s.core q.core).tile tile) va (leAt r 0x28 4)
      (fun i j => (32 * mt + i) * leAt r 2 2 + 32 * nt + j) tileCells
    match d.2 with
    | some e => cmdStop s q (gemmFault s q) e
    | none =>
      let last := decide (gemmTotal r ≤ q.prog)
      let q' := { q with budget := 0, writes := q.writes ++ d.1.map (·.1), ended := if last then some 0 else none }
      countAll (showSeq (s.setCmd q') q' (!last)) q (d.1.map (·.2))
  | _ => s

/-! ## MCVT (R342) -/

/-- The source format of a record. -/
def cvtSource (r : List Byte) : Fmt := fmtFields (offW (leAt r 0x2A 1 * 2 ^ 28))

/-- Columns of a block. -/
def cvtBlock (f : Fmt) (r : List Byte) : Nat := if f.blocked then f.block else leAt r 4 4

/-- The record of an MCVT keeps its limits. -/
def cvtOk (f : Fmt) (r : List Byte) : Bool :=
  let rows := leAt r 0 4
  let cols := leAt r 4 4
  let ss := (cvtSource r).size
  let kind := leAt r 0x2A 1
  decide (1 ≤ rows) && decide (rows ≤ 65536) && decide (1 ≤ cols) && decide (cols ≤ 65536)
    && (!f.blocked || cols % f.block == 0) && decide (1 ≤ kind) && decide (kind ≤ 3)
    && leAt r 8 8 % ss == 0 && leAt r 0x10 8 % f.size == 0 && (f.sck != 0 || leAt r 0x18 8 == 0)
    && leAt r 0x20 4 % ss == 0 && leAt r 0x24 4 % f.size == 0 && zeros r 0x2B 21

/-- An MCVT starts: it reads its record through LP. -/
def cvtStart (s : State) (q : Cmd) (rec_ fmt : Word) : State :=
  let q' := { q with started := true, startedAt := s.now }
  match lpRead s q rec_ 64 with
  | (s, .ok r) =>
    if cvtOk (fmtFields fmt) r then s.setCmd { q' with record := r } else s.setCmd { q' with ended := some cBadDesc }
  | (s, r) => cmdStop s q (fun c => s.setCmd { q' with ended := some c }) r

/-- The read of a source element. -/
def cvtNeed (r : List Byte) (i : Nat) : Need :=
  let n := (cvtSource r).size
  let cols := leAt r 4 4
  ⟨offW (leAt r 8 8) + offW (i / cols * leAt r 0x20 4 + i % cols * n), n, true⟩

/-- Elements of an MCVT. -/
def cvtTotal (q : Cmd) : Nat := leAt q.record 0 4 * leAt q.record 4 4

/-- An MCVT is to choose the scale of a block next. -/
def cvtChooses (q : Cmd) (f : Fmt) : Bool := f.blocked && q.budget == 0

/-- What an MCVT reads next: a tensor's scale once, the elements of a block before its scale is chosen, then each element. -/
def cvtNeeds (q : Cmd) (f : Fmt) : List Need :=
  let r := q.record
  if f.sck = 3 ∧ r.length ≤ 64 then [⟨offW (leAt r 0x18 8), 4, false⟩]
  else if cvtChooses q f then (List.range f.block).map (fun j => cvtNeed r (q.prog + j))
  else [cvtNeed r q.prog]

/-- The next step of an MCVT, with what it reads: the scale of a block is chosen and written, then each element is
converted. `budget` is the chosen scale's byte plus 1. -/
def cvtStep (s : State) (q : Cmd) (fmt seed : Word) : State :=
  let r := q.record
  let f := fmtFields fmt
  let cols := leAt r 4 4
  let i := q.prog
  let bad (c : Nat) : State := s.setCmd { q with ended := some c }
  let value (bs : List Byte) : Val := (cvtSource r).eff.val (leNat bs)
  if f.sck = 3 ∧ r.length ≤ 64 then s.setCmd { q with record := r ++ q.got.flatten, got := [] }
  else if cvtChooses q f then
    let c := chooseScale f.eff (q.got.map value)
    let va := offW (leAt r 0x18 8) + offW (i / cols * leAt r 0x28 2 + i % cols / f.block)
    match scratchAt s q va 1 needW with
    | .error e => cmdStop s q bad e
    | .ok ca =>
      countAll (s.setCmd { q with budget := c.1 + 1, got := [], writes := q.writes ++ [⟨va, leBytes 1 c.1, some ca⟩] }) q
        (if c.2.2 then [.scl] else [])
  else
    let scale : Val := if f.sck = 3 then fpVal fp32 (leAt r 64 4)
      else if f.sck = 0 then .fin false 1 0 else scaleByte f.sck (q.budget - 1)
    let va := offW (leAt r 0x10 8) + offW (i / cols * leAt r 0x24 4 + i % cols * f.size)
    match scratchAt s q va f.size needW with
    | .error e => cmdStop s q bad e
    | .ok ca =>
      let e := f.eff.quot (f.rounding seed i) (value q.got.flatten) scale
      let last := decide (cvtTotal q ≤ i + 1)
      countAll (s.setCmd { q with prog := i + 1, budget := if (i + 1) % cvtBlock f r = 0 then 0 else q.budget, got := []
                                  writes := q.writes ++ [⟨va, leBytes f.size e.1, some ca⟩]
                                  ended := if last then some 0 else none }) q [e.2]

/-! ## The steps of a matrix command -/

/-- A matrix command starts (R225). -/
def matrixStart (s : State) (q : Cmd) : State :=
  match q.work with
  | .mgemm rec_ .. => gemmStart s q rec_
  | .mcvt rec_ fmt _ => cvtStart s q rec_ fmt
  | _ => s.setCmd { q with started := true, startedAt := s.now }

/-- What a started matrix command reads before it acts next. -/
def matrixNeeds (q : Cmd) : List Need :=
  match q.work with
  | .mgemm .. => gemmNeeds q
  | .mcvt _ fmt _ => cvtNeeds q (fmtFields fmt)
  | w => w.needs

/-- A matrix command has all that it reads: it acts. An MGEMM does so by its own steps. -/
def matrixAct (s : State) (q : Cmd) : State :=
  match q.work with
  | .mgemm .. => s.setCmd q
  | .mcvt _ fmt seed => cvtStep s q fmt seed
  | _ => tileRun s q

/-- A started matrix command makes `n` of the reads that it is still to make, in their order, or all where `n` is 0; with the
last it acts (R225). A fault ends it. -/
def matrixRead (s : State) (q : Cmd) (n : Nat) : State :=
  let rest := (matrixNeeds q).drop q.got.length
  let now := if n = 0 then rest else rest.take n
  let bad (c : Nat) : State := if q.work.isGemm then gemmFault s q c else s.setCmd { q with ended := some c }
  match takeNeeds s q now with
  | (q', .ok _) => if now.length = rest.length then matrixAct s q' else s.setCmd q'
  | (q', r) => cmdStop (s.setCmd q') q' bad r

end Sys2Proof.Machine
end

