-- ==== Sys2Proof/Machine/Running.lean ====
section
/-! DEFINITION. The steps of queued commands: start, read, write, completion, and the choices of the engines and lane groups
(R220, R225 to R227, R268, R274 to R278, R292, R315, R335, R345). A step whose conditions do not hold changes nothing. -/

namespace Sys2Proof.Machine

/-- The outcome of a step of the machine. DESIGN CHOICE: log entry 90. -/
def stepTo (s : State) : Host.Outcome State Fault Refusal := .next s

/-! ## Starting and reading (R225) -/

/-- A vector command starts: its checks (R292). -/
def vectorStart (s : State) (q : Cmd) : State :=
  match q.work with
  | .vector fn sd sa sb sbNo _ ctl _ =>
    s.setCmd { q with started := true, startedAt := s.now, ended := vectorCheck fn sd sa sb sbNo ctl }
  | _ => s

/-- A command starts. -/
def cmdStart (s : State) (q : Cmd) : State :=
  if q.queue = 4 then vectorStart s q else if q.queue = 5 then matrixStart s q else engineStart s q

/-- COMMAND_START (R225, R226): the oldest command of a queue, with nothing left that it waits for. -/
def execCommandStart (cid : Nat) (s : State) : Host.Outcome State Fault Refusal :=
  stepTo (match s.findCmd cid with
    | some q => if mayStart s q then cmdStart s q else s
    | none => s)

/-- A started command reads: a vector command in slice `n`, an engine `n` bytes of a piece, a matrix command `n` of its reads.
DEDUCED: log entry 17. -/
def cmdRead (s : State) (q : Cmd) (n : Nat) : State :=
  if q.queue = 4 then vectorRead s q n
  else if q.queue = 5 then matrixRead s q n
  else if q.budget ≠ 0 && engineLeft q then engineRead s q n
  else s

/-- COMMAND_READ (R225, R275): the next bytes, element or reads of a started command. -/
def execCommandRead (cid n : Nat) (s : State) : Host.Outcome State Fault Refusal :=
  stepTo (match s.findCmd cid with
    | some q => if q.started && q.ended.isNone then cmdRead s q n else s
    | none => s)

/-! ## Writing (R220) -/

/-- The `n`-th of the writes that a command has still to make is performed, or leaves for its home, which counts it when it is
performed there; one that faults ends the command. DEDUCED: log entry 17. -/
def cmdWrite (s : State) (q : Cmd) (n : Nat) : State :=
  match q.writes[n]? with
  | none => s
  | some w =>
    let rest := q.writes.eraseIdx n
    match cmdPut s q w with
    | .ok s' => s'.setCmd { q with writes := rest, count := q.count + w.data.length }
    | .sent s' => s'.setCmd { q with writes := rest }
    | .bad c => s.setCmd { q with writes := [], runs := [], ended := some c }
    | .absent page => askPage s q.ctx page

/-- A write from the host port, at a system address of a device's memory, or in the host's own memory (R220): one that a region or a
running handler holds back waits in CQ, with slack 0 (R230). No write of it clears poison (R151).
DEDUCED: log entry 84. -/
def hostWrite (s : State) (pa : Nat) (bytes : List Byte) : State :=
  if pa < 2 ^ 64 ∧ (4 ≤ saKind pa ∨ 2 ^ 64 < pa + bytes.length) then s
  else if blocked s none (linesOf pa bytes.length) || (decide (pa < 2 ^ 64) && !sliceFree s pa) then
    let (id, s) := s.fresh
    keepPacket s
      { id := id, body := .hwrite bytes, ca := pa, va := 0, ctx := ⟨saPeer pa, 0⟩, uid := 0, place := ⟨saPeer pa, 0, 0⟩,
        stream := none, num := 0, count := 0, after := 0, global := false, slack := 0, slack0 := 0, late := false,
        ord := id, entered := s.now, kept := true, seen := 0, path := [], phase := .arrived, sentAt := none, dup := false,
        result := [] }
  else extWriteBy false s none pa bytes

/-- EXTERNAL_WRITE. -/
def execExternalWrite (src : ExtWrite) (s : State) : Host.Outcome State Fault Refusal :=
  stepTo (match src with
    | .command cid n =>
      match s.findCmd cid with
      | some q => if q.started && writesOpen q && mayWrite s q n then cmdWrite s q n else s
      | none => s
    | .host pa bytes => hostWrite s pa bytes)

/-! ## Completion (R225, R268, R278, R292, R346) -/

/-- A write of a command is on its way to its home. -/
def cmdWriting (s : State) (q : Cmd) : Bool :=
  (cmdPackets s q).any (fun k => match k.body with
    | .cwrite .. => true
    | _ => false)

/-- A command has done all that it does, with every write performed. -/
def cmdDone (s : State) (q : Cmd) : Bool :=
  q.started && q.writes.isEmpty && !cmdWriting s q && (q.ended.isSome || (match q.work with
    | .vector .. => q.prog == sliceCount q && q.runs.isEmpty
    | _ => decide (q.queue < 4) && !engineLeft q))

/-- A command completes. -/
def cmdComplete (s : State) (q : Cmd) : State :=
  let faulted := q.ended.getD 0
  if q.queue < 4 then finishEngine s q
  else if faulted = 0 then removeCmd s q
  else cmdFault s q (if q.queue = 4 then evVectorFault else evMatrixFault) faulted

/-- COMMAND_COMPLETE: one whose record or event was refused for want of room completes once that has entered. -/
def execCommandComplete (cid : Nat) (s : State) : Host.Outcome State Fault Refusal :=
  stepTo (match s.findCmd cid with
    | some q =>
      if q.refused then (if recordHeld s q then s else removeCmd s q)
      else if cmdDone s q then cmdComplete s q else s
    | none => s)

/-- QUEUE_ENTRY (R274): commands that wait in pool lines enter as entries free. -/
def execQueueEntry (c : CoreId) (s : State) : Host.Outcome State Fault Refusal :=
  stepTo (s.updCore c (fun k => k.enter s.now 16))

/-- EVENT_STORE_ENTRY (R177, R278). -/
def execEventStoreEntry (c : CtxId) (s : State) : Host.Outcome State Fault Refusal := stepTo (enterHeld s c)

/-- LP_COPY (R227): the machine copies a committed layout record, at the address where it lies, host memory and members' memory
too. DESIGN CHOICE: log entry 78. -/
def execLpCopy (c : CtxId) (pa : Nat) (s : State) : Host.Outcome State Fault Refusal :=
  stepTo (if pa % 32 = 0 && !poisonHit s pa lpLength then
    s.updCtx c (fun x => { x with lp := mset x.lp pa (readSa s pa lpLength) })
  else s)

/-- ENGINE_SELECT (R277). -/
def execEngineSelect (peer dist qtr kind : Nat) (s : State) : Host.Outcome State Fault Refusal :=
  stepTo (engineSelect s peer dist qtr kind)

/-- SLICE_SELECT (R276). -/
def execSliceSelect (peer dist qtr grp : Nat) (s : State) : Host.Outcome State Fault Refusal :=
  stepTo (sliceSelect s peer dist qtr grp)

/-! ## The sequencer and the unit's burst (R315, R316, R345) -/

/-- The MGEMM that the sequencer of a core runs. -/
def runningGemm (s : State) (c : CoreId) : Option Cmd :=
  match (s.core c).head 5 with
  | some q =>
    match q.work with
    | .mgemm .. => if q.started && q.ended.isNone then some q else none
    | _ => none
  | none => none

/-- MGEMM_STEP: the next MMA step, once no drain is pending. -/
def execMgemmStep (c : CoreId) (s : State) : Host.Outcome State Fault Refusal :=
  stepTo (match runningGemm s c with
    | some q =>
      if q.budget = 0 ∧ q.prog < gemmTotal q.record ∧ (gemmNeeds q).length ≤ q.got.length then gemmStep s q else s
    | none => s)

/-- MGEMM_DRAIN: the drain that is pending. -/
def execMgemmDrain (c : CoreId) (s : State) : Host.Outcome State Fault Refusal :=
  stepTo (match runningGemm s c with
    | some q => if q.budget = 1 then gemmDrain s q else s
    | none => s)

/-- A declared burst has gone 4,096 cycles of the core without a step (R4, R345). -/
def Core.burstIdle (k : Core) : Bool :=
  decide (k.burst ≠ 0) && decide (max k.burstAt (k.mmaAt.getD 0) + 4096 ≤ k.cycle)

/-- BURST_EXPIRY: a declared burst ends after 4,096 cycles without a step; ramp-down follows. -/
def execBurstExpiry (c : CoreId) (s : State) : Host.Outcome State Fault Refusal :=
  stepTo (s.updCore c (fun k => if k.burstIdle then { k with burst := 0, rampAt := some k.cycle } else k))

/-- RAMP_DOWN_END: the 32 ramp-down cycles of the core end (R4, R345). -/
def execRampDownEnd (c : CoreId) (s : State) : Host.Outcome State Fault Refusal :=
  stepTo (s.updCore c (fun k => if k.rampAt.any (fun start => decide (start + 32 ≤ k.cycle)) then { k with rampAt := none } else k))

end Sys2Proof.Machine
end

