-- ==== Sys2Proof/Machine/Images.lean ====
section
/-! DEFINITION. Images: a thread taken from its slot and put back (R135, R141, R144, R186, R226, R316, R335, R380), and the bytes
of images, dumps and CKPT (R147 to R149, R176). Inside the device an image is kept as data; the spec gives the bytes of its
records only by the fields they hold (log entry 41). -/

namespace Sys2Proof.Machine

/-! ## A thread leaves its slot -/

/-- A command stands behind a QFENCE of its thread that still holds commands back (R226, R335): in its queue, or in the pool lines. -/
def Core.fenced (k : Core) (q : Cmd) : Bool :=
  q.waits.any (fun w => w.1 == q.uid && k.cmds.any (fun d => d.cid == w.2))
    || (!q.entered && (k.fences.any (fun f => f.cmd.uid == q.uid && decide (f.cmd.cid < q.cid) && k.fenceOpen f && f.queues.contains q.queue)
      || k.cmds.any (fun d => d.uid == q.uid && d.queue == 6 && decide (d.cid < q.cid) && d.enters.contains q.queue)))

/-- Commands of a thread that are taken out of their queues with it (R226, R316, R335): those of MQ, its QFENCEs in the pool lines, and
those that wait behind a QFENCE of its own. -/
def leavesWith (k : Core) (uid : Nat) (q : Cmd) : Bool :=
  q.uid == uid && (q.queue == 5 || q.queue == 6 || (!q.started && k.fenced q))

/-- The next read of a matrix command waits for a page that is not resident (R204, R326). -/
def pageWait (s : State) (q : Cmd) : Bool :=
  (match ((matrixNeeds q).drop q.got.length).map (needGet s q) with
    | .absent _ :: _ => true
    | _ => false)
  || (cmdPackets s q).any (fun k => k.phase == .arrived && (match k.body with
    | .cread .. => (resolve s k.ctx k.ca).any (fun r => !r.2)
    | _ => false))

/-- A command of the thread that must come to a boundary first (R316): a started single-tile command, an MGEMM before its first
step or with a step under way, or one whose drain is being written. A wait for a page is no boundary, and the command halts at its last
one (R326). -/
def busyCmd (s : State) (uid : Nat) (q : Cmd) : Bool :=
  q.uid == uid && q.queue == 5 && q.started
    && (!q.writes.isEmpty || cmdWriting s q || q.ended.isSome || (!pageWait s q && (match q.work with
      | .mgemm .. => q.prog == 0 || !q.got.isEmpty || !q.fetched.isEmpty || !(cmdPackets s q).isEmpty
      | _ => true)))

/-- A thread has a command on a core that must come to a boundary first. -/
def busyThread (s : State) (c : CoreId) (uid : Nat) : Bool := (s.core c).cmds.any (busyCmd s uid)

/-- A command as the image keeps it: what it has read for its next step is read again. -/
def Cmd.packed (q : Cmd) : Cmd := { q with started := false, record := [], got := [], fetched := [], waits := [] }

/-- The commands of a thread that its image keeps, in their order, with the QFENCEs of its own that still hold commands back
(R335). -/
def Core.packedCmds (k : Core) (uid : Nat) : List Cmd :=
  let fences := (k.fences.filter (fun f => f.cmd.uid == uid && k.fenceOpen f)).map (·.cmd)
  inOrder (fun a b => decide (a.cid ≤ b.cid)) (fences ++ (k.cmds.filter (leavesWith k uid)).map Cmd.packed)

/-- The core without a thread: its engines, claims and commands go into the image, and its QFENCEs. For a QFENCE of another thread
the commands count as completed (R226). -/
def Core.without (k : Core) (uid : Nat) : Core :=
  let gone := (k.cmds.filter (leavesWith k uid)).map (·.cid)
  { k with
    streams := k.streams.filter (fun e => e.2.holder != some uid)
    oclaims := k.oclaims.filter (fun e => e.2.uid != uid)
    tclaims := k.tclaims.filter (fun e => e.2.uid != uid)
    oslots := k.oslots.filter (fun e => !k.oclaims.any (fun c => c.1 == e.1 && c.2.uid == uid))
    tiles := k.tiles.filter (fun e => !k.tclaims.any (fun c => c.1 == e.1 && c.2.uid == uid))
    fences := k.fences.filter (fun f => f.cmd.uid != uid)
    cmds := (k.cmds.filter (fun q => !gone.contains q.cid)).map (fun q =>
      { q with waits := q.waits.filter (fun w => w.1 != uid && !gone.contains w.2) }) }

/-- Reads that a thread's commands have under way are given up with them: they are made again. -/
def dropReads (s : State) (c : CoreId) (uid : Nat) : State :=
  let gone := ((s.core c).cmds.filter (leavesWith (s.core c) uid)).map (·.cid)
  { s with packets := s.packets.filter (fun k => match k.body with
      | .cread cid _ => !gone.contains cid
      | _ => true) }

/-- The image of a thread at its restart point on a core. DEDUCED: log entry 45. -/
def imageOf (s : State) (p : Place) (t : Thread) (wait : Wait) (whole : Bool) : Image :=
  let k := s.core (coreOf p)
  { thread := t, core := p.core, slot := p.slot, wait := wait, since := s.now, whole := whole, pages := []
    streams := heldStreams k t.uid
    oclaims := k.oclaims.filter (fun e => e.2.uid == t.uid)
    tclaims := k.tclaims.filter (fun e => e.2.uid == t.uid)
    oslots := k.oslots.filter (fun e => k.oclaims.any (fun c => c.1 == e.1 && c.2.uid == t.uid))
    tiles := k.tiles.filter (fun e => k.tclaims.any (fun c => c.1 == e.1 && c.2.uid == t.uid))
    cmds := k.packedCmds t.uid }

/-- The region of a thread is dropped, pinned or not, and its checkpoint restored (R143). -/
def dropRegion (s : State) (p : Place) : State :=
  let s := abortPlace s p false
  match s.thread p with
  | none => s
  | some t =>
    let s := s.updCtx (t.ctxId p) (fun x => { x with token_ := if x.token_ = some t.uid then none else x.token_ })
    s.setThread p { t with wait := .none, region := { t.region with
      token := none, pinned := false, exclusive := false, wantExcl := false, want := false } }

/-- The thread of a place is brought to its restart point: one whose trap or error stops the context has its region dropped. -/
def bringTo (s : State) (p : Place) (faulting : Bool) : Option State :=
  if faulting then
    match flushFrames (dropRegion s p) p with
    | .ok s' => some s'
    | .bad _ => some (dropRegion s p)
    | .wait => none
  else toRestart s p

/-- A thread goes from its slot into an image of its context; none while it must run on. -/
def unload (s : State) (p : Place) (whole faulting : Bool) : Option State :=
  match s.thread p with
  | none => some s
  | some t =>
    if busyThread s (coreOf p) t.uid || s.migs.any (fun m => m.thread.uid == t.uid && m.access.isNone) then none
    else
      match bringTo s p faulting with
      | none => none
      | some s1 =>
        let s2 := withdrawAll s1 p
        match s2.thread p with
        | none => some s2
        | some u =>
          let m := { imageOf s2 p { u with bars := [] } t.wait whole with move := s2.migs.find? (fun m => m.landed && m.thread.uid == u.uid) }
          let s2 := { s2 with migs := s2.migs.filter (fun m => m.thread.uid != u.uid) }
          let s3 := ((dropReads s2 (coreOf p) u.uid).freeSlot p).updCore (coreOf p) (fun k => k.without u.uid)
          some (s3.updCtx (t.ctxId p) (fun x => { x with images := x.images ++ [m] }))

/-- A parent that is no longer parked in a place goes into an image, withdrawn from its barriers: it resumes at its JWAIT (R141,
R257). -/
def unloadParked (s : State) (p : Place) (whole : Bool) (t : Thread) : State :=
  let s := dropReads (withdrawParked s p t) (coreOf p) t.uid
  (s.updCtx (t.ctxId p) (fun x =>
    { x with images := x.images ++ [imageOf s p { t with wait := .none, bars := [] } t.wait whole] })).updCore
      (coreOf p) (fun k => k.without t.uid)

/-- The parents parked in a place go into images, innermost first. -/
def unloadAllParked (s : State) (p : Place) (whole : Bool) : List Thread → State
  | [] => { s with donors := mdel s.donors p }
  | t :: ts => unloadAllParked (unloadParked { s with donors := mset s.donors p ts } p whole t) p whole ts

/-- Parents parked in a place go into images with it; none while a command of one must come to a boundary (R316). -/
def unloadDonors (s : State) (p : Place) (whole : Bool) : Option State :=
  let ts := mgetD s.donors p []
  if ts.any (fun t => busyThread s (coreOf p) t.uid) then none else some (unloadAllParked s p whole ts)

/-! ## Bytes of images (R147, R148) -/

/-- A record: type, version 1, must-understand but for types 0x40 and 0x41, length, payload. DESIGN CHOICE: log entry 41. -/
def record (type : Nat) (payload : List Byte) : List Byte :=
  leBytes 2 type ++ [1, if type = 0x40 ∨ type = 0x41 then 0 else 1] ++ leBytes 4 payload.length ++ payload
    ++ List.replicate (roundUp payload.length 8 - payload.length) 0

/-- The length of an image whose records have these bytes (R147). -/
def imageLength (body : List Byte) : Nat := roundUp (64 + body.length + 8) 256

/-- An image of some records. -/
def imageBytes (s : State) (c : CtxId) (serial kind : Nat) (body : List Byte) : List Byte :=
  let n := imageLength body
  let all := body ++ record 0xFFFF []
  let rest := all ++ List.replicate (n - 64 - all.length) 0
  leBytes 2 0x5A58 ++ leBytes 2 (kind * 2 ^ 14 + c.id) ++ leBytes 4 (2 ^ 28 + n / 256)
    ++ leBytes 8 (Config.deviceId c.peer).toNat ++ leBytes 8 serial ++ leBytes 8 (s.dtime c.peer) ++ sha256 rest ++ rest

/-- A thread that an image shows: index, thread, place and wait. -/
structure Shown where
  index : Nat
  thread : Thread
  place : Place
  wait : Wait
  deriving DecidableEq, Repr

/-- Frame `n` of a thread: the resident one, else the window area's. -/
def frameAt (s : State) (p : Place) (t : Thread) (n : Nat) : List Byte :=
  match ((List.range t.frames.length).zip t.frames).find? (fun e => t.frameNo e.1 == n) with
  | some (_, f) => f.bytes
  | none =>
    match framePieces s p t needR n with
    | some sas => sas.flatMap (fun sa => s.reads sa 8)
    | none => List.replicate 136 0

/-- Loop levels as words. -/
def Loops.words (l : Loops) : List Word := [l.ls0, l.le0, l.lc0, l.ls1, l.le1, l.lc1]

/-- The records of a thread's own state: slot state, window stack, checkpoint, loops. DESIGN CHOICE: log entry 41. -/
def threadRecords (s : State) (v : Shown) : List (List Byte) :=
  let t := v.thread
  let r := t.region
  [record 0x0002 (slotRecord { t with wait := v.wait } v.index v.place.core v.place.slot),
   record 0x0003 (leBytes 4 v.index ++ leBytes 8 t.wdep.toNat
     ++ ((List.range t.wdep.toNat).map (· + 1)).flatMap (frameAt s v.place t)),
   record 0x0004 (leBytes 4 v.index ++ leBytes 8 r.rstart.toNat ++ leBytes 4 r.rts.toNat ++ leBytes 8 r.odep.toNat
     ++ leBytes 1 (if r.explicit then 1 else 0) ++ leBytes 1 r.aborts),
   record 0x0005 (leBytes 4 v.index ++ wordBytes (t.loops.words ++ t.shadow.words))]

/-- Integers as words. -/
def intWords (l : List Int) : List Word := l.map (BitVec.ofInt 64)

/-- A stream: state word, base, bounds and position. -/
def Stream.bytes (e : Stream) : List Byte :=
  wordBytes [e.word, e.base] ++ leBytes 4 e.counts.length ++ wordBytes (e.counts.map (BitVec.ofNat 64) ++ intWords e.strides)
    ++ leBytes 8 e.pos

/-- The record of a mapped stream: engine, then the stream. -/
def streamRecord (e : Nat × Stream) : List Byte := record 0x0006 (leBytes 4 e.1 ++ e.2.bytes)

/-- A captured stream of a command: 1 and the stream, or 0. -/
def opBytes (e : StreamOp) : List Byte := match e with
  | none => [0]
  | some e => 1 :: e.bytes

/-- What a queued command captured, behind a number for its kind. -/
def workBytes (w : Work) : List Byte := match w with
  | .cpy a b len => 0 :: wordBytes [a, b] ++ leBytes 8 len
  | .cpy2d rec_ a b => 1 :: wordBytes [rec_, a, b]
  | .gath rec_ a b => 2 :: wordBytes [rec_, a, b]
  | .scat rec_ a b => 3 :: wordBytes [rec_, a, b]
  | .coll rec_ a b => 4 :: wordBytes [rec_, a, b]
  | .vector fn sd sa sb sbNo a ctl seed =>
    5 :: leBytes 1 fn ++ opBytes sd ++ opBytes sa ++ opBytes sb ++ leBytes 1 sbNo ++ wordBytes [a, ctl, seed]
  | .mldt o a b => 6 :: leBytes 1 o ++ wordBytes [a, b]
  | .mtrn o a b => 7 :: leBytes 1 o ++ wordBytes [a, b]
  | .mrd c a b fmtc seed => 8 :: leBytes 1 c ++ wordBytes [a, b, fmtc, seed]
  | .mma cd cs oa ob fmta fmtb scla sclb =>
    9 :: leBytes 1 cd ++ leBytes 1 (cs.getD 255) ++ leBytes 1 oa ++ leBytes 1 ob ++ wordBytes [fmta, fmtb, scla, sclb]
  | .mzero cd => 10 :: leBytes 1 cd
  | .mcvt rec_ fmt seed => 11 :: wordBytes [rec_, fmt, seed]
  | .mgemm rec_ tile oa ob fmta fmtb fmtc scla sclb seed =>
    12 :: leBytes 1 tile ++ leBytes 1 oa ++ leBytes 1 ob ++ wordBytes [rec_, fmta, fmtb, fmtc, scla, sclb, seed]
  | .mrel slots tiles => 13 :: leBytes 8 slots ++ leBytes 8 tiles
  | .fence mask => 14 :: leBytes 1 mask.toNat

/-- A queued command: queue, tag, completion target, slot, slack, progress, and what it captured. -/
def Cmd.bytes (q : Cmd) : List Byte :=
  leBytes 1 q.queue ++ leBytes 8 q.tag.toNat ++ leBytes 4 q.ct ++ leBytes 1 q.slot ++ leBytes 2 q.slack ++ leBytes 8 q.prog
    ++ workBytes q.work

/-- The records of a thread's claims (R148), with 0 for what a claimed number has not been given yet (R313, R337). -/
def claimRecords (index : Nat) (m : Image) : List (List Byte) :=
  (inOrder (fun a b => decide (a ≤ b)) (m.oclaims.map (·.1))).map (fun n =>
      let bs := mgetD m.oslots n []
      record 0x0008 (leBytes 4 index ++ leBytes 4 n ++ bs ++ List.replicate (1024 - bs.length) 0))
    ++ (inOrder (fun a b => decide (a ≤ b)) (m.tclaims.map (·.1))).map (fun n =>
      record 0x0009 (leBytes 4 index ++ leBytes 4 n ++ (mgetD m.tiles n (List.replicate 1024 0)).flatMap (fun v => leBytes 4 v.toNat)))

/-- The records of the mapped streams and claims of a thread that is shown alone. -/
def heldRecordsOf (m : Image) : List (List Byte) :=
  (m.streams.filter (fun e => e.2.name.isSome)).map streamRecord ++ claimRecords 0 m

/-- A block as 128 bytes (R117). -/
def Block.bytes (b : Block) : List Byte :=
  leBytes 4 b.slots ++ leBytes 4 b.cores ++ leBytes 8 b.scratch ++ leBytes 8 b.hbm ++ leBytes 8 b.tier2 ++ leBytes 4 b.oslots
    ++ leBytes 4 b.tiles ++ leBytes 4 b.queues ++ leBytes 4 b.heap ++ leBytes 4 b.barriers ++ leBytes 4 b.streams
    ++ leBytes 8 b.memRate ++ leBytes 8 b.fabRate ++ leBytes 4 b.launches ++ leBytes 4 b.depth ++ List.replicate 48 0

/-- The context summary. -/
def summaryRecord (s : State) (c : CtxId) (x : Ctx) (cause : Nat) : List Byte :=
  record 0x0001 (leBytes 8 x.rootSerial ++ leBytes 1 x.cls ++ leBytes 2 x.flags.toNat ++ x.block.bytes
    ++ wordBytes [x.pinb.zeroExtend 64, x.tol.zeroExtend 64, x.hthr.zeroExtend 64, x.lateCnt.zeroExtend 64, x.barb, x.rtbase]
    ++ x.images.flatMap (fun m => leBytes 2 m.thread.apCore) ++ leBytes 1 cause ++ leBytes 8 (s.dtime c.peer))

/-- The cores on which a context holds something. -/
def Ctx.coresOf (x : Ctx) : List Nat :=
  (x.cores ++ x.slots.map (·.1) ++ x.images.map (·.core) ++ (if x.fractional then [x.coreHome] else [])).eraseDups

/-- The first MGEMM of some commands: MSEQ and the record's address as it stood when it was stopped, 0 before its first step, and
the registers it captured (R315, R316). -/
def gemmWords (cmds : List Cmd) : Option (List Word) :=
  cmds.findSome? (fun q => match q.work with
    | .mgemm rec_ _ _ _ fmta fmtb fmtc scla sclb seed =>
      some [if q.prog = 0 then 0 else mseqWord q.prog true (q.budget == 1), rec_, fmta, fmtb, fmtc, scla, sclb, seed]
    | _ => none)

/-- The matrix registers and the sequencer of a core: for a stopped MGEMM of some commands what it captured, else the context's
registers (R316); behind them those commands, in their order (R335). -/
def sequencerRecord (s : State) (c : CtxId) (core : Nat) (cmds : List Cmd) : List Byte :=
  let k := (s.core ⟨c.peer, core⟩).settleAll
  let m := k.mat c.id
  record 0x000A (leBytes 2 core
    ++ wordBytes ((gemmWords cmds).getD [k.mseq, 0, m.fmta, m.fmtb, m.fmtc, m.scla, m.sclb, m.srndseed])
    ++ wordBytes [m.ncnan.zeroExtend 64, m.ncovf.zeroExtend 64, m.ncunf.zeroExtend 64, m.ncinx.zeroExtend 64, m.ncscl.zeroExtend 64]
    ++ leBytes 4 cmds.length ++ cmds.flatMap Cmd.bytes)

/-- The record of a kernel with a heap. -/
def heapRecord (ctx : Nat) (k : Kernel) : List Byte :=
  record 0x000B (leBytes 2 k.num ++ leBytes 4 k.mask ++ leBytes 16 (k.srr % 2 ^ 128).toNat ++ leBytes 4 k.entries.length
    ++ k.entries.flatMap (fun e => e.bytes k.num ctx) ++ leBytes 8 k.spill.toNat)

/-- The record of a queue: handle number and generation, the rights of the owner's handle, state; of a destroyed one the
generation, which outlives it (R305). -/
def queueRecord (e : Nat × Queue) : List Byte :=
  let q := e.2
  record 0x000C (leBytes 4 e.1 ++ leBytes 4 q.gen ++ leBytes 1 7 ++ leBytes 4 q.cap ++ leBytes 4 q.head ++ leBytes 4 q.tail
    ++ leBytes 8 q.seq ++ leBytes 1 ((if q.exists_ then 1 else 0) + (if q.live then 2 else 0)))

/-- The record of a barrier. -/
def barrierRecord (x : Ctx) (e : Nat × Barrier) : List Byte :=
  let b := e.2
  record 0x000D (leBytes 4 e.1 ++ leBytes 4 b.e ++ leBytes 4 b.count ++ leBytes 1 (if b.phase then 1 else 0)
    ++ leBytes 1 (if b.stat then 1 else 0)
    ++ leBytes 4 (x.images.filter (fun m => m.thread.bars.any (fun v => v.1 == e.1))).length)

/-- Scratch units of a span: 4 KiB pages, or 32-byte units of a FRACTIONAL grant. -/
def spanRecords (s : State) (c : CtxId) (unit : Nat) (sp : Span) : List (List Byte) :=
  (List.range (sp.len / unit)).map (fun j =>
    record 0x0011 (leBytes 2 sp.core ++ leBytes 4 (sp.off + unit * j) ++ s.reads (scratchSa c.peer sp.core (sp.off + unit * j)) unit))

/-- An event or a record as the event store's record shows it, with its place in the order of arrival. -/
def itemImage : Event ⊕ Rec → Nat × List Byte
  | .inl v => (v.seq, v.bytes v.exit)
  | .inr r => (r.seq, r.bytes)

/-- The records and events of a context that no thread has taken, in arrival order (R148). -/
def Ctx.arrived (x : Ctx) : List Byte :=
  let own : List (Event ⊕ Rec) := x.images.flatMap (fun m => m.thread.records.map .inr ++ m.thread.events.map .inl)
  let items : List (Event ⊕ Rec) := own ++ (x.store ++ x.held).map (fun (e : Stored) => e.item)
  (inOrder (fun (a b : Nat × List Byte) => decide (a.1 ≤ b.1)) (items.map itemImage)).flatMap (fun e => e.2)

/-- Every record of a context's image, in the order of R148, its threads being in x.images. DESIGN CHOICE: log entry 41.
DESIGN CHOICE: log entry 99. -/
def contextRecords (s : State) (c : CtxId) (x : Ctx) (cause : Nat) : List (List Byte) :=
  let ms := (List.range x.images.length).zip x.images
  [summaryRecord s c x cause]
    ++ ms.flatMap (fun e => threadRecords s ⟨e.1, e.2.thread, ⟨c.peer, e.2.core, e.2.slot⟩, e.2.wait⟩)
    ++ ms.flatMap (fun e => (e.2.streams.filter (fun v => v.2.name.isSome)).map streamRecord)
    ++ x.coresOf.map (fun core =>
        let k := (s.core ⟨c.peer, core⟩).settleAll
        let qs := k.cmds.filter (fun q => q.queue == 4 && q.ctx == c)
        record 0x0007 (leBytes 2 core ++ leBytes 4 qs.length ++ qs.flatMap Cmd.bytes ++ leBytes 1 k.vshare.toNat))
    ++ ms.flatMap (fun e => claimRecords e.1 e.2)
    ++ x.coresOf.map (fun core =>
        sequencerRecord s c core ((x.images.filter (fun i => i.core == core)).flatMap (·.cmds)))
    ++ (x.kernels.filter (fun k => k.mask != 0)).map (heapRecord c.id)
    ++ x.queues.map queueRecord
    ++ x.barriers.map (barrierRecord x)
    ++ [record 0x000E (leBytes 8 x.rtbase.toNat
        ++ ms.flatMap (fun e => e.2.thread.locks.flatMap (fun l => leBytes 4 e.1 ++ leBytes 8 l.range.base ++ leBytes 8 l.range.len
            ++ leBytes 8 l.range.target ++ leBytes 8 l.range.attr))
        ++ (x.hbm.map (·.sa) ++ x.tier2 ++ x.shared).flatMap (fun a => leBytes 8 a))]
    ++ ((List.range 16).map id ++ (List.range 12).map (· + 16) ++ (List.range 16).map (· + 32)).map (fun site =>
        record 0x000F (leBytes 4 site ++ leBytes 8 (x.rate site) ++ leBytes 4 (x.level site s.now / 1900)))
    ++ x.cores.map (fun core =>
        let k := (s.core ⟨c.peer, core⟩).settleAll
        record 0x0010 (leBytes 2 core ++ wordBytes (k.j.toList ++ k.g.toList)))
    ++ x.spans.flatMap (spanRecords s c (if x.fractional then 32 else 4096))
    ++ [record 0x0012 x.arrived]
    ++ [record 0x0013 (x.children.flatMap (fun ch =>
        leBytes 8 ch.serial ++ ch.block.bytes ++ leBytes 1 (if ch.presented.isSome then 1 else 0)))]
    ++ (match x.fault with
      | some f => [record 0x0014 (leBytes 4 ((x.images.findIdx? (fun m => m.thread.uid == f.uid)).getD 0)
          ++ wordBytes [f.tpc, BitVec.ofNat 64 f.code, f.value, f.tstat])]
      | none => [])
    ++ [record 0x0040 (leBytes 8 x.perf.cache ++ leBytes 8 x.perf.home ++ leBytes 8 x.perf.late),
        record 0x0041 (leBytes 8 (s.dev c.peer).corrected)]

/-! ## Room for an image, and its loader (R149) -/

/-- The pages that an image takes: pages of tier-2, then of HBM, that no context holds; failing that, pages of the context's own
grants that hold nothing, tier-2 first. DESIGN CHOICE: log entry 43. -/
def imagePlaces (s : State) (c : CtxId) (x : Ctx) (len : Nat) : Option (List Nat) :=
  let n := roundUp len 4096 / 4096
  let out := freePlaces s c.peer false n
  let free := out ++ freePlaces s c.peer true (n - out.length)
  let own := (x.tier2 ++ x.hbm.map (·.sa)).filter (fun a =>
    decide (saKind a < 3) && blankPage s a && !x.imagePages.contains a)
  if 2 ^ 32 < len then none
  else if n ≤ free.length then some free
  else if n ≤ own.length then some (own.take n)
  else none

/-- Bytes fill some pages. -/
def putPages (s : State) : List Nat → List Byte → State
  | [], _ => s
  | a :: rest, bs => putPages (s.writes a (bs.take 4096)) rest (bs.drop 4096)

/-- The bytes of some pages. -/
def bytesOf (s : State) (pages : List Nat) : List Byte := pages.flatMap (fun a => s.reads a 4096)

/-- The record types that a loader knows (R148). -/
def knownRecords : List Nat := (List.range 20).map (· + 1) ++ [0x40, 0x41]

/-- What a record reserves is zero: bits 7:1 of its byte 3, the padding of its payload and the last four bytes of a slot state (R5, R147,
R148). -/
def recordZeros (bs : List Byte) : Bool :=
  let n := leAt bs 4 4
  decide (leAt bs 3 1 < 2) && zeros bs (8 + n) (roundUp n 8 - n) && (leAt bs 0 2 != 0x0002 || zeros bs (8 + 0x264) 4)

/-- Records are in order: the end record is there, every record keeps its reserved bits zero, and every must-understand record before
the end is of a known type and version. The first argument bounds the records looked at. -/
def recordsOk : Nat → List Byte → Bool
  | 0, _ => false
  | fuel + 1, bs =>
    let type := leAt bs 0 2
    if bs.length < 8 ∨ !recordZeros bs then false
    else if type = 0xFFFF then true
    else if leAt bs 3 1 % 2 = 1 ∧ !(knownRecords.contains type && leAt bs 2 1 == 1) then false
    else recordsOk fuel (bs.drop (8 + roundUp (leAt bs 4 4) 8))

/-- What a loader demands of an image: magic, major version, length, digest and records (R149). -/
def imageAccepts (bs : List Byte) : Bool :=
  let n := 256 * (leAt bs 4 4 % 2 ^ 24)
  leAt bs 0 2 == 0x5A58 && leAt bs 4 4 / 2 ^ 28 == 1 && decide (64 ≤ n) && decide (n ≤ bs.length)
    && sha256 ((bs.take n).drop 64) == (bs.drop 32).take 32 && recordsOk n ((bs.take n).drop 64)

/-! ## Images in memory (R141, R143, R144, R147) -/

/-- The image of a thread, as pre-emption writes it. DESIGN CHOICE: log entry 41. -/
def threadImage (s : State) (c : CtxId) (x : Ctx) (m : Image) : List Byte :=
  imageBytes s c x.serial 0 ((threadRecords s ⟨0, m.thread, ⟨c.peer, m.core, m.slot⟩, m.wait⟩ ++ heldRecordsOf m
    ++ (if m.cmds.isEmpty then [] else [sequencerRecord s c m.core m.cmds])).flatten)

/-- The image of one thread of a context is written; none where no memory can hold it. -/
def writeThread (s : State) (c : CtxId) (uid : Nat) : Option State :=
  match s.ctx c with
  | none => some s
  | some x =>
    match x.images.find? (fun m => m.thread.uid == uid) with
    | none => some s
    | some m =>
      let bs := threadImage s c x m
      (imagePlaces s c x bs.length).map (fun pages => putPages (s.setCtx c { x with
        images := x.images.map (fun n => if n.thread.uid = uid then { n with pages := pages } else n) }) pages bs)

/-- A slot is emptied for another context: its thread and the parents parked in it go into images; with whether memory could hold
those. -/
def unloadSlot (s : State) (p : Place) : Option (State × Bool) :=
  match s.thread p with
  | none => some (s, true)
  | some t =>
    let uids := t.uid :: (mgetD s.donors p []).map (·.uid)
    ((unload s p false false).bind (fun s => unloadDonors s p false)).map (fun s =>
      match uids.foldl (fun (m : Option State) uid => m.bind (fun s => writeThread s (t.ctxId p) uid)) (some s) with
      | some s' => (s', true)
      | none => (s, false))

/-- The image of a whole context is written, its threads being in images: those that pre-emption had written go into it (R143);
none where no memory can hold it. -/
def writeWhole (s : State) (c : CtxId) (x : Ctx) (cause : Nat) : Option State :=
  let bs := imageBytes s c x.serial (if x.liveTo.isSome && cause != 9 then 2 else 1) (contextRecords s c x cause).flatten
  let y := { x with images := x.images.map (fun m => { m with whole := true, pages := [] }), whole := none }
  let s := (zeroPages s x.imagePages).setCtx c y
  (imagePlaces s c y bs.length).map (fun pages => putPages (s.setCtx c { y with whole := some pages }) pages bs)

/-- The whole-context image of a LIVE context is given up once every thread of it has been placed. -/
def dropWhole (s : State) (c : CtxId) : State :=
  match s.ctx c with
  | none => s
  | some x =>
    if x.state = .live ∧ !x.images.any (·.whole) then (zeroPages s (x.whole.getD [])).setCtx c { x with whole := none } else s

/-! ## A thread comes back (R144, R186, R316, R380) -/

/-- The slots that an image may take: those bound to the kernel for its task (R380), else the context's free ones. -/
def Image.choices (s : State) (c : CtxId) (x : Ctx) (m : Image) : List (Nat × Nat) :=
  match m.thread.role with
  | .task num _ _ =>
    match x.kernel num with
    | some k => k.bound.filter (fun e => x.slots.contains e && s.slotFree ⟨c.peer, e.1, e.2⟩)
    | none => s.freeSlots c
  | _ => s.freeSlots c

/-- Nothing that the image holds by number is held on the core. -/
def Image.fits (m : Image) (k : Core) : Bool :=
  m.streams.all (fun e => (mget k.streams e.1).isNone) && m.oclaims.all (fun e => (mget k.oclaims e.1).isNone)
    && m.tclaims.all (fun e => (mget k.tclaims e.1).isNone)

/-- The slot for an image: its own, else the lowest. DEDUCED: log entry 28. -/
def Image.slotFor (s : State) (c : CtxId) (x : Ctx) (m : Image) : Option (Nat × Nat) :=
  let ok := (m.choices s c x).filter (fun e => m.fits (s.core ⟨c.peer, e.1⟩))
  if ok.contains (m.core, m.slot) then some (m.core, m.slot) else lowest ok

/-- Commands that stand in a queue beyond its entries, and have not started, wait in pool lines again (R335). -/
def demote (cmds : List Cmd) : List Cmd :=
  (List.range cmds.length).zip cmds |>.map (fun e =>
    if e.2.entered && !e.2.started && decide (queueCap e.2.queue ≤ ((cmds.take e.1).filter (fun d => d.entered && d.queue == e.2.queue)).length)
    then { e.2 with entered := false } else e.2)

/-- The core takes back what the image holds: its commands stand in their order ahead of those that have not started, and these wait for
its QFENCEs, as what stands behind them (R226, R316, R335). DEDUCED: log entry 45. -/
def Core.restored (k : Core) (c : CoreId) (ctx : CtxId) (ap : Nat) (m : Image) (slot now : Nat) : Core :=
  let mine := m.cmds.map (fun (q : Cmd) => { q with core := c, slot := slot, ctx := ctx, apCore := ap, entered := false })
  let k1 := Core.enter { k with cmds := k.cmds.filter (·.started) ++ mine, fences := [] } now 64
  { k with
    streams := k.streams ++ m.streams.map (fun (e : Nat × Stream) => (e.1, { e.2 with slot := slot }))
    oclaims := k.oclaims ++ m.oclaims
    tclaims := k.tclaims ++ m.tclaims
    oslots := m.oslots.foldl (fun v e => mset v e.1 e.2) k.oslots
    tiles := m.tiles.foldl (fun v e => mset v e.1 e.2) k.tiles
    fences := k.fences ++ k1.fences
    cmds := demote (k1.cmds ++ (k.cmds.filter (fun q => !q.started)).map (fun (q : Cmd) =>
      { q with waits := q.waits ++ k1.waitsFor q.queue })) }

/-- An image is loaded into a slot, and the memory that it took is free again. A restored whole image sets the thread's aperture
core (R186) and launch core (R252); the access of a move that it still has to make is made from there (R197). DEDUCED: log entry 45. -/
def load (s : State) (c : CtxId) (m : Image) (core slot : Nat) : State :=
  let p : Place := ⟨c.peer, core, slot⟩
  let t := m.thread
  let checks := t.region.check.streams.map (fun (e : Nat × Stream) => (e.1, { e.2 with slot := slot }))
  let t := { t with
    ctx := c.id
    apCore := if m.whole then core else t.apCore
    launchCore := if m.whole then core else t.launchCore
    launchPeer := if m.whole then c.peer else t.launchPeer
    wait := .none
    region := { t.region with check := { t.region.check with streams := checks } } }
  let s := (zeroPages s m.pages).updCtx c (fun x => { x with images := x.images.filter (fun n => n.thread.uid != m.thread.uid) })
  let s := { s with migs := s.migs ++ (m.move.map (fun (v : Mig) =>
    { v with src := p, dst := p, thread := { t with pend := v.thread.pend } })).toList }
  dropWhole (placeThread (s.updCore (coreOf p) (fun k => k.restored (coreOf p) c t.apCore m slot s.now)) p t) c

/-- A loader takes an image in some pages (R149); what has not been written as an image needs none. -/
def pagesLoad (s : State) (pages : List Nat) : Bool := pages.isEmpty || imageAccepts (bytesOf s pages)

/-- The oldest image of a context that can have a slot takes it. -/
def loadNext (s : State) (c : CtxId) (x : Ctx) : Option State :=
  (x.images.filter (fun m => pagesLoad s m.pages)).findSome? (fun m => (m.slotFor s c x).map (fun e => load s c m e.1 e.2))

/-- Every image that can have a slot takes one. DEDUCED: log entry 45. -/
def loadAll (s : State) (c : CtxId) : Nat → State
  | 0 => s
  | fuel + 1 =>
    match s.ctx c with
    | none => s
    | some x =>
      match loadNext s c x with
      | some s' => loadAll s' c fuel
      | none => s

/-! ## Dumps (R149) -/

/-- The places of the pages of a range that a dump may write, from a VA on, resident or not, on the context's device or a
member's. -/
def dumpPages (s : State) (c : CtxId) (x : Ctx) : Nat → Word → List Nat
  | 0, _ => []
  | n + 1, va =>
    match look s c x.coreHome [] va 1 4096 needW with
    | .ok l => (match l.sa.or ((resolve s c l.ca).map (·.1)) with
        | some sa => sa :: dumpPages s c x n (va + 4096)
        | none => [])
    | .absent page => (match x.hbm[page]? with
        | some g => g.sa :: dumpPages s c x n (va + 4096)
        | none => [])
    | .fault _ => []

/-- As many whole records as fit in a number of bytes, with the header and the end record. -/
def wholeRecords (room : Nat) : List (List Byte) → List Byte → List Byte
  | [], acc => acc
  | r :: rs, acc => if imageLength (acc ++ r) ≤ room then wholeRecords room rs (acc ++ r) else acc

/-- Bytes are written page by page. -/
def writePages (s : State) : List Nat → List Byte → State
  | [], _ => s
  | sa :: rest, bs => writePages (extWrite s none sa (bs.take 4096)) rest (bs.drop 4096)

/-- A dump of a context: the state, and bits 0 DUMPED and 1 DUMP_TRUNCATED of the event's flags. -/
def dump (s : State) (c : CtxId) (x : Ctx) (cause : Nat) : State × Nat :=
  if !x.dumps then (s, 0)
  else
    let rs := contextRecords s c x cause
    let pages := dumpPages s c x (imageLength rs.flatten / 4096 + 1) x.imageVA
    let body := wholeRecords (4096 * pages.length) rs []
    if pages.isEmpty then (s, 2)
    else (writePages s pages (imageBytes s c x.serial 3 body), if body.length = rs.flatten.length then 1 else 3)

/-! ## CKPT (R176) -/

/-- The thread that CKPT shows: at the restart point behind it, with d holding 0. -/
def ckptThread (t : Thread) (d : Reg) : Thread :=
  let t := if isShared d then t else t.setReg (ri d) 0
  { t with region := { t.region with check := { t.region.check with i := t.i } } }

/-- The image that CKPT writes. DESIGN CHOICE: log entry 41. -/
def ckptImage (s : State) (p : Place) (t : Thread) (d : Reg) : List Byte :=
  let c := t.ctxId p
  let m := imageOf s p t .none false
  imageBytes s c ((s.ctx c).map (·.serial) |>.getD 0) 0
    ((threadRecords s ⟨0, ckptThread t d, p, .none⟩ ++ heldRecordsOf m).flatten)

/-- CKPT: an area that is shorter than the image, or that cannot be written to its end, gives SHORT. -/
def execCkpt (d a b : Reg) (la : BitVec 4) (s : State) : Host.Outcome State Fault Refusal :=
  issue (wordX 0x49 d.toNat a.toNat b.toNat la.toNat 2) [ri a, ri b, ri d] (isShared d) (fun p t k s =>
    let va := readI k t a
    let room := readI k t b
    match checkVa s p t va 4096 needW with
    | some r => r
    | none => commitThen s p t (fun s1 t1 =>
        let bs := ckptImage s1 p t1 d
        if room.toNat < bs.length then .done (pendNow s1 p [ri d] la.toNat false [0x56])
        else
          match lookSpan s1 (t1.ctxId p) t1.apCore t1.locks needW (bs.length / 16 + 3) va bs.length with
          | some (.fault _) => .done (pendNow s1 p [ri d] la.toNat false [0x56])
          | _ => writeThen s s1 p t1 va bs (ri d) la.toNat (fun _ => BitVec.ofNat 64 bs.length))) s

end Sys2Proof.Machine
end

