-- ==== Sys2Proof/Machine/Doors.lean ====
section
/-! DEFINITION. The host doorway: rings, registers and events (R152 to R155). -/

namespace Sys2Proof.Machine

/-- The doorway of a function. -/
def State.door (s : State) (peer fn : Nat) : Door := mgetD (s.dev peer).doors fn (Door.reset fn)

/-- A doorway is replaced. -/
def State.setDoor (s : State) (peer fn : Nat) (d : Door) : State :=
  let dv := s.dev peer
  s.setDev peer { dv with doors := mset dv.doors fn d }

/-- Host memory as a function reaches it by an IOVA; it lies apart from what contexts reach under their PASIDs.
DEDUCED: log entry 83. -/
def hostAt (peer fn iova : Nat) : Nat := (2 ^ 14 + 128 * fn + peer) * 2 ^ 64 + iova

/-! ## Events (R155) -/

/-- An event ring entry. -/
def entryBytes (code ctx status flags : Nat) (serial word dtime : Nat) : List Byte :=
  leBytes 2 code ++ leBytes 2 ctx ++ leBytes 1 status ++ leBytes 1 flags ++ leBytes 2 0 ++ leBytes 8 serial
    ++ leBytes 8 word ++ leBytes 8 dtime

/-- Entries of the event ring that the host has not consumed. -/
def Door.events (d : Door) : Nat := (d.ertail - d.erhead).toNat

/-- The event ring has a free entry, and is enabled (R152). -/
def Door.eventRoom (d : Door) : Bool := d.ersize != 0 && decide (d.events < d.ersize.toNat)

/-- An entry is written at the tail of the event ring. -/
def writeEntry (s : State) (peer fn : Nat) (bs : List Byte) : State :=
  let d := s.door peer fn
  let s := s.writes (hostAt peer fn (d.erbase.toNat + 32 * (d.ertail.toNat % d.ersize.toNat))) bs
  s.setDoor peer fn { d with ertail := d.ertail + 1 }

/-- Held entries are written, in order, while the ring of an enabled function has room (R152). -/
def flushEntries (s : State) (peer fn : Nat) : Nat → State
  | 0 => s
  | fuel + 1 =>
    let d := s.door peer fn
    match d.heldEvents with
    | [] => s
    | e :: rest =>
      if d.enabled && d.eventRoom then flushEntries (writeEntry (s.setDoor peer fn { d with heldEvents := rest }) peer fn e) peer fn fuel
      else s

/-- An event is posted to a function's ring, or held; the held-event store has 256 entries, and events that find it full are
counted (R154). -/
def postEntry (s : State) (peer fn : Nat) (bs : List Byte) : State :=
  let d := s.door peer fn
  if 256 ≤ d.heldEvents.length then s.setDoor peer fn { d with eovf := true, evLost := d.evLost + 1 }
  else flushEntries (s.setDoor peer fn { d with heldEvents := d.heldEvents ++ [bs] }) peer fn 257

/-- An event with the device's time. -/
def postEvent (s : State) (peer fn code ctx status flags serial word : Nat) : State :=
  postEntry s peer fn (entryBytes code ctx status flags serial word (s.dtime peer))

/-- An error report goes to the physical function's ring (R155, R159): what it is about, and its kind: 1 a failed self-test
block, 2 a line with an uncorrectable error. DESIGN CHOICE: log entry 48. -/
def errorReport (s : State) (peer what kind : Nat) : State := postEvent s peer 0 0x0120 0 0 0 what kind

/-! ## Taking entries (R152, R153, R159) -/

/-- The presentation ring of a function gives an entry to the device now. -/
def presTakes (s : State) (peer fn : Nat) : Bool :=
  let d := s.door peer fn
  let dv := s.dev peer
  d.enabled && d.eventRoom && d.prsize != 0 && d.prhead != d.prtail && (dv.ready || (fn == 0 && decide (2 ≤ dv.stage)))

/-- The launch ring of a function gives an entry to the device now. -/
def launchTakes (s : State) (peer fn : Nat) : Bool :=
  let d := s.door peer fn
  d.enabled && d.eventRoom && d.lrsize != 0 && d.lrhead != d.lrtail && (s.dev peer).ready

/-- A presentation entry is taken. -/
def takePres (s : State) (peer fn : Nat) : State :=
  let d := s.door peer fn
  s.setDoor peer fn { d with prhead := d.prhead + 1 }

/-- A launch entry is taken. -/
def takeLaunch (s : State) (peer fn : Nat) : State :=
  let d := s.door peer fn
  s.setDoor peer fn { d with lrhead := d.lrhead + 1 }

/-- Bytes of host memory as a function reads them by DMA. -/
def hostBytes (s : State) (peer fn iova n : Nat) : List Byte := s.reads (hostAt peer fn iova) n

/-- The entry of a ring that stands at an index (R152, R153). -/
def ringEntry (s : State) (peer fn : Nat) (base size : Word) (index : BitVec 32) : List Byte :=
  hostBytes s peer fn (base.toNat + 32 * (index.toNat % size.toNat)) 32

/-- The next entries of a function's presentation ring and launch ring. -/
def presEntry (s : State) (peer fn : Nat) : List Byte :=
  let d := s.door peer fn
  ringEntry s peer fn d.prbase d.prsize d.prhead
def launchEntry (s : State) (peer fn : Nat) : List Byte :=
  let d := s.door peer fn
  ringEntry s peer fn d.lrbase d.lrsize d.lrhead

/-- The reserved words of an entry are 0 (R5, R153). -/
def presEntryOk (e : List Byte) : Bool := zeros e 0x14 4
def launchEntryOk (e : List Byte) : Bool := zeros e 2 6 && zeros e 0x10 8

/-- DSTAT.RING is set: an entry was malformed, or a ring register's write ignored (R154). -/
def ringError (s : State) (peer fn : Nat) : State := s.setDoor peer fn { s.door peer fn with ringErr := true }

/-- A presentation is done: its status, context id, serial and tag; a refusal is counted (R120, R137). -/
def presDone (s : State) (peer fn : Nat) (tag : Word) (status ctx serial : Nat) : State :=
  postEvent s peer fn 0x0100 ctx status 0 serial tag.toNat

/-! ## Registers (R152, R154) -/

/-- A ring size is legal. -/
def ringSizeOk (v : Word) : Bool := v == 0 || (decide (16 ≤ v.toNat) && decide (v.toNat ≤ 4096) && v &&& (v - 1) == 0)

/-- A ring base or size is written; none where the write is ignored. A base is stored as it is written, aligned or not.
DESIGN CHOICE: log entry 114. -/
def Door.ringWrite (d : Door) (reg : Nat) (v : Word) : Option Door :=
  let busyP := d.prhead != d.prtail
  let busyL := d.lrhead != d.lrtail
  let busyE := d.erhead != d.ertail
  match reg with
  | 0x000 => if busyP then none else some { d with prbase := v }
  | 0x008 => if busyP || !ringSizeOk v then none else some { d with prsize := v }
  | 0x020 => if busyL then none else some { d with lrbase := v }
  | 0x028 => if busyL || !ringSizeOk v then none else some { d with lrsize := v }
  | 0x040 => if busyE then none else some { d with erbase := v }
  | 0x048 => if busyE || !ringSizeOk v then none else some { d with ersize := v }
  | _ => some d

/-- RING_REGISTER_WRITE: applied, or ignored with DSTAT.RING set; held events are then written. -/
def execRingRegisterWrite (peer fn reg : Nat) (v : Word) (s : State) : Host.Outcome State Fault Refusal :=
  let d := s.door peer fn
  .next (match d.ringWrite reg v with
    | none => ringError s peer fn
    | some d' => flushEntries (s.setDoor peer fn d') peer fn 257)

/-- A register without behaviour of its own is written: PRTAIL, LRTAIL, ATOKEN, DSTAT, and of the physical function OHOLD, and
CMD with no command in it, whose reserved bits read 0. A value of OHOLD outside its range, and a register that is read-only, are left as they are.
DESIGN CHOICE: log entry 79. DEDUCED: log entry 89. DEDUCED: log entry 92. -/
def registerWrite (s : State) (peer fn reg : Nat) (v : Word) : State :=
  let d := s.door peer fn
  let dv := s.dev peer
  match reg with
  | 0x010 => s.setDoor peer fn { d with prtail := v.truncate 32 }
  | 0x030 => s.setDoor peer fn { d with lrtail := v.truncate 32 }
  | 0x060 => s.setDoor peer fn { d with atoken := v, tokenAt := s.now }
  | 0x068 => s.setDoor peer fn { d with eovf := d.eovf && !wbit v 2, ringErr := d.ringErr && !wbit v 1 }
  | 0x080 => if fn = 0 ∧ 1 ≤ v.toNat ∧ v.toNat ≤ 3600000 then s.setDev peer { dv with ohold := v } else s
  | 0x0A8 => if fn = 0 ∧ (wbits v 16 4 = 0 ∨ 4 < wbits v 16 4) then s.setDev peer { dv with cmd := BitVec.ofNat 64 (v.toNat % 2 ^ 27) } else s
  | _ => s

/-- REGISTER_WRITE. -/
def execRegisterWrite (peer fn reg : Nat) (v : Word) (s : State) : Host.Outcome State Fault Refusal :=
  .next (flushEntries (registerWrite s peer fn reg v) peer fn 257)

/-- ERHEAD_WRITE: entries of the event ring are free again, and waiting events are written. -/
def execErheadWrite (peer fn : Nat) (v : Word) (s : State) : Host.Outcome State Fault Refusal :=
  let d := s.door peer fn
  .next (flushEntries (s.setDoor peer fn { d with erhead := v.truncate 32 }) peer fn 257)

/-- NONCEREQ: writing 1 issues a nonce as TNONCE does. -/
def execNoncereq (peer : Nat) (v : Word) (s : State) : Host.Outcome State Fault Refusal :=
  let dv := s.dev peer
  let s := s.setDev peer { dv with noncereq := v }
  .next (if v = 1 then (drawNonce s peer).1 else s)

end Sys2Proof.Machine
end

