-- ==== Sys2Proof/Machine/Redeem.lean ====
section
/-! DEFINITION. Redemption at the home peer and the messages of its protocol (R127 to R129). -/

namespace Sys2Proof.Machine

/-! ## Presentation statuses (R122, R163) -/

def stFormat : Nat := 0x30
def stKey : Nat := 0x31
def stSignature : Nat := 0x32
def stTime : Nat := 0x33
def stDomain : Nat := 0x34
def stRedeemed : Nat := 0x35
def stUnreachable : Nat := 0x36
def stCapacity : Nat := 0x37
def stDigest : Nat := 0x38

/-! ## The window of a key slot (R127) -/

/-- Serials that the window's bitmap covers. -/
def windowBits : Nat := 2 ^ 20

/-- Counts that a home keeps for a slot. -/
def countLimit : Nat := 4096

/-- The table of counts makes room for one more: the count of the lowest serial is discarded, and it is exhausted. -/
def Window.makeRoom (w : Window) : Window :=
  if w.counted.length < countLimit then w
  else
    match w.counted.foldl (fun (m : Option Nat) e => match m with
        | none => some e.1
        | some b => some (min b e.1)) none with
    | some low => { w with counted := mdel w.counted low, exhausted := w.exhausted ++ [low] }
    | none => w

/-- A redeem request for a serial: none where it is denied. -/
def Window.reserve (w : Window) (serial total : Nat) (counted : Bool) (asker pres : Nat) : Option Window :=
  if serial < w.base then none
  else if counted then
    if w.exhausted.contains serial then none
    else
      let w := if (mget w.counted serial).isSome then w else
        let v := w.makeRoom
        { v with counted := mset v.counted serial total }
      let n := mgetD w.counted serial 0
      if n = 0 then none
      else some { w with counted := mset w.counted serial (n - 1), reserved := w.reserved ++ [(serial, asker, pres, true)] }
  else if w.redeemed.contains serial || w.reserved.any (fun r => r.1 == serial) then none
  else some { w with reserved := w.reserved ++ [(serial, asker, pres, false)] }

/-- The reservation that a presentation of a device holds; its last part says that it took one of a count. -/
def Window.held (w : Window) (asker pres : Nat) : Option (Nat × Nat × Nat × Bool) :=
  w.reserved.find? (fun r => r.2.1 == asker && r.2.2.1 == pres)

/-- The base moves so that the bitmap covers a serial, and the bits below it are discarded. -/
def Window.cover (w : Window) (serial : Nat) : Window :=
  if serial < w.base + windowBits then w
  else
    let b := serial + 1 - windowBits
    { w with base := b, redeemed := w.redeemed.filter (fun n => decide (b ≤ n)) }

/-- A commit turns a reservation into a redemption: its bit is set, or its count stays consumed; one of a serial that the base
has passed changes nothing more. -/
def Window.commit (w : Window) (asker pres : Nat) : Window :=
  match w.held asker pres with
  | none => w
  | some r =>
    let w := { w with reserved := w.reserved.filter (· != r) }
    if r.1 < w.base then w
    else
      let w := w.cover r.1
      if r.2.2.2 then w else { w with redeemed := w.redeemed ++ [r.1] }

/-- A cancel removes the reservation of a presentation: the bit stays clear, or the count is returned; the base never moves. -/
def Window.cancel (w : Window) (asker pres : Nat) : Window :=
  match w.held asker pres with
  | none => w
  | some r =>
    let w := { w with reserved := w.reserved.filter (· != r) }
    match (if r.2.2.2 then mget w.counted r.1 else none) with
    | some n => { w with counted := mset w.counted r.1 (n + 1) }
    | none => w

/-- The window of a device's key slot. -/
def Device.window (d : Device) (key : Nat) : Window := mgetD d.windows key Window.reset

/-- A device's window changed. -/
def State.updWindow (s : State) (peer key : Nat) (f : Window → Window) : State :=
  let d := s.dev peer
  s.setDev peer { d with windows := mset d.windows key (f (d.window key)) }

/-- A home handles a request: the reservation, or the status of its denial. DESIGN CHOICE: log entry 56, a home whose key slot
is empty denies as one whose slot holds a different key. -/
def homeReserve (s : State) (home key serial total modulus : Nat) (counted : Bool) (asker pres : Nat) : Except Nat State :=
  let d := s.dev home
  if (mget d.keys key).map (·.modulus) != some modulus then .error stDomain
  else
    match (d.window key).reserve serial total counted asker pres with
    | some w => .ok (s.updWindow home key (fun _ => w))
    | none => .error stRedeemed

/-! ## Warrant fields that redemption needs (R115, R116, R129) -/

/-- Home, key slot and serial of a warrant; whether it is counted, and its count. -/
def recHome (r : List Byte) : Nat := leAt r 0x14 1
def recKey (r : List Byte) : Nat := leAt r 0x10 1
def recSerial (r : List Byte) : Nat := leAt r 8 8
def recCounted (r : List Byte) : Bool := leAt r 6 2 / 8 % 2 == 1
def recTotal (r : List Byte) : Nat := leAt r 0x12 2

/-! ## Messages (R128, R209) -/

/-- The id of no context: packets of the redemption protocol outlive the context that presents. -/
def noCtx : Nat := 2 ^ 14

/-- A message is sent as a fabric packet, at a slack. DEDUCED: log entry 59. DEDUCED: log entry 94. -/
def sendMsg (s : State) (src dst key asker pres : Nat) (kind : MsgKind) (slack : Nat) : State :=
  let (id, s) := s.fresh
  sendTo { s with msgs := s.msgs ++ [⟨id, src, dst, key, asker, pres, kind, slack⟩] } ⟨src, 0, 0⟩ ⟨src, noCtx⟩ id (.redeem id) dst 0
    false slack

/-- A message of a name that has arrived. -/
def findMsg (s : State) (id : Nat) : Option Msg :=
  s.msgs.find? (fun m => m.id == id && s.packets.any (fun k => k.body == .redeem id && k.phase == .arrived))

/-- A message is gone. -/
def dropMsg (s : State) (id : Nat) : State :=
  { s with msgs := s.msgs.filter (fun m => m.id != id), packets := s.packets.filter (fun k => k.body != .redeem id) }

/-- The reservation of a presentation is committed, or cancelled, at its home: at once where that is the device's own (R129),
else by a message. -/
def settleHome (s : State) (peer : Nat) (record : List Byte) (pres : Nat) (commit : Bool) (slack : Nat) : State :=
  let home := recHome record
  let key := recKey record
  let serial := recSerial record
  if home = peer then s.updWindow peer key (fun w => if commit then w.commit peer pres else w.cancel peer pres)
  else sendMsg s peer home key peer pres (if commit then .commit serial else .cancel serial) slack

/-- A presentation that waits for its home is given up: a cancel is sent (R128). -/
def cancelPres (s : State) (peer : Nat) (r : Pres) : State := settleHome s peer r.record r.id false r.slack

/-- REDEEM_REQUEST: the home grants or denies. -/
def execRedeemRequest (m : Nat) (s : State) : Host.Outcome State Fault Refusal :=
  .next (match findMsg s m with
    | none => s
    | some g =>
      match g.kind with
      | .request serial counted total modulus =>
        match homeReserve (dropMsg s m) g.dst g.key serial total modulus counted g.asker g.pres with
        | .ok s' => sendMsg s' g.dst g.asker g.key g.asker g.pres .grant g.slack
        | .error st => sendMsg (dropMsg s m) g.dst g.asker g.key g.asker g.pres (.deny st) g.slack
      | _ => s)

/-- REDEMPTION_COMMIT: the message has reached the home, and is acknowledged. -/
def execRedemptionCommit (m : Nat) (s : State) : Host.Outcome State Fault Refusal :=
  .next (match findMsg s m with
    | none => s
    | some g =>
      match g.kind with
      | .commit _ => (dropMsg s m).updWindow g.dst g.key (fun w => w.commit g.asker g.pres)
      | _ => s)

/-- REDEMPTION_CANCEL. -/
def execRedemptionCancel (m : Nat) (s : State) : Host.Outcome State Fault Refusal :=
  .next (match findMsg s m with
    | none => s
    | some g =>
      match g.kind with
      | .cancel _ => (dropMsg s m).updWindow g.dst g.key (fun w => w.cancel g.asker g.pres)
      | _ => s)

/-- How long a peer has been down, in ns. -/
def downFor (s : State) (home other : Nat) : Nat := nsOf (s.now - mgetD (s.dev home).lostAt other s.now)

/-- RESERVATION_HOLD_EXPIRY: a reservation whose device has been down for 10 s becomes a redemption. -/
def execReservationHoldExpiry (home key serial requester : Nat) (s : State) : Host.Outcome State Fault Refusal :=
  .next (if (s.dev home).peersUp.contains requester ∨ downFor s home requester < 10 ^ 10 then s
    else
      match ((s.dev home).window key).reserved.find? (fun r => r.1 == serial && r.2.1 == requester) with
      | some r => s.updWindow home key (fun w => w.commit requester r.2.2.1)
      | none => s)

end Sys2Proof.Machine
end

