-- ==== Sys2Proof/Machine/Stops.lean ====
section
/-! DEFINITION. How contexts stop and end: stop causes, parking, orphaning, faults, expiry, surrender (R114, R126, R140 to R143,
R149 to R151, R154 to R158, R169). -/

namespace Sys2Proof.Machine

/-! ## Stop causes (R143, R151) -/

/-- A cause that ends in SURRENDERED. -/
def surrenders (cause : Nat) : Bool := cause == 0 || cause == 1 || cause == 4 || cause == 5 || cause == 6

/-- A context is being surrendered: a cause that ends so governs, in whatever state it waits for what comes first. -/
def Ctx.ending (x : Ctx) : Bool := surrenders (x.cause.getD 99)

/-- A surrender falls on a context in any state (R143, R150): a LIVE one is brought to STOPPING; one that has stopped keeps its
state until it is surrendered. -/
def Ctx.stopFor (x : Ctx) (cause : Nat) (exit : Word) : Ctx :=
  match x.state with
  | .live => x.stop cause exit
  | .stopping => x.stop cause exit
  | _ => if x.ending then x else { x with cause := some cause, exitWord := exit }

/-! ## Threads and commands at rest (R141, R143, R156) -/

/-- A thread of the context is on its way to a slot (R143, R195). -/
def ctxArriving (s : State) (c : CtxId) : Bool :=
  s.migs.any (fun m => (s.findThread m.thread.uid).isNone && member s ⟨m.src.peer, m.thread.ctx⟩ m.dst.peer == some c)

/-- Every thread of a context goes into an image; none while one must run on or is on its way. -/
def unloadAll (s : State) (c : CtxId) : Option State :=
  if ctxArriving s c then none
  else
    match s.ctx c with
    | none => some s
    | some x =>
      let places := s.threads.filter (fun e => e.1.peer == c.peer && e.2.ctx == c.id)
      let s' := places.foldl (fun (m : Option State) e =>
        m.bind (fun s => unload s e.1 true (x.faulted.contains e.2.uid))) (some s)
      s'.bind (fun s =>
        (s.donors.filter (fun e => e.1.peer == c.peer && e.2.any (fun t => t.ctx == c.id))).foldl
          (fun (m : Option State) e => m.bind (fun s => unloadDonors s e.1 true)) (some s))

/-- The context of an operation in HQ that the slice's program is to handle. -/
def HqItem.ctx : HqItem → Option CtxId
  | .code m => some m.ctx
  | .fixed _ => none

/-- Nothing of the context is under way on its device: no command that has not done all it does, no packet, no message.
DEDUCED: log entry 46. -/
def quiet (s : State) (c : CtxId) : Bool :=
  s.cores.all (fun e => e.2.cmds.all (fun q => q.ctx != c || cmdDone s q) && e.2.hq.all (fun i => i.ctx != some c))
    && s.packets.all (fun k => k.ctx != c || (saPeer k.ca != c.peer && !(s.dev c.peer).peersUp.contains (saPeer k.ca)))

/-! ## What is left of a context is cleared away -/

/-- A core without anything of a context. -/
def Core.clear (k : Core) (c : CtxId) : Core :=
  { k with
    lateCsr := k.lateCsr.filter (fun w => w.ctx != c.id)
    hq := k.hq.filter (fun i => i.ctx != some c)
    cmds := k.cmds.filter (fun q => q.ctx != c)
    mregs := k.mregs.filter (fun e => e.1 != c.id)
    oclaims := k.oclaims.filter (fun e => e.2.ctx != c.id)
    tclaims := k.tclaims.filter (fun e => e.2.ctx != c.id)
    barCounts := k.barCounts.filter (fun e => e.1.1 != c.id) }

/-- A packet that a context leaves behind: one of a fabric stream is kept until its acknowledgement arrives, and goes to the member that
it was sent to (R183). DEDUCED: log entry 109. -/
def leftBehind (s : State) (c : CtxId) (k : Packet) : Option Packet :=
  if k.ctx ≠ c then some k
  else if k.onFabric then some { k with target := k.memberOf s }
  else none

/-- The machine without the context's commands, packets, streams and pipelines, but for what its fabric streams have not brought to an
end. -/
def clearCtx (s : State) (c : CtxId) : State :=
  let dv := s.dev c.peer
  let kept := s.packets.filterMap (leftBehind s c)
  let s := dropCached (s.setDev c.peer { dv with pipes := dv.pipes.filter (fun e => e.2.ctx != c.id) }) c
  { s with
    cores := s.cores.map (fun (e : CoreId × Core) => if e.1.peer = c.peer then (e.1, e.2.clear c) else e)
    packets := kept
    streams := s.streams.filter (fun e => !(e.1.peer == c.peer && e.1.ctx == c.id) || kept.any (fun k => k.stream == some e.1))
    ctxs := mdel s.ctxs c }

/-- Texts that an amendment has replaced are released once no child maps them and no thread may fetch from them (R171, R228).
DESIGN CHOICE: log entry 52. -/
def dropTexts (s : State) (c : CtxId) : State :=
  match s.ctx c with
  | none => s
  | some x =>
    let seen := (s.threads.filter (fun e => e.1.peer == c.peer && e.2.ctx == c.id)).map (fun e => e.2.seen)
      ++ x.images.map (fun m => m.thread.seen)
    s.setCtx c { x with oldTexts := x.oldTexts.filter (fun t =>
      x.children.any (fun ch => ch.text.version == t.version) || seen.any (fun n => decide (n ≤ t.version))) }

/-- Pages that no context holds any more are zeroed. -/
def releasePages (s : State) (peer : Nat) (pages : List Nat) : State :=
  let kept := usedPlaces s peer true ++ usedPlaces s peer false
  zeroPages s (pages.filter (fun a => !kept.contains a))

/-- Neighbouring spans of a core are joined. -/
def joinSpans (l : List Span) : List Span :=
  (inOrder (fun a b => decide (a.core < b.core ∨ a.core = b.core ∧ a.off ≤ b.off)) l).foldr (fun sp acc =>
    match acc with
    | q :: rest => if sp.core = q.core ∧ sp.off + sp.len = q.off then ⟨sp.core, sp.off, sp.len + q.len⟩ :: rest else sp :: acc
    | [] => [sp]) []

/-! ## Surrender (R114, R150, R155, R169) -/

/-- A child's resources return to its parent (R113, R150); a parent without slots has only their grant. -/
def returnTo (s : State) (c : CtxId) (x : Ctx) (parent : CtxId) : State :=
  s.updCtx parent (fun y =>
    let holds := y.state == .live || y.state == .stopping
    Ctx.reckon { y with
      block := y.block.plus x.granted
      cores := y.cores ++ x.cores
      slots := if holds then y.slots ++ x.slots else y.slots
      spans := joinSpans (y.spans ++ x.spans)
      barAt := y.barAt ++ x.barAt
      children := y.children.filter (fun (ch : Child) => ch.presented != some c.id) } s.now)

/-- The child warrants of a context that were never presented are cancelled (R150). -/
def cancelChildren (s : State) (c : CtxId) : State :=
  match s.ctx c with
  | none => s
  | some x =>
    let gone := x.children.filter (fun ch => ch.presented.isNone)
    let s := s.setCtx c (Ctx.reckon { x with
      block := gone.foldl (fun b ch => b.plus ch.block) x.block
      cores := x.cores ++ gone.flatMap (·.cores)
      slots := x.slots ++ gone.flatMap (·.slots)
      spans := joinSpans (x.spans ++ gone.flatMap (·.spans))
      barAt := x.barAt ++ gone.flatMap (·.barAt)
      children := x.children.filter (fun ch => ch.presented.isSome) } s.now)
    let dv := s.dev c.peer
    s.setDev c.peer { dv with childUsed := dv.childUsed.filter (fun n => !gone.any (fun ch => ch.entryNo == n)) }

/-- The child warrant from which a context was built. -/
def childOf (s : State) (parent : CtxId) (id : Nat) : Option Child :=
  match s.ctx parent with
  | some y => y.children.find? (fun ch => ch.presented == some id)
  | none => none

/-- A context is being surrendered, or is gone. -/
def ending (s : State) (c : CtxId) : Bool :=
  match s.ctx c with
  | some y => y.ending
  | none => true

/-- A context's own part of a surrender: its resources, its id, its counters, and the word of its end; the grant of its whole
cores ends, with what their shared banks held (R60). -/
def endCtx (s : State) (c : CtxId) (x : Ctx) (flags : Nat) (silent : Bool) : State :=
  let cause := x.cause.getD 0
  match x.parent with
  | none =>
    let s := zeroSpans (resetCores (clearCtx s c) c.peer x.cores) c.peer x.spans
    let s := releasePages s c.peer x.pagesHeld
    let s := s.capUpdate c.peer (fun d => d.count x.cls (1 :: grantKinds) x.granted false)
    if silent then s
    else postEvent s c.peer (if cause = 4 then 0 else x.doorFn) 0x0110 c.id cause flags x.serial
        (if cause = 0 then x.exitWord.toNat else 0)
  | some id =>
    let parent : CtxId := ⟨c.peer, id⟩
    let child := childOf s parent c.id
    let ending := ending s parent
    let s := returnTo (resetCores (clearCtx s c) c.peer x.cores) c x parent
    let dv := s.dev c.peer
    let s := s.setDev c.peer { dv with childUsed := dv.childUsed.filter (fun n => !child.any (fun ch => ch.entryNo == n)) }
    let s := dropTexts (releasePages s c.peer x.pagesHeld) parent
    let s := s.capUpdate c.peer (fun d => d.count x.cls [1] x.granted false)
    if ending then s
    else deliver s parent ((child.map (·.splitter)).getD 0)
        (.inl ⟨evChildSurrendered, c.id, if cause = 0 then x.exitWord else 0, 0⟩) .child

/-- A context that is surrendered and all below it come to rest (R143): its threads first, then those of its children. The state
reached, and whether nothing is left to wait for; one that had stopped before waits for nothing of its own. -/
def restTree (s : State) (c : CtxId) : Nat → State × Bool
  | 0 => (s, false)
  | fuel + 1 =>
    match s.ctx c, unloadAll s c with
    | none, _ => (s, true)
    | some _, none => (s, false)
    | some x, some s1 =>
      let kids := childCtxs s1 c
      let s2 := kids.foldl (fun s d => s.updCtx d (fun y => y.stopFor (x.cause.getD 0) 0)) s1
      let r := kids.foldl (fun (m : State × Bool) d =>
        let q := restTree m.1 d fuel
        (q.1, m.2 && q.2)) (s2, true)
      (r.1, r.2 && (x.state != .stopping || quiet r.1 c))

/-- A context at rest and all below it end, the deepest first, with the child warrants that were never presented (R150). -/
def endTree (s : State) (c : CtxId) (silent : Bool) : Nat → State
  | 0 => s
  | fuel + 1 =>
    let s1 := (childCtxs s c).foldl (fun s d => endTree s d true fuel) s
    match s1.ctx c with
    | none => s1
    | some y =>
      let (s2, flags) := if y.cause = some 1 then dump s1 c y 1 else (s1, 0)
      let s3 := cancelChildren s2 c
      (s3.ctx c).elim s3 (fun z => endCtx s3 c z flags silent)

/-! ## STOP_COMPLETE (R140 to R143, R149, R155, R169) -/

/-- The state that a stop without surrender ends in. -/
def restState (cause : Nat) : CtxState := if cause = 2 ∨ cause = 3 then .faulted else if cause = 9 then .orphaned else .parked

/-- The event of a context that has come to rest, and the word of a faulted one. DEDUCED: log entry 47. -/
def restCode (cause : Nat) : Nat := if cause = 2 ∨ cause = 3 then 0x0111 else if cause = 9 then 0x0112 else 0x0114

/-- zext(TCAUSE, 64) of a context's unhandled trap. DEDUCED: log entry 47. -/
def trapWord (x : Ctx) (cause : Nat) : Nat := if cause = 2 then (x.fault.map (·.code)).getD 0 else 0

/-- A context comes to rest: its slots are free, its parent and its host hear of it. -/
def comeToRest (s : State) (c : CtxId) (x : Ctx) (cause : Nat) : State :=
  let (s, flags) := if cause = 2 ∨ cause = 3 then dump s c x cause else (s, 0)
  let s := s.updCtx c (fun y => { y with state := restState cause, slots := [] })
  let s := postEvent s c.peer x.doorFn (restCode cause) c.id cause flags x.serial (trapWord x cause)
  match x.parent with
  | none => s
  | some id =>
    if cause = 2 ∨ cause = 3 then
      let parent : CtxId := ⟨c.peer, id⟩
      let child := childOf s parent c.id
      deliver s parent ((child.map (·.splitter)).getD 0)
        (.inl ⟨evChildFaulted, c.id, BitVec.ofNat 64 (if cause = 2 then trapWord x cause else 3), 0⟩) .child
    else s

/-- A surrender goes on as far as it can now: once the whole tree is at rest it ends in one step (R150). A child whose parent is being
surrendered ends with that. -/
def surrender (s : State) (c : CtxId) : State :=
  let r := restTree s c 9
  let above := (s.ctx c).any (fun x => x.parent.any (fun id => ending s ⟨c.peer, id⟩))
  if r.2 && !above then endTree r.1 c ((s.ctx c).any (fun x => x.liveAs.isSome)) 9 else r.1

/-- A stop that parks or orphans writes the context's image; where no memory can hold it the stop ends in SURRENDERED (R149).
DEDUCED: log entry 46. DEDUCED: log entry 47. -/
def completeRest (s : State) (c : CtxId) (x : Ctx) (cause : Nat) : State :=
  if cause = 2 ∨ cause = 3 then comeToRest s c x cause
  else
    match writeWhole s c x cause with
    | some s' => comeToRest s' c x cause
    | none => surrender (s.updCtx c (fun y => { y with cause := some 6, exitWord := 0 })) c

/-! ## Stop causes fall on a context (R143, R151, R156) -/

/-- A stop cause falls on a context (R143): what it does depends on the state that it meets. A stop whose surrender has reached
the context's children is past STOPPING. An uncorrectable error makes a PARKED or ORPHANED context FAULTED (R151). -/
def stopCtx (s : State) (c : CtxId) (cause : Nat) (exit : Word) : State :=
  match s.ctx c with
  | none => s
  | some x =>
    match x.state with
    | .live => s.setCtx c (x.stop cause exit)
    | .stopping => if x.ending && (childCtxs s c).any (ending s) then s else s.setCtx c (x.stop cause exit)
    | .faulted => if cause = 5 then s.setCtx c (x.stopFor cause exit) else s
    | _ =>
      if surrenders cause then s.setCtx c (x.stopFor cause exit)
      else if cause = 3 ∧ !x.ending then comeToRest (s.setCtx c { x with cause := some 3 }) c x 3
      else s

/-- A stretch of bytes touches host memory, as a command's context sees it: a page that it reaches into lies there. -/
def inHost (s : State) (q : Cmd) (r : Word × Nat) : Bool :=
  r.2 != 0 && (r.1 :: (List.range ((r.1.toNat % 4096 + r.2 - 1) / 4096)).map (fun j => BitVec.ofNat 64 (r.1.toNat / 4096 * 4096 + 4096 * (j + 1)))).any
    (fun va => match cmdPlace s q va 1 1 0 with
      | .ok l => saKind l.ca == 5
      | _ => false)

/-- What a command's context has in memory at a VA; none where it reaches nothing. -/
def peek (s : State) (q : Cmd) (va : Word) (n : Nat) : Option Nat :=
  match cmdPlace s q va n 1 needR with
  | .ok l => (l.sa.or ((resolve s q.ctx l.ca).map (·.1))).map (fun sa => leNat (s.reads sa n))
  | _ => none

/-- The sources of a collective command: of the list that it has read, or as they stand in memory (R302). -/
def collSources (s : State) (q : Cmd) (rec_ list : Word) : List Word :=
  let n := if 32 ≤ q.record.length then leAt q.record 6 1 else (peek s q (rec_ + 6) 1).getD 0
  (List.range (min n 16)).map (fun j =>
    if 32 + 8 * (j + 1) ≤ q.record.length then collSource q j
    else BitVec.ofNat 64 ((peek s q (list + BitVec.ofNat 64 (8 * j)) 8).getD 0))

/-- The layout record of a command, as it has read it or as it stands in memory (R227). -/
def recordOf (s : State) (q : Cmd) (va : Word) : List Byte :=
  if q.record.length ≠ 0 then q.record else (List.range 64).map (fun j => BitVec.ofNat 8 ((peek s q (va + BitVec.ofNat 64 j) 1).getD 0))

/-- The stretches that a gather or scatter goes through (R301): the elements that its indices name, from `a`, and those in a row, at
`b`. -/
def indexedEnds (s : State) (q : Cmd) (r : List Byte) (a b : Word) : List (Word × Nat) :=
  let es : Nat := 2 ^ leAt r 4 1
  let iw := if leAt r 5 1 = 0 then 4 else 8
  (b, leAt r 0 4 * es) :: (List.range (leAt r 0 4)).map (fun j =>
    let x := signed (8 * iw) ((peek s q (BitVec.ofNat 64 (leAt r 8 8 + j * iw)) iw).getD 0)
    (a + BitVec.ofInt 64 (x * es), es))

/-- The elements of a stream operand. -/
def streamEnds (e : StreamOp) : List (Word × Nat) :=
  match e with
  | none => []
  | some e => (List.range e.count).map (fun j => (e.addr j, typeSize e.type))

/-- The stretches of memory that are sources and destinations of a command. -/
def cmdEnds (s : State) (q : Cmd) : List (Word × Nat) :=
  let needs (l : List Need) : List (Word × Nat) := l.map (fun d => (d.va, d.n))
  match q.work with
  | .cpy a b len => [(a, len), (b, len)]
  | .cpy2d rec_ a b =>
    let r := recordOf s q rec_
    (List.range (leAt r 0 4)).flatMap (fun j =>
      [(a + offW (j * leAt r 8 8), leAt r 4 4), (b + offW (j * leAt r 0x10 8), leAt r 4 4)])
  | .gath rec_ a b => indexedEnds s q (recordOf s q rec_) b a
  | .scat rec_ a b => indexedEnds s q (recordOf s q rec_) a b
  | .coll rec_ a list =>
    let r := recordOf s q rec_
    let n := leAt r 0 4 * typeSize (leAt r 4 1)
    (a, n) :: (collSources s q rec_ list).map (fun b => (b, n))
  | .vector _ sd sa sb _ _ _ _ => streamEnds sd ++ streamEnds sa ++ streamEnds sb
  | .mgemm .. => (List.range (gemmTotal q.record)).flatMap (fun j => needs (gemmNeeds { q with prog := j, budget := 0 }))
  | .mcvt rec_ .. => [(offW (leAt (recordOf s q rec_) 0x18 8), 4)]
  | w => needs w.needs

/-- Commands of a context whose source or destination is host memory end with ABORTED. -/
def abortHost (s : State) (c : CtxId) : State :=
  let qs := (s.cores.flatMap (fun e => e.2.cmds)).filter (fun q => q.ctx == c && !cmdDone s q && (cmdEnds s q).any (inHost s q))
  qs.foldl (fun s q => s.setCmd { q with started := true, entered := true, writes := [], runs := [], ended := some 0x1E }) s

/-- A stop of a context is completed, if it can be now. A stop for ORPHAN ends the commands that reach host memory, those too
that a region commits on its way (R156), and waits for the others. -/
def tryStop (s : State) (c : CtxId) : State :=
  match s.ctx c with
  | none => s
  | some x =>
    if x.ending then surrender s c
    else if x.state ≠ .stopping then s
    else
      let cause := x.cause.getD 0
      let s := if cause = 9 then abortHost s c else s
      match unloadAll s c with
      | none => s
      | some s' =>
        if cause = 9 ∧ !quiet s' c then s
        else
          match s'.ctx c with
          | some y => completeRest s' c y cause
          | none => s

/-- STOP_COMPLETE. -/
def execStopComplete (c : CtxId) (s : State) : Host.Outcome State Fault Refusal := .next (tryStop s c)

/-- A stop cause falls on a context, and the stop is completed if it can be at once. -/
def stopNow (s : State) (c : CtxId) (cause : Nat) (exit : Word) : State := tryStop (stopCtx s c cause exit) c

/-! ## Expiry, errors (R126, R151) -/

/-- A context has passed its window: by the time that is in force, or by one that was (R126). -/
def expired (s : State) (c : CtxId) (x : Ctx) : Bool :=
  x.expired || (!x.noTimeBound && (s.dev c.peer).timeA.isSome && decide (x.notAfter + s.dunc c.peer < s.dtime c.peer))

/-- Another time is about to be in force on a device: the expiries that have been reached stand (R126). -/
def keepExpiries (s : State) (peer : Nat) : State :=
  { s with ctxs := s.ctxs.map (fun (e : CtxId × Ctx) =>
      if e.1.peer = peer then (e.1, { e.2 with expired := expired s e.1 e.2 }) else e) }

/-- CONTEXT_EXPIRY: a FAULTED context ignores it (R143). -/
def execContextExpiry (c : CtxId) (s : State) : Host.Outcome State Fault Refusal :=
  .next (match s.ctx c with
    | some x => if expired s c x ∧ x.state ≠ .faulted then stopNow s c 1 0 else s
    | none => s)

/-- An uncorrectable error stops the context in FAULTED (R151); with the thread whose region is dropped, if there is one. -/
def memoryError (s : State) (c : CtxId) (t : Option Thread) : State :=
  (stopCtx s c 3 0).updCtx c (fun x =>
    { x with fault := x.fault.or (t.map (fun t => ⟨t.uid, t.tpc, t.tcause.toNat, t.tval, t.tstat⟩))
             faulted := (t.map (·.uid)).toList ++ x.faulted })

/-- The context that a line of memory belongs to. -/
def ownerOf (s : State) (line : Nat) : Option CtxId :=
  let a := 64 * line
  ((s.ctxs.filter (fun e => e.1.peer == saPeer a)).find? (fun e =>
    if saKind a = 3 then e.2.spans.any (fun sp => sp.has e.1.peer a) else e.2.pagesHeld.contains (a / 4096 * 4096))).map (·.1)

/-- ECC_ERROR: an uncorrectable error of a line is reported to the host too. DESIGN CHOICE: log entry 48. -/
def execEccError (e : Ecc) (s : State) : Host.Outcome State Fault Refusal :=
  .next (match e with
    | .corrected peer =>
      let d := s.dev peer
      s.setDev peer { d with corrected := d.corrected + 1 }
    | .line n =>
      match ownerOf s n with
      | some c =>
        let s := { s with poisoned := if s.poisoned.contains n then s.poisoned else s.poisoned ++ [n], repair := mdel s.repair n }
        errorReport (memoryError s c none) (saPeer (64 * n)) (64 * n) 2
      | none => s
    | .slot p =>
      match s.thread p with
      | none => s
      | some t => if t.region.fixed then memoryError s (t.ctxId p) (some t) else abortPlace s p true
    | .context c => memoryError s c none)

/-! ## Host commands (R149, R154) -/

/-- CMD shows the command that the host wrote. DEDUCED: log entry 89. -/
def showCmd (s : State) (c : CtxId) (cmd target : Nat) : State :=
  let d := s.dev c.peer
  s.setDev c.peer { d with cmd := BitVec.ofNat 64 (c.id + cmd * 2 ^ 16 + target * 2 ^ 20) }

/-- HOST_PARK. -/
def execHostPark (c : CtxId) (s : State) : Host.Outcome State Fault Refusal :=
  .next (stopNow (showCmd s c 1 0) c 7 0)

/-- A context goes back to LIVE: a loader takes its image, the slots of its whole cores are its own again, and its threads resume
(R140). A refused image changes nothing (R149). -/
def goLive (s : State) (c : CtxId) : State :=
  if (s.ctx c).any (fun x => pagesLoad s (x.whole.getD [])) then
    dropWhole (loadAll (s.updCtx c (fun x =>
      { x.takeBack with state := .live, cause := none, exitWord := 0, liveTo := none, liveAs := none })) c 100000) c
  else s

/-- HOST_RESUME: a context that has resumed elsewhere is not resumed here. -/
def execHostResume (c : CtxId) (s : State) : Host.Outcome State Fault Refusal :=
  let s := showCmd s c 2 0
  .next (match s.ctx c with
    | some x => if x.state = .parked ∧ x.liveAs.isNone ∧ !x.ending then goLive s c else s
    | none => s)

/-- HOST_SURRENDER. -/
def execHostSurrender (c : CtxId) (s : State) : Host.Outcome State Fault Refusal :=
  .next (stopNow (showCmd s c 3 0) c 5 0)

/-- A context may be live-migrated to a peer (R149): a root with MIGRATABLE, to a peer of its mask that is up. -/
def migratable (s : State) (c : CtxId) (x : Ctx) (target : Nat) : Bool :=
  x.parent.isNone && x.flags.toNat / 32 % 2 == 1 && x.mask / 2 ^ target % 2 == 1 && target != c.peer
    && (s.dev c.peer).peersUp.contains target

/-- HOST_LIVE_MIGRATE: the context is stopped for it; the image of one that is parked is written anew, as one of kind 2. -/
def execHostLiveMigrate (c : CtxId) (target : Nat) (s : State) : Host.Outcome State Fault Refusal :=
  let s := showCmd s c 4 target
  .next (match s.ctx c with
    | some x =>
      if !migratable s c x target || x.liveAs.isSome then s
      else
        let x := { x with liveTo := some target }
        if x.state = .parked then (writeWhole (s.setCtx c x) c x 8).getD (s.setCtx c x) else stopNow (s.setCtx c x) c 8 0
    | none => s)

/-- LIVE_MIGRATION_RELEASE: the source releases everything, and posts no surrender event. -/
def execLiveMigrationRelease (c : CtxId) (s : State) : Host.Outcome State Fault Refusal :=
  .next (match s.ctx c with
    | some x =>
      if x.state = .parked ∧ x.liveAs.isSome then surrender (s.setCtx c (x.stopFor 5 0)) c else s
    | none => s)

/-! ## Functions (R156, R157) -/

/-- A context of a function that goes down is brought to STOPPING for ORPHAN (R156); the hold time counts from now on. One that has
stopped before keeps its state (R140). DEDUCED: log entry 46. -/
def orphan (s : State) (c : CtxId) : State :=
  stopNow (s.updCtx c (fun x => { x with orphanedAt := s.now })) c 9 0

/-- A function goes down: its rings stop, presentations taken from them are refused, and if contexts are attached its generation
goes on and they are orphaned. An ORPHANED context is attached to no function. DEDUCED: log entry 46. -/
def functionDown (s : State) (peer fn : Nat) : State :=
  let at_ := (s.ctxs.filter (fun e => e.1.peer == peer && e.2.doorFn == fn && e.2.state != .orphaned)).map (·.1)
  let d := s.door peer fn
  let s := s.setDoor peer fn { d with enabled := false, gen := if at_.isEmpty then d.gen else d.gen + 1 }
  let dv := s.dev peer
  let gone := dv.press.filter (fun r => r.fn == some fn)
  let s := s.setDev peer { dv with press := dv.press.filter (fun r => r.fn != some fn) }
  let s := gone.foldl (fun s r => cancelPres s peer r) s
  at_.foldl orphan s

/-- VF_ENABLE_CLEAR: every virtual function goes down. -/
def execVfEnableClear (peer : Nat) (s : State) : Host.Outcome State Fault Refusal :=
  .next ((List.range 64).foldl (fun s n => functionDown s peer (n + 1)) s)

/-- FUNCTION_LEVEL_RESET of a virtual function. -/
def execFunctionLevelReset (peer fn : Nat) (s : State) : Host.Outcome State Fault Refusal :=
  .next (if 1 ≤ fn ∧ fn ≤ 64 then functionDown s peer fn else s)

/-- The hold time of an orphaned context has lapsed, in ns (R154, R157). -/
def holdLapsed (s : State) (c : CtxId) (x : Ctx) : Bool :=
  decide ((s.dev c.peer).ohold.toNat * 1000000 ≤ nsOf (s.now - x.orphanedAt))

/-- The function that wins a token: of the virtual functions that hold it and have been enabled since the orphaning, the one whose
ATOKEN was written first (R157). DESIGN CHOICE: log entry 79. -/
def tokenWinner (d : Device) (token : Word) (since : Nat) : Option Nat :=
  ((d.doors.filter (fun e => e.1 != 0 && e.2.enabled && decide (since ≤ e.2.enabledAt) && e.2.atoken == token)).foldl (fun (m : Option (Nat × Door)) e => match m with
    | none => some e
    | some b => if e.2.tokenAt < b.2.tokenAt ∨ e.2.tokenAt = b.2.tokenAt ∧ e.1 < b.1 then some e else some b) none).map (·.1)

/-- An orphaned context reattaches to a function: its page requests go out again (R157). Where the loader refuses its image nothing
changes (R149). -/
def reattach (s : State) (c : CtxId) (fn : Nat) : State :=
  match s.ctx c with
  | none => s
  | some x =>
    if !pagesLoad s (x.whole.getD []) then s
    else
      let gen := (s.door c.peer fn).gen.toNat
      let s := s.setCtx c { x with doorFn := fn, requests := x.requests.map (fun r => (r.1, gen)) }
      goLive (postEvent s c.peer fn 0x0113 c.id 0 0 x.serial 0) c

/-- VF_ENABLE. -/
def execVfEnable (peer fn : Nat) (s : State) : Host.Outcome State Fault Refusal :=
  .next (if fn = 0 ∨ 64 < fn then s
    else
      let d := s.door peer fn
      let s := flushEntries (s.setDoor peer fn { d with enabled := true, enabledAt := s.now }) peer fn 257
      let mine := s.ctxs.filter (fun e => e.1.peer == peer && e.2.state == .orphaned && !e.2.ending && e.2.token != 0 && e.2.token == d.atoken
        && !holdLapsed s e.1 e.2)
      mine.foldl (fun s e => if tokenWinner (s.dev peer) d.atoken e.2.orphanedAt = some fn then reattach s e.1 fn else s) s)

/-- ORPHAN_TIMEOUT. -/
def execOrphanTimeout (c : CtxId) (s : State) : Host.Outcome State Fault Refusal :=
  .next (match s.ctx c with
    | some x => if x.state = .orphaned ∧ holdLapsed s c x then stopNow s c 4 0 else s
    | none => s)

end Sys2Proof.Machine
end

