-- ==== Sys2Proof/Machine/Reclaim.lean ====
section
/-! DEFINITION. Slots reclaimed and returned (R30, R135, R136, R144, R380). -/

namespace Sys2Proof.Machine

/-! ## Who needs a slot (R135) -/

/-- General slots that a context may hold: its grant, less what it is giving up. -/
def Ctx.slotGrant (x : Ctx) : Nat := x.block.slots - x.owed.slots

/-- A kernel has an item to hand out, or an entry that waits for a slot. -/
def Kernel.waits (k : Kernel) : Bool :=
  (k.items != 0 && !k.handed) || (k.mask != 0 && !k.closed && k.entries.any (fun e => e.state == .pending))

/-- A context has waiting work: an image, an undistributed item, a task, or a spawn. -/
def hasWork (s : State) (c : CtxId) (x : Ctx) : Bool :=
  !x.images.isEmpty || x.kernels.any Kernel.waits || s.packets.any (fun k => k.ctx == c && (match k.body with
    | .spawn .. => true
    | _ => false))

/-- A slot bound to a kernel of the context is not held by it (R380). -/
def Ctx.lacksBound (x : Ctx) : Bool := x.kernels.any (fun k => k.bound.any (fun e => !x.slots.contains e))

/-- A slot holds a thread of another context: a Guaranteed context's idle slot runs a Scavenger's (R135). -/
def lentAt (s : State) (c : CtxId) (e : Nat × Nat) : Bool := (s.thread ⟨c.peer, e.1, e.2⟩).any (fun t => t.ctx != c.id)

/-- The slots of a context in which it may run its threads. -/
def ownSlots (s : State) (c : CtxId) (x : Ctx) : List (Nat × Nat) := x.slots.filter (fun e => !lentAt s c e)

/-- A context wants one more general slot. DEDUCED: log entry 44. -/
def wantsSlot (s : State) (c : CtxId) (x : Ctx) : Bool :=
  x.state == .live && x.fractional && decide ((ownSlots s c x).length < x.slotGrant)
    && ((s.freeSlots c).isEmpty || x.lacksBound) && hasWork s c x

/-- The place of a context in the order in which freed slots go (R135 item 5); the lower comes first. -/
def slotRank (d : Device) (x : Ctx) : Nat × Int :=
  let first := x.images.foldl (fun (m : Option Nat) i => match m with
    | none => some i.since
    | some b => some (min b i.since)) none
  if x.cls = 0 then (0, 0)
  else if x.cls = 2 then (4, 0)
  else if x.slots.length < slotFloor d x then (1, (x.slots.length : Int) - slotFloor d x)
  else match first with
    | some n => (2, n)
    | none => (3, 0)

/-- One context comes before another. -/
def rankBefore (a b : Nat × Int) : Bool := decide (a.1 < b.1) || (a.1 == b.1 && decide (a.2 < b.2))

/-- The contexts that want a slot of a core, first in the order first; the lower id among equals. -/
def wanting (s : State) (peer core : Nat) : List (CtxId × Ctx) :=
  let d := s.dev peer
  inOrder (fun a b => rankBefore (slotRank d a.2) (slotRank d b.2)
      || (slotRank d a.2 == slotRank d b.2 && decide (a.1.id ≤ b.1.id)))
    (s.ctxs.filter (fun e => e.1.peer == peer && e.2.coreHome == core && wantsSlot s e.1 e.2))

/-! ## Yielding a slot (R135) -/

/-- The later of some places, by CORE and slot. -/
def highest (l : List (Nat × Nat)) : Option (Nat × Nat) :=
  l.foldl (fun (m : Option (Nat × Nat)) e => match m with
    | none => some e
    | some b => if b.1 < e.1 ∨ b.1 = e.1 ∧ b.2 < e.2 then some e else some b) none

/-- The region of a place's thread is pinned or exclusive. -/
def placeFixed (s : State) (p : Place) : Bool := match s.thread p with
  | some t => t.region.fixed
  | none => false

/-- A context yields one of some slots: one without a thread, else the highest whose region is neither pinned nor exclusive. Where
no memory can hold the image of its thread the context is stopped for IMAGE_SPACE (R149). DEDUCED: log entry 44. -/
def yieldSlot (s : State) (c : CtxId) (slots : List (Nat × Nat)) : Option (State × (Nat × Nat)) :=
  let at_ (e : Nat × Nat) : Place := ⟨c.peer, e.1, e.2⟩
  let take (s : State) (e : Nat × Nat) : State := s.updCtx c (fun x => { x with slots := x.slots.filter (· != e) })
  match highest (slots.filter (fun e => s.slotFree (at_ e))) with
  | some e => some (take s e, e)
  | none =>
    match highest (slots.filter (fun e => !placeFixed s (at_ e) && !s.migs.any (fun m => m.dst == at_ e && !m.landed))) with
    | some e => (unloadSlot s (at_ e)).map (fun r => (if r.2 then take r.1 e else stopNow r.1 c 6 0, e))
    | none => none

/-- The slots that a context's decrease may take: those of the cores that go, or any. -/
def Ctx.owedSlots (x : Ctx) : List (Nat × Nat) :=
  if x.owed.cores = 0 then x.slots
  else
    let kept := (inOrder (fun a b => decide (a ≤ b)) x.cores).take (x.cores.length - x.owed.cores)
    x.slots.filter (fun e => !kept.contains e.1)

/-- A slot given up goes to the parent, with its core once no slot of it is left, whose grant then ends (R60). -/
def handOn (s : State) (c : CtxId) (e : Nat × Nat) : State :=
  match s.ctx c with
  | none => s
  | some x =>
    let left := x.owed.cores != 0 && !x.slots.any (fun v => v.1 == e.1)
    let s := if left then resetCores (s.setCtx c { x with cores := x.cores.filter (· != e.1) }) c.peer [e.1] else s
    match x.parent with
    | none => s
    | some id =>
      s.updCtx ⟨c.peer, id⟩ (fun y =>
        { y with
          slots := y.slots ++ [e]
          cores := if left then y.cores ++ [e.1] else y.cores
          children := y.children.map (fun (ch : Child) =>
            if ch.presented = some c.id then
              { ch with slots := ch.slots.filter (· != e), cores := if left then ch.cores.filter (· != e.1) else ch.cores }
            else ch) })

/-- One slot of a decrease is released, and the decrease takes effect if it was the last (R136). -/
def releaseSlot (s : State) (c : CtxId) (x : Ctx) : Option State :=
  (yieldSlot s c x.owedSlots).map (fun r => settleOwed (handOn r.1 c r.2) c)

/-- A context still has slots to release. -/
def Ctx.owesSlots (x : Ctx) : Bool := x.owed.slots != 0 && decide (x.slotGrant < x.slots.length)

/-- Slots of a decrease without a thread are released at once. DEDUCED: log entry 51. -/
def releaseIdle (s : State) (c : CtxId) : Nat → State
  | 0 => settleOwed s c
  | fuel + 1 =>
    match s.ctx c with
    | none => s
    | some x =>
      if x.owesSlots && x.owedSlots.any (fun e => s.slotFree ⟨c.peer, e.1, e.2⟩) then
        match releaseSlot s c x with
        | some s' => releaseIdle s' c fuel
        | none => s
      else settleOwed s c

/-- A slot is an idle one of another Guaranteed context than the one that needs it. -/
def lentBy (s : State) (peer : Nat) (needy : CtxId) (e : Nat × Nat) : Bool :=
  s.ctxs.any (fun d => d.1.peer == peer && d.1 != needy && d.2.cls == 0 && d.2.slots.contains e)

/-- The slots that a context may have to yield to another: those in which it may run threads, but for a third context's idle
ones. -/
def yieldable (s : State) (victim : CtxId) (x : Ctx) (needy : CtxId) : List (Nat × Nat) :=
  (ownSlots s victim x).filter (fun e => !lentBy s victim.peer needy e)

/-- A slot that a victim has yielded is another context's: its own again, or in the place of one that a Scavenger runs in. -/
def Ctx.takeSlot (s : State) (c : CtxId) (x : Ctx) (e : Nat × Nat) : Ctx :=
  if x.slots.contains e then x
  else
    match x.slots.find? (lentAt s c) with
    | some v => { x with slots := x.slots.filter (· != v) ++ [e] }
    | none => { x with slots := x.slots ++ [e] }

/-- The contexts of a core that may have to yield a slot to another: Scavengers, or for one with a claim on it Burstable ones
above their floors. DEDUCED: log entry 44. -/
def victimsOn (s : State) (peer core : Nat) (needy : CtxId × Ctx) : List (CtxId × Ctx) :=
  let d := s.dev peer
  let there := s.ctxs.filter (fun e => e.1.peer == peer && e.1 != needy.1 && e.2.fractional && e.2.coreHome == core
    && !(yieldable s e.1 e.2 needy.1).isEmpty && e.2.state == .live)
  let scav := there.filter (fun e => e.2.cls == 2)
  if needy.2.cls = 2 then []
  else if !scav.isEmpty then scav
  else if needy.2.cls = 0 ∨ needy.2.slots.length < slotFloor d needy.2 then
    there.filter (fun e => e.2.cls == 1 && decide (slotFloor d e.2 < e.2.slots.length))
  else []

/-- A slot of a victim goes to a context on the same core that needs it. -/
def reclaimFor (s : State) (victim : CtxId) (x : Ctx) : Option State :=
  match wanting s victim.peer x.coreHome with
  | [] => none
  | needy :: _ =>
    if !(freeOn s victim.peer x.coreHome).isEmpty || oldestCommit (victimsOn s victim.peer x.coreHome needy) != some victim then none
    else (yieldSlot s victim (yieldable s victim x needy.1)).map (fun r =>
      r.1.updCtx needy.1 (fun y => y.takeSlot r.1 needy.1 r.2))

/-- SLOT_RECLAIM: a slot of a decrease, or one that another context needs. -/
def execSlotReclaim (victim : CtxId) (s : State) : Host.Outcome State Fault Refusal :=
  .next (match s.ctx victim with
    | none => s
    | some x =>
      if x.owesSlots then (releaseSlot s victim x).getD s
      else if x.fractional && x.state == .live then (reclaimFor s victim x).getD s
      else s)

/-! ## Returning a slot (R135, R140, R144, R380) -/

/-- Slots of Guaranteed contexts on a core that hold no thread and wait for none: they may run Scavenger threads (R135). -/
def idleSlots (s : State) (c : CtxId) (x : Ctx) : List (Nat × Nat) :=
  (s.ctxs.filter (fun e => e.1.peer == c.peer && e.2.cls == 0 && e.2.fractional && e.2.coreHome == x.coreHome
      && !hasWork s e.1 e.2)).flatMap (fun e =>
    (s.freeSlots e.1).filter (fun v => (ctxsOf s c.peer).all (fun y => y.cls == 0 || !y.slots.contains v)))

/-- The slots of a context's core that may come to it: those that nothing holds, its own on a core that its parent holds whole,
and for a Scavenger idle ones of Guaranteed contexts. -/
def returnable (s : State) (c : CtxId) (x : Ctx) : List (Nat × Nat) :=
  let own := match x.parent with
    | some id => ((childOf s ⟨c.peer, id⟩ c.id).map (fun (ch : Child) => ch.slots)).getD []
    | none => []
  let carved := own.filter (fun e => !x.slots.contains e && s.slotFree ⟨c.peer, e.1, e.2⟩
    && (ctxsOf s c.peer).all (fun y => !y.slots.contains e))
  ((freeOn s c.peer x.coreHome).map (fun n => (x.coreHome, n))) ++ (if coreOwned s c.peer x.coreHome then carved else [])
    ++ (if x.cls = 2 then idleSlots s c x else [])

/-- The slot that comes back first: one bound to a kernel of the context, else the lowest. -/
def returnSlot (s : State) (c : CtxId) (x : Ctx) : Option (Nat × Nat) :=
  let l := returnable s c x
  (lowest (l.filter (fun e => x.kernels.any (fun k => k.bound.contains e)))).or (lowest l)

/-- A context takes a free slot of its core, if of those that may take one it comes first in the order of R135. -/
def gainSlot (s : State) (c : CtxId) (x : Ctx) : Option State :=
  if ((wanting s c.peer x.coreHome).find? (fun e => (returnSlot s e.1 e.2).isSome)).map (·.1) != some c then none
  else (returnSlot s c x).map (fun e => s.setCtx c { x with slots := x.slots ++ [e] })

/-- SLOT_RETURN: a pre-empted thread resumes in a slot that its context holds, or that comes back to it. -/
def execSlotReturn (c : CtxId) (s : State) : Host.Outcome State Fault Refusal :=
  .next (match s.ctx c with
    | none => s
    | some x =>
      if x.state ≠ .live then s
      else
        match loadNext s c x with
        | some s' => s'
        | none =>
          match gainSlot s c x with
          | none => s
          | some s' =>
            match s'.ctx c with
            | some y => (loadNext s' c y).getD s'
            | none => s')

end Sys2Proof.Machine
end

