-- ==== Sys2Proof/Machine/Builds.lean ====
section
/-! DEFINITION. Code images (R44) and the build of contexts from warrants and slips (R112, R120, R121, R149, R153, R166,
R371). -/

namespace Sys2Proof.Machine

/-! ## Code images (R44) -/

/-- A code image. -/
structure Code where
  textVA : Nat
  entry : Nat
  dataVA : Nat
  words : Nat
  text : List Byte
  pool : List Byte
  data : List Byte
  deriving DecidableEq, Repr

/-- Bytes of the pool bitmap of a text. -/
def poolBytes (words : Nat) : Nat := roundUp ((words + 7) / 8) 8

/-- The length of an image, from its header. -/
def codeLength (h : List Byte) : Nat := 64 + leAt h 0x10 4 + poolBytes (leAt h 0x10 4 / 4) + leAt h 0x20 4

/-- Bit `n` of a bitmap. -/
def bitOf (bs : List Byte) (n : Nat) : Bool := (bs[n / 8]?.getD 0).toNat / 2 ^ (n % 8) % 2 == 1

/-- The image that some bytes hold, if it keeps R44; bytes behind it are not looked at. DESIGN CHOICE: log entry 55. -/
def parseCode (bs : List Byte) : Option Code :=
  let tva := leAt bs 8 8
  let tlen := leAt bs 0x10 4
  let entry := leAt bs 0x14 4
  let dva := leAt bs 0x18 8
  let dlen := leAt bs 0x20 4
  let words := tlen / 4
  let pool := (bs.drop (64 + tlen)).take (poolBytes words)
  let pages (n : Nat) : Nat := roundUp n 4096
  if decide (64 ≤ bs.length) && leAt bs 0 4 == 0x5A494D31 && leAt bs 4 2 == 0x0100 && zeros bs 6 2 && zeros bs 0x24 28
      && tva % 4096 == 0 && tlen != 0 && tlen % 4 == 0 && entry % 4 == 0 && decide (entry < tlen)
      && (if dlen = 0 then dva == 0 else dva % 4096 == 0) && decide (codeLength bs ≤ bs.length)
      && (List.range (8 * poolBytes words - words)).all (fun n => !bitOf pool (words + n)) && !bitOf pool (entry / 4)
      && (dlen == 0 || decide (tva + pages tlen ≤ dva) || decide (dva + pages dlen ≤ tva)) then
    some { textVA := tva, entry := entry, dataVA := dva, words := words, text := (bs.drop 64).take tlen, pool := pool
           data := (bs.drop (64 + tlen + poolBytes words)).take dlen }
  else none

/-- Pages of an image's text, and of its data. -/
def Code.textPages (k : Code) : Nat := (k.text.length + 4095) / 4096
def Code.dataPages (k : Code) : Nat := (k.data.length + 4095) / 4096

/-- Bytes written to some pages, in order. -/
def fillPages (s : State) : List Nat → List Byte → State
  | [], _ => s
  | sa :: rest, bs => fillPages (s.writes sa (bs.take 4096)) rest (bs.drop 4096)

/-! ## The entry thread (R112, R371) -/

/-- The VA and the number of the scratch bytes granted on a core. DESIGN CHOICE: log entry 7, both are 0 where the context has none
there, for which the spec names no VA. -/
def scratchOn (spans : List Span) (core : Nat) : Nat × Nat :=
  let mine := spans.filter (fun sp => sp.core == core)
  match mine.foldl (fun (m : Option Nat) sp => match m with
      | none => some sp.off
      | some b => some (min b sp.off)) none with
  | some off => (0xFFFFFFFFFFFE0000 + off, (mine.map (·.len)).sum)
  | none => (0, 0)

/-- The entry thread of a context as it starts on a core. -/
def entryThread (uid : Nat) (c : CtxId) (x : Ctx) (core : Nat) (pc : Word) (serial : Nat) (arg : Word) : Thread :=
  let v := scratchOn x.spans core
  { (Thread.new uid c.id pc ⟨c.peer, core, 0⟩).start
      [(8, BitVec.ofNat 64 serial), (9, BitVec.ofNat 64 v.1), (10, BitVec.ofNat 64 v.2), (11, arg)] [] with
    role := .entry
    slk := 0x200
    slkdef := 0x200
    seen := x.text.version }

/-- The entry thread starts in the context's lowest slot; while the context holds none it waits for one as a pre-empted thread
does (R120, R135). DESIGN CHOICE: log entry 7, its aperture core while it waits, and when its slot comes, is the grant's core. -/
def startEntry (s : State) (c : CtxId) (x : Ctx) (pc : Word) (serial : Nat) (arg : Word) : State :=
  let (uid, s) := s.fresh
  match lowest x.slots with
  | some (core, slot) => placeThread s ⟨c.peer, core, slot⟩ (entryThread uid c x core pc serial arg)
  | none =>
    let t := entryThread uid c x x.coreHome pc serial arg
    let m := imageOf s ⟨c.peer, x.coreHome, 0⟩ t .none false
    s.updCtx c (fun y => { y with images := y.images ++ [m] })

/-! ## A context comes into being (R120, R121) -/

/-- The records of HBM-grant pages. -/
def pageRecords (s : State) (pages : List Nat) : List Page :=
  pages.map (fun sa => ⟨sa, residenceOf sa, s.now⟩)

/-- A context is entered: its pages zeroed, its whole cores reset, its limiters at the rates of its grant (R364). -/
def enterCtx (s : State) (c : CtxId) (x : Ctx) : State :=
  let s := zeroPages s (x.hbm.map (·.sa) ++ x.tier2)
  (resetCores s c.peer x.cores).setCtx c (x.reckon s.now)

/-- The barriers of a warrant's block. -/
def recBarriers (r : List Byte) : Nat := (Block.ofBytes (r.drop 0x40)).barriers

/-- The record of a warrant as the fields of its context. -/
def warrantCtx (s : State) (r : List Byte) (q : Plan) (token : Word) : Ctx :=
  let b := Block.ofBytes (r.drop 0x40)
  { Ctx.new with
    cls := leAt r 0x11 1
    flags := BitVec.ofNat 16 (leAt r 6 2)
    rootSerial := leAt r 8 8
    serial := leAt r 8 8
    key := leAt r 0x10 1
    domain := leAt r 0x28 4
    mask := leAt r 0x30 16
    home := leAt r 0x14 1
    notBefore := leAt r 0x18 8
    notAfter := leAt r 0x20 8
    imageVA := BitVec.ofNat 64 (leAt r 0xE0 8)
    doorFn := leAt r 0xE8 4
    token := token
    block := b
    granted := b
    coreHome := q.core
    slots := q.slots
    cores := if b.cores = 0 then [] else q.cores
    spans := q.spans
    hbm := pageRecords s q.hbm
    tier2 := q.tier2
    cap := (q.hbm.filter inHbm).length
    lastCommit := s.now }

/-- The context's text and data, in the first pages of its HBM grant. DEDUCED: log entry 6. -/
def Ctx.withCode (x : Ctx) (k : Code) : Ctx :=
  { x with
    text := ⟨0, k.textVA, k.words, k.pool, (x.hbm.map (·.sa)).take k.textPages⟩
    dataVA := k.dataVA
    dataLen := k.data.length
    textOff := 0
    dataOff := 4096 * k.textPages }

/-- A context is built from a warrant (R120): its id, its image, its counters, its entry thread. -/
def buildRoot (s : State) (peer : Nat) (r : List Byte) (q : Plan) (k : Code) (token : Word) : State :=
  let c : CtxId := ⟨peer, q.ctx⟩
  let x := { (warrantCtx s r q token).withCode k with barAt := barPlaces s peer (recBarriers r) }
  let s := enterCtx (zeroSpans s peer x.spans) c x
  let pages := x.hbm.map (·.sa)
  let s := fillPages (fillPages s pages k.text) (pages.drop k.textPages) k.data
  let s := s.capUpdate peer (fun d => d.count x.cls (1 :: grantKinds) x.granted true)
  startEntry s c x (BitVec.ofNat 64 (k.textVA + k.entry)) x.serial 0

/-- The id and the pages of a slip's context: the plan's if the device may take them, else the lowest; none only where no id is
free (R121). -/
def choosePages (s : State) (peer : Nat) (b : Block) : Option (Nat × List Nat × List Nat × State) :=
  let own : Option (Nat × List Nat × List Nat × State) :=
    (freeId s peer).map (fun id => (id, (planPages s peer b).1, (planPages s peer b).2, s))
  match s.plan with
  | q :: rest =>
    if decide (q.ctx < 16384) && (s.ctx ⟨peer, q.ctx⟩).isNone && q.pagesOk s peer b then
      some (q.ctx, q.hbm, q.tier2, { s with plan := rest })
    else own
  | [] => own

/-- The fields of a context built from a child warrant (R112, R121). -/
def childFields (s : State) (x : Ctx) (parent : Nat) (ch : Child) (hbm tier2 : List Nat) (fn : Nat) (token : Word) : Ctx :=
  { Ctx.new with
    cls := x.cls
    flags := BitVec.ofNat 16 (x.flags.toNat / 2 * 2 + (if ch.block.cores = 0 then 1 else 0))
    rootSerial := x.rootSerial
    serial := ch.serial
    parent := some parent
    key := x.key
    domain := x.domain
    mask := x.mask
    home := x.home
    notBefore := x.notBefore
    notAfter := x.notAfter
    imageVA := x.imageVA
    doorFn := fn
    token := token
    block := ch.block
    granted := ch.block
    coreHome := (ch.slots.map (·.1)).headD 0
    slots := ch.slots
    cores := ch.cores
    spans := ch.spans
    barAt := ch.barAt
    hbm := pageRecords s hbm
    tier2 := tier2
    shared := ch.text.pages
    text := ch.text
    textOff := 4096 * (hbm.length + tier2.length)
    cap := (hbm.filter inHbm).length
    lastCommit := s.now }

/-- A context is built from a child warrant. -/
def buildChild (s : State) (parent : CtxId) (x : Ctx) (ch : Child) (id : Nat) (hbm tier2 : List Nat) (fn : Nat) (token arg : Word) :
    State :=
  let c : CtxId := ⟨parent.peer, id⟩
  let y := childFields s x parent.id ch hbm tier2 fn token
  let s := s.updCtx parent (fun x => { x with children := x.children.map (fun (k : Child) =>
    if k.serial = ch.serial then { k with presented := some id } else k) })
  let s := enterCtx s c y
  let s := s.capUpdate parent.peer (fun d => d.count y.cls [1] y.granted true)
  startEntry s c y ch.entryPC ch.serial arg

/-! ## Live migration (R149) -/

/-- Places of the old grant under those of the new one, page by page. -/
def mapPlace (olds news : List Nat) (a : Nat) : Nat :=
  match (olds.zip news).find? (fun e => e.1 == a) with
  | some e => e.2
  | none => a

/-- A CORE value of the old grant under the new one. -/
def mapCore (olds news : List Nat) (core : Nat) : Nat := mapPlace olds news core

/-- Bytes of some spans in order. -/
def spanBytes (s : State) (peer : Nat) (spans : List Span) : List Byte :=
  spans.flatMap (fun sp => s.reads (scratchSa peer sp.core sp.off) sp.len)

/-- Bytes written to some spans in order. -/
def fillSpans (s : State) (peer : Nat) : List Span → List Byte → State
  | [], _ => s
  | sp :: rest, bs => fillSpans (s.writes (scratchSa peer sp.core sp.off) (bs.take sp.len)) peer rest (bs.drop sp.len)

/-- Contents of some places copied to others. -/
def copyPages (s : State) (olds news : List Nat) : State :=
  (olds.zip news).foldl (fun s e => s.writes e.2 (s.reads e.1 4096)) s

/-- The same cores, slots and scratch on the target, if they are free there. -/
def samePlaces (s : State) (x : Ctx) (peer : Nat) : Option (Nat × List (Nat × Nat) × List Span) :=
  let free := if x.fractional then
      fitsOn s peer x.coreHome x.cls x.block && x.spans.all (fun sp => gapFree (spansOn s peer sp.core) sp.off sp.len)
    else x.cores.all (coreFree s peer)
  if free then
    some (x.coreHome, if x.fractional then ((freeOn s peer x.coreHome).take x.block.slots).map (fun n => (x.coreHome, n))
      else slotsOf x.cores, x.spans)
  else none

/-- The plan of a live migration: the same cores if they are free on the target, else those of a fresh grant.
DEDUCED: log entry 28. -/
def movePlan (s : State) (x : Ctx) (peer : Nat) : Option Plan :=
  let b := { x.block with hbm := 4096 * x.hbm.length, tier2 := 4096 * x.tier2.length }
  match freeId s peer, (samePlaces s x peer).or (if x.fractional then planShare s peer x.cls b else planWhole s peer b) with
  | some id, some (core, slots, spans) =>
    let pages := planPages s peer b
    some ⟨id, core, slots, spans, pages.1, pages.2⟩
  | _, _ => none

/-- An image on the target: its threads run under the new id, on the new cores. -/
def Image.moved (m : Image) (peer id : Nat) (f : Nat → Nat) : Image :=
  { m with
    core := f m.core
    whole := true
    thread := { m.thread with ctx := id, apCore := f m.thread.apCore, launchCore := f m.thread.launchCore, launchPeer := peer }
    oclaims := m.oclaims.map (fun (e : Nat × Claim) => (e.1, { e.2 with ctx := id }))
    tclaims := m.tclaims.map (fun (e : Nat × Claim) => (e.1, { e.2 with ctx := id })) }

/-- A context as it stands on the target: what its image carries, limiter levels too (R148, R149). -/
def movedCtx (s : State) (x : Ctx) (peer : Nat) (q : Plan) : Ctx :=
  let olds := x.hbm.map (·.sa) ++ x.tier2
  let news := q.hbm ++ q.tier2
  let f (core : Nat) : Nat := mapCore (if x.fractional then [x.coreHome] else x.cores) (if x.fractional then [q.core] else q.cores) core
  let t : Text := { x.text with pages := x.text.pages.map (mapPlace olds news) }
  { x with
    coreHome := q.core
    slots := q.slots
    cores := if x.fractional then [] else q.cores
    spans := q.spans
    granted := x.block
    owed := Block.zero
    hbm := pageRecords s q.hbm
    tier2 := q.tier2
    cap := (q.hbm.filter inHbm).length
    text := t
    oldTexts := []
    children := []
    lp := []
    barAt := barPlaces s peer x.block.barriers
    whole := none
    extents := []
    requests := []
    asked := []
    queues := x.queues.map (fun (e : Nat × Queue) => (e.1, { e.2 with pages := e.2.pages.map (mapPlace olds news) }))
    kernels := x.kernels.map (fun (k : Kernel) => { k with bound := k.bound.map (fun e => (f e.1, e.2)) })
    images := x.images.map (fun m => m.moved peer q.ctx f) }

/-- The shared banks and matrix registers of a context's cores go with it. -/
def copyCores (s : State) (c d : CtxId) (x y : Ctx) : State :=
  let s := (x.cores.zip y.cores).foldl (fun s e =>
    let k := (s.core ⟨c.peer, e.1⟩).settleAll
    s.updCore ⟨d.peer, e.2⟩ (fun n => { n with j := k.j, g := k.g, vshare := k.vshare, mseq := k.mseq })) s
  ((x.cores ++ [x.coreHome]).zip (y.cores ++ [y.coreHome])).foldl (fun s e =>
    s.updCore ⟨d.peer, e.2⟩ (fun n => { n with mregs := mset n.mregs d.id ((s.core ⟨c.peer, e.1⟩).mat c.id) })) s

/-- The image of kind 2 that a context's stop has written, if the target's loader takes it (R149). -/
def sentImage (s : State) (x : Ctx) : Bool :=
  x.whole.any (fun pages =>
    let bs := bytesOf s pages
    leAt bs 2 2 / 2 ^ 14 == 2 && imageAccepts bs)

/-- LIVE_MIGRATION_IMAGE: the target takes the image, builds the context with an id of its own, without a redemption, and resumes
it. -/
def execLiveMigrationImage (c : CtxId) (target : Nat) (s : State) : Host.Outcome State Fault Refusal :=
  .next (match s.ctx c with
    | none => s
    | some x =>
      if x.state ≠ .parked ∨ x.liveTo ≠ some target ∨ x.liveAs.isSome ∨ x.ending ∨ !migratable s c x target ∨ !(s.dev target).ready
          ∨ !sentImage s x
          ∨ !classTest s target x.cls Block.zero x.block true then s
      else
        match movePlan s x target with
        | none => s
        | some q =>
          let d : CtxId := ⟨target, q.ctx⟩
          let y := movedCtx s x target q
          let bytes := spanBytes s c.peer x.spans
          let olds := x.hbm.map (·.sa) ++ x.tier2
          let s := enterCtx s d y
          let s := copyCores (fillSpans (copyPages s olds (q.hbm ++ q.tier2)) target y.spans bytes) c d x y
          let s := s.capUpdate target (fun v => v.count y.cls (1 :: grantKinds) y.granted true)
          goLive (s.updCtx c (fun v => { v with liveAs := some q.ctx })) d)

end Sys2Proof.Machine
end

