-- ==== Sys2Proof/Machine/Admit.lean ====
section
/-! DEFINITION. Presentation: warrants, slips, time certificates, capacity declarations, enrolment and revocation, from a
function's ring or by PRESENT and WACCEPT (R118 to R131, R153, R159, R164 to R166). -/

namespace Sys2Proof.Machine

/-! ## Kinds of record (R119) -/

/-- The records that may be presented. -/
inductive RecKind where
  | slip | warrant | certificate | declaration | enrolment | revocation
  deriving DecidableEq, Repr

/-- The kind of a record: by bit 7 of byte 7, else by its first four bytes. DEDUCED: log entry 53. -/
def recKind (r : List Byte) : Option RecKind :=
  if leAt r 7 1 / 128 = 1 then some .slip
  else if leAt r 0 4 = 0x5A574131 then some .warrant
  else if leAt r 0 4 = 0x5A544331 then some .certificate
  else if leAt r 0 4 = 0x5A574344 then some .declaration
  else if leAt r 0 4 = 0x5A454E31 then some .enrolment
  else if leAt r 0 4 = 0x5A455631 then some .revocation
  else none

/-- The bytes of a record of a kind. -/
def RecKind.size : RecKind → Nat
  | .slip => 64
  | .warrant => 640
  | .certificate => 512
  | .declaration => 640
  | .enrolment => 832
  | .revocation => 832

/-- The serial that a warrant or slip carries, for its event. -/
def recOwn (r : List Byte) : Nat :=
  match recKind r with
  | some .slip => leAt r 0 8
  | some .warrant => leAt r 8 8
  | _ => 0

/-- A signature of 384 bytes stands behind the bytes that it covers. -/
def signedBy (modulus n : Nat) (r : List Byte) : Bool := pssSigned modulus (r.take n) ((r.drop n).take 384)

/-- The modulus of a key slot. -/
def Device.modulus (d : Device) (key : Nat) : Option Nat := (mget d.keys key).map (·.modulus)

/-- The device id of a record is this device's. -/
def idMatches (peer : Nat) (r : List Byte) (off : Nat) : Bool := leAt r off 8 == (Config.deviceId peer).toNat

/-- What a presentation comes to. -/
inductive Verdict where
  | refused (status : Nat) (s : State)
  /-- a context is built -/
  | built (ctx : Nat) (s : State)
  /-- another record is accepted -/
  | taken (s : State)
  /-- a redeem request has gone to the home under this name -/
  | waiting (id : Nat) (s : State)
  deriving DecidableEq, Repr

/-! ## Warrants (R115 to R117, R120) -/

/-- The warrant is FRACTIONAL. -/
def recFractional (r : List Byte) : Bool := leAt r 6 2 % 2 == 1

/-- LOCAL_ONLY and NO_TIME_BOUND. -/
def recLocal (r : List Byte) : Bool := leAt r 6 2 / 2 % 2 == 1
def recUntimed (r : List Byte) : Bool := leAt r 6 2 / 4 % 2 == 1

/-- The class and the block of a warrant. -/
def recClass (r : List Byte) : Nat := leAt r 0x11 1
def recBlock (r : List Byte) : Block := Block.ofBytes (r.drop 0x40)

/-- Every field of a warrant is within R115 to R117. -/
def warrantOk (r : List Byte) : Bool :=
  let flags := leAt r 6 2
  let mask := leAt r 0x30 16
  let iva := leAt r 0xE0 8
  decide (640 ≤ r.length) && leAt r 0 4 == 0x5A574131 && leAt r 4 2 == 0x0100 && decide (flags < 64)
    && decide (leAt r 8 8 < 2 ^ 63) && decide (recKey r ≤ 7) && decide (recClass r ≤ 2)
    && (if recCounted r then recTotal r != 0 else recTotal r == 0)
    && decide (recHome r ≤ 127) && mask.testBit (recHome r) && zeros r 0x15 3
    && (recUntimed r || decide (leAt r 0x18 8 < leAt r 0x20 8))
    && zeros r 0x2C 4 && (!recLocal r || mask == 2 ^ recHome r)
    && (if flags / 16 % 2 = 1 then iva != 0 && iva % 4096 == 0 else iva == 0)
    && decide (leAt r 0xE8 4 ≤ 64) && zeros r 0xEC 20
    && zeros r 0x90 48 && (recBlock r).ok (recFractional r) (recClass r)

/-- The window test of step 4 (R120). -/
def windowPasses (s : State) (peer notBefore notAfter : Nat) : Bool :=
  (s.dev peer).timeA.isSome && decide (s.dunc peer ≤ 10 ^ 9) && decide (notBefore + s.dunc peer ≤ s.dtime peer)
    && decide (s.dtime peer + s.dunc peer ≤ notAfter)

/-- Pending launches that a device's root grants have (R117, R120 step 7). -/
def launchesHeld (s : State) (peer : Nat) : Nat := ((roots s peer).map (fun x => x.granted.launches)).sum

/-- Steps 7 and 8 of R120, with a reservation that stands at the home, and the build; `slack` is that of the messages. -/
def closeWarrant (s : State) (peer : Nat) (r image : List Byte) (pres : Nat) (token : Word) (slack : Nat) : Verdict :=
  let b := recBlock r
  let no (st : Nat) : Verdict := .refused st (settleHome s peer r pres false slack)
  match parseCode image with
  | none => no stFormat
  | some k =>
    if !classTest s peer (recClass r) Block.zero b true || decide (8192 < launchesHeld s peer + b.launches)
        || decide (b.hbm / 4096 < k.textPages + k.dataPages) then no stCapacity
    else
      match choosePlan s peer (recClass r) b (recFractional r) with
      | none => no stCapacity
      | some (q, s1) =>
        if sha256 (image.take (codeLength image)) != (r.drop 0xC0).take 32 then no stDigest
        else .built q.ctx (buildRoot (settleHome s1 peer r pres true slack) peer r q k token)

/-- The request of step 6: at once where the home is this device, else by a message (R127 to R129). -/
def openWarrant (s : State) (peer modulus : Nat) (r image : List Byte) (token : Word) (slack : Nat) : Verdict :=
  let home := recHome r
  let (pres, s1) := s.fresh
  if home = peer then
    match homeReserve s1 peer (recKey r) (recSerial r) (recTotal r) modulus (recCounted r) peer pres with
    | .error st => .refused st s
    | .ok s2 => closeWarrant s2 peer r image pres token slack
  else if !(s.dev peer).peersUp.contains home then .refused stUnreachable (settleHome s1 peer r pres false slack)
  else
    .waiting pres (sendMsg s1 peer home (recKey r) peer pres
      (.request (recSerial r) (recCounted r) (recTotal r) modulus) slack)

/-- The checks of a warrant in their order (R120). -/
def admitWarrant (s : State) (peer : Nat) (r image : List Byte) (token : Word) (slack : Nat) : Verdict :=
  if !warrantOk r || (parseCode image).isNone then .refused stFormat s
  else
    match (s.dev peer).modulus (recKey r) with
    | none => .refused stKey s
    | some n =>
      if !signedBy n 0x100 r then .refused stSignature s
      else if !recUntimed r && !windowPasses s peer (leAt r 0x18 8) (leAt r 0x20 8) then .refused stTime s
      else if (mget (s.dev peer).keys (recKey r)).map (·.domain) != some (leAt r 0x28 4) || !(leAt r 0x30 16).testBit peer then
        .refused stDomain s
      else openWarrant s peer n r image token slack

/-! ## Slips (R121, R165) -/

/-- The 16 bytes of a slip's tag. -/
def slipTag (s : State) (peer : Nat) (body : List Byte) : List Byte :=
  (hmac256 (leBytes 32 (Config.slipKey peer (s.dev peer).epoch).toNat) body).take 16

/-- The slip of a child warrant. -/
def slipBytes (s : State) (peer child parent : Nat) : List Byte :=
  let body := leBytes 8 child ++ leBytes 8 parent ++ leBytes 8 (Config.deviceId peer).toNat ++ leBytes 8 0
  body ++ slipTag s peer body ++ leBytes 16 0

/-- The parent and the child warrant that a slip names, if it has not been presented and its parent is live. -/
def slipChild (s : State) (peer : Nat) (r : List Byte) : Option (CtxId × Ctx × Child) :=
  ((s.ctxs.filter (fun e => e.1.peer == peer && e.2.state == .live && e.2.serial == leAt r 8 8)).filterMap (fun e =>
    (e.2.children.find? (fun ch => ch.serial == leAt r 0 8 && ch.presented.isNone)).map (fun ch => (e.1, e.2, ch)))).head?

/-- The doorway selector of the root of a warrant tree (R164). -/
def rootDoor (s : State) (peer : Nat) (x : Ctx) : Nat := (rootOf s peer x 8).doorFn

/-- The checks of a slip in their order (R121). `heir` is the doorway and token that WACCEPT hands on (R166). -/
def admitSlip (s : State) (peer : Nat) (r : List Byte) (token : Word) (heir : Option (Nat × Word)) (arg : Word) : Verdict :=
  if r.length < 64 ∨ !zeros r 0x18 8 ∨ !zeros r 0x30 16 then .refused stFormat s
  else if !idMatches peer r 0x10 then .refused stDomain s
  else if slipTag s peer (r.take 32) != (r.drop 0x20).take 16 then .refused stSignature s
  else
    match slipChild s peer r with
    | none => .refused stRedeemed s
    | some (c, x, ch) =>
      if !x.noTimeBound && !windowPasses s peer x.notBefore x.notAfter then .refused stTime s
      else
        match choosePages s peer ch.block with
        | none => .refused stCapacity s
        | some (id, hbm, tier2, s1) =>
          let door := heir.getD (rootDoor s peer x, token)
          .built id (buildChild s1 c x ch id hbm tier2 door.1 door.2 arg)

/-! ## Time certificates (R124) -/

/-- A record that only slot 0 may sign names slot 0 (R122); `off` is where it names its slot. DESIGN CHOICE: log entry 54, one
that names another slot is refused with WARRANT_KEY, as R122 has it, and not with the WARRANT_FORMAT of R124 and R131. -/
def namesSlot0 (r : List Byte) (off : Nat) : Bool := leAt r off 1 == 0

/-- The layout of a certificate, but for its key slot. -/
def certificateOk (r : List Byte) : Bool :=
  decide (512 ≤ r.length) && leAt r 4 2 == 0x0100 && zeros r 7 1 && decide (leAt r 0x28 8 ≤ 10 ^ 9) && zeros r 0x30 80

/-- The nonce of a certificate is the outstanding one, and young enough. -/
def nonceMatches (s : State) (peer : Nat) (r : List Byte) : Bool :=
  match (s.dev peer).nonce with
  | some (n, issued) => leAt r 0x10 16 == (Config.nonce peer n).toNat && decide (nsOf (s.now - issued) ≤ 10 ^ 9)
  | none => false

/-- Device time is set: its value and its bound, from this moment on. -/
def Device.setTime (d : Device) (now t a : Nat) : Device := { d with timeT := t, timeA := some a, timeAt := now }

/-- The checks of a certificate in their order. -/
def admitCertificate (s : State) (peer : Nat) (r : List Byte) : Verdict :=
  let d := s.dev peer
  if !certificateOk r then .refused stFormat s
  else
    match (if namesSlot0 r 6 then d.modulus 0 else none) with
    | none => .refused stKey s
    | some n =>
      if !signedBy n 0x80 r then .refused stSignature s
      else if !idMatches peer r 8 then .refused stDomain s
      else if !nonceMatches s peer r then .refused stTime s
      else if d.timeA.isSome && decide (leAt r 0x20 8 + s.dunc peer < s.dtime peer) then .refused stTime s
      else .taken ((keepExpiries s peer).setDev peer { d.setTime s.now (leAt r 0x20 8) (leAt r 0x28 8) with
        nonce := none, nonce0 := 0, nonce1 := 0 })

/-! ## Capacity declarations (R131, R134) -/

/-- The entries of a declaration. -/
def declEntries (r : List Byte) : List Ratio :=
  ((List.range 16).map (fun j => (⟨leAt r (0x20 + 8 * j) 2, leAt r (0x22 + 8 * j) 2, leAt r (0x24 + 8 * j) 2⟩ : Ratio))).filter
    (fun e => e.kind != 0)

/-- An entry keeps the limits of R131. -/
def Ratio.ok (e : Ratio) : Bool :=
  (capResources.any (fun r => r.kind == e.kind) || capCounters.contains e.kind)
    && decide (1 ≤ e.limit) && decide (e.limit ≤ 0x100) && decide (0x100 ≤ e.ratio) && decide (e.ratio ≤ 0x1000)
    && (e.ratio == 0x100 || e.kind == 2 || e.kind == 5)

/-- The layout of a declaration, but for its key slot. -/
def declarationOk (r : List Byte) : Bool :=
  decide (640 ≤ r.length) && leAt r 4 2 == 0x0100 && decide (leAt r 6 2 < 2) && zeros r 0x11 7
    && (List.range 16).all (fun j => zeros r (0x26 + 8 * j) 2) && zeros r 0xA0 96
    && (declEntries r).all Ratio.ok && decide (((declEntries r).map (·.kind)).Nodup)

/-- Every live grant keeps R133 under the values in force, and the spill reserve fits (R131, R134) beside what is sold of tier-2,
Scavenger grants counted. DESIGN CHOICE: log entry 113. -/
def grantsHold (s : State) (peer : Nat) : Bool :=
  let d := s.dev peer
  let t2 := d.counter 6
  capResources.all (fun r =>
    let c := d.counter r.kind
    let q := if r.kind = 1 then (256, 256) else d.ratio r.kind
    let t := d.total r
    decide (c.guar ≤ q.1 * t / 256) && decide (c.burst ≤ q.2 * (t - c.guar) / 256) && decide (c.guar + floors s peer r.kind ≤ t))
  && decide (d.reserve / 4096 + t2.guar + t2.burst + t2.scav ≤ tier2Pages)

/-- The checks of a declaration in their order. DESIGN CHOICE: log entry 54, while none is in force the serial must exceed 0. -/
def admitDeclaration (s : State) (peer : Nat) (r : List Byte) : Verdict :=
  let d := s.dev peer
  if !declarationOk r then .refused stFormat s
  else
    match (if namesSlot0 r 0x10 then d.modulus 0 else none) with
    | none => .refused stKey s
    | some n =>
      if !signedBy n 0x100 r then .refused stSignature s
      else if !idMatches peer r 0x18 then .refused stDomain s
      else if leAt r 8 8 ≤ d.declSerial then .refused stRedeemed s
      else
        let s1 := s.capUpdate peer (fun d =>
          { d with ratios := declEntries r, declSerial := leAt r 8 8, adopt := leAt r 6 2 == 1 })
        if grantsHold s1 peer then .taken s1 else .refused stCapacity s

/-! ## Enrolment and revocation (R118, R159) -/

/-- The layout of an enrolment or revocation record. -/
def keyRecordOk (r : List Byte) (fill : Bool) : Bool :=
  decide (832 ≤ r.length) && leAt r 4 2 == 0x0100 && decide (leAt r 6 1 ≤ 7) && zeros r 7 1 && zeros r 0x14 12
    && zeros r 0x1A0 32 && (leAt r 0x20 384 != 0) == fill

/-- Stage 2 of bring-up ends when slot 0 is filled, and stage 3 makes the device ready (R159). -/
def endStage2 (s : State) (peer : Nat) : State :=
  let d := s.dev peer
  if d.stage = 2 ∧ (mget d.keys 0).isSome then s.capUpdate peer (fun d => { d with stage := 3, ready := true }) else s

/-- The checks of an enrolment or revocation in their order. -/
def admitKey (s : State) (peer : Nat) (r : List Byte) (fill : Bool) : Verdict :=
  let d := s.dev peer
  let n := leAt r 6 1
  if !keyRecordOk r fill then .refused stFormat s
  else if !signedBy Config.zilkorModulus 0x1C0 r then .refused stSignature s
  else if !idMatches peer r 8 then .refused stDomain s
  else if (mget d.keys n).isSome == fill then .refused stKey s
  else if fill then
    .taken (endStage2 (s.setDev peer { d with keys := mset d.keys n ⟨leAt r 0x20 384, leAt r 0x10 4⟩
                                              windows := mset d.windows n Window.reset }) peer)
  else .taken (s.setDev peer { d with keys := mdel d.keys n })

/-! ## One presentation (R119, R137, R164) -/

/-- A record is presented: by a function's ring, or by an instruction where `fn` is none, whose messages have the slack that is
given. DEDUCED: log entry 53. -/
def presentRecord (s : State) (peer : Nat) (fn : Option Nat) (r image : List Byte) (token : Word) (heir : Option (Nat × Word))
    (arg : Word) (slack : Nat) : Verdict :=
  match recKind r with
  | some .enrolment => if fn = some 0 then admitKey s peer r true else .refused stFormat s
  | some .revocation => if fn = some 0 then admitKey s peer r false else .refused stFormat s
  | k =>
    if !(s.dev peer).ready then .refused stKey s
    else
      match k with
      | some .slip => admitSlip s peer r token heir arg
      | some .warrant => admitWarrant s peer r image token slack
      | some .certificate => admitCertificate s peer r
      | some .declaration => admitDeclaration s peer r
      | _ => .refused stFormat s

/-- A refusal is counted (R120, R137, R138): the count saturates, and before READY none is kept. DESIGN CHOICE: log entry 54. -/
def countRefusal (s : State) (peer status : Nat) : State :=
  if (s.dev peer).ready then
    let kind := 0xF0 + (status - 0x30)
    s.capUpdate peer (fun d => { d with refusals := mset d.refusals kind (min (mgetD d.refusals kind 0 + 1) (2 ^ 32 - 1)) })
  else s

/-! ## The presentation ring (R152, R153) -/

/-- The slack of the messages of a doorway presentation: 0, raised to the floor of the class that the warrant names (R128).
DEDUCED: log entry 59. -/
def doorSlack (r : List Byte) : Nat := classFloor (recClass r)

/-- A presentation from a ring is answered, or kept until its home answers. DESIGN CHOICE: log entry 54. -/
def answerRing (s : State) (peer fn : Nat) (tag : Word) (r image : List Byte) : Verdict → State
  | .refused st s1 => presDone (countRefusal s1 peer st) peer fn tag st 0 (recOwn r)
  | .built id s1 => presDone s1 peer fn tag 0 id (recOwn r)
  | .taken s1 => presDone s1 peer fn tag 0 0 0
  | .waiting id s1 =>
    let d := s1.dev peer
    s1.setDev peer { d with press := d.press ++ [⟨id, some fn, tag, none, 0, r, image, s.now, doorSlack r⟩] }

/-- The record at an IOVA, of the length of its kind; 64 bytes where that is unknown. -/
def hostRecord (s : State) (peer fn iova : Nat) : List Byte :=
  match recKind (hostBytes s peer fn iova 64) with
  | some k => hostBytes s peer fn iova k.size
  | none => hostBytes s peer fn iova 64

/-- A presentation of one of some kinds is taken from a function's ring: the device reads the entry, the record and the image
(R153), and then checks them. A malformed entry sets DSTAT.RING, and is refused with WARRANT_FORMAT. DEDUCED: log entry 53.
DESIGN CHOICE: log entry 55. -/
def ringPresent (peer fn : Nat) (kinds : List (Option RecKind)) (s : State) : State :=
  if presTakes s peer fn then
    let e := presEntry s peer fn
    let r := hostRecord s peer fn (leAt e 0 8)
    let image := if leAt e 8 8 = 0 then [] else hostBytes s peer fn (leAt e 8 8) (leAt e 0x10 4)
    let tag : Word := BitVec.ofNat 64 (leAt e 0x18 8)
    if !kinds.contains (recKind r) then s
    else
      let s1 := takePres s peer fn
      if presEntryOk e then
        answerRing s1 peer fn tag r image
          (presentRecord s1 peer (some fn) r image (s.door peer fn).atoken none 0 (doorSlack r))
      else answerRing s1 peer fn tag r image (.refused stFormat (ringError s1 peer fn))
  else s

/-- A presentation whose entry names a record and carries a tag, as the step's operands say (R153). -/
def ringPresentOf (peer fn record : Nat) (tag : Word) (kinds : List (Option RecKind)) (s : State) : State :=
  let e := presEntry s peer fn
  if leAt e 0 8 = record ∧ leAt e 0x18 8 = tag.toNat then ringPresent peer fn kinds s else s

/-- WARRANT: a warrant, or a record of no kind; the operands are the fields of the entry. -/
def execWarrant (peer fn record image : Nat) (tag : Word) (s : State) : Host.Outcome State Fault Refusal :=
  .next (if leAt (presEntry s peer fn) 8 8 = image then ringPresentOf peer fn record tag [some .warrant, none] s else s)

/-- DELEGATION_SLIP. -/
def execDelegationSlip (peer fn record : Nat) (tag : Word) (s : State) : Host.Outcome State Fault Refusal :=
  .next (ringPresentOf peer fn record tag [some .slip] s)

/-- TIME_CERTIFICATE. -/
def execTimeCertificate (peer fn record : Nat) (tag : Word) (s : State) : Host.Outcome State Fault Refusal :=
  .next (ringPresentOf peer fn record tag [some .certificate] s)

/-- CAPACITY_DECLARATION. -/
def execCapacityDeclaration (peer fn record : Nat) (tag : Word) (s : State) : Host.Outcome State Fault Refusal :=
  .next (ringPresentOf peer fn record tag [some .declaration] s)

/-- ENROLMENT. -/
def execEnrolment (peer fn record : Nat) (tag : Word) (s : State) : Host.Outcome State Fault Refusal :=
  .next (ringPresentOf peer fn record tag [some .enrolment] s)

/-- REVOCATION. -/
def execRevocation (peer fn record : Nat) (tag : Word) (s : State) : Host.Outcome State Fault Refusal :=
  .next (ringPresentOf peer fn record tag [some .revocation] s)

/-! ## PRESENT and WACCEPT (R161, R164, R166) -/

/-- The result of a presentation by an instruction. -/
def Verdict.value : Verdict → Word
  | .refused st _ => statusWord st
  | .built id _ => withBit63 id
  | _ => 0

/-- A form's presentation comes to its result, or waits for the home. -/
def answerForm (p : Place) (t : Thread) (d : Dst) (la : Nat) (arg : Word) (r image : List Byte) (slack : Nat) : Verdict → Res
  | .refused st s => .done (pendNow (countRefusal s p.peer st) p [d] la false [statusWord st])
  | .built id s => .done (pendNow s p [d] la false [withBit63 id])
  | .taken s => .done (pendNow s p [d] la false [0])
  | .waiting id s =>
    let dv := s.dev p.peer
    let s := s.setDev p.peer { dv with press := dv.press ++ [⟨id, none, 0, some (t.uid, id), arg, r, image, s.now, slack⟩] }
    .done (pendLater s p [d] la false id)

/-- Bytes that a form reads behind its commit, at a VA of its thread (R161). -/
def grabAt (s : State) (p : Place) (t : Thread) (va : Word) (n : Nat) : Except NoBytes (List Byte) :=
  grabBytes s (t.ctxId p) t.apCore t.locks t.uid (n / 32 + 3) va n

/-- The record of a form: its first 64 bytes tell its length. -/
def grabRecord (s : State) (p : Place) (t : Thread) (va : Word) : Except NoBytes (List Byte) :=
  match grabAt s p t va 64 with
  | .error e => .error e
  | .ok h =>
    match recKind h with
    | some k => grabAt s p t va k.size
    | none => .ok h

/-- The code image of a form: its header tells its length. -/
def grabImage (s : State) (p : Place) (t : Thread) (va : Word) : Except NoBytes (List Byte) :=
  match grabAt s p t va 64 with
  | .error e => .error e
  | .ok h => grabAt s p t va (codeLength h)

/-- PRESENT's act: a warrant needs an image, and no other record may have one. -/
def presentAct (orig : State) (p : Place) (d : Dst) (la : Nat) (va image : Word) (s : State) (t : Thread) : Res :=
  let slack := s.slack p t
  let bad : Res := answerForm p t d la 0 [] [] slack (.refused stFormat s)
  match grabRecord s p t va with
  | .error e => noRecord orig s p t bad e
  | .ok r =>
    if (recKind r == some .warrant) != (image != 0) then bad
    else if image = 0 then answerForm p t d la 0 r [] slack (presentRecord s p.peer none r [] 0 none 0 slack)
    else
      match grabImage s p t image with
      | .error e => noRecord orig s p t bad e
      | .ok bs => answerForm p t d la 0 r bs slack (presentRecord s p.peer none r bs 0 none 0 slack)

/-- PRESENT. -/
def execPresent (d a b : Reg) (la : BitVec 4) (s : State) : Host.Outcome State Fault Refusal :=
  issue (wordX 0x48 d.toNat a.toNat b.toNat la.toNat 0) [ri a, ri b, ri d] (isShared d) (fun p t k s =>
    let va := readI k t a
    let image := readI k t b
    match (checkVa s p t va 64 needR).or (if image = 0 then none else checkVa s p t image 8 needR) with
    | some r => r
    | none => commitThen s p t (presentAct s p (ri d) la.toNat va image)) s

/-- WACCEPT's act: a slip, with the acceptor's doorway and an argument. -/
def acceptAct (orig : State) (p : Place) (d : Dst) (la : Nat) (va arg : Word) (s : State) (t : Thread) : Res :=
  let slack := s.slack p t
  let bad : Res := answerForm p t d la 0 [] [] slack (.refused stFormat s)
  match grabAt s p t va 64 with
  | .error e => noRecord orig s p t bad e
  | .ok r =>
    if recKind r ≠ some .slip then bad
    else answerForm p t d la arg r [] slack
        (presentRecord s p.peer none r [] 0 ((s.ctx (t.ctxId p)).map (fun x => (x.doorFn, x.token))) arg slack)

/-- WACCEPT. -/
def execWaccept (d a b : Reg) (la : BitVec 4) (s : State) : Host.Outcome State Fault Refusal :=
  issue (wordX 0x48 d.toNat a.toNat b.toNat la.toNat 3) [ri a, ri b, ri d] (isShared d) (fun p t k s =>
    let va := readI k t a
    match checkVa s p t va 64 needR with
    | some r => r
    | none => commitThen s p t (acceptAct s p (ri d) la.toNat va (readI k t b))) s

/-! ## The home's answer (R127, R128) -/

/-- A presentation that has waited is answered: its event, or its instruction's result. -/
def answerPres (s : State) (peer : Nat) (w : Pres) (v : Verdict) : State :=
  match w.fn with
  | some fn => answerRing s peer fn w.tag w.record w.image v
  | none =>
    let s1 := match v with
      | .refused st s1 => countRefusal s1 peer st
      | .built _ s1 => s1
      | .taken s1 => s1
      | .waiting _ s1 => s1
    match w.uid with
    | some (uid, id) =>
      match s1.findThread uid with
      | some (p, _) => arriveValue s1 p id [v.value]
      | none => s1
    | none => s1

/-- A presentation of a device is over. -/
def dropPres (s : State) (peer id : Nat) : State :=
  let d := s.dev peer
  s.setDev peer { d with press := d.press.filter (fun w => w.id != id) }

/-- The token that a presentation's context will carry, read at the build (R153). -/
def presToken (s : State) (peer : Nat) (w : Pres) : Word :=
  match w.fn with
  | some fn => (s.door peer fn).atoken
  | none => 0

/-- A presentation has waited for its home for more than 10^6 ns: it is refused, and a cancel is sent (R128). -/
def refuseLate (s : State) (peer : Nat) (w : Pres) : State :=
  let s1 := dropPres s peer w.id
  answerPres s1 peer w (.refused stUnreachable (cancelPres s1 peer w))

/-- The home has not answered a presentation within 10^6 ns. -/
def Pres.late (w : Pres) (s : State) : Bool := decide (10 ^ 6 < nsOf (s.now - w.since))

/-- REDEEM_REPLY: a grant goes on to steps 7 and 8, a denial refuses; a grant that comes after the refusal is answered with a
cancel, and an answer that comes too late is none. DESIGN CHOICE: log entry 56. -/
def execRedeemReply (m : Nat) (s : State) : Host.Outcome State Fault Refusal :=
  .next (match findMsg s m with
    | none => s
    | some g =>
      let peer := g.dst
      let s1 := dropMsg s m
      match g.kind, (s1.dev peer).press.find? (fun w => w.id == g.pres) with
      | .grant, some w =>
        if w.late s1 then refuseLate s1 peer w
        else answerPres (dropPres s1 peer w.id) peer w
          (closeWarrant (dropPres s1 peer w.id) peer w.record w.image w.id (presToken s1 peer w) w.slack)
      | .grant, none => sendMsg s1 peer g.src g.key g.asker g.pres (.cancel 0) g.slack
      | .deny st, some w =>
        if w.late s1 then refuseLate s1 peer w
        else answerPres (dropPres s1 peer w.id) peer w (.refused st (dropPres s1 peer w.id))
      | .deny _, none => s1
      | _, _ => s)

/-- REDEEM_TIMEOUT: no answer within 10^6 ns. DESIGN CHOICE: log entry 56. -/
def execRedeemTimeout (peer pres : Nat) (s : State) : Host.Outcome State Fault Refusal :=
  .next (match (s.dev peer).press.find? (fun w => w.id == pres) with
    | none => s
    | some w => if w.late s then refuseLate s peer w else s)

/-! ## The launch ring (R153, R382) -/

/-- NOT_LIVE. -/
def stNotLive : Nat := 0x8D

/-- A launch is done. -/
def launchDone (s : State) (peer fn ctx status serial : Nat) (tag : Word) : State :=
  postEvent s peer fn 0x0101 ctx status 0 serial tag.toNat

/-- The launch of an entry: its context, header and tag. -/
def ringLaunchOf (peer fn id : Nat) (h : List Byte) (tag : Word) (s : State) : State :=
  let c : CtxId := ⟨peer, id⟩
  match s.ctx c with
  | none => launchDone (takeLaunch s peer fn) peer fn id stDomain 0 tag
  | some x =>
    if x.doorFn ≠ fn then launchDone (takeLaunch s peer fn) peer fn id stDomain 0 tag
    else if x.state ≠ .live then launchDone (takeLaunch s peer fn) peer fn id stNotLive x.serial tag
    else
      let core := ((lowest x.slots).map (·.1)).getD x.coreHome
      let r := s.fresh
      match launchWith r.2 c core [] r.1 (max 0x200 (classFloor x.cls)) (core / 256) h with
      | .status n => launchDone (takeLaunch s peer fn) peer fn id n x.serial tag
      | .absent m page => askPage s m page
      | .poison _ => launchDone (takeLaunch s peer fn) peer fn id stBadLaunch x.serial tag
      | .held => s
      | .ok s1 num => launchDone (takeLaunch s1 peer fn) peer fn id 0 x.serial (withBit63 num)

/-- The next entry of a launch ring is taken, unless a page that its checks need is missing or its join counter's line is held:
the device reads the entry and the launch header (R153). A malformed entry sets DSTAT.RING, and is answered with BAD_LAUNCH.
DESIGN CHOICE: log entry 55. -/
def ringLaunch (peer fn : Nat) (s : State) : State :=
  if !launchTakes s peer fn then s
  else
    let e := launchEntry s peer fn
    let id := leAt e 0 2
    let tag : Word := BitVec.ofNat 64 (leAt e 0x18 8)
    if launchEntryOk e then ringLaunchOf peer fn id (hostBytes s peer fn (leAt e 8 8) 128) tag s
    else launchDone (ringError (takeLaunch s peer fn) peer fn) peer fn id stBadLaunch 0 tag

/-- DOORWAY_LAUNCH: the operands are the fields of the entry (R153). -/
def execDoorwayLaunch (peer fn ctx header : Nat) (tag : Word) (s : State) : Host.Outcome State Fault Refusal :=
  let e := launchEntry s peer fn
  .next (if leAt e 0 2 = ctx ∧ leAt e 8 8 = header ∧ leAt e 0x18 8 = tag.toNat then ringLaunch peer fn s else s)

end Sys2Proof.Machine
end

