-- ==== Sys2Proof/Machine/Splits.lean ====
section
/-! DEFINITION. Grants divided and changed: WSPLIT, WDELEG, WSURR and WAMEND (R111 to R114, R136, R163, R167 to R171). -/

namespace Sys2Proof.Machine

/-! ## Statuses (R163) -/

def stSplitDepth : Nat := 0x50
def stSplitExcess : Nat := 0x51
def stTableFull : Nat := 0x52
def stNotChild : Nat := 0x53
def stBusy : Nat := 0x54

/-! ## Scratch taken from spans (R113, R167) -/

/-- Bytes taken from the starts of some spans in their order: what is taken, and what is left. -/
def takeLow : List Span → Nat → List Span × List Span
  | [], _ => ([], [])
  | sp :: rest, n =>
    let m := min sp.len n
    let r := takeLow rest (n - m)
    ((if m = 0 then r.1 else ⟨sp.core, sp.off, m⟩ :: r.1),
      (if m = sp.len then r.2 else ⟨sp.core, sp.off + m, sp.len - m⟩ :: r.2))

/-- Bytes taken from the ends of some spans in their order. -/
def takeHigh : List Span → Nat → List Span × List Span
  | [], _ => ([], [])
  | sp :: rest, n =>
    let m := min sp.len n
    let r := takeHigh rest (n - m)
    ((if m = 0 then r.1 else ⟨sp.core, sp.off + sp.len - m, m⟩ :: r.1),
      (if m = sp.len then r.2 else ⟨sp.core, sp.off, sp.len - m⟩ :: r.2))

/-- Spans with the highest CORE values first; of one core the lowest offsets first, or the highest. -/
def coresDown (low : Bool) (l : List Span) : List Span :=
  inOrder (fun a b => decide (b.core < a.core) || (a.core == b.core && (if low then decide (a.off ≤ b.off) else decide (b.off ≤ a.off)))) l

/-! ## Pages that a smaller holding displaces (R134, R135, R167) -/

/-- HBM-grant pages of a context that lie in tier-2. -/
def Ctx.outside (x : Ctx) : Nat := (x.hbm.filter (fun g => g.where_ == .tier2)).length

/-- Free pages of the spill reserve. -/
def spillRoom (s : State) (peer : Nat) : Nat :=
  (s.dev peer).reserve / 4096
    - (((ctxsOf s peer).filter (fun x => x.cls == 1)).map (fun x => x.outside - x.block.tier2 / 4096)).sum

/-- Resident pages beyond a holding of HBM find room: in the pages of the tier-2 holding that store nothing, less those that hold pages
already, or for a Burstable holder in the spill reserve; `kept` are the tier-2 pages that stay. DEDUCED: log entry 42. -/
def displacedFit (s : State) (peer : Nat) (x : Ctx) (left : Block) (kept : List Nat) : Bool :=
  decide (x.resident - left.hbm / 4096
    ≤ (left.tier2 / 4096 - x.outside - (kept.filter (fun a => !blankPage s a)).length)
      + (if x.cls = 1 then spillRoom s peer else 0))

/-- Some pages of a context leave HBM. -/
def evictMany (s : State) (c : CtxId) : Nat → State
  | 0 => s
  | n + 1 =>
    match evictPage s c true with
    | some s' => evictMany s' c n
    | none => s

/-! ## WSPLIT (R167) -/

/-- What a split carves: slots, whole cores, scratch; and the scratch left. -/
structure Carve where
  slots : List (Nat × Nat)
  cores : List Nat
  spans : List Span
  left : List Span
  deriving DecidableEq, Repr

/-- The holder's core with the highest CORE value. -/
def Ctx.topCore (x : Ctx) : Nat := if x.fractional then x.coreHome else x.cores.foldl max 0

/-- The highest slots of the top core and the top bytes there, for a FRACTIONAL child. -/
def Ctx.carveShare (x : Ctx) (b : Block) : Option Carve :=
  let core := x.topCore
  let mine := inOrder (fun a c => decide (c.2 ≤ a.2)) (x.slots.filter (fun e => e.1 == core))
  let here := coresDown false (x.spans.filter (fun sp => sp.core == core))
  let r := takeHigh (here.take 1) b.scratch
  if mine.length < b.slots ∨ (r.1.map (·.len)).sum < b.scratch then none
  else some ⟨mine.take b.slots, [], r.1, joinSpans (r.2 ++ here.drop 1 ++ x.spans.filter (fun sp => sp.core != core))⟩

/-- The highest cores that the holder has with all their slots, and the scratch pages there. -/
def Ctx.carveCores (x : Ctx) (b : Block) : Option Carve :=
  let whole := inOrder (fun a c => decide (c ≤ a)) (x.cores.filter (fun core => (slotsOf [core]).all x.slots.contains))
  let cores := whole.take b.cores
  let here := coresDown true (x.spans.filter (fun sp => cores.contains sp.core))
  let r := takeLow here b.scratch
  if whole.length < b.cores ∨ (r.1.map (·.len)).sum < b.scratch then none
  else some ⟨slotsOf cores, cores, r.1, joinSpans (r.2 ++ x.spans.filter (fun sp => !cores.contains sp.core))⟩

/-- What a split would carve. DEDUCED: log entry 49. -/
def Ctx.carve (x : Ctx) (b : Block) : Option Carve := if b.cores = 0 then x.carveShare b else x.carveCores b

/-- What a context holds unsplit, less what it is giving up. -/
def Ctx.holding (x : Ctx) : Block := x.block.minus x.owed

/-- A slot holds a thread, or a pre-empted thread's image came from it. -/
def slotBusy (s : State) (c : CtxId) (x : Ctx) (e : Nat × Nat) : Bool :=
  !s.slotFree ⟨c.peer, e.1, e.2⟩ || x.images.any (fun m => m.core == e.1 && m.slot == e.2)

/-- The warrant table holds 32,768 children (R163, R165). -/
def tableSize : Nat := 32768

/-- The lowest free entry of the warrant table. -/
def freeEntry (d : Device) : Option Nat := (firstN (fun n => !d.childUsed.contains n) 1 (List.range (min tableSize (d.childUsed.length + 1)))).head?

/-- The checks of a split in their order: its block and what it carves. The record may be unreadable. DEDUCED: log entry 50. -/
def splitCheck (s : State) (c : CtxId) (x : Ctx) (entry : Word) (r : Option (List Byte)) : Except Nat (Block × Carve × Nat) :=
  if !x.isCode entry then .error stBadEntry
  else
    match r with
    | none => .error stFormat
    | some r =>
      let b := Block.ofBytes r
      if !zeros r 0x50 48 || !b.ok (b.cores == 0) x.cls then .error stFormat
      else if x.block.depth ≤ b.depth then .error stSplitDepth
      else if !b.le x.holding || !displacedFit s c.peer x (x.holding.minus b) x.tier2 then .error stSplitExcess
      else
        match x.carve b with
        | none => .error stSplitExcess
        | some v =>
          if v.slots.any (slotBusy s c x) then .error stBusy
          else
            match freeEntry (s.dev c.peer) with
            | none => .error stTableFull
            | some n => .ok (b, v, n)

/-- The serial of a child warrant (R165). -/
def childSerial (gen entryNo parent : Nat) : Nat := 2 ^ 63 + gen * 2 ^ 48 + (entryNo + 1) * 2 ^ 32 + parent % 2 ^ 32

/-- The generation of a table entry at its next use. -/
def nextGen (d : Device) (n : Nat) : Nat :=
  match mget d.childGens n with
  | some g => (g + 1) % 2 ^ 15
  | none => 0

/-- The holder after a split. -/
def Ctx.split (x : Ctx) (b : Block) (v : Carve) (ch : Child) : Ctx :=
  { x with
    block := x.block.minus b
    barAt := barTake x.barAt (x.block.barriers - b.barriers)
    slots := x.slots.filter (fun e => !v.slots.contains e)
    cores := x.cores.filter (fun core => !v.cores.contains core)
    spans := v.left
    kernels := x.kernels.map (fun (k : Kernel) => { k with bound := k.bound.filter (fun e => !v.slots.contains e) })
    cap := min x.cap ((x.holding.minus b).hbm / 4096)
    children := x.children ++ [ch] }

/-- A child warrant is carved by a thread: its serial, and the state with it. The holder's grant of the carved cores ends (R60).
DEDUCED: log entry 49. -/
def splitOff (s : State) (c : CtxId) (x : Ctx) (uid : Nat) (entry : Word) (b : Block) (v : Carve) (n : Nat) : Nat × State :=
  let d := s.dev c.peer
  let gen := nextGen d n
  let serial := childSerial gen n x.serial
  let ch : Child := ⟨serial, n, gen, uid, b, entry, v.slots, v.cores, v.spans,
    barDrop x.barAt (x.block.barriers - b.barriers), x.text, none⟩
  let s := s.setDev c.peer { d with childGens := mset d.childGens n gen, childUsed := d.childUsed ++ [n] }
  let s := resetCores (s.setCtx c (x.split b v ch)) c.peer v.cores
  (serial, (evictMany s c (x.resident - (x.holding.minus b).hbm / 4096)).reckon c)

/-- WSPLIT's act. -/
def splitAct (orig : State) (p : Place) (d : Dst) (la : Nat) (va entry : Word) (s : State) (t : Thread) : Res :=
  let c := t.ctxId p
  let go (r : Option (List Byte)) : Res :=
    match s.ctx c with
    | none => .stall orig
    | some x =>
      match splitCheck s c x entry r with
      | .error st => .done (pendNow s p [d] la false [statusWord st])
      | .ok (b, v, n) =>
        let o := splitOff s c x t.uid entry b v n
        .done (pendNow o.2 p [d] la false [BitVec.ofNat 64 o.1])
  match grabAt s p t va 128 with
  | .error e => noRecord orig s p t (go none) e
  | .ok r => go (some r)

/-- WSPLIT. -/
def execWsplit (d a b : Reg) (la : BitVec 4) (s : State) : Host.Outcome State Fault Refusal :=
  issue (wordX 0x48 d.toNat a.toNat b.toNat la.toNat 1) [ri a, ri b, ri d] (isShared d) (fun p t k s =>
    let va := readI k t a
    match checkVa s p t va 8 needR with
    | some r => r
    | none => commitThen s p t (splitAct s p (ri d) la.toNat va (readI k t b))) s

/-! ## WDELEG (R155, R168) -/

/-- The two entries of a slip. -/
def postSlip (s : State) (c : CtxId) (x : Ctx) (ch : Child) (tag : List Byte) : State :=
  let s := postEntry s c.peer x.doorFn
    (entryBytes 0x0115 c.id 0 0 ch.serial x.serial (Config.deviceId c.peer).toNat)
  postEntry s c.peer x.doorFn (entryBytes 0x0116 c.id 0 0 (leAt tag 0 8) (leAt tag 8 8) ch.serial)

/-- WDELEG's act. -/
def delegAct (orig : State) (p : Place) (d : Dst) (la : Nat) (va serial : Word) (s : State) (t : Thread) : Res :=
  let c := t.ctxId p
  match s.ctx c with
  | none => .stall orig
  | some x =>
    match x.children.find? (fun ch => ch.serial == serial.toNat && ch.presented.isNone) with
    | none => .done (pendNow s p [d] la false [statusWord stNotChild])
    | some ch =>
      let bs := slipBytes s c.peer ch.serial x.serial
      match putBytes s c t.apCore t.locks va bs with
      | .ok s2 => .done (pendNow (postSlip s2 c x ch ((bs.drop 32).take 16)) p [d] la false [0])
      | .held => .stall orig
      | .absent page => waitForm orig p t page

/-- WDELEG. -/
def execWdeleg (d a b : Reg) (la : BitVec 4) (s : State) : Host.Outcome State Fault Refusal :=
  issue (wordX 0x48 d.toNat a.toNat b.toNat la.toNat 2) [ri a, ri b, ri d] (isShared d) (fun p t k s =>
    let va := readI k t a
    match checkVa s p t va 64 needW with
    | some r => r
    | none => commitThen s p t (delegAct s p (ri d) la.toNat va (readI k t b))) s

/-! ## Decreases (R136, R169, R171) -/

/-- A context with other pages of its grants; a text behind them moves with their number (R201). -/
def Ctx.withPages (x : Ctx) (hbm : List Page) (tier2 : List Nat) : Ctx :=
  let old := 4096 * (x.hbm.length + x.tier2.length)
  { x with
    hbm := hbm
    tier2 := tier2
    textOff := if old ≤ x.textOff then x.textOff - old + 4096 * (hbm.length + tier2.length) else x.textOff }

/-- The amounts of a block that leave only once they have been released: slots, whole cores, HBM. -/
def Block.later (b : Block) : Block := { Block.zero with slots := b.slots, cores := b.cores, hbm := b.hbm }

/-- A decrease of a context's holding: scratch from the top and tier-2 pages from the end at once, with every other amount but
slots, cores and HBM; those once they are released. DESIGN CHOICE: log entry 7. -/
def shrink (s : State) (c : CtxId) (b : Block) : State :=
  match s.ctx c with
  | none => s
  | some x =>
    let r := takeHigh (coresDown false x.spans) b.scratch
    let kept := x.tier2.length - b.tier2 / 4096
    let y := x.withPages x.hbm (x.tier2.take kept)
    let s := s.setCtx c { y with
      spans := joinSpans r.2
      owed := x.owed.plus b.later
      cap := min x.cap ((x.holding.hbm - b.hbm) / 4096) }
    let s := match x.parent with
      | some id => s.updCtx ⟨c.peer, id⟩ (fun y => { y with spans := joinSpans (y.spans ++ r.1) })
      | none => zeroSpans s c.peer r.1
    let s := releasePages s c.peer (x.tier2.drop kept)
    releaseIdle (giveBack s c { b with slots := 0, cores := 0, hbm := 0 }) c x.slots.length

/-! ## WSURR (R114, R169) -/

/-- The checks of a partial surrender. DEDUCED: log entry 50. -/
def surrenderCheck (x : Ctx) (r : List Byte) : Except Nat Block :=
  let b := Block.ofBytes r
  if !zeros r 0x50 48 || !b.quantaOk x.fractional || decide (7 < b.depth) then .error stFormat
  else if !b.le x.holding then .error stSplitExcess
  else if x.holding.slots = b.slots ∨ !((x.granted.minus x.owed).minus b).ok x.fractional x.cls then .error stFormat
  else .ok b

/-- A partial surrender's act. -/
def partAct (orig : State) (p : Place) (d : Dst) (la : Nat) (va : Word) (s : State) (t : Thread) : Res :=
  let c := t.ctxId p
  let end_ (st : Nat) (s : State) : Res := .done (pendNow s p [d] la false [statusWord st])
  match grabAt s p t va 128, s.ctx c with
  | .error e, _ => noRecord orig s p t (end_ stFormat s) e
  | .ok r, some x =>
    (match surrenderCheck x r with
    | .error st => end_ st s
    | .ok b => end_ 0 (shrink s c b))
  | _, _ => end_ stFormat s

/-- A whole surrender's act: the issuing thread retires, and d is not written. DEDUCED: log entry 50. -/
def surrenderAct (p : Place) (exit : Word) (s : State) (t : Thread) : Res :=
  .gone (stopNow (retireThread s p) (t.ctxId p) 0 exit)

/-- WSURR. -/
def execWsurr (d a b : Reg) (la : BitVec 4) (s : State) : Host.Outcome State Fault Refusal :=
  issue (wordX 0x48 d.toNat a.toNat b.toNat la.toNat 4) [ri a, ri b, ri d] (isShared d) (fun p t k s =>
    let va := readI k t a
    if va = 0 then commitThen s p t (surrenderAct p (readI k t b))
    else
      match checkVa s p t va 8 needR with
      | some r => r
      | none => commitThen s p t (partAct s p (ri d) la.toNat va)) s

/-! ## WAMEND (R136, R170, R171, R228) -/

/-- The layout of an amendment. -/
def amendmentOk (r : List Byte) : Bool :=
  let kind := leAt r 6 1
  leAt r 0 4 == 0x5A57414D && leAt r 4 2 == 0x0100 && zeros r 0x14 12 && zeros r 0xC0 64
    && (if kind = 1 then zeros r 0x70 48 && zeros r 0xA0 32 else kind == 2 && zeros r 0x20 128)

/-- A resize keeps R117 under the root's flags, with FRACTIONAL, whole cores = 0 and split depth unchanged. -/
def resizeOk (root : Ctx) (b : Block) : Bool := b.ok root.fractional root.cls && b.depth == root.granted.depth

/-- Where the places of an increase lie. -/
structure Gain where
  slots : List (Nat × Nat)
  cores : List Nat
  spans : List Span
  hbm : List Nat
  tier2 : List Nat
  barAt : List (Nat × Nat)
  deriving DecidableEq, Repr

/-- More scratch for a FRACTIONAL grant: right above its units or right below them; anywhere where it has none. -/
def widen (s : State) (peer : Nat) (x : Ctx) (n : Nat) : Option (List Span) :=
  let taken := spansOn s peer x.coreHome
  if n = 0 then some []
  else
    match (coresDown false x.spans).head? with
    | none => (lowestGap taken n).map (fun off => [⟨x.coreHome, off, n⟩])
    | some sp =>
      if gapFree taken (sp.off + sp.len) n then some [⟨x.coreHome, sp.off + sp.len, n⟩]
      else if n ≤ sp.off ∧ gapFree taken (sp.off - n) n then some [⟨x.coreHome, sp.off - n, n⟩]
      else none

/-- Scratch pages above everything granted on some slices, in order. -/
def pagesAbove (s : State) (peer : Nat) : List Nat → Nat → List Span
  | [], _ => []
  | core :: rest, n =>
    let top := roundUp ((spansOn s peer core).foldl (fun m sp => max m (sp.off + sp.len)) 0) 4096
    let m := min n (131072 - top)
    (if m = 0 then [] else [⟨core, top, m⟩]) ++ pagesAbove s peer rest (n - m)

/-- The places of an increase of a root's grant. -/
def gainPlaces (s : State) (peer : Nat) (x : Ctx) (up new : Block) : Option Gain :=
  let pages := planPages s peer { Block.zero with
    hbm := 4096 * (new.hbm / 4096 - x.hbm.length), tier2 := 4096 * (new.tier2 / 4096 - x.tier2.length) }
  let bars := barPlaces s peer up.barriers
  if x.fractional then
    if !fitsOn s peer x.coreHome x.cls up then none
    else (widen s peer x up.scratch).map (fun spans =>
      ⟨((freeOn s peer x.coreHome).take up.slots).map (fun n => (x.coreHome, n)), [], spans, pages.1, pages.2, bars⟩)
  else
    let cores := firstN (coreFree s peer) up.cores allCores
    let spans := pagesAbove s peer (inOrder (fun a b => decide (a ≤ b)) (x.cores ++ cores)) up.scratch
    if cores.length < up.cores ∨ (spans.map (·.len)).sum < up.scratch then none
    else some ⟨slotsOf cores, cores, spans, pages.1, pages.2, bars⟩

/-- An increase takes effect at once, with the counters. DEDUCED: log entry 51. -/
def enlarge (s : State) (c : CtxId) (x : Ctx) (up : Block) (g : Gain) : State :=
  let s := zeroPages (zeroSpans s c.peer g.spans) (g.hbm ++ g.tier2)
  let s := resetCores s c.peer g.cores
  let y := x.withPages (x.hbm ++ pageRecords s g.hbm) (x.tier2 ++ g.tier2)
  let s := s.setCtx c { y with
    block := x.block.plus up
    granted := x.granted.plus up
    slots := x.slots ++ g.slots
    cores := x.cores ++ g.cores
    spans := joinSpans (x.spans ++ g.spans)
    barAt := x.barAt ++ g.barAt
    cap := x.cap + (g.hbm.filter inHbm).length }
  s.capUpdate c.peer (fun d => d.count x.cls grantKinds up true)

/-- Step 7 of R171, and the resize: the grant that the new block is compared with is what stays of the present one.
DEDUCED: log entry 51. -/
def resize (s : State) (c : CtxId) (x : Ctx) (new : Block) : Except Nat State :=
  let old := x.granted.minus x.owed
  let carved := x.granted.minus x.block
  let up := new.minus old
  let down := old.minus new
  if !carved.le new || !displacedFit s c.peer x (new.minus carved) (x.tier2.take (x.tier2.length - down.tier2 / 4096)) then .error stSplitExcess
  else if !classTest s c.peer x.cls old new false || decide (8192 < launchesHeld s c.peer + up.launches) then .error stCapacity
  else
    match gainPlaces s c.peer x up new with
    | none => .error stCapacity
    | some g => .ok (shrink (enlarge s c x up g) c down)

/-- A context whose text pages are replaced by pages in fresh places (R171): in its HBM grant where the text lies there and the new
one needs no more pages, else above its grants. The old places stay with the old text until it is released.
DESIGN CHOICE: log entry 52. -/
def Ctx.withText (x : Ctx) (now : Nat) (k : Code) (fresh : List Nat) : Ctx :=
  let y := { x with
    oldTexts := x.oldTexts ++ [x.text]
    text := ⟨x.text.version + 1, k.textVA, k.words, k.pool, fresh.take k.textPages⟩ }
  if x.textOff = 0 ∧ k.textPages ≤ x.text.pages.length then
    { y with hbm := fresh.map (fun sa => ⟨sa, residenceOf sa, now⟩) ++ x.hbm.drop x.text.pages.length }
  else { y with shared := fresh, textOff := 4096 * (x.hbm.length + x.tier2.length) }

/-- Step 8 of R171, and the new text. DESIGN CHOICE: log entry 52. -/
def replaceText (s : State) (c : CtxId) (x : Ctx) (k : Code) (image digest : List Byte) : Except Nat State :=
  if sha256 (image.take (codeLength image)) != digest then .error stDigest
  else
    let inside := x.textOff = 0 ∧ k.textPages ≤ x.text.pages.length
    let n := if inside then x.text.pages.length else k.textPages
    let fresh := (planPages s c.peer { Block.zero with hbm := 4096 * n }).1
    let s := fillPages (zeroPages s fresh) fresh k.text
    let s := s.setCtx c (x.withText s.now k fresh)
    .ok (releasePages (dropTexts (s.reckon c) c) c.peer x.text.pages)

/-- The checks of an amendment in their order, and what it does. -/
def amend (s : State) (c : CtxId) (x : Ctx) (r : List Byte) (image : Option (List Byte)) : Except Nat State :=
  let d := s.dev c.peer
  let kind := leAt r 6 1
  let b := Block.ofBytes (r.drop 0x20)
  let code := image.bind parseCode
  let formOk := amendmentOk r && (if kind = 1 then image.isNone && resizeOk (rootOf s c.peer x 8) b else code.isSome)
  if !formOk then .error stFormat
  else
    match (if leAt r 7 1 = x.key then d.modulus x.key else none) with
    | none => .error stKey
    | some n =>
      if !signedBy n 0x100 r then .error stSignature
      else if !x.noTimeBound && !windowPasses s c.peer x.notBefore x.notAfter then .error stTime
      else if x.parent.isSome || x.serial != leAt r 8 8 then .error stDomain
      else if leAt r 0x10 4 ≤ x.amendment then .error stRedeemed
      else
        let done : Except Nat State := match kind, code with
          | 2, some k => replaceText s c x k (image.getD []) ((r.drop 0xA0).take 32)
          | _, _ => resize s c x b
        done.map (fun s => s.updCtx c (fun y => { y with amendment := leAt r 0x10 4 }))

/-- WAMEND's act. -/
def amendAct (orig : State) (p : Place) (d : Dst) (la : Nat) (va image : Word) (s : State) (t : Thread) : Res :=
  let c := t.ctxId p
  let end_ (st : Nat) (s : State) : Res := .done (pendNow s p [d] la false [statusWord st])
  let go (r : List Byte) (bs : Option (List Byte)) : Res :=
    match s.ctx c with
    | none => .stall orig
    | some x => match amend s c x r bs with
      | .error st => end_ st s
      | .ok s' => end_ 0 s'
  match grabAt s p t va 640 with
  | .error e => noRecord orig s p t (end_ stFormat s) e
  | .ok r =>
    if image = 0 then go r none
    else
      match grabImage s p t image with
      | .error e => noRecord orig s p t (end_ stFormat s) e
      | .ok bs => go r (some bs)

/-- WAMEND. -/
def execWamend (d a b : Reg) (la : BitVec 4) (s : State) : Host.Outcome State Fault Refusal :=
  issue (wordX 0x48 d.toNat a.toNat b.toNat la.toNat 5) [ri a, ri b, ri d] (isShared d) (fun p t k s =>
    let va := readI k t a
    let image := readI k t b
    match (checkVa s p t va 64 needR).or (if image = 0 then none else checkVa s p t image 8 needR) with
    | some r => r
    | none => commitThen s p t (amendAct s p (ri d) la.toNat va image)) s

end Sys2Proof.Machine
end

