-- ==== Sys2Proof/Machine/BringUp.lean ====
section
/-! DEFINITION. Device reset and bring-up, the state of peers, time adoption, and the extents of other members (R125, R128,
R159, R201, R207). -/

namespace Sys2Proof.Machine

/-! ## Reset and self-test (R53, R118, R123, R159, R165) -/

/-- What a device keeps across a reset: its enrolled keys with their redemption windows (R118, R127); the reset count, nonces
drawn and the time go on. DEDUCED: log entry 27. -/
def Device.afterReset (d : Device) (now : Nat) : Device :=
  { Device.reset with
    keys := d.keys
    windows := d.windows
    epoch := d.epoch + 1
    nonceCount := d.nonceCount
    timeAt := now
    askedAt := now
    capTime := 0
    lostAt := d.peersUp.foldl (fun m other => mset m other now) d.lostAt }

/-- A peer leaves peer up, as a device sees it. -/
def Device.lose (d : Device) (other now : Nat) : Device :=
  if d.peersUp.contains other then { d with peersUp := d.peersUp.filter (· != other), lostAt := mset d.lostAt other now } else d

/-- The packet streams that a device sends. -/
def sentBy (k : StreamKey) (peer : Nat) : Bool := if k.fabric then k.src == peer else k.peer == peer

/-- Everything that a device holds but its memory is gone. DEDUCED: log entry 27. -/
def wipe (s : State) (peer : Nat) : State :=
  { s with
    threads := s.threads.filter (fun e => e.1.peer != peer)
    donors := s.donors.filter (fun e => e.1.peer != peer)
    cores := s.cores.filter (fun e => e.1.peer != peer)
    ctxs := s.ctxs.filter (fun e => e.1.peer != peer)
    packets := s.packets.filter (fun k => k.place.peer != peer)
    streams := s.streams.filter (fun e => !sentBy e.1 peer)
    migs := s.migs.filter (fun m => m.src.peer != peer && m.dst.peer != peer)
    msgs := s.msgs.filter (fun m => m.src != peer)
    devs := s.devs.map (fun (e : Nat × Device) => (e.1, if e.1 = peer then e.2 else e.2.lose peer s.now)) }

/-- DEVICE_RESET. -/
def execDeviceReset (peer : Nat) (s : State) : Host.Outcome State Fault Refusal :=
  .next ((wipe s peer).setDev peer ((s.dev peer).afterReset s.now))

/-- SELF_TEST_COMPLETE: failed blocks are reported (R155) and leave the device unready; else stage 2, which ends at once where
slot 0 is filled. DESIGN CHOICE: log entry 48. -/
def execSelfTestComplete (peer : Nat) (failed : List Nat) (s : State) : Host.Outcome State Fault Refusal :=
  let d := s.dev peer
  .next (if d.stage ≠ 1 ∨ !d.failed.isEmpty then s
    else if failed.isEmpty then endStage2 (s.setDev peer { d with stage := 2 }) peer
    else failed.foldl (fun s n => errorReport s peer n 1) (s.setDev peer { d with failed := failed }))

/-! ## Peers (R128, R159, R207) -/

/-- PEER_UP: training is over; it begins once the device is ready. DEDUCED: log entry 59. -/
def execPeerUp (peer other : Nat) (s : State) : Host.Outcome State Fault Refusal :=
  let d := s.dev peer
  .next (if d.ready ∧ other ≠ peer ∧ other < 128 ∧ !d.peersUp.contains other then
      s.setDev peer { d with
        peersUp := d.peersUp ++ [other]
        peersSeen := if d.peersSeen.contains other then d.peersSeen else d.peersSeen ++ [other] }
    else s)

/-- LINK_LOSS. DEDUCED: log entry 59. -/
def execLinkLoss (peer other : Nat) (s : State) : Host.Outcome State Fault Refusal :=
  .next (s.setDev peer ((s.dev peer).lose other s.now))

/-! ## Time adoption (R125) -/

/-- A device may ask a peer for its time now: the declaration lets it, the peer is up and holds the same key in slot 0, and
2^30 ns have passed since the last attempt. DEDUCED: log entry 57. -/
def mayAsk (s : State) (peer other : Nat) : Bool :=
  let d := s.dev peer
  d.adopt && d.peersUp.contains other && (d.modulus 0).isSome && d.modulus 0 == (s.dev other).modulus 0
    && decide (2 ^ 30 ≤ nsOf (s.now - d.askedAt))

/-- The peer's time is better by the two conditions of R125. -/
def betterTime (s : State) (peer other rt : Nat) : Bool :=
  (s.dev other).timeA.isSome && decide (s.dunc other + rt < s.dunc peer)
    && ((s.dev peer).timeA.isNone || decide (s.dtime peer ≤ s.dtime other + s.dunc peer))

/-- One attempt, with its measured round-trip time in ns. DEDUCED: log entry 57. -/
def attempt (s : State) (peer other rt : Nat) : State :=
  if mayAsk s peer other then
    let d := { s.dev peer with askedAt := s.now }
    if betterTime s peer other rt then
      (keepExpiries s peer).setDev peer (d.setTime s.now (s.dtime other + rt / 2) (s.dunc other + rt))
    else s.setDev peer d
  else s

/-- TIME_ADOPTION. -/
def execTimeAdoption (peer other rt : Nat) (s : State) : Host.Outcome State Fault Refusal := .next (attempt s peer other rt)

/-- TIME_EXCHANGE: the reply of an exchange arrives; the peer that answers changes nothing of its own. -/
def execTimeExchange (peer other rt : Nat) (s : State) : Host.Outcome State Fault Refusal := .next (attempt s peer other rt)

/-! ## Extents of other members (R201) -/

/-- The extents of a context's grants: bytes of HBM and tier-2, and scratch. -/
def Ctx.extent (x : Ctx) : Nat × List Span := (4096 * (x.hbm.length + x.tier2.length), x.spans)

/-- MEMBER_EXTENT_UPDATE: what a device knows of another member's grants; nothing of a member that is gone.
DEDUCED: log entry 58. -/
def execMemberExtentUpdate (c : CtxId) (other : Nat) (s : State) : Host.Outcome State Fault Refusal :=
  .next (if other = c.peer then s
    else s.updCtx c (fun x =>
      { x with extents := match (member s c other).bind s.ctx with
          | some y => mset x.extents other y.extent
          | none => mdel x.extents other }))

end Sys2Proof.Machine
end

