-- ==== Sys2Proof/Machine/Control.lean ====
section
/-! DEFINITION. Branches, jumps, calls, loops, repeat frames, traps and the other control forms (R66 to R73, R89 to R95,
R105 to R107). -/

namespace Sys2Proof.Machine

/-- A conditional branch (R89): taken, it transfers control; not taken, it retires like any other instruction (R67). -/
def branch (word : Word) (a b : Reg) (off : BitVec 13) (c : Cond) (s : State) : Host.Outcome State Fault Refusal :=
  issue word [ri a, ri b] false (fun _ t k s =>
    if c.holds false (readI k t a) (readI k t b) then .jump s (target t.pc off) else .done s) s

/-- BEQ (R89). -/
def execBeq (a b : Reg) (off : BitVec 13) (s : State) : Host.Outcome State Fault Refusal :=
  branch (wordOf (.beq a b off)) a b off .eq s

/-- BNE (R89). -/
def execBne (a b : Reg) (off : BitVec 13) (s : State) : Host.Outcome State Fault Refusal :=
  branch (wordOf (.bne a b off)) a b off .ne s

/-- BLT (R89). -/
def execBlt (a b : Reg) (off : BitVec 13) (s : State) : Host.Outcome State Fault Refusal :=
  branch (wordOf (.blt a b off)) a b off .lt s

/-- BGE (R89). -/
def execBge (a b : Reg) (off : BitVec 13) (s : State) : Host.Outcome State Fault Refusal :=
  branch (wordOf (.bge a b off)) a b off .ge s

/-- BLTU (R89). -/
def execBltu (a b : Reg) (off : BitVec 13) (s : State) : Host.Outcome State Fault Refusal :=
  branch (wordOf (.bltu a b off)) a b off .ltu s

/-- BGEU (R89). -/
def execBgeu (a b : Reg) (off : BitVec 13) (s : State) : Host.Outcome State Fault Refusal :=
  branch (wordOf (.bgeu a b off)) a b off .geu s

/-- J (R90). -/
def execJ (off : BitVec 25) (s : State) : Host.Outcome State Fault Refusal :=
  issue (wordOf (.j off)) [] false (fun _ t _ s => .jump s (target t.pc off)) s

/-- JR (R90): MISALIGN for a target that is not a multiple of 4. -/
def execJr (a : Reg) (s : State) : Host.Outcome State Fault Refusal :=
  issue (wordOf (.jr a)) [ri a] false (fun _ t k s =>
    if (readI k t a).toNat % 4 ≠ 0 then .trap ⟨cMisalign, readI k t a⟩ else .jump s (readI k t a)) s

/-- CALL (R91). -/
def execCall (off : BitVec 25) (s : State) : Host.Outcome State Fault Refusal :=
  issue (wordOf (.call off)) [] false (fun p t _ s => callTo s p t (target t.pc off)) s

/-- CALLR (R91). -/
def execCallr (a : Reg) (s : State) : Host.Outcome State Fault Refusal :=
  issue (wordOf (.callr a)) [ri a] false (fun p t k s =>
    if (readI k t a).toNat % 4 ≠ 0 then .trap ⟨cMisalign, readI k t a⟩ else callTo s p t (readI k t a)) s

/-- RET (R91, R92). -/
def execRet (s : State) : Host.Outcome State Fault Refusal :=
  issue (wordOf .ret) [] false (fun p t _ s => returnFrom s p t) s

/-- A loop level is set (R66); a count of zero goes on behind the end. -/
def setLoop (s : State) (p : Place) (t : Thread) (lvl : Bool) (n : Word) (off : BitVec 18) : Res :=
  let ls := t.pc + 4
  let le := t.pc + 4 * zx off
  let l := if lvl then { t.loops with ls1 := ls, le1 := le, lc1 := n } else { t.loops with ls0 := ls, le0 := le, lc0 := n }
  .jump (s.updThread p (fun u => { u with loops := l })) (if n = 0 then le + 4 else t.pc + 4)

/-- LOOP (R66): the count is an unsigned register. -/
def execLoop (lvl : Bool) (a : Reg) (off : BitVec 18) (s : State) : Host.Outcome State Fault Refusal :=
  issue (wordOf (.loop lvl a off)) [ri a] false (fun p t k s => setLoop s p t lvl (readI k t a) off) s

/-- LOOPI (R66). -/
def execLoopi (lvl : Bool) (n : BitVec 6) (off : BitVec 18) (s : State) : Host.Outcome State Fault Refusal :=
  issue (wordOf (.loopi lvl n off)) [] false (fun p t _ s => setLoop s p t lvl (zx n) off) s

/-- LBRK (R68): the level's registers are cleared. It transfers control, to the next instruction (R67). -/
def execLbrk (lvl : Bool) (s : State) : Host.Outcome State Fault Refusal :=
  issue (wordOf (.lbrk lvl)) [] false (fun p t _ s =>
    let l := if lvl then { t.loops with ls1 := 0, le1 := 0, lc1 := 0 } else { t.loops with ls0 := 0, le0 := 0, lc0 := 0 }
    .jump (s.updThread p (fun u => { u with loops := l })) (t.pc + 4)) s

/-! ## Repeat frames (R69, R70, R73) -/

/-- A word whose major a frame may hold (R69). -/
def frameMajor (w : Nat) : Bool :=
  let m := fld w 25 7
  (decide (1 ≤ m) && decide (m ≤ 0x0A)) || m == 0x0F

/-- The word at an address is the end of a live loop level. -/
def Loops.endsAt (l : Loops) (va : Word) : Bool := (l.lc0 != 0 && l.le0 == va) || (l.lc1 != 0 && l.le1 == va)

/-- What the capture of a frame comes to. -/
inductive Capture where
  | ok (words : List Nat)
  | fault (c : Trap)
  | absent (page : Nat)
  deriving DecidableEq, Repr

/-- `n` words from an address are captured, checked one at a time under steps 1 to 4 of R41 (R69): a fetch fault and
FRAME_ILLEGAL name the word's address, ILLEGAL the word (R40). DEDUCED: log entry 74. -/
def capture (s : State) (p : Place) (t : Thread) : Nat → Word → Capture
  | 0, _ => .ok []
  | n + 1, va =>
    match fetch s (t.ctxId p) t.locks t.seen va with
    | .inr (.fault c) => .fault ⟨c.code, va⟩
    | .inr (.absent page) => .absent page
    | .inr (.ok _) => .fault ⟨cNomap, va⟩
    | .inl w =>
      if !decodes w then .fault ⟨cIllegal, BitVec.ofNat 64 w⟩
      else if !frameMajor w || t.loops.endsAt va then .fault ⟨cFrame, va⟩
      else
        match capture s p t n (va + 4) with
        | .ok ws => .ok (w :: ws)
        | r => r

/-- The replay of a captured frame starts, or the frame is over at once (R70, R73). -/
def startReplay (s : State) (p : Place) (fb : Word) (words : List Nat) (mask : BitVec 3) (stp count k i : Nat) : Res :=
  let past := fb + 4 * BitVec.ofNat 64 (words.length + 1)
  let k' := if words.length ≤ i then (k + 1) % 65536 else k
  let i' := if words.length ≤ i then 0 else i
  if k' = count then .jump (s.updThread p (fun u => { u with replay := none })) past
  else
    .jump (s.updThread p (fun u => { u with replay := some ⟨fb, words, mask, stp, count, k', i'⟩ }))
      (fb + 4 * BitVec.ofNat 64 (i' + 1))

/-- RPT (R69, R94): the capture, checked even for a count of zero and before the count's bank (R41 steps 4 and 5); the
count is bits 15:0 of the register. -/
def execRpt (len1 : BitVec 4) (mask : BitVec 3) (stp : BitVec 5) (a : Reg) (s : State) : Host.Outcome State Fault Refusal :=
  issue (wordOf (.rpt len1 mask stp a)) [] false (fun p t k s =>
    match capture s p t (len1.toNat + 1) (t.pc + 4) with
    | .fault c => .trap c
    | .absent page => .gone (parkPage s p page)
    | .ok ws =>
      if isShared a && !s.ownsCore p t then .trap ⟨cShared, wordOf (.rpt len1 mask stp a)⟩
      else startReplay s p t.pc ws mask stp.toNat (wbits (readI k t a) 0 16) 0 0) s

/-- The frame that ERET captures again (R73): its words, mask and step. -/
inductive Recapture where
  | ok (words : List Nat) (mask : BitVec 3) (stp : Nat)
  | fault (c : Trap)
  | absent (page : Nat)
  deriving DecidableEq, Repr

/-- The recapture of ERET (R73): FRAME_ILLEGAL where the word at `fb` is no RPT, and where the fetch of that word fails, for
which the spec names no code. DESIGN CHOICE: log entry 23. -/
def recapture (s : State) (p : Place) (t : Thread) (fb : Word) : Recapture :=
  match fetch s (t.ctxId p) t.locks t.seen fb with
  | .inr (.absent page) => .absent page
  | .inl w =>
    if fld w 25 7 ≠ 0x1A ∨ fld w 0 7 ≠ 0 then .fault ⟨cFrame, fb⟩
    else
      match capture s p t (fld w 21 4 + 1) (fb + 4) with
      | .fault c => .fault c
      | .absent page => .absent page
      | .ok ws => .ok ws (bits 3 w 18) (fld w 13 5)
  | _ => .fault ⟨cFrame, fb⟩

/-- TSTAT behind the recapture of a frame of `len` words: past its last word FK has risen and FI is 0, and FRM is cleared
(R73). -/
def Thread.resumed (t : Thread) (len : Nat) : Thread :=
  let past := decide (len ≤ tsFI t.tstat)
  { t with tstat := tsMake (tsDepth t.tstat) (tsNE t.tstat) (tsPNE t.tstat) 0 (if past then 0 else tsFI t.tstat)
                      (if past then (tsFK t.tstat + 1) % 65536 else tsFK t.tstat) (tsFC t.tstat) }

/-- ERET (R73, R106): at depth 0 ILLEGAL. The levels and the depth change before the recapture, so that a fault of the
recapture finds them changed; a page that it misses finds ERET still to be issued (R204). The TPC of a fault of the recapture is
ERET's own address: log entry 110. DESIGN CHOICE: log entry 23. -/
def execEret (s : State) : Host.Outcome State Fault Refusal :=
  issue (wordOf .eret) [] false (fun p t _ s =>
    if tsDepth t.tstat = 0 then .trap ⟨cIllegal, wordOf .eret⟩
    else
      let u := t.leaveTrap
      if tsFRM t.tstat = 1 then
        let fb := t.tpc - 4 * BitVec.ofNat 64 (tsFI t.tstat + 1)
        match recapture s p u fb with
        | .ok ws mask stp =>
          startReplay (s.setThread p (u.resumed ws.length)) p fb ws mask stp (tsFC t.tstat) (tsFK t.tstat) (tsFI t.tstat)
        | .fault c => if u.settled then .gone (raise (s.setThread p u) p c) else .stall s
        | .absent page => .gone (parkPage s p page)
      else .jump (s.setThread p u) t.tpc) s

/-! ## Traps and the rest -/

/-- NOP (R107). -/
def execNop (s : State) : Host.Outcome State Fault Refusal := issue (wordOf .nop) [] false (fun _ _ _ s => .done s) s

/-- BRK (R105). -/
def execBrk (s : State) : Host.Outcome State Fault Refusal := issue (wordOf .brk) [] false (fun _ _ _ _ => .trap ⟨cBreak, 0⟩) s

/-- TRAP (R105): TVAL is sext(imm19). -/
def execTrap (imm : BitVec 19) (s : State) : Host.Outcome State Fault Refusal :=
  issue (wordOf (.trap imm)) [] false (fun _ _ _ _ => .trap ⟨cSwtrap, sx imm⟩) s

/-- WFLUSH (R95): every frame not yet in the area is written; residency is unchanged. -/
def execWflush (s : State) : Host.Outcome State Fault Refusal :=
  issue (wordOf .wflush) [] false (fun p _ _ s =>
    match flushFrames s p with
    | .ok s' => .done s'
    | .wait => .stall s
    | .bad va => .trap ⟨cWstack, va⟩) s

/-- ILLEGAL_INSTRUCTION (R40): the word has no effect but the trap, whose TVAL is the word. -/
def execIllegalInstruction (word : BitVec 32) (s : State) : Host.Outcome State Fault Refusal :=
  match s.thread s.turn with
  | none => .fault .emptySlot
  | some _ => .next (raise s s.turn ⟨cIllegal, zx word⟩)

/-- FETCH_FAULT (R41 steps 1 and 2): the trap of a failed fetch, before any word is decoded. -/
def execFetchFault (code : Nat) (va : Word) (s : State) : Host.Outcome State Fault Refusal :=
  match s.thread s.turn with
  | none => .fault .emptySlot
  | some _ => .next (raise s s.turn ⟨code, va⟩)

end Sys2Proof.Machine
end

