-- ==== Sys2Proof/Machine/FloatScalar.lean ====
section
/-! DEFINITION. Scalar floating-point instructions: major 0x0F (R37). An F field that names a mapped stream pops or
pushes (R271). -/

namespace Sys2Proof.Machine

/-- FADD (R37). -/
def execFadd (p : Bool) (d a b : Reg) (s : State) : Host.Outcome State Fault Refusal :=
  fff (wordOf (.fadd p d a b)) d a b (fp2 p fpAdd) s

/-- FSUB (R37). -/
def execFsub (p : Bool) (d a b : Reg) (s : State) : Host.Outcome State Fault Refusal :=
  fff (wordOf (.fsub p d a b)) d a b (fp2 p fpSub) s

/-- FMUL (R37). -/
def execFmul (p : Bool) (d a b : Reg) (s : State) : Host.Outcome State Fault Refusal :=
  fff (wordOf (.fmul p d a b)) d a b (fp2 p fpMul) s

/-- FDIV (R37). -/
def execFdiv (p : Bool) (d a b : Reg) (s : State) : Host.Outcome State Fault Refusal :=
  fff (wordOf (.fdiv p d a b)) d a b (fp2 p fpDiv) s

/-- FMIN (R37). -/
def execFmin (p : Bool) (d a b : Reg) (s : State) : Host.Outcome State Fault Refusal :=
  fff (wordOf (.fmin p d a b)) d a b (fp2 p fpMin) s

/-- FMAX (R37). -/
def execFmax (p : Bool) (d a b : Reg) (s : State) : Host.Outcome State Fault Refusal :=
  fff (wordOf (.fmax p d a b)) d a b (fp2 p fpMax) s

/-- FMADD (R37): d + a × b with one rounding; a and b pop before d (R271). -/
def execFmadd (p : Bool) (d a b : Reg) (s : State) : Host.Outcome State Fault Refusal :=
  computeF (wordOf (.fmadd p d a b)) [rf a, rf b, rf d] (rf d) (fun vs => match vs with
    | [x, y, z] => fpOut (fpFma (fpOf p) (fpIn p z) (fpIn p x) (fpIn p y))
    | _ => 0) s

/-- FABS (R37). -/
def execFabs (p : Bool) (d a : Reg) (s : State) : Host.Outcome State Fault Refusal :=
  ff (wordOf (.fabs p d a)) (rf d) (rf a) (fp1 p fpAbs) s

/-- FNEG (R37). -/
def execFneg (p : Bool) (d a : Reg) (s : State) : Host.Outcome State Fault Refusal :=
  ff (wordOf (.fneg p d a)) (rf d) (rf a) (fp1 p fpNegate) s

/-- FSQRT (R37). -/
def execFsqrt (p : Bool) (d a : Reg) (s : State) : Host.Outcome State Fault Refusal :=
  ff (wordOf (.fsqrt p d a)) (rf d) (rf a) (fp1 p fpSqrt) s

/-- FCMPEQ (R37): 1 or 0; any NaN gives 0. -/
def execFcmpeq (p : Bool) (d a b : Reg) (s : State) : Host.Outcome State Fault Refusal :=
  computeF (wordOf (.fcmpeq p d a b)) [rf a, rf b] (ri d) (fun vs => match vs with
    | [x, y] => fpCompare p (fun o => o == .eq) x y
    | _ => 0) s

/-- FCMPLT (R37): 1 or 0; any NaN gives 0. -/
def execFcmplt (p : Bool) (d a b : Reg) (s : State) : Host.Outcome State Fault Refusal :=
  computeF (wordOf (.fcmplt p d a b)) [rf a, rf b] (ri d) (fun vs => match vs with
    | [x, y] => fpCompare p (fun o => o == .lt) x y
    | _ => 0) s

/-- FCMPLE (R37): 1 or 0; any NaN gives 0. -/
def execFcmple (p : Bool) (d a b : Reg) (s : State) : Host.Outcome State Fault Refusal :=
  computeF (wordOf (.fcmple p d a b)) [rf a, rf b] (ri d) (fun vs => match vs with
    | [x, y] => fpCompare p (fun o => o != .gt) x y
    | _ => 0) s

/-- FCVTIF (R37). -/
def execFcvtif (p : Bool) (d a : Reg) (s : State) : Host.Outcome State Fault Refusal :=
  ff (wordOf (.fcvtif p d a)) (rf d) (ri a) (fpFromInt p) s

/-- FCVTFI (R37). -/
def execFcvtfi (p : Bool) (d a : Reg) (s : State) : Host.Outcome State Fault Refusal :=
  ff (wordOf (.fcvtfi p d a)) (ri d) (rf a) (fpToInt p) s

/-- FCVTW (R37). -/
def execFcvtw (p : Bool) (d a : Reg) (s : State) : Host.Outcome State Fault Refusal :=
  ff (wordOf (.fcvtw p d a)) (rf d) (rf a) (fpWiden p) s

/-- FMVIF (R37). -/
def execFmvif (p : Bool) (d a : Reg) (s : State) : Host.Outcome State Fault Refusal :=
  ff (wordOf (.fmvif p d a)) (rf d) (ri a) (fpMove p) s

/-- FMVFI (R37). -/
def execFmvfi (p : Bool) (d a : Reg) (s : State) : Host.Outcome State Fault Refusal :=
  ff (wordOf (.fmvfi p d a)) (ri d) (rf a) (fpMove p) s

end Sys2Proof.Machine
end

