-- ==== Sys2Proof/Machine/Integer.lean ====
section
/-! DEFINITION. Integer instructions: majors 0x01 to 0x0C (R79 to R88). -/

namespace Sys2Proof.Machine

/-- ADD (R80): d := res(opd(a) + opd(b)), wrapping. -/
def execAdd (w : Bool) (d a b : Reg) (s : State) : Host.Outcome State Fault Refusal :=
  rrr (wordOf (.add w d a b)) d a b (aluAdd w) s

/-- SUB (R80): d := res(opd(a) − opd(b)), wrapping. -/
def execSub (w : Bool) (d a b : Reg) (s : State) : Host.Outcome State Fault Refusal :=
  rrr (wordOf (.sub w d a b)) d a b (aluSub w) s

/-- ADDV (R81): the sum, or OVERFLOW. -/
def execAddv (w : Bool) (d a b : Reg) (s : State) : Host.Outcome State Fault Refusal :=
  rrrT (wordOf (.addv w d a b)) d a b (fun x y => aluChecked w (opS w x + opS w y)) s

/-- SUBV (R81): the difference, or OVERFLOW. -/
def execSubv (w : Bool) (d a b : Reg) (s : State) : Host.Outcome State Fault Refusal :=
  rrrT (wordOf (.subv w d a b)) d a b (fun x y => aluChecked w (opS w x - opS w y)) s

/-- MUL (R80): the low n bits of S(a) × S(b). -/
def execMul (w : Bool) (d a b : Reg) (s : State) : Host.Outcome State Fault Refusal :=
  rrr (wordOf (.mul w d a b)) d a b (aluMul w) s

/-- MULH (R80): the high n bits of S(a) × S(b). -/
def execMulh (w : Bool) (d a b : Reg) (s : State) : Host.Outcome State Fault Refusal :=
  rrr (wordOf (.mulh w d a b)) d a b (aluMulh w) s

/-- MULHU (R80): the high n bits of U(a) × U(b). -/
def execMulhu (w : Bool) (d a b : Reg) (s : State) : Host.Outcome State Fault Refusal :=
  rrr (wordOf (.mulhu w d a b)) d a b (aluMulhu w) s

/-- MADD (R80): d + a × b, wrapping. -/
def execMadd (w : Bool) (d a b : Reg) (s : State) : Host.Outcome State Fault Refusal :=
  rrrd (wordOf (.madd w d a b)) d a b (aluMadd w) s

/-- DIV (R82): the truncated quotient. -/
def execDiv (w : Bool) (d a b : Reg) (s : State) : Host.Outcome State Fault Refusal :=
  rrr (wordOf (.div w d a b)) d a b (aluDiv w) s

/-- DIVU (R82): the unsigned quotient. -/
def execDivu (w : Bool) (d a b : Reg) (s : State) : Host.Outcome State Fault Refusal :=
  rrr (wordOf (.divu w d a b)) d a b (aluDivu w) s

/-- REM (R82): the remainder with the sign of the dividend. -/
def execRem (w : Bool) (d a b : Reg) (s : State) : Host.Outcome State Fault Refusal :=
  rrr (wordOf (.rem w d a b)) d a b (aluRem w) s

/-- REMU (R82): the unsigned remainder. -/
def execRemu (w : Bool) (d a b : Reg) (s : State) : Host.Outcome State Fault Refusal :=
  rrr (wordOf (.remu w d a b)) d a b (aluRemu w) s

/-- DIVV (R82): DIV, with its corners trapping. -/
def execDivv (w : Bool) (d a b : Reg) (s : State) : Host.Outcome State Fault Refusal :=
  rrrT (wordOf (.divv w d a b)) d a b (aluDivv w) s

/-- ABS (R80): the absolute value; ABS of MIN is MIN. -/
def execAbs (w : Bool) (d a : Reg) (s : State) : Host.Outcome State Fault Refusal :=
  rr (wordOf (.abs w d a)) d a (aluAbs w) s

/-- MIN (R80): the smaller, signed. -/
def execMin (w : Bool) (d a b : Reg) (s : State) : Host.Outcome State Fault Refusal :=
  rrr (wordOf (.min w d a b)) d a b (aluMin w) s

/-- MAX (R80): the larger, signed. -/
def execMax (w : Bool) (d a b : Reg) (s : State) : Host.Outcome State Fault Refusal :=
  rrr (wordOf (.max w d a b)) d a b (aluMax w) s

/-- MINU (R80): the smaller, unsigned. -/
def execMinu (w : Bool) (d a b : Reg) (s : State) : Host.Outcome State Fault Refusal :=
  rrr (wordOf (.minu w d a b)) d a b (aluMinu w) s

/-- MAXU (R80): the larger, unsigned. -/
def execMaxu (w : Bool) (d a b : Reg) (s : State) : Host.Outcome State Fault Refusal :=
  rrr (wordOf (.maxu w d a b)) d a b (aluMaxu w) s

/-- AND (R80): bitwise AND. -/
def execAnd (w : Bool) (d a b : Reg) (s : State) : Host.Outcome State Fault Refusal :=
  rrr (wordOf (.and w d a b)) d a b (aluAnd w) s

/-- OR (R80): bitwise OR. -/
def execOr (w : Bool) (d a b : Reg) (s : State) : Host.Outcome State Fault Refusal :=
  rrr (wordOf (.or w d a b)) d a b (aluOr w) s

/-- XOR (R80): bitwise XOR. -/
def execXor (w : Bool) (d a b : Reg) (s : State) : Host.Outcome State Fault Refusal :=
  rrr (wordOf (.xor w d a b)) d a b (aluXor w) s

/-- ANDN (R80): a AND NOT b. -/
def execAndn (w : Bool) (d a b : Reg) (s : State) : Host.Outcome State Fault Refusal :=
  rrr (wordOf (.andn w d a b)) d a b (aluAndn w) s

/-- SHL (R83): shift left, zeros in. -/
def execShl (w : Bool) (d a b : Reg) (s : State) : Host.Outcome State Fault Refusal :=
  rrr (wordOf (.shl w d a b)) d a b (fun x y => aluShl w x (shiftBy w y)) s

/-- SHR (R83): shift right, zeros in. -/
def execShr (w : Bool) (d a b : Reg) (s : State) : Host.Outcome State Fault Refusal :=
  rrr (wordOf (.shr w d a b)) d a b (fun x y => aluShr w x (shiftBy w y)) s

/-- SRA (R83): shift right, copies of the sign in. -/
def execSra (w : Bool) (d a b : Reg) (s : State) : Host.Outcome State Fault Refusal :=
  rrr (wordOf (.sra w d a b)) d a b (fun x y => aluSra w x (shiftBy w y)) s

/-- ROL (R83): rotate left within n bits. -/
def execRol (w : Bool) (d a b : Reg) (s : State) : Host.Outcome State Fault Refusal :=
  rrr (wordOf (.rol w d a b)) d a b (fun x y => aluRol w x (shiftBy w y)) s

/-- CLZ (R83): leading zeros. -/
def execClz (w : Bool) (d a : Reg) (s : State) : Host.Outcome State Fault Refusal :=
  rr (wordOf (.clz w d a)) d a (aluClz w) s

/-- CTZ (R83): trailing zeros. -/
def execCtz (w : Bool) (d a : Reg) (s : State) : Host.Outcome State Fault Refusal :=
  rr (wordOf (.ctz w d a)) d a (aluCtz w) s

/-- POPC (R83): one bits. -/
def execPopc (w : Bool) (d a : Reg) (s : State) : Host.Outcome State Fault Refusal :=
  rr (wordOf (.popc w d a)) d a (aluPopc w) s

/-- BREV (R83): bit i to bit n − 1 − i. -/
def execBrev (w : Bool) (d a : Reg) (s : State) : Host.Outcome State Fault Refusal :=
  rr (wordOf (.brev w d a)) d a (aluBrev w) s

/-- SEQ (R84): 1 when equal. -/
def execSeq (w : Bool) (d a b : Reg) (s : State) : Host.Outcome State Fault Refusal :=
  rrr (wordOf (.seq w d a b)) d a b (fun x y => ofCond (Cond.eq.holds w x y)) s

/-- SNE (R84): 1 when unequal. -/
def execSne (w : Bool) (d a b : Reg) (s : State) : Host.Outcome State Fault Refusal :=
  rrr (wordOf (.sne w d a b)) d a b (fun x y => ofCond (Cond.ne.holds w x y)) s

/-- SLT (R84): 1 when less, signed. -/
def execSlt (w : Bool) (d a b : Reg) (s : State) : Host.Outcome State Fault Refusal :=
  rrr (wordOf (.slt w d a b)) d a b (fun x y => ofCond (Cond.lt.holds w x y)) s

/-- SLTU (R84): 1 when less, unsigned. -/
def execSltu (w : Bool) (d a b : Reg) (s : State) : Host.Outcome State Fault Refusal :=
  rrr (wordOf (.sltu w d a b)) d a b (fun x y => ofCond (Cond.ltu.holds w x y)) s

/-- SEL (R84): a or b by the condition in d. -/
def execSel (w : Bool) (d a b : Reg) (s : State) : Host.Outcome State Fault Refusal :=
  rrrd (wordOf (.sel w d a b)) d a b (aluSel w) s

/-- ADDI (R85). -/
def execAddi (d a : Reg) (imm : BitVec 13) (s : State) : Host.Outcome State Fault Refusal :=
  rr (wordOf (.addi d a imm)) d a (fun x => x + sx imm) s

/-- ANDI (R85). -/
def execAndi (d a : Reg) (imm : BitVec 13) (s : State) : Host.Outcome State Fault Refusal :=
  rr (wordOf (.andi d a imm)) d a (fun x => x &&& sx imm) s

/-- ORI (R85). -/
def execOri (d a : Reg) (imm : BitVec 13) (s : State) : Host.Outcome State Fault Refusal :=
  rr (wordOf (.ori d a imm)) d a (fun x => x ||| sx imm) s

/-- XORI (R85). -/
def execXori (d a : Reg) (imm : BitVec 13) (s : State) : Host.Outcome State Fault Refusal :=
  rr (wordOf (.xori d a imm)) d a (fun x => x ^^^ sx imm) s

/-- SLTI (R85). -/
def execSlti (d a : Reg) (imm : BitVec 13) (s : State) : Host.Outcome State Fault Refusal :=
  rr (wordOf (.slti d a imm)) d a (fun x => ofCond (decide (x.toInt < (sx imm).toInt))) s

/-- SHLI (R86): SHL with sh := amt. -/
def execShli (w : Bool) (d a : Reg) (amt : BitVec 6) (s : State) : Host.Outcome State Fault Refusal :=
  rr (wordOf (.shli w d a amt)) d a (fun x => aluShl w x amt.toNat) s

/-- SHRI (R86): SHR with sh := amt. -/
def execShri (w : Bool) (d a : Reg) (amt : BitVec 6) (s : State) : Host.Outcome State Fault Refusal :=
  rr (wordOf (.shri w d a amt)) d a (fun x => aluShr w x amt.toNat) s

/-- SRAI (R86): SRA with sh := amt. -/
def execSrai (w : Bool) (d a : Reg) (amt : BitVec 6) (s : State) : Host.Outcome State Fault Refusal :=
  rr (wordOf (.srai w d a amt)) d a (fun x => aluSra w x amt.toNat) s

/-- BFX (R87): the field zero-extended. -/
def execBfx (d a : Reg) (width1 pos : BitVec 6) (s : State) : Host.Outcome State Fault Refusal :=
  rr (wordOf (.bfx d a width1 pos)) d a (fun x => aluBfx x width1 pos) s

/-- BFXS (R87): the field sign-extended. -/
def execBfxs (d a : Reg) (width1 pos : BitVec 6) (s : State) : Host.Outcome State Fault Refusal :=
  rr (wordOf (.bfxs d a width1 pos)) d a (fun x => aluBfxs x width1 pos) s

/-- BFI (R87): the low bits of a inserted into d. -/
def execBfi (d a : Reg) (width1 pos : BitVec 6) (s : State) : Host.Outcome State Fault Refusal :=
  rrrd (wordOf (.bfi d a width1 pos)) d a a (fun z x _ => aluBfi z x width1 pos) s

/-- LI (R88): d := sext(imm19). -/
def execLi (d : Reg) (imm : BitVec 19) (s : State) : Host.Outcome State Fault Refusal :=
  compute (wordOf (.li d imm)) [] (ri d) (fun _ _ _ _ => .ok (sx imm)) s

/-- LIH (R88): d shifted left by 19, OR zext(imm19). -/
def execLih (d : Reg) (imm : BitVec 19) (s : State) : Host.Outcome State Fault Refusal :=
  compute (wordOf (.lih d imm)) [] (ri d) (fun _ t k _ => .ok ((readI k t d <<< 19) ||| zx imm)) s

/-- ADDPC (R88): d := PC + 4 × sext(imm19). -/
def execAddpc (d : Reg) (imm : BitVec 19) (s : State) : Host.Outcome State Fault Refusal :=
  compute (wordOf (.addpc d imm)) [] (ri d) (fun _ t _ _ => .ok (target t.pc imm)) s

/-- The 8 pool bytes at an address (R46): MISALIGN, PERM for a word that is no pool word of the current text, POISON
for a poisoned line (R151). -/
def poolLoad (s : State) (p : Place) (t : Thread) (va : Word) : Except Trap Word :=
  match s.ctx (t.ctxId p) with
  | none => .error ⟨cPerm, va⟩
  | some x =>
    let pool (v : Nat) : Bool := x.text.has v && x.text.isPool v
    if va.toNat % 8 ≠ 0 then .error ⟨cMisalign, va⟩
    else if pool va.toNat && pool (va.toNat + 4) then
      if textHit s x.text va.toNat || textHit s x.text (va.toNat + 4) then .error ⟨cPoison, va⟩ else
      match textWord s x.text va.toNat, textWord s x.text (va.toNat + 4) with
      | some lo, some hi => .ok (BitVec.ofNat 64 (lo + 2 ^ 32 * hi))
      | _, _ => .error ⟨cPerm, va⟩
    else .error ⟨cPerm, va⟩

/-- LDL (R46): the only read of execute-only text. -/
def execLdl (d : Reg) (imm : BitVec 19) (s : State) : Host.Outcome State Fault Refusal :=
  compute (wordOf (.ldl d imm)) [] (ri d) (fun p t _ s => poolLoad s p t (target t.pc imm)) s

end Sys2Proof.Machine
end

