-- ==== Sys2Proof/Machine/Queues.lean ====
section
/-! DEFINITION. Queues and pipelines (R282 to R288, R304 to R309). -/

namespace Sys2Proof.Machine

/-! ## Statuses (R269, R288, R309) -/

def stBadConfig : Nat := 0x71
def stStale : Nat := 0x72
def stBadHandle : Nat := 0x73
def stNoRight : Nat := 0x74
def stFull : Nat := 0x75
def stEmpty : Nat := 0x76
def stNotGoverned : Nat := 0x77
def stBadDesc : Nat := 0x78
def stQidTaken : Nat := 0x79
def stQuota : Nat := 0x7A
def stGovBusy : Nat := 0x7B

/-! ## Handles (R283) -/

/-- A handle's bits 63:23. -/
def handleBits (qid gen rights ctx : Nat) : Nat := qid % 4096 * 2 ^ 29 + gen % 4096 * 2 ^ 17 + rights % 8 * 2 ^ 14 + ctx % 2 ^ 14

/-- A handle with its tag. -/
def mkHandle (s : State) (peer qid gen rights ctx : Nat) : Word :=
  let bits := handleBits qid gen rights ctx
  BitVec.ofNat 64 (bits * 2 ^ 23 + (Config.queueTag peer (s.dev peer).epoch (BitVec.ofNat 41 bits)).toNat)

/-- The parts of a handle; rights have E as 4, D as 2, S as 1. -/
def hQid (h : Word) : Nat := wbits h 52 12
def hGen (h : Word) : Nat := wbits h 40 12
def hRights (h : Word) : Nat := wbits h 37 3
def hCtx (h : Word) : Nat := wbits h 23 14

/-- The handle carries the rights of a mask. -/
def hasRights (h : Word) (mask : Nat) : Bool := hRights h &&& mask == mask

/-- The tag verifies. -/
def tagOk (s : State) (peer : Nat) (h : Word) : Bool :=
  (Config.queueTag peer (s.dev peer).epoch (BitVec.ofNat 41 (wbits h 23 41))).toNat == wbits h 0 23

/-- A role id (R286). -/
def isRole (h : Word) : Bool := decide (0xFC0 ≤ hQid h)

/-- The pipeline of a role handle: district and number as one number 8d + p. -/
def roleOf (h : Word) : Nat := hQid h - 0xFC0

/-- The quarter, as 4d + q, whose controller keeps a queue (R283). -/
def queueQtr (h : Word) : Nat := hQid h % 32

/-! ## Queues in scratch (R282) -/

/-- The system address of a byte of a queue's area. -/
def Queue.at (q : Queue) (n : Nat) : Nat := q.pages[(q.off + n) / 4096]?.getD 0 + (q.off + n) % 4096

/-- The address of the record of an index. -/
def Queue.ring (q : Queue) (i : Nat) : Nat := q.at (32 + 16 * (i % q.cap))

/-- Records held. -/
def Queue.count (q : Queue) : Nat := (q.tail + 2 ^ 32 - q.head) % 2 ^ 32

/-- The header's 32 bytes. DEDUCED: log entry 68. -/
def Queue.header (q : Queue) (ctx : Nat) : List Byte :=
  leBytes 4 q.head ++ leBytes 4 q.tail ++ leBytes 4 q.cap ++ leBytes 2 (q.gen % 4096) ++ leBytes 2 ctx ++ leBytes 4 q.seq
    ++ leBytes 12 0

/-- The queue with what its header holds, where it is not live. -/
def Queue.loaded (s : State) (q : Queue) : Queue :=
  if q.live then q
  else
    let h := s.reads (q.at 0) 32
    { q with head := leAt h 0 4, tail := leAt h 4 4, cap := leAt h 8 4, seq := leAt h 0x10 4 }

/-- A controller's write to a queue's area, while the owner still has the scratch; none while a fixed region reads its line
(R220). -/
def queueWrite (s : State) (c : CtxId) (sa : Nat) (bs : List Byte) : Option State :=
  match s.ctx c with
  | none => some s
  | some x =>
    if !spansCover x.spans (scratchCore (saOff sa)) (saOff sa % 2 ^ 17) bs.length then some s
    else if blocked s none (linesOf sa bs.length) then none
    else some (extWrite s none sa bs)

/-- A queue of a context is replaced. -/
def setQueue (s : State) (c : CtxId) (qid : Nat) (q : Queue) : State :=
  s.updCtx c (fun x => { x with queues := mset x.queues qid q })

/-- The queue that a handle names, where it exists at its generation (R284 step 2). -/
def queueOf (s : State) (peer : Nat) (h : Word) : Option Queue :=
  ((s.ctx ⟨peer, hCtx h⟩).bind (fun x => mget x.queues (hQid h))).filter (fun q => q.exists_ && q.gen == hGen h)

/-- Steps 1 and 2 of R284: the status of the first that fails. -/
def handleCheck (s : State) (peer : Nat) (h : Word) : Option Nat :=
  if !tagOk s peer h then some stBadHandle
  else if isRole h then
    (match mget (s.dev peer).pipes (roleOf h) with
    | some g => if g.ctx = hCtx h then none else some stBadHandle
    | none => some stBadHandle)
  else if (queueOf s peer h).isNone then some stStale
  else none

/-- The group of a district that a core belongs to, 0 to 191 (R286). -/
def districtGroup (core : Nat) : Nat := 48 * coreQtr core + coreGrp core

/-- The stage that a core's group serves in a pipeline; none outside the governed set (R286). -/
def Pipe.stage (g : Pipe) (dist core : Nat) : Option Nat :=
  if coreDist core = dist ∧ g.governed.contains (districtGroup core) then mget g.serves (districtGroup core) else none

/-! ## Operations at a controller (R285, R305 to R308) -/

/-- What a queue operation comes to: its effect and its answer, or a wait at the controller. -/
abbrev QueueStep := State × Option Word

/-- A status, with no other effect. -/
def queueStatus (s : State) (n : Nat) : QueueStep := (s, some (statusWord n))

/-- The operation waits. -/
def queueWait (s : State) : QueueStep := (s, none)

/-- What a controller does behind its write to a queue's area; the operation waits while the write is held. -/
def behindWrite (s : State) (w : Option State) (act : State → State × Word) : QueueStep :=
  match w with
  | none => queueWait s
  | some s' => ((act s').1, some (act s').2)

/-- QENQ's step. -/
def enqueue (s : State) (peer : Nat) (from_ : Nat) (h payload : Word) (q : Queue) : QueueStep :=
  if q.cap ≤ q.count then queueStatus s stFull
  else
    let c : CtxId := ⟨peer, hCtx h⟩
    let rec_ := leBytes 8 payload.toNat ++ leBytes 8 (from_ % 2 ^ 14 * 2 ^ 34 + q.seq)
    behindWrite s (queueWrite s c (q.ring q.tail) rec_) (fun s =>
      (setQueue s c (hQid h) { q with tail := (q.tail + 1) % 2 ^ 32, seq := (q.seq + 1) % 2 ^ 32, used := s.now }, 0))

/-- A record leaves a queue, at its head or its tail, for the address of the asker; a role's record has its stage (R286). -/
def takeFrom (s : State) (ask : CtxId) (ap : Nat) (locks : List Lock) (h : Word) (q : Queue) (steal : Bool) (stage : Nat)
    (va : Word) : QueueStep :=
  if q.count = 0 then queueStatus s stEmpty
  else
    let c : CtxId := ⟨ask.peer, hCtx h⟩
    let i := if steal then (q.tail + 2 ^ 32 - 1) % 2 ^ 32 else q.head
    let bs := s.reads (q.ring i) 16
    let bs := bs.take 14 ++ leBytes 2 (if stage = 0 then leAt bs 14 2 else stage)
    match putBytes s ask ap locks va bs with
    | .ok s =>
      let q' := if steal then { q with tail := i, used := s.now } else { q with head := (q.head + 1) % 2 ^ 32, used := s.now }
      (setQueue s c (hQid h) q', some 0)
    | .held => queueWait s
    | .absent page => queueWait (askPage s ask page)

/-- QDEQ and QSTEAL's step: a role handle is answered from the stage that the asking core's group serves. -/
def dequeue (s : State) (ask : CtxId) (core : CoreId) (ap : Nat) (locks : List Lock) (steal : Bool) (h va : Word) : QueueStep :=
  match handleCheck s ask.peer h with
  | some st => queueStatus s st
  | none =>
    if !hasRights h (if steal then 1 else 2) then queueStatus s stNoRight
    else if isRole h then
      match mget (s.dev ask.peer).pipes (roleOf h) with
      | none => queueStatus s stBadHandle
      | some g =>
        match g.stage (roleOf h / 8) core.core with
        | none => queueStatus s stNotGoverned
        | some j =>
          let hj := g.handles[j]?.getD 0
          match queueOf s ask.peer hj with
          | none => queueStatus s stStale
          | some q => if q.live then takeFrom s ask ap locks hj q false j va else queueWait s
    else
      match queueOf s ask.peer h with
      | none => queueStatus s stStale
      | some q => if q.live then takeFrom s ask ap locks h q steal 0 va else queueWait s

/-- The system addresses of the pages of an area, each as its first byte in the area shows it; none where one is not scratch
(R305). -/
def areaPages (s : State) (c : CtxId) (ap : Nat) (locks : List Lock) (va : Word) (n : Nat) : Option (List Nat) :=
  let first := va.toNat / 4096
  let count := (va.toNat + n - 1) / 4096 - first + 1
  let byte (j : Nat) : Nat := max va.toNat (4096 * (first + j))
  (List.range count).foldl (fun acc j =>
    match acc, look s c ap locks (BitVec.ofNat 64 (byte j)) 1 1 needW with
    | some ps, .ok l =>
      match l.sa with
      | some sa => if saKind sa = 3 then some (ps ++ [sa - byte j % 4096]) else none
      | none => none
    | _, _ => none) (some [])

/-- Bytes of a queue's area. -/
def queueBytes (cap : Nat) : Nat := 32 + 16 * cap

/-- b of QMAKE keeps its limits (R305). -/
def makeOk (b : Word) : Bool :=
  let cap := wbits b 0 32
  wbits b 44 20 == 0 && decide (wbits b 32 12 < 0xFC0) && decide (16 ≤ cap) && decide (cap ≤ 65536) && cap &&& (cap - 1) == 0

/-- QMAKE's step: its header is written, and the queue is not live yet. -/
def makeQueue (s : State) (c : CtxId) (ap : Nat) (locks : List Lock) (va b : Word) : QueueStep :=
  let cap := wbits b 0 32
  let qid := wbits b 32 12
  if !makeOk b ∨ va.toNat % 32 ≠ 0 then queueStatus s stBadConfig
  else
    match areaPages s c ap locks va (queueBytes cap), s.ctx c with
    | some pages, some x =>
      let old := mget x.queues qid
      let gen := (old.map (·.gen)).getD 1
      if (old.map (·.exists_)).getD false ∨ 4096 ≤ gen then queueStatus s stQidTaken
      else if x.block.queues ≤ (x.queues.filter (fun e => e.2.exists_)).length then queueStatus s stQuota
      else
        let q : Queue := { gen := gen, exists_ := true, off := va.toNat % 4096, pages := pages, cap := cap, head := 0, tail := 0,
                           seq := 0, live := false, used := s.now }
        behindWrite s (queueWrite s c (q.at 0) (q.header c.id)) (fun s =>
          (setQueue s c qid q, mkHandle s c.peer qid gen 7 c.id))
    | _, _ => queueStatus s stBadConfig

/-- A bound pipeline of the device names a queue. -/
def namedStage (s : State) (peer : Nat) (h : Word) : Bool :=
  (s.dev peer).pipes.any (fun e => e.2.handles.any (fun g => hQid g == hQid h && hCtx g == hCtx h))

/-- QDEST's step: the generation rises, and the header has it. -/
def destroyQueue (s : State) (ask : CtxId) (h : Word) : QueueStep :=
  match handleCheck s ask.peer h with
  | some st => queueStatus s st
  | none =>
    if !hasRights h 7 ∨ hCtx h ≠ ask.id then queueStatus s stNoRight
    else if namedStage s ask.peer h then queueStatus s stGovBusy
    else
      match queueOf s ask.peer h with
      | none => queueStatus s stStale
      | some q =>
        if !q.live then queueWait s
        else
          let q' := { q with head := 0, tail := 0, gen := q.gen + 1, exists_ := false, live := false }
          behindWrite s (queueWrite s ask (q.at 0) (q'.header ask.id)) (fun s => (setQueue s ask (hQid h) q', 0))

/-! ## Governors (R286, R287, R308) -/

/-- The cores of a group of a district. -/
def groupOf (dist g : Nat) : List Nat := groupCores dist (g / 48) (g % 48)

/-- A pipeline from its descriptor's 256 bytes; none where it breaks R286 or R308. -/
def Pipe.ofBytes (s : State) (c : CtxId) (x : Ctx) (dist : Nat) (d : List Byte) : Option Pipe :=
  let hs : List Word := ((List.range 8).map (fun j => BitVec.ofNat 64 (leAt d (8 * j) 8)))
  let k := (hs.takeWhile (fun h => h != 0)).length
  let stages := hs.take k
  let hi := (List.range k).map (fun j => leAt d (0x40 + 8 * j) 4)
  let lo := (List.range k).map (fun j => leAt d (0x44 + 8 * j) 4)
  let governed := (List.range 192).filter (fun g => leAt d 0x80 24 / 2 ^ g % 2 == 1)
  let home := (List.range 192).map (fun g => (g, leAt d 0xA0 96 / 2 ^ (4 * g) % 16))
  let stageOk (e : Word × Nat × Nat) : Bool :=
    (handleCheck s c.peer e.1).isNone && hasRights e.1 6 && decide (e.2.2 < e.2.1) && (match queueOf s c.peer e.1 with
      | some q => decide (e.2.1 ≤ (q.loaded s).cap)
      | none => false)
  if k = 0 ∨ !(hs.drop k).all (· == 0) ∨ !zeros d 0x98 8 ∨ !(stages.zip (hi.zip lo)).all stageOk
      ∨ !governed.all (fun g => (groupOf dist g).all (fun core => x.owns core)) ∨ home.any (fun e => decide (k ≤ e.2)) then none
  else some { ctx := c.id, handles := stages, hi := hi, lo := lo, governed := governed, home := home, serves := home, lent := [],
              lastAct := some s.now }

/-- GOVSET's step; a descriptor that cannot be read answers as one that breaks its layout. DESIGN CHOICE: log entry 69.
DESIGN CHOICE: log entry 72. -/
def bindPipe (s : State) (c : CtxId) (core : CoreId) (ap : Nat) (locks : List Lock) (uid : Nat) (a b : Word) : QueueStep :=
  let dv := s.dev c.peer
  let dist := coreDist core.core
  let n := 8 * dist + wbits b 0 3
  let other := match mget dv.pipes n with
    | some g => g.ctx != c.id
    | none => false
  if wbits b 3 61 ≠ 0 then queueStatus s stBadConfig
  else if other then queueStatus s stGovBusy
  else if a = 0 then (s.setDev c.peer { dv with pipes := mdel dv.pipes n }, some 0)
  else
    match grabBytes s c ap locks uid 10 a 256, s.ctx c with
    | .error (.absent m page), _ => queueWait (askPage s m page)
    | .ok d, some x =>
      match Pipe.ofBytes s c x dist d with
      | none => queueStatus s stBadDesc
      | some g => (s.setDev c.peer { dv with pipes := mset dv.pipes n g }, some (mkHandle s c.peer (0xFC0 + n) 0 2 c.id))
    | _, _ => queueStatus s stBadDesc

/-- The step of a queue request at its controller or governor. -/
def queueStep (s : State) (c : CtxId) (core : CoreId) (ap : Nat) (locks : List Lock) (uid fn : Nat) (a b : Word) : QueueStep :=
  match fn with
  | 0 => makeQueue s c ap locks a b
  | 1 =>
    match handleCheck s c.peer a with
    | some st => queueStatus s st
    | none =>
      if !hasRights a 4 then queueStatus s stNoRight
      else
        match queueOf s c.peer a with
        | none => queueStatus s stStale
        | some q => if q.live then enqueue s c.peer c.id a b q else queueWait s
  | 2 => dequeue s c core ap locks false a b
  | 3 => if isRole a && (handleCheck s c.peer a).isNone then queueStatus s stNoRight else dequeue s c core ap locks true a b
  | 5 => destroyQueue s c a
  | _ => bindPipe s c core ap locks uid a b

/-- The unit that a request goes to: a queue's controller, a district's governor. -/
def queueUnit (p : Place) (fn : Nat) (a b : Word) : Nat :=
  match fn with
  | 0 => wbits b 32 12 % 32
  | 7 => p.core / 256
  | _ => queueQtr a

/-- The queue that a request is for: its context and QID, a role's as its stage names it; none for GOVSET. -/
def queueKey (s : State) (peer ctx core fn : Nat) (a b : Word) : Option (Nat × Nat) :=
  match fn with
  | 0 => some (ctx, wbits b 32 12)
  | 7 => none
  | _ =>
    if isRole a then
      (mget (s.dev peer).pipes (roleOf a)).bind (fun g =>
        (g.stage (roleOf a / 8) core).map (fun j => (hCtx (g.handles[j]?.getD 0), hQid (g.handles[j]?.getD 0))))
    else some (hCtx a, hQid a)

/-- The queue that a packet at a controller is for. -/
def Packet.queueKey (s : State) (k : Packet) : Option (Nat × Nat) :=
  match k.body, k.phase with
  | .queue fn a b core, .arrived => Machine.queueKey s k.ctx.peer k.ctx.id core.core fn a b
  | _, _ => none

/-- A controller performs the operations on one queue one at a time, in the order in which it has served them (R285). -/
def queueTurn (s : State) (k : Packet) : Bool :=
  let key := k.queueKey s
  key.isNone || !s.packets.any (fun j => j.ctx.peer == k.ctx.peer && decide (j.ord < k.ord) && j.queueKey s == key)

/-- QUEUE_OPERATION (R285). A request whose queue is not live waits for its swap. -/
def execQueueOperation (pkt : Nat) (s : State) : Host.Outcome State Fault Refusal :=
  .next (match findPacket s pkt with
    | none => s
    | some k =>
      match k.body, k.phase with
      | .queue fn a b core, .arrived =>
        if !queueTurn s k then s
        else
          let u := (s.findThread k.uid).map (·.2)
          match queueStep s k.ctx core ((u.map (·.apCore)).getD 0) ((u.map (·.locks)).getD []) k.uid fn a b with
          | (s', some v) => answerUnit s' (k.aged s.now) (queueUnit k.place fn a b) [v]
          | (s', none) => s'
      | _, _ => s)

/-- The live queues of a controller: context, QID and queue. -/
def liveQueues (s : State) (peer qtr : Nat) : List (CtxId × Nat × Queue) :=
  (s.ctxs.filter (fun e => e.1.peer == peer)).flatMap (fun e =>
    (e.2.queues.filter (fun q => q.2.live && q.1 % 32 == qtr)).map (fun q => (e.1, q.1, q.2)))

/-- A live queue has an operation in progress: one has come to its controller (R285). -/
def queueBusy (s : State) (c : CtxId) (qid : Nat) : Bool :=
  s.packets.any (fun k => k.ctx.peer == c.peer && k.queueKey s == some (c.id, qid))

/-- The least recently operated of some queues. DEDUCED: log entry 68. -/
def leastUsed (l : List (CtxId × Nat × Queue)) : Option (CtxId × Nat × Queue) :=
  l.foldl (fun (m : Option (CtxId × Nat × Queue)) e => match m with
    | none => some e
    | some b => if e.2.2.used < b.2.2.used then some e else some b) none

/-- QUEUE_SWAP_IN (R285): the header is read; with 64 queues live the least recently operated is written back first.
DEDUCED: log entry 68. -/
def execQueueSwapIn (c : CtxId) (qid : Nat) (s : State) : Host.Outcome State Fault Refusal :=
  .next (match (s.ctx c).bind (fun x => mget x.queues qid) with
    | none => s
    | some q =>
      if !q.exists_ || q.live then s
      else
        let live := liveQueues s c.peer (qid % 32)
        let room := if live.length < 64 then some s
          else (leastUsed (live.filter (fun e => !queueBusy s e.1 e.2.1))).bind (fun e =>
            (queueWrite s e.1 (e.2.2.at 0) (e.2.2.header e.1.id)).map (fun s =>
              setQueue s e.1 e.2.1 { e.2.2 with live := false }))
        match room with
        | none => s
        | some s => setQueue s c qid { q.loaded s with live := true, used := s.now })

/-! ## Lending (R287) -/

/-- The occupancy of a stage's queue. DESIGN CHOICE: log entry 69. -/
def stageCount (s : State) (peer : Nat) (g : Pipe) (j : Nat) : Nat :=
  match (g.handles[j]?).bind (queueOf s peer) with
  | some q => (q.loaded s).count
  | none => 0

/-- The groups that serve a stage. -/
def Pipe.serving (g : Pipe) (j : Nat) : List Nat := g.governed.filter (fun n => mget g.serves n == some j)

/-- The interval lets the governor act: 4,096 cycles of the reference clock. DESIGN CHOICE: log entry 69. -/
def Pipe.mayAct (g : Pipe) (now : Nat) : Bool := match g.lastAct with
  | none => true
  | some t => decide (t + 4096 ≤ now)

/-- The donor of a stage: two groups or more, least occupancy, lower index among equals. -/
def donorOf (s : State) (peer : Nat) (g : Pipe) (j : Nat) : Option Nat :=
  (((List.range g.handles.length).filter (fun i => i != j && decide (2 ≤ (g.serving i).length))).foldl
    (fun (m : Option Nat) i => match m with
      | none => some i
      | some b => if stageCount s peer g i < stageCount s peer g b then some i else some b) none)

/-- A stage's high trigger is pending and has a donor. DESIGN CHOICE: log entry 69. -/
def highActs (s : State) (peer : Nat) (g : Pipe) (j : Nat) : Bool :=
  decide (g.hi[j]?.getD 0 ≤ stageCount s peer g j) && (donorOf s peer g j).isSome

/-- A stage's low trigger is pending. DESIGN CHOICE: log entry 69. -/
def lowActs (s : State) (peer : Nat) (g : Pipe) (j : Nat) : Bool :=
  decide (stageCount s peer g j ≤ g.lo[j]?.getD 0) && g.lent.any (fun e => e.2 == j)

/-- A pipeline of a device is replaced. -/
def setPipe (s : State) (peer n : Nat) (g : Pipe) : State :=
  let dv := s.dev peer
  s.setDev peer { dv with pipes := mset dv.pipes n g }

/-- The donor's highest group is lent to a stage. -/
def lendTo (s : State) (peer n : Nat) (g : Pipe) (stage : Nat) : State :=
  match (donorOf s peer g stage).bind (fun i => (g.serving i).getLast?) with
  | none => s
  | some m =>
    let rest := g.lent.filter (fun e => e.1 != m)
    setPipe s peer n { g with
      serves := mset g.serves m stage
      lent := if mgetD g.home m 0 = stage then rest else (m, stage) :: rest
      lastAct := some s.now }

/-- The group lent most recently to a stage goes home. -/
def returnFromStage (s : State) (peer n : Nat) (g : Pipe) (stage : Nat) : State :=
  match g.lent.find? (fun e => e.2 == stage) with
  | none => s
  | some (m, _) =>
    setPipe s peer n { g with
      serves := mset g.serves m (mgetD g.home m 0)
      lent := g.lent.filter (fun e => e.1 != m)
      lastAct := some s.now }

/-- GOVERNOR_LEND: high triggers of lower stages come first. -/
def execGovernorLend (peer dist pipe stage : Nat) (s : State) : Host.Outcome State Fault Refusal :=
  .next (match mget (s.dev peer).pipes (8 * dist + pipe) with
    | none => s
    | some g =>
      if !g.mayAct s.now || !highActs s peer g stage || (List.range stage).any (highActs s peer g)
          || decide (g.handles.length ≤ stage) then s
      else lendTo s peer (8 * dist + pipe) g stage)

/-- GOVERNOR_RETURN: every high trigger and the low triggers of lower stages come first. -/
def execGovernorReturn (peer dist pipe stage : Nat) (s : State) : Host.Outcome State Fault Refusal :=
  .next (match mget (s.dev peer).pipes (8 * dist + pipe) with
    | none => s
    | some g =>
      if !g.mayAct s.now || !lowActs s peer g stage || (List.range g.handles.length).any (highActs s peer g)
          || (List.range stage).any (lowActs s peer g) then s
      else returnFromStage s peer (8 * dist + pipe) g stage)

/-- A governor acts for a pipeline, where its interval allows and a trigger is pending: high triggers first, lower stages
first (R287). -/
def governorActs (s : State) (peer n : Nat) : State :=
  match mget (s.dev peer).pipes n with
  | none => s
  | some g =>
    let stages := List.range g.handles.length
    if !g.mayAct s.now then s
    else
      match stages.find? (highActs s peer g), stages.find? (lowActs s peer g) with
      | some j, _ => lendTo s peer n g j
      | none, some j => returnFromStage s peer n g j
      | none, none => s

/-- Every governor acts at the moment at which it may (R287). -/
def governAll (s : State) : State :=
  s.devs.foldl (fun s d => d.2.pipes.foldl (fun s g => governorActs s d.1 g.1) s) s

/-! ## The forms (R304 to R308) -/

/-- A form that changes a queue or a governor (R213, R285): it commits, and its request goes to its unit. -/
def queueForm (p : Place) (t : Thread) (s : State) (fn : Nat) (a b : Word) (d : Dst) (la : Nat) : Res :=
  match tryCommit s p t false 0 (t.pc + 4) with
  | none => .stall s
  | some s1 => .done (askUnit s1 p t (t.ctxId p) (queueUnit p fn a b) (.queue fn a b (coreOf p)) d la)

/-- A record address of a dequeue at issue: 16-byte aligned, and a 16-byte write. -/
def recordVa (s : State) (p : Place) (t : Thread) (va : Word) : Option Res :=
  match lookT s p t va 16 16 needW with
  | .ok _ => none
  | .fault c => some (.trap c)
  | .absent page => some (.gone (parkPage s p page))

/-- QMAKE (R305): all the bytes that b gives are checked first. -/
def execQmake (d a b : Reg) (la : BitVec 4) (s : State) : Host.Outcome State Fault Refusal :=
  issue (wordX 0x58 d.toNat a.toNat b.toNat la.toNat 0) [ri a, ri b, ri d] (isShared d) (fun p t k s =>
    let va := readI k t a
    let v := readI k t b
    let n := queueBytes (wbits v 0 32)
    match lookSpan s (t.ctxId p) t.apCore t.locks needW (n / 16 + 3) va n with
    | some (.fault c) => .trap c
    | some (.absent page) => .gone (parkPage s p page)
    | _ => queueForm p t s 0 va v (ri d) la.toNat) s

/-- QENQ (R306). -/
def execQenq (d a b : Reg) (la : BitVec 4) (s : State) : Host.Outcome State Fault Refusal :=
  issue (wordX 0x58 d.toNat a.toNat b.toNat la.toNat 1) [ri a, ri b, ri d] (isShared d) (fun p t k s =>
    queueForm p t s 1 (readI k t a) (readI k t b) (ri d) la.toNat) s

/-- QDEQ (R306). -/
def execQdeq (d a b : Reg) (la : BitVec 4) (s : State) : Host.Outcome State Fault Refusal :=
  issue (wordX 0x58 d.toNat a.toNat b.toNat la.toNat 2) [ri a, ri b, ri d] (isShared d) (fun p t k s =>
    match recordVa s p t (readI k t b) with
    | some r => r
    | none => queueForm p t s 2 (readI k t a) (readI k t b) (ri d) la.toNat) s

/-- QSTEAL (R306). -/
def execQsteal (d a b : Reg) (la : BitVec 4) (s : State) : Host.Outcome State Fault Refusal :=
  issue (wordX 0x58 d.toNat a.toNat b.toNat la.toNat 3) [ri a, ri b, ri d] (isShared d) (fun p t k s =>
    match recordVa s p t (readI k t b) with
    | some r => r
    | none => queueForm p t s 3 (readI k t a) (readI k t b) (ri d) la.toNat) s

/-- The value of QDERIV (R307). -/
def deriveHandle (s : State) (peer : Nat) (h rights : Word) : Word :=
  match handleCheck s peer h with
  | some st => statusWord st
  | none =>
    if wbits rights 0 3 = 0 ∨ wbits rights 3 61 ≠ 0 then statusWord stBadConfig
    else if !hasRights h (wbits rights 0 3) then statusWord stNoRight
    else mkHandle s peer (hQid h) (hGen h) (wbits rights 0 3) (hCtx h)

/-- QDERIV. -/
def execQderiv (d a b : Reg) (la : BitVec 4) (s : State) : Host.Outcome State Fault Refusal :=
  issue (wordX 0x58 d.toNat a.toNat b.toNat la.toNat 4) [ri a, ri b, ri d] (isShared d) (fun p t k s =>
    .done (pendNow s p [ri d] la.toNat false [deriveHandle s p.peer (readI k t a) (readI k t b)])) s

/-- QDEST (R307). -/
def execQdest (d a : Reg) (la : BitVec 4) (s : State) : Host.Outcome State Fault Refusal :=
  issue (wordX 0x58 d.toNat a.toNat 0 la.toNat 5) [ri a, ri d] (isShared d) (fun p t k s =>
    queueForm p t s 5 (readI k t a) 0 (ri d) la.toNat) s

/-- An item of a queue. -/
def Queue.item (q : Queue) (n : Nat) : Option Nat :=
  match n with
  | 0 => some q.count
  | 1 => some q.cap
  | 2 => some q.seq
  | 3 => some (if q.live then 1 else 0)
  | _ => none

/-- The value of QSTAT (R307). -/
def queueStat (s : State) (peer core : Nat) (h item : Word) : Word :=
  match handleCheck s peer h with
  | some st => statusWord st
  | none =>
    if hRights h = 0 then statusWord stNoRight
    else if isRole h then
      if item ≠ 0 then statusWord stBadConfig
      else match (mget (s.dev peer).pipes (roleOf h)).bind (fun g => g.stage (roleOf h / 8) core) with
        | some j => withBit63 j
        | none => statusWord stNotGoverned
    else
      match queueOf s peer h with
      | none => statusWord stStale
      | some q => match (q.loaded s).item (if item.toNat < 4 then item.toNat else 4) with
        | some v => withBit63 v
        | none => statusWord stBadConfig

/-- QSTAT: it reads the queue without a swap. -/
def execQstat (d a b : Reg) (la : BitVec 4) (s : State) : Host.Outcome State Fault Refusal :=
  issue (wordX 0x58 d.toNat a.toNat b.toNat la.toNat 6) [ri a, ri b, ri d] (isShared d) (fun p t k s =>
    .done (pendNow s p [ri d] la.toNat false [queueStat s p.peer p.core (readI k t a) (readI k t b)])) s

/-- GOVSET (R308): the descriptor's bytes are checked at issue and read by the governor. -/
def execGovset (d a b : Reg) (la : BitVec 4) (s : State) : Host.Outcome State Fault Refusal :=
  issue (wordX 0x58 d.toNat a.toNat b.toNat la.toNat 7) [ri a, ri b, ri d] (isShared d) (fun p t k s =>
    let va := readI k t a
    if va = 0 then queueForm p t s 7 0 (readI k t b) (ri d) la.toNat
    else if canonical va && va.toNat % 64 != 0 then .trap ⟨cMisalign, va⟩
    else
      match lookSpan s (t.ctxId p) t.apCore t.locks needR 19 va 256 with
      | some (.fault c) => .trap c
      | some (.absent page) => .gone (parkPage s p page)
      | _ => queueForm p t s 7 va (readI k t b) (ri d) la.toNat) s

end Sys2Proof.Machine
end

