-- ==== Sys2Proof/Machine/Thermal.lean ====
section
/-! DEFINITION. Temperatures, frequencies and the ranking registers (R14, R16, R366, R367, R369). A compute island is numbered by
district, quarter and group as they stand in a CORE value; the uncore islands follow, eight of each district. -/

namespace Sys2Proof.Machine

/-- The uncore islands of a device (R14). DESIGN CHOICE: log entry 82, their numbers. -/
def uncoreNumbers : List Nat := (List.range 64).map (· + 2048)

/-- An island of a device: 1,536 compute islands and 64 uncore islands (R14). -/
def isIsland (n : Nat) : Bool := (decide (n < 2048) && decide (n % 64 < 48)) || uncoreNumbers.contains n

/-- The compute islands of a device. -/
def islandNumbers : List Nat :=
  (List.range 8).flatMap (fun d => (List.range 4).flatMap (fun q => (List.range 48).map (fun g => d * 256 + q * 64 + g)))

/-- The frequency at which an island runs, in 25 MHz: 0.5 GHz while it is slow (R366). -/
def Island.runs (i : Island) : Nat := if i.slow then 20 else i.freq

/-- An island becomes hot or stays so; one that becomes hot sheds at once (R369). -/
def Island.setHot (i : Island) (hot : Bool) : Island := { i with hot := hot, shedAt := if i.hot then i.shedAt else none }

/-- An island at a new temperature, in 1/16 °C: slow from 105 °C until below 100 °C; hot from 98 °C at 1.0 GHz or below until
below 95 °C. -/
def Island.sampled (i : Island) (temp : Int) : Island :=
  let i := { i with temp := temp, slow := if i.slow then decide (1600 ≤ temp) else decide (1680 ≤ temp) }
  i.setHot (if i.hot then decide (1520 ≤ temp) else decide (1568 ≤ temp) && decide (i.runs ≤ 40))

/-- The hotter reading of an island. -/
def hottest (rs : List Reading) (n : Nat) : Option Int :=
  (rs.filter (fun r => r.island == n)).foldl (fun m r => match m with
    | none => some r.temp
    | some t => some (max t r.temp)) none

/-- General slots of a group that hold nothing and are reserved for no arriving thread (R195, R367). -/
def groupFree (s : State) (peer island : Nat) : Nat :=
  ((List.range 56).filter (fun n => s.slotFree ⟨peer, 4 * island + n / 14, n % 14⟩)).length

/-- The ranking registers of a quarter: coolest first, then the lower group. -/
def rankQuarter (s : State) (peer q : Nat) : List Rank :=
  let d := s.dev peer
  let rs := (List.range 48).map (fun g =>
    let n := q / 4 * 256 + q % 4 * 64 + g
    let i := d.island n
    (⟨g, i.temp, i.runs, i.hot, groupFree s peer n⟩ : Rank))
  inOrder (fun a b => decide (a.temp < b.temp ∨ a.temp = b.temp ∧ a.grp ≤ b.grp)) rs

/-- THERMAL_SAMPLE (R366, R367): every island with a reading is sampled, and all ranking registers change together.
DESIGN CHOICE: log entry 82. -/
def execThermalSample (peer : Nat) (readings : List Reading) (s : State) : Host.Outcome State Fault Refusal :=
  let d := ((readings.map (·.island)).eraseDups.filter isIsland).foldl (fun (d : Device) n => match hottest readings n with
    | some t => d.setIsland n ((d.island n).sampled t)
    | none => d) (s.dev peer)
  let s := s.setDev peer d
  .next (s.setDev peer { d with ranks := (List.range 32).map (fun q => (q, rankQuarter s peer q)) })

/-- The frequency after one step of the loop: down above 92 °C, up below 88 °C, between 1.0 and 1.9 GHz. -/
def Island.wants (i : Island) : Nat :=
  if 1472 < i.temp then max 40 (i.freq - 1)
  else if i.temp < 1408 then min 76 (i.freq + 1)
  else i.freq

/-- An island at a new frequency becomes hot from 98 °C at 1.0 GHz or below (R369). -/
def Island.heated (i : Island) : Island := i.setHot (i.hot || (decide (1568 ≤ i.temp) && decide (i.runs ≤ 40)))

/-- One step of the frequency loop, every 10 µs (R366). -/
def Island.step (i : Island) (now : Nat) : Island :=
  if i.wants = i.freq then i else ({ i with freq := i.wants, stepAt := some now } : Island).heated

/-- FREQUENCY_STEP (R366). DESIGN CHOICE: log entry 82. -/
def execFrequencyStep (peer island : Nat) (s : State) : Host.Outcome State Fault Refusal :=
  let d := s.dev peer
  .next (if isIsland island && tenMicros (d.island island).stepAt s.now then
      s.setDev peer (d.setIsland island ((d.island island).step s.now))
    else s)

/-- MODULE_POWER_STEP (R366): above 3.8 kW every compute island falls by one step. -/
def execModulePowerStep (peer milliwatts : Nat) (s : State) : Host.Outcome State Fault Refusal :=
  .next (if milliwatts ≤ 3800000 then s
    else s.setDev peer (islandNumbers.foldl (fun (d : Device) n =>
      let i := d.island n
      d.setIsland n ({ i with freq := max 40 (i.freq - 1) } : Island).heated) (s.dev peer)))

/-- DROOP (R366): the island's clock is stretched for at least 8 cycles. -/
def execDroop (peer island cycles : Nat) (s : State) : Host.Outcome State Fault Refusal :=
  let d := s.dev peer
  let i := d.island island
  .next (if isIsland island then s.setDev peer (d.setIsland island { i with stretch := max 8 cycles }) else s)

end Sys2Proof.Machine
end

