-- ==== Sys2Proof/Machine/Dispatch.lean ====
section
/-! DEFINITION. The dispatch: one arm for each row of spec/opcode_table.json. -/

namespace Sys2Proof.Machine

def exec (i : Instr) (s : State) : Host.Outcome State Fault Refusal :=
  match i with
  | .add w d a b => Sys2Proof.Machine.execAdd w d a b s
  | .sub w d a b => Sys2Proof.Machine.execSub w d a b s
  | .addv w d a b => Sys2Proof.Machine.execAddv w d a b s
  | .subv w d a b => Sys2Proof.Machine.execSubv w d a b s
  | .mul w d a b => Sys2Proof.Machine.execMul w d a b s
  | .mulh w d a b => Sys2Proof.Machine.execMulh w d a b s
  | .mulhu w d a b => Sys2Proof.Machine.execMulhu w d a b s
  | .madd w d a b => Sys2Proof.Machine.execMadd w d a b s
  | .div w d a b => Sys2Proof.Machine.execDiv w d a b s
  | .divu w d a b => Sys2Proof.Machine.execDivu w d a b s
  | .rem w d a b => Sys2Proof.Machine.execRem w d a b s
  | .remu w d a b => Sys2Proof.Machine.execRemu w d a b s
  | .divv w d a b => Sys2Proof.Machine.execDivv w d a b s
  | .abs w d a => Sys2Proof.Machine.execAbs w d a s
  | .min w d a b => Sys2Proof.Machine.execMin w d a b s
  | .max w d a b => Sys2Proof.Machine.execMax w d a b s
  | .minu w d a b => Sys2Proof.Machine.execMinu w d a b s
  | .maxu w d a b => Sys2Proof.Machine.execMaxu w d a b s
  | .and w d a b => Sys2Proof.Machine.execAnd w d a b s
  | .or w d a b => Sys2Proof.Machine.execOr w d a b s
  | .xor w d a b => Sys2Proof.Machine.execXor w d a b s
  | .andn w d a b => Sys2Proof.Machine.execAndn w d a b s
  | .shl w d a b => Sys2Proof.Machine.execShl w d a b s
  | .shr w d a b => Sys2Proof.Machine.execShr w d a b s
  | .sra w d a b => Sys2Proof.Machine.execSra w d a b s
  | .rol w d a b => Sys2Proof.Machine.execRol w d a b s
  | .clz w d a => Sys2Proof.Machine.execClz w d a s
  | .ctz w d a => Sys2Proof.Machine.execCtz w d a s
  | .popc w d a => Sys2Proof.Machine.execPopc w d a s
  | .brev w d a => Sys2Proof.Machine.execBrev w d a s
  | .seq w d a b => Sys2Proof.Machine.execSeq w d a b s
  | .sne w d a b => Sys2Proof.Machine.execSne w d a b s
  | .slt w d a b => Sys2Proof.Machine.execSlt w d a b s
  | .sltu w d a b => Sys2Proof.Machine.execSltu w d a b s
  | .sel w d a b => Sys2Proof.Machine.execSel w d a b s
  | .addi d a imm => Sys2Proof.Machine.execAddi d a imm s
  | .andi d a imm => Sys2Proof.Machine.execAndi d a imm s
  | .ori d a imm => Sys2Proof.Machine.execOri d a imm s
  | .xori d a imm => Sys2Proof.Machine.execXori d a imm s
  | .slti d a imm => Sys2Proof.Machine.execSlti d a imm s
  | .shli w d a amt => Sys2Proof.Machine.execShli w d a amt s
  | .shri w d a amt => Sys2Proof.Machine.execShri w d a amt s
  | .srai w d a amt => Sys2Proof.Machine.execSrai w d a amt s
  | .bfx d a width1 pos => Sys2Proof.Machine.execBfx d a width1 pos s
  | .bfxs d a width1 pos => Sys2Proof.Machine.execBfxs d a width1 pos s
  | .bfi d a width1 pos => Sys2Proof.Machine.execBfi d a width1 pos s
  | .li d imm => Sys2Proof.Machine.execLi d imm s
  | .lih d imm => Sys2Proof.Machine.execLih d imm s
  | .addpc d imm => Sys2Proof.Machine.execAddpc d imm s
  | .ldl d imm => Sys2Proof.Machine.execLdl d imm s
  | .fadd p d a b => Sys2Proof.Machine.execFadd p d a b s
  | .fsub p d a b => Sys2Proof.Machine.execFsub p d a b s
  | .fmul p d a b => Sys2Proof.Machine.execFmul p d a b s
  | .fdiv p d a b => Sys2Proof.Machine.execFdiv p d a b s
  | .fmadd p d a b => Sys2Proof.Machine.execFmadd p d a b s
  | .fmin p d a b => Sys2Proof.Machine.execFmin p d a b s
  | .fmax p d a b => Sys2Proof.Machine.execFmax p d a b s
  | .fabs p d a => Sys2Proof.Machine.execFabs p d a s
  | .fneg p d a => Sys2Proof.Machine.execFneg p d a s
  | .fsqrt p d a => Sys2Proof.Machine.execFsqrt p d a s
  | .fcmpeq p d a b => Sys2Proof.Machine.execFcmpeq p d a b s
  | .fcmplt p d a b => Sys2Proof.Machine.execFcmplt p d a b s
  | .fcmple p d a b => Sys2Proof.Machine.execFcmple p d a b s
  | .fcvtif p d a => Sys2Proof.Machine.execFcvtif p d a s
  | .fcvtfi p d a => Sys2Proof.Machine.execFcvtfi p d a s
  | .fcvtw p d a => Sys2Proof.Machine.execFcvtw p d a s
  | .fmvif p d a => Sys2Proof.Machine.execFmvif p d a s
  | .fmvfi p d a => Sys2Proof.Machine.execFmvfi p d a s
  | .beq a b off => Sys2Proof.Machine.execBeq a b off s
  | .bne a b off => Sys2Proof.Machine.execBne a b off s
  | .blt a b off => Sys2Proof.Machine.execBlt a b off s
  | .bge a b off => Sys2Proof.Machine.execBge a b off s
  | .bltu a b off => Sys2Proof.Machine.execBltu a b off s
  | .bgeu a b off => Sys2Proof.Machine.execBgeu a b off s
  | .j off => Sys2Proof.Machine.execJ off s
  | .call off => Sys2Proof.Machine.execCall off s
  | .loop lvl a off => Sys2Proof.Machine.execLoop lvl a off s
  | .loopi lvl n off => Sys2Proof.Machine.execLoopi lvl n off s
  | .rpt len1 mask stp a => Sys2Proof.Machine.execRpt len1 mask stp a s
  | .csrr d csr => Sys2Proof.Machine.execCsrr d csr s
  | .csrw a csr => Sys2Proof.Machine.execCsrw a csr s
  | .csrs a csr => Sys2Proof.Machine.execCsrs a csr s
  | .csrc a csr => Sys2Proof.Machine.execCsrc a csr s
  | .nop => Sys2Proof.Machine.execNop s
  | .eret => Sys2Proof.Machine.execEret s
  | .brk => Sys2Proof.Machine.execBrk s
  | .quit => Sys2Proof.Machine.execQuit s
  | .jr a => Sys2Proof.Machine.execJr a s
  | .callr a => Sys2Proof.Machine.execCallr a s
  | .ret => Sys2Proof.Machine.execRet s
  | .lbrk lvl => Sys2Proof.Machine.execLbrk lvl s
  | .wflush => Sys2Proof.Machine.execWflush s
  | .ldBSx d a la off => Sys2Proof.Machine.execLdBSx d a la off s
  | .ldBZx d a la off => Sys2Proof.Machine.execLdBZx d a la off s
  | .ldHSx d a la off => Sys2Proof.Machine.execLdHSx d a la off s
  | .ldHZx d a la off => Sys2Proof.Machine.execLdHZx d a la off s
  | .ldWSx d a la off => Sys2Proof.Machine.execLdWSx d a la off s
  | .ldWZx d a la off => Sys2Proof.Machine.execLdWZx d a la off s
  | .ldD d a la off => Sys2Proof.Machine.execLdD d a la off s
  | .ldxBSx d a b la => Sys2Proof.Machine.execLdxBSx d a b la s
  | .ldxBZx d a b la => Sys2Proof.Machine.execLdxBZx d a b la s
  | .ldxHSx d a b la => Sys2Proof.Machine.execLdxHSx d a b la s
  | .ldxHZx d a b la => Sys2Proof.Machine.execLdxHZx d a b la s
  | .ldxWSx d a b la => Sys2Proof.Machine.execLdxWSx d a b la s
  | .ldxWZx d a b la => Sys2Proof.Machine.execLdxWZx d a b la s
  | .ldxD d a b la => Sys2Proof.Machine.execLdxD d a b la s
  | .stB d a off => Sys2Proof.Machine.execStB d a off s
  | .stH d a off => Sys2Proof.Machine.execStH d a off s
  | .stW d a off => Sys2Proof.Machine.execStW d a off s
  | .stD d a off => Sys2Proof.Machine.execStD d a off s
  | .stxB d a b => Sys2Proof.Machine.execStxB d a b s
  | .stxH d a b => Sys2Proof.Machine.execStxH d a b s
  | .stxW d a b => Sys2Proof.Machine.execStxW d a b s
  | .stxD d a b => Sys2Proof.Machine.execStxD d a b s
  | .ldp d a la off => Sys2Proof.Machine.execLdp d a la off s
  | .stp d a off => Sys2Proof.Machine.execStp d a off s
  | .ldaW d a b la => Sys2Proof.Machine.execLdaW d a b la s
  | .ldaD d a b la => Sys2Proof.Machine.execLdaD d a b la s
  | .stlW d a b => Sys2Proof.Machine.execStlW d a b s
  | .stlD d a b => Sys2Proof.Machine.execStlD d a b s
  | .stlGW d a b => Sys2Proof.Machine.execStlGW d a b s
  | .stlGD d a b => Sys2Proof.Machine.execStlGD d a b s
  | .ldfBSx d a b la => Sys2Proof.Machine.execLdfBSx d a b la s
  | .ldfBZx d a b la => Sys2Proof.Machine.execLdfBZx d a b la s
  | .ldfHSx d a b la => Sys2Proof.Machine.execLdfHSx d a b la s
  | .ldfHZx d a b la => Sys2Proof.Machine.execLdfHZx d a b la s
  | .ldfWSx d a b la => Sys2Proof.Machine.execLdfWSx d a b la s
  | .ldfWZx d a b la => Sys2Proof.Machine.execLdfWZx d a b la s
  | .ldfD d a b la => Sys2Proof.Machine.execLdfD d a b la s
  | .pref a b => Sys2Proof.Machine.execPref a b s
  | .aadd w d a b la => Sys2Proof.Machine.execAadd w d a b la s
  | .aand w d a b la => Sys2Proof.Machine.execAand w d a b la s
  | .aor w d a b la => Sys2Proof.Machine.execAor w d a b la s
  | .axor w d a b la => Sys2Proof.Machine.execAxor w d a b la s
  | .amin w d a b la => Sys2Proof.Machine.execAmin w d a b la s
  | .amax w d a b la => Sys2Proof.Machine.execAmax w d a b la s
  | .aminu w d a b la => Sys2Proof.Machine.execAminu w d a b la s
  | .amaxu w d a b la => Sys2Proof.Machine.execAmaxu w d a b la s
  | .aaddP w a b => Sys2Proof.Machine.execAaddP w a b s
  | .aandP w a b => Sys2Proof.Machine.execAandP w a b s
  | .aorP w a b => Sys2Proof.Machine.execAorP w a b s
  | .axorP w a b => Sys2Proof.Machine.execAxorP w a b s
  | .aminP w a b => Sys2Proof.Machine.execAminP w a b s
  | .amaxP w a b => Sys2Proof.Machine.execAmaxP w a b s
  | .aminuP w a b => Sys2Proof.Machine.execAminuP w a b s
  | .amaxuP w a b => Sys2Proof.Machine.execAmaxuP w a b s
  | .aswp w d a b la => Sys2Proof.Machine.execAswp w d a b la s
  | .acas w d a b la => Sys2Proof.Machine.execAcas w d a b la s
  | .afadd w d a b la => Sys2Proof.Machine.execAfadd w d a b la s
  | .afmin w d a b la => Sys2Proof.Machine.execAfmin w d a b la s
  | .afmax w d a b la => Sys2Proof.Machine.execAfmax w d a b la s
  | .aswpP w a b => Sys2Proof.Machine.execAswpP w a b s
  | .acasP w d a b => Sys2Proof.Machine.execAcasP w d a b s
  | .afaddP w a b => Sys2Proof.Machine.execAfaddP w a b s
  | .afminP w a b => Sys2Proof.Machine.execAfminP w a b s
  | .afmaxP w a b => Sys2Proof.Machine.execAfmaxP w a b s
  | .rgn a => Sys2Proof.Machine.execRgn a s
  | .cmt => Sys2Proof.Machine.execCmt s
  | .abrt => Sys2Proof.Machine.execAbrt s
  | .rgnq d => Sys2Proof.Machine.execRgnq d s
  | .fence dist => Sys2Proof.Machine.execFence dist s
  | .fencep => Sys2Proof.Machine.execFencep s
  | .ifence => Sys2Proof.Machine.execIfence s
  | .lfence => Sys2Proof.Machine.execLfence s
  | .tfence => Sys2Proof.Machine.execTfence s
  | .qfence mask => Sys2Proof.Machine.execQfence mask s
  | .vfence => Sys2Proof.Machine.execVfence s
  | .vwait => Sys2Proof.Machine.execVwait s
  | .go a => Sys2Proof.Machine.execGo a s
  | .gohome => Sys2Proof.Machine.execGohome s
  | .amsg a b => Sys2Proof.Machine.execAmsg a b s
  | .barset a b => Sys2Proof.Machine.execBarset a b s
  | .barreg a => Sys2Proof.Machine.execBarreg a s
  | .bara a => Sys2Proof.Machine.execBara a s
  | .barw a b => Sys2Proof.Machine.execBarw a b s
  | .baraw a b => Sys2Proof.Machine.execBaraw a b s
  | .jset a b => Sys2Proof.Machine.execJset a b s
  | .jdec a => Sys2Proof.Machine.execJdec a s
  | .jwait a => Sys2Proof.Machine.execJwait a s
  | .rlock a => Sys2Proof.Machine.execRlock a s
  | .runlk a => Sys2Proof.Machine.execRunlk a s
  | .rpre a => Sys2Proof.Machine.execRpre a s
  | .lateq d => Sys2Proof.Machine.execLateq d s
  | .slk n => Sys2Proof.Machine.execSlk n s
  | .slkOnce n => Sys2Proof.Machine.execSlkOnce n s
  | .trap imm => Sys2Proof.Machine.execTrap imm s
  | .present d a b la => Sys2Proof.Machine.execPresent d a b la s
  | .wsplit d a b la => Sys2Proof.Machine.execWsplit d a b la s
  | .wdeleg d a b la => Sys2Proof.Machine.execWdeleg d a b la s
  | .waccept d a b la => Sys2Proof.Machine.execWaccept d a b la s
  | .wsurr d a b la => Sys2Proof.Machine.execWsurr d a b la s
  | .wamend d a b la => Sys2Proof.Machine.execWamend d a b la s
  | .wqry d a b la => Sys2Proof.Machine.execWqry d a b la s
  | .caprd d a b la => Sys2Proof.Machine.execCaprd d a b la s
  | .dtime d a la => Sys2Proof.Machine.execDtime d a la s
  | .tnonce d a la => Sys2Proof.Machine.execTnonce d a la s
  | .ckpt d a b la => Sys2Proof.Machine.execCkpt d a b la s
  | .evwait d a b la => Sys2Proof.Machine.execEvwait d a b la s
  | .evpost a b => Sys2Proof.Machine.execEvpost a b s
  | .rlimq d a la => Sys2Proof.Machine.execRlimq d a la s
  | .evrd d a la => Sys2Proof.Machine.execEvrd d a la s
  | .scfg d a b la => Sys2Proof.Machine.execScfg d a b la s
  | .sbnd d a b la => Sys2Proof.Machine.execSbnd d a b la s
  | .smap d a b la => Sys2Proof.Machine.execSmap d a b la s
  | .sunmap d a la => Sys2Proof.Machine.execSunmap d a la s
  | .sqry d a la => Sys2Proof.Machine.execSqry d a la s
  | .vadd sd sa sb a b => Sys2Proof.Machine.execVadd sd sa sb a b s
  | .vsub sd sa sb a b => Sys2Proof.Machine.execVsub sd sa sb a b s
  | .vmul sd sa sb a b => Sys2Proof.Machine.execVmul sd sa sb a b s
  | .vfma sd sa sb a b => Sys2Proof.Machine.execVfma sd sa sb a b s
  | .vfms sd sa sb a b => Sys2Proof.Machine.execVfms sd sa sb a b s
  | .vdiv sd sa sb a b => Sys2Proof.Machine.execVdiv sd sa sb a b s
  | .vmin sd sa sb a b => Sys2Proof.Machine.execVmin sd sa sb a b s
  | .vmax sd sa sb a b => Sys2Proof.Machine.execVmax sd sa sb a b s
  | .vabs sd sa a b => Sys2Proof.Machine.execVabs sd sa a b s
  | .vcvt sd sa a b => Sys2Proof.Machine.execVcvt sd sa a b s
  | .vcmp sd sa sb a b => Sys2Proof.Machine.execVcmp sd sa sb a b s
  | .vsel sd sa sb a b => Sys2Proof.Machine.execVsel sd sa sb a b s
  | .vand sd sa sb a b => Sys2Proof.Machine.execVand sd sa sb a b s
  | .vor sd sa sb a b => Sys2Proof.Machine.execVor sd sa sb a b s
  | .vxor sd sa sb a b => Sys2Proof.Machine.execVxor sd sa sb a b s
  | .vshl sd sa sb a b => Sys2Proof.Machine.execVshl sd sa sb a b s
  | .vshr sd sa sb a b => Sys2Proof.Machine.execVshr sd sa sb a b s
  | .viota sd a b => Sys2Proof.Machine.execViota sd a b s
  | .vshop sd sa a b => Sys2Proof.Machine.execVshop sd sa a b s
  | .vexp2 sd sa a b => Sys2Proof.Machine.execVexp2 sd sa a b s
  | .vlog2 sd sa a b => Sys2Proof.Machine.execVlog2 sd sa a b s
  | .vrcp sd sa a b => Sys2Proof.Machine.execVrcp sd sa a b s
  | .vrsq sd sa a b => Sys2Proof.Machine.execVrsq sd sa a b s
  | .vsqrt sd sa a b => Sys2Proof.Machine.execVsqrt sd sa a b s
  | .vsin sd sa a b => Sys2Proof.Machine.execVsin sd sa a b s
  | .vcos sd sa a b => Sys2Proof.Machine.execVcos sd sa a b s
  | .vtanh sd sa a b => Sys2Proof.Machine.execVtanh sd sa a b s
  | .cpy d a b q ct => Sys2Proof.Machine.execCpy d a b q ct s
  | .cpy2d d a b q ct => Sys2Proof.Machine.execCpy2d d a b q ct s
  | .gath d a b q ct => Sys2Proof.Machine.execGath d a b q ct s
  | .scat d a b q ct => Sys2Proof.Machine.execScat d a b q ct s
  | .coll d a b q ct => Sys2Proof.Machine.execColl d a b q ct s
  | .qmake d a b la => Sys2Proof.Machine.execQmake d a b la s
  | .qenq d a b la => Sys2Proof.Machine.execQenq d a b la s
  | .qdeq d a b la => Sys2Proof.Machine.execQdeq d a b la s
  | .qsteal d a b la => Sys2Proof.Machine.execQsteal d a b la s
  | .qderiv d a b la => Sys2Proof.Machine.execQderiv d a b la s
  | .qdest d a la => Sys2Proof.Machine.execQdest d a la s
  | .qstat d a b la => Sys2Proof.Machine.execQstat d a b la s
  | .govset d a b la => Sys2Proof.Machine.execGovset d a b la s
  | .mma cd cs oa ob => Sys2Proof.Machine.execMma cd cs oa ob s
  | .mmaz cd oa ob => Sys2Proof.Machine.execMmaz cd oa ob s
  | .mzero cd => Sys2Proof.Machine.execMzero cd s
  | .mclaim d a b la => Sys2Proof.Machine.execMclaim d a b la s
  | .mrel d a b la => Sys2Proof.Machine.execMrel d a b la s
  | .mfmt d a b la => Sys2Proof.Machine.execMfmt d a b la s
  | .mscl d a b la => Sys2Proof.Machine.execMscl d a b la s
  | .mldt o a b => Sys2Proof.Machine.execMldt o a b s
  | .mtrn o a b => Sys2Proof.Machine.execMtrn o a b s
  | .mrd c a b => Sys2Proof.Machine.execMrd c a b s
  | .mcvt d a b la => Sys2Proof.Machine.execMcvt d a b la s
  | .mgemm d a b la => Sys2Proof.Machine.execMgemm d a b la s
  | .mseqq d a la => Sys2Proof.Machine.execMseqq d a la s
  | .mburst a => Sys2Proof.Machine.execMburst a s
  | .mwait => Sys2Proof.Machine.execMwait s
  | .launch d a la => Sys2Proof.Machine.execLaunch d a la s
  | .wnext d la => Sys2Proof.Machine.execWnext d la s
  | .spawn d a b la => Sys2Proof.Machine.execSpawn d a b la s
  | .hmerge d a b la => Sys2Proof.Machine.execHmerge d a b la s
  | .hadd d a b la => Sys2Proof.Machine.execHadd d a b la s
  | .hqry d a b la => Sys2Proof.Machine.execHqry d a b la s
  | .hclose d a la => Sys2Proof.Machine.execHclose d a la s
  | .hdrain d a b la => Sys2Proof.Machine.execHdrain d a b la s
  | .srrd d a b la => Sys2Proof.Machine.execSrrd d a b la s
  | .htop d a la => Sys2Proof.Machine.execHtop d a la s
  | .commitRegion p => Sys2Proof.Machine.execCommitRegion p s
  | .tokenStep p => Sys2Proof.Machine.execTokenStep p s
  | .pinBudget p => Sys2Proof.Machine.execPinBudget p s
  | .resultArrival pkt => Sys2Proof.Machine.execResultArrival pkt s
  | .remotePerform pkt => Sys2Proof.Machine.execRemotePerform pkt s
  | .performPacket pkt => Sys2Proof.Machine.execPerformPacket pkt s
  | .acknowledgement pkt lost => Sys2Proof.Machine.execAcknowledgement pkt lost s
  | .retransmit pkt => Sys2Proof.Machine.execRetransmit pkt s
  | .externalWrite src => Sys2Proof.Machine.execExternalWrite src s
  | .commandStart cid => Sys2Proof.Machine.execCommandStart cid s
  | .commandRead cid n => Sys2Proof.Machine.execCommandRead cid n s
  | .commandComplete cid => Sys2Proof.Machine.execCommandComplete cid s
  | .lpCopy c pa => Sys2Proof.Machine.execLpCopy c pa s
  | .queueEntry c => Sys2Proof.Machine.execQueueEntry c s
  | .eventStoreEntry c => Sys2Proof.Machine.execEventStoreEntry c s
  | .slackDecrement pkt => Sys2Proof.Machine.execSlackDecrement pkt s
  | .queueService q => Sys2Proof.Machine.execQueueService q s
  | .limiterAdmit pkt => Sys2Proof.Machine.execLimiterAdmit pkt s
  | .transmit peer plane tx => Sys2Proof.Machine.execTransmit peer plane tx s
  | .linkReplay pkt => Sys2Proof.Machine.execLinkReplay pkt s
  | .holdReleaseSignal peer plane dst hold => Sys2Proof.Machine.execHoldReleaseSignal peer plane dst hold s
  | .windowSpill p => Sys2Proof.Machine.execWindowSpill p s
  | .windowFill p => Sys2Proof.Machine.execWindowFill p s
  | .walkComplete p va => Sys2Proof.Machine.execWalkComplete p va s
  | .pageArrival c page => Sys2Proof.Machine.execPageArrival c page s
  | .pageResponse c fn gen page bytes => Sys2Proof.Machine.execPageResponse c fn gen page bytes s
  | .migrationDepart p => Sys2Proof.Machine.execMigrationDepart p s
  | .migrationArrival m => Sys2Proof.Machine.execMigrationArrival m s
  | .activeMessage c => Sys2Proof.Machine.execActiveMessage c s
  | .handlerInstructionLimit c => Sys2Proof.Machine.execHandlerInstructionLimit c s
  | .barrierArrival pkt => Sys2Proof.Machine.execBarrierArrival pkt s
  | .statisticsGather c bar => Sys2Proof.Machine.execStatisticsGather c bar s
  | .statisticsFlip c bar => Sys2Proof.Machine.execStatisticsFlip c bar s
  | .teamPlacement c kernel => Sys2Proof.Machine.execTeamPlacement c kernel s
  | .itemDistribution c kernel dist => Sys2Proof.Machine.execItemDistribution c kernel dist s
  | .donorResume p => Sys2Proof.Machine.execDonorResume p s
  | .dispatch c kernel => Sys2Proof.Machine.execDispatch c kernel s
  | .heapUpdate pkt => Sys2Proof.Machine.execHeapUpdate pkt s
  | .spawnAccept pkt => Sys2Proof.Machine.execSpawnAccept pkt s
  | .engineSelect peer dist qtr kind => Sys2Proof.Machine.execEngineSelect peer dist qtr kind s
  | .sliceSelect peer dist qtr grp => Sys2Proof.Machine.execSliceSelect peer dist qtr grp s
  | .mgemmStep c => Sys2Proof.Machine.execMgemmStep c s
  | .mgemmDrain c => Sys2Proof.Machine.execMgemmDrain c s
  | .burstExpiry c => Sys2Proof.Machine.execBurstExpiry c s
  | .rampDownEnd c => Sys2Proof.Machine.execRampDownEnd c s
  | .governorLend peer dist pipe stage => Sys2Proof.Machine.execGovernorLend peer dist pipe stage s
  | .governorReturn peer dist pipe stage => Sys2Proof.Machine.execGovernorReturn peer dist pipe stage s
  | .queueOperation pkt => Sys2Proof.Machine.execQueueOperation pkt s
  | .queueSwapIn c qid => Sys2Proof.Machine.execQueueSwapIn c qid s
  | .thermalSample peer readings => Sys2Proof.Machine.execThermalSample peer readings s
  | .frequencyStep peer island => Sys2Proof.Machine.execFrequencyStep peer island s
  | .modulePowerStep peer milliwatts => Sys2Proof.Machine.execModulePowerStep peer milliwatts s
  | .droop peer island cycles => Sys2Proof.Machine.execDroop peer island cycles s
  | .thermalDisplacement peer island => Sys2Proof.Machine.execThermalDisplacement peer island s
  | .displacementArrival m => Sys2Proof.Machine.execDisplacementArrival m s
  | .slotReclaim victim => Sys2Proof.Machine.execSlotReclaim victim s
  | .slotReturn c => Sys2Proof.Machine.execSlotReturn c s
  | .stopComplete c => Sys2Proof.Machine.execStopComplete c s
  | .contextExpiry c => Sys2Proof.Machine.execContextExpiry c s
  | .eccError e => Sys2Proof.Machine.execEccError e s
  | .warrant peer fn record image tag => Sys2Proof.Machine.execWarrant peer fn record image tag s
  | .delegationSlip peer fn record tag => Sys2Proof.Machine.execDelegationSlip peer fn record tag s
  | .timeCertificate peer fn record tag => Sys2Proof.Machine.execTimeCertificate peer fn record tag s
  | .capacityDeclaration peer fn record tag => Sys2Proof.Machine.execCapacityDeclaration peer fn record tag s
  | .enrolment peer fn record tag => Sys2Proof.Machine.execEnrolment peer fn record tag s
  | .revocation peer fn record tag => Sys2Proof.Machine.execRevocation peer fn record tag s
  | .doorwayLaunch peer fn ctx header tag => Sys2Proof.Machine.execDoorwayLaunch peer fn ctx header tag s
  | .redeemRequest m => Sys2Proof.Machine.execRedeemRequest m s
  | .redeemReply m => Sys2Proof.Machine.execRedeemReply m s
  | .redemptionCommit m => Sys2Proof.Machine.execRedemptionCommit m s
  | .redemptionCancel m => Sys2Proof.Machine.execRedemptionCancel m s
  | .redeemTimeout peer pres => Sys2Proof.Machine.execRedeemTimeout peer pres s
  | .reservationHoldExpiry home key serial requester => Sys2Proof.Machine.execReservationHoldExpiry home key serial requester s
  | .ringRegisterWrite peer fn reg v => Sys2Proof.Machine.execRingRegisterWrite peer fn reg v s
  | .registerWrite peer fn reg v => Sys2Proof.Machine.execRegisterWrite peer fn reg v s
  | .noncereq peer v => Sys2Proof.Machine.execNoncereq peer v s
  | .hostPark c => Sys2Proof.Machine.execHostPark c s
  | .hostResume c => Sys2Proof.Machine.execHostResume c s
  | .hostSurrender c => Sys2Proof.Machine.execHostSurrender c s
  | .hostLiveMigrate c target => Sys2Proof.Machine.execHostLiveMigrate c target s
  | .liveMigrationImage c target => Sys2Proof.Machine.execLiveMigrationImage c target s
  | .vfEnableClear peer => Sys2Proof.Machine.execVfEnableClear peer s
  | .functionLevelReset peer fn => Sys2Proof.Machine.execFunctionLevelReset peer fn s
  | .vfEnable peer fn => Sys2Proof.Machine.execVfEnable peer fn s
  | .orphanTimeout c => Sys2Proof.Machine.execOrphanTimeout c s
  | .timeAdoption peer other rt => Sys2Proof.Machine.execTimeAdoption peer other rt s
  | .deviceReset peer => Sys2Proof.Machine.execDeviceReset peer s
  | .selfTestComplete peer failed => Sys2Proof.Machine.execSelfTestComplete peer failed s
  | .peerUp peer other => Sys2Proof.Machine.execPeerUp peer other s
  | .linkLoss peer other => Sys2Proof.Machine.execLinkLoss peer other s
  | .illegalInstruction word => Sys2Proof.Machine.execIllegalInstruction word s
  | .fetchFault code va => Sys2Proof.Machine.execFetchFault code va s
  | .timeExchange peer other rt => Sys2Proof.Machine.execTimeExchange peer other rt s
  | .memberExtentUpdate c other => Sys2Proof.Machine.execMemberExtentUpdate c other s
  | .erheadWrite peer fn v => Sys2Proof.Machine.execErheadWrite peer fn v s
  | .liveMigrationRelease c => Sys2Proof.Machine.execLiveMigrationRelease c s
  | .pageMoveComplete c page => Sys2Proof.Machine.execPageMoveComplete c page s

end Sys2Proof.Machine
end

