-- ==== Sys2Proof/Machine/Due.lean ====
section
/-! DEFINITION. Which step of the machine comes next when a slot has made no progress and the agenda names none: the
model's choice among the steps that the rules permit (log entry 3). The agenda may name any other. -/

namespace Sys2Proof.Machine

/-- The swap that a queue operation may wait for (R285). -/
noncomputable def swapSteps (s : State) (k : Packet) : List Instr :=
  ((k.queueKey s).map (fun e => Instr.queueSwapIn ⟨k.ctx.peer, e.1⟩ e.2)).toList

/-- The steps that a packet may be ready for. -/
noncomputable def packetSteps (s : State) (k : Packet) : List Instr :=
  match k.path.head? with
  | some (.shaping _ _ _) => [.limiterAdmit k.id]
  | some (.fabTx peer plane) => [.transmit peer plane 0]
  | some q => [.queueService q]
  | none =>
    match k.phase with
    | .arrived => [.performPacket k.id, .remotePerform k.id, .barrierArrival k.id, .heapUpdate k.id, .queueOperation k.id,
        .spawnAccept k.id] ++ swapSteps s k
    | .reply => [.resultArrival k.id, .acknowledgement k.id false]
    | _ => []

/-- The reads that a command may be ready for: of a vector command, those of each slice that runs. -/
noncomputable def readSteps (q : Cmd) : List Instr :=
  if q.queue = 4 then q.runs.map (fun r => .commandRead q.cid r.slice) else [.commandRead q.cid 0]

/-- The steps that a core's commands, message queue and sequencer may be ready for. -/
noncomputable def coreSteps (c : CoreId) (k : Core) : List Instr :=
  (if k.cmds.isEmpty then [] else [.queueEntry c])
  ++ k.cmds.flatMap (fun q =>
      [.commandComplete q.cid, .externalWrite (.command q.cid 0)] ++ readSteps q ++ [.commandStart q.cid])
  ++ (if k.cmds.any (fun q => q.queue == 5) then [.mgemmDrain c, .mgemmStep c] else [])
  ++ (if k.cmds.any (fun q => q.queue == 4) then [.sliceSelect c.peer (coreDist c.core) (coreQtr c.core) (coreGrp c.core)] else [])
  ++ k.cmds.filterMap (fun q => q.work.engine.map (fun kind => .engineSelect c.peer (coreDist c.core) (coreQtr c.core) kind))
  ++ (if k.burst = 0 then [] else [.burstExpiry c]) ++ (if k.rampAt.isNone then [] else [.rampDownEnd c])
  ++ (if k.hq.isEmpty then [] else [.activeMessage c])

/-- The steps that a thread may be ready for. -/
noncomputable def threadSteps (s : State) (p : Place) (t : Thread) : List Instr :=
  (if t.region.want then [.tokenStep p] else [])
  ++ (if pinOut s p t then [.pinBudget p] else [])
  ++ (if t.spent then [.handlerInstructionLimit (coreOf p)] else [])
  ++ (if moving s t then [.migrationDepart p] else [])
  ++ (match t.wait with
    | .page peer page => ((member s (t.ctxId p) peer).map (fun c => Instr.pageArrival c page)).toList
    | _ => [])

/-- The steps that a context may be ready for. -/
noncomputable def ctxSteps (s : State) (c : CtxId) (x : Ctx) : List Instr :=
  (if x.state = .stopping || x.ending then [.stopComplete c] else [])
  ++ (if expired s c x then [.contextExpiry c] else [])
  ++ (if x.held.isEmpty then [] else [.eventStoreEntry c])
  ++ (x.barriers.filter (fun e => e.2.stat)).flatMap (fun e => [.statisticsGather c e.1, .statisticsFlip c e.1])
  ++ x.kernels.flatMap (fun k =>
      [.teamPlacement c k.num, .dispatch c k.num] ++ (List.range 8).map (fun d => .itemDistribution c k.num d))
  ++ [.slotReturn c, .slotReclaim c]
  ++ x.asked.map (fun page => .pageArrival c page)
  ++ (if x.state = .orphaned then [.orphanTimeout c] else [])
  ++ (if x.cap < x.resident then ((x.oldest x.hbm.length).map (fun n => Instr.pageMoveComplete c n)).toList else [])

/-- The steps that messages and presentations may be ready for. -/
noncomputable def homeSteps (s : State) : List Instr :=
  s.msgs.flatMap (fun m => [.redeemRequest m.id, .redeemReply m.id, .redemptionCommit m.id, .redemptionCancel m.id])
  ++ s.devs.flatMap (fun e => e.2.press.map (fun w => .redeemTimeout e.1 w.id)
      ++ e.2.windows.flatMap (fun w => w.2.reserved.map (fun r => .reservationHoldExpiry e.1 w.1 r.1 r.2.1)))

/-- The entries of its doorways' rings that a device may take (R152, R153). -/
noncomputable def doorSteps (s : State) : List Instr :=
  s.devs.flatMap (fun e => e.2.doors.flatMap (fun f =>
    let p := presEntry s e.1 f.1
    let l := launchEntry s e.1 f.1
    let record := leAt p 0 8
    let tag (b : List Byte) : Word := BitVec.ofNat 64 (leAt b 0x18 8)
    (if presTakes s e.1 f.1 then
      [Instr.warrant e.1 f.1 record (leAt p 8 8) (tag p), .delegationSlip e.1 f.1 record (tag p), .timeCertificate e.1 f.1 record (tag p),
        .capacityDeclaration e.1 f.1 record (tag p), .enrolment e.1 f.1 record (tag p), .revocation e.1 f.1 record (tag p)]
    else [])
    ++ (if launchTakes s e.1 f.1 then [.doorwayLaunch e.1 f.1 (leAt l 0 2) (leAt l 8 8) (tag l)] else [])))

/-- The steps of its islands' loops that a device may be ready for (R366, R369). -/
noncomputable def islandSteps (s : State) : List Instr :=
  s.devs.flatMap (fun e => e.2.islands.flatMap (fun i => [.thermalDisplacement e.1 i.1, .frequencyStep e.1 i.1]))

/-- The steps of the machine that may be ready, in the order in which they are tried. DESIGN CHOICE: log entry 3. -/
noncomputable def candidates (s : State) : List Instr :=
  s.packets.flatMap (packetSteps s)
  ++ s.cores.flatMap (fun e => coreSteps e.1 e.2)
  ++ s.threads.flatMap (fun e => threadSteps s e.1 e.2)
  ++ s.migs.flatMap (fun m => [.migrationArrival m.id, .displacementArrival m.id])
  ++ s.donors.map (fun e => .donorResume e.1)
  ++ s.ctxs.flatMap (fun e => ctxSteps s e.1 e.2)
  ++ homeSteps s
  ++ doorSteps s
  ++ islandSteps s
  ++ s.packets.map (fun k => .retransmit k.id)

/-- A step changes something. -/
noncomputable def effective (s : State) (i : Instr) : Bool :=
  match exec i s with
  | .next t => t != s
  | _ => false

/-- The step that is due, if any: the first that changes something. DESIGN CHOICE: log entry 3. DESIGN CHOICE: log entry 85. -/
noncomputable def due (s : State) : Option Instr :=
  let s := { s with stalled := false }
  (candidates s).find? (effective s)

end Sys2Proof.Machine
end

