-- ==== Sys2Proof/Machine/Fetch.lean ====
section
/-! DEFINITION. The place where a word is put so that the next step fetches and runs it: the smallest context that can
run a thread (log entry 2). -/

namespace Sys2Proof.Machine

/-- The VA of the first text word, the assembler's default (R48). -/
def textStart : Nat := 0x10000

/-- A FRACTIONAL context of one slot, whose text of one page lies at the start of district 0's HBM (R44, R201).
DESIGN CHOICE: log entry 2. -/
def loaderCtx : Ctx :=
  { Ctx.new with
    flags := 1
    mask := 1
    block := { Block.zero with slots := 1, hbm := 4096 }
    slots := [(0, 0)]
    hbm := [⟨mkSa 0 0 0, .hbm, 0⟩]
    cap := 1
    text := ⟨0, textStart, 1024, [], [mkSa 0 0 0]⟩
    notAfter := 2 ^ 63 }

end Sys2Proof.Machine
end

