-- ==== Sys2Proof/Machine/Position.lean ====
section
/-! DEFINITION. The position of a slot: what it issues, and what every position and every event are followed by. -/

namespace Sys2Proof.Machine

/-- What follows every change of the machine: the governors act at the moments at which they may (R287), kernels that are over
end, and the waits on join counters are looked at (R256, R353). -/
def afterwards (s : State) : State := settle (governAll s)

/-- The outcome of a position, with the next turn. -/
def turnOver : Host.Outcome State Fault Refusal → Host.Outcome State Fault Refusal
  | .next s => .next (rotate (afterwards s))
  | .fault f => .fault f
  | .refused r => .refused r

/-- The outcome of an event. -/
def eventOver : Host.Outcome State Fault Refusal → Host.Outcome State Fault Refusal
  | .next s => .next (afterwards s)
  | .fault f => .fault f
  | .refused r => .refused r

/-- A slot that may issue fetches a word and runs it; a failed fetch and a word without an instruction are the rows
FETCH_FAULT and ILLEGAL_INSTRUCTION (R40, R41). A replayed word is the staggered one, and it is that word which TVAL holds
where it is denied its shared registers (R70). DESIGN CHOICE: log entry 96. -/
noncomputable def issueAt (s : State) (t : Thread) : Host.Outcome State Fault Refusal :=
  match nextWord s s.turn t with
  | .inl w =>
    match decodeWord w with
    | .ok i => exec i s
    | .error _ => exec (.illegalInstruction (BitVec.ofNat 32 w)) s
  | .inr (.fault c) => exec (.fetchFault c.code c.value) s
  | .inr (.absent page) => .next (parkPage s s.turn page)
  | .inr (.ok _) => .next s

/-- The position of the slot whose turn it is (R53). -/
noncomputable def position (s : State) : Host.Outcome State Fault Refusal :=
  let s := atTurn s
  match s.thread s.turn with
  | none => .next (rotate { s with stalled := true })
  | some t =>
    turnOver (if slotReady s s.turn t then issueAt s t else .next (slotPosition s s.turn t))

end Sys2Proof.Machine
end

