-- ==== Sys2Proof/Machine/Step.lean ====
section
/-! DEFINITION. One step: the head of the agenda if it names one, else a step that is due if the last position made no
progress, else the position of the slot whose turn it is. -/

namespace Sys2Proof.Machine

/-- One step of the machine. DESIGN CHOICE: log entry 3. DESIGN CHOICE: log entry 85. -/
noncomputable def step (s : State) : Host.Outcome State Fault Refusal :=
  match s.agenda with
  | .event i :: rest => eventOver (exec i { s with agenda := rest })
  | .turn p :: rest => .next { s with agenda := rest, turn := p }
  | .elapse n :: rest => .next (afterwards { s with agenda := rest, now := s.now + n })
  | [] =>
    if s.stalled then
      match due s with
      | some i => eventOver (exec i { s with stalled := false })
      | none => position { s with stalled := false }
    else position s

/-- The same machine with an instruction's word placed where the next step fetches it (log entry 2, DESIGN CHOICE). -/
def State.withFetchWord (s : State) (nbits w : Nat) : State :=
  { s with
    agenda := []
    stalled := false
    turn := ⟨0, 0, 0⟩
    ctxs := mset s.ctxs ⟨0, 1⟩ loaderCtx
    threads := mset s.threads ⟨0, 0, 0⟩ (Thread.new s.nextId 1 (BitVec.ofNat 64 textStart) ⟨0, 0, 0⟩)
    nextId := s.nextId + 1
    mem := memWrites s.mem (mkSa 0 0 0) (leBytes 4 (w % 2 ^ nbits)) }

end Sys2Proof.Machine
end

