-- ==== Sys2Proof/Safety.lean ====
section
/-! DEFINITION. What counts as a safe run, and the conditions on a state under which an instruction issues and runs to its own
effect. Statements are made in these terms. -/

namespace Sys2Proof

open Machine

/-! ## Runs -/

/-- The memory of a state is in its canonical form. -/
def Inv (s : State) : Prop := Memory.wf s.mem = true

/-- A step answers a next state. -/
def Goes (s : State) : Prop := ∃ t, step s = .next t

/-- A number of steps reaches a state. -/
inductive Reaches : Nat → State → State → Prop where
  | here (s : State) : Reaches 0 s s
  | step {n : Nat} {s t u : State} : Machine.step s = .next t → Reaches n t u → Reaches (n + 1) s u

/-- A state from which no run stops with a fault or a refusal. -/
def Safe (s : State) : Prop := ∀ n t, Reaches n s t → Goes t

/-- No thread waits in JWAIT on a counter that it could read as 0 (R256). -/
def JoinsAwake (s : State) : Prop :=
  ∀ e ∈ s.threads, ∀ va, e.2.wait = .join va → counterAt s (e.2.ctxId e.1) e.2 va ≠ some 0

/-- The record that the next entry of a function's presentation ring names, in host memory (R153). -/
def nextRecord (s : State) (peer fn : Nat) : List Byte := hostRecord s peer fn (leAt (presEntry s peer fn) 0 8)

/-- The device, the function and the record of a presentation from a ring (R119). -/
def presented (s : State) : Instr → Option (Nat × Nat × List Byte)
  | .warrant peer fn _ _ _ => some (peer, fn, nextRecord s peer fn)
  | .delegationSlip peer fn _ _ => some (peer, fn, nextRecord s peer fn)
  | .timeCertificate peer fn _ _ => some (peer, fn, nextRecord s peer fn)
  | .capacityDeclaration peer fn _ _ => some (peer, fn, nextRecord s peer fn)
  | .enrolment peer fn _ _ => some (peer, fn, nextRecord s peer fn)
  | .revocation peer fn _ _ => some (peer, fn, nextRecord s peer fn)
  | _ => none

/-! ## Issue (R41, R60, R62) -/

/-- The slot whose turn it is holds a thread that is no handler, and if one of the named registers is shared, the context owns
the core (R60). -/
structure CanIssue (s : State) (t : Thread) (uses : List Dst) : Prop where
  here : s.thread s.turn = some t
  plain : t.isHandler = false
  owns : uses.any (fun d => isShared d.reg) = true → s.ownsCore s.turn t = true

/-- A write of a destination may be made: it is private, or the region is pinned, or the token step can be taken (R62). -/
def MayWrite (s : State) (t : Thread) (d : Dst) : Prop :=
  isShared d.reg = true → t.region.pinned = true ∨ canToken s s.turn t = true

/-- The state in which the write of a destination is made: the token step is taken first where a shared register asks for it. -/
def pinFor (s : State) (t : Thread) (d : Dst) : State :=
  if isShared d.reg && !t.region.pinned then giveToken s s.turn false else s

/-- The core of the slot whose turn it is. -/
def coreNow (s : State) : Core := s.core (coreOf s.turn)

/-- The slot has no result under way and room in its region for one line more, so that its next instruction changes nothing but
what it names. -/
structure Quiet (t : Thread) : Prop where
  pend : t.pend = []
  room : t.region.lines < 47

/-! ## What an instruction comes to -/

/-- The instruction runs to its own effect: from the state that its effect leaves, control goes on to the next instruction. -/
def Runs (i : Instr) (s s' : State) : Prop := exec i s = .next (retire s' s.turn false)

/-- The instruction traps (R71): the entry, or what takes its place. -/
def Traps (i : Instr) (s : State) (code : Nat) (value : Word) : Prop := exec i s = .next (raise s s.turn ⟨code, value⟩)

/-- The instruction writes one value to one register: every register it names may be used, and the write may be made. -/
def Writes (i : Instr) (uses : List Dst) (d : Dst) (f : Core → Thread → Word) : Prop :=
  ∀ s t, CanIssue s t (uses ++ [d]) → MayWrite s t d →
    Runs i s ((pinFor s t d).writeReg s.turn d (f (coreNow s) t))

/-- d := f(a, b) over integer registers. -/
def Binary (i : Instr) (d a b : Reg) (f : Word → Word → Word) : Prop :=
  Writes i [ri a, ri b] (ri d) (fun k t => f (readI k t a) (readI k t b))

/-- d := f(d, a, b) over integer registers. -/
def Ternary (i : Instr) (d a b : Reg) (f : Word → Word → Word → Word) : Prop :=
  Writes i [ri a, ri b] (ri d) (fun k t => f (readI k t d) (readI k t a) (readI k t b))

/-- d := f(a) over integer registers. -/
def Unary (i : Instr) (d a : Reg) (f : Word → Word) : Prop := Writes i [ri a] (ri d) (fun k t => f (readI k t a))

/-- The instruction runs and transfers control (R67). -/
def Jumps (i : Instr) (s s' : State) (pc : Word) : Prop := exec i s = .next (retireTo s' s.turn pc)

/-- No field of the instruction names a mapped stream (R271). -/
def Unmapped (s : State) (t : Thread) (ds : List Dst) : Prop := ∀ d ∈ ds, (coreNow s).mapped t.uid d = none

/-- A scalar floating-point instruction, with no stream among its fields: one value to one register. -/
def WritesF (i : Instr) (srcs : List Dst) (d : Dst) (f : List Word → Word) : Prop :=
  ∀ s t, CanIssue s t (srcs ++ [d]) → MayWrite s t d → Unmapped s t (srcs ++ [d]) →
    Runs i s ((pinFor s t d).writeReg s.turn d (f (srcs.map (readReg (coreNow s) t))))

/-- The instruction runs and its result, known at issue, is pending on an integer register (R56, R57): `eff` is its other effect,
made with the token where the register is shared. -/
def Gives (i : Instr) (s : State) (t : Thread) (d : Reg) (la : Nat) (eff : State → State) (v : Word) : Prop :=
  Runs i s (pendNow (eff (pinFor s t (ri d))) s.turn [ri d] la false [v])

/-- The conditions of an instruction with one integer result: it may issue, and write its result. -/
def CanGive (s : State) (t : Thread) (uses : List Dst) (d : Reg) : Prop := CanIssue s t (uses ++ [ri d]) ∧ MayWrite s t (ri d)

/-! ## Operands of the two widths (R79) -/

/-- The 32-bit operand. -/
def low (x : Word) : BitVec 32 := x.setWidth 32

/-- An operation on the operands of a width, its result sign-extended from 32 bits at .w. -/
def at2 (w : Bool) (f : ∀ n, BitVec n → BitVec n → BitVec n) (a b : Word) : Word :=
  if w then (f 32 (low a) (low b)).signExtend 64 else f 64 a b

/-- An operation on three operands of a width. -/
def at3 (w : Bool) (f : ∀ n, BitVec n → BitVec n → BitVec n → BitVec n) (d a b : Word) : Word :=
  if w then (f 32 (low d) (low a) (low b)).signExtend 64 else f 64 d a b

/-- An operation on one operand of a width. -/
def at1 (w : Bool) (f : ∀ n, BitVec n → BitVec n) (a : Word) : Word :=
  if w then (f 32 (low a)).signExtend 64 else f 64 a

/-- A count of an operand of a width, zero-extended. -/
def count1 (w : Bool) (f : ∀ n, BitVec n → Nat) (a : Word) : Word := BitVec.ofNat 64 (if w then f 32 (low a) else f 64 a)

/-- A comparison of two operands of a width. -/
def test2 (w : Bool) (f : ∀ n, BitVec n → BitVec n → Bool) (a b : Word) : Word :=
  if (if w then f 32 (low a) (low b) else f 64 a b) then 1 else 0

/-- The bits of a value from the most significant down. -/
def bitsDown {n : Nat} (x : BitVec n) : List Bool := (List.range n).map (fun j => x.getLsbD (n - 1 - j))

/-- The bits of a value from the least significant up. -/
def bitsUp {n : Nat} (x : BitVec n) : List Bool := (List.range n).map (fun j => x.getLsbD j)

/-! ## Windows (R63, R64) -/

/-- A frame can be pushed without a spill: the depth is not at its limit, the area of the new frame passes its checks, and the
lowest of three resident frames is in the area already. -/
def PushRoom (s : State) (t : Thread) : Prop :=
  t.wdep ≠ 65535 ∧ (scratchPieces s s.turn t needW 17 (t.wsp + BitVec.ofNat 64 (136 * t.wdep.toNat))).isSome = true
    ∧ ∀ f, t.frames[2]? = some f → f.inArea = true

/-! ## Memory forms (R99, R239 to R242) -/

/-- A local place for an access: the checks pass, its line is homed in the district of the core, on the own device. -/
structure LocalAt (s : State) (t : Thread) (va : Word) (size align need : Nat) (l : Loc) (sa : Nat) : Prop where
  found : lookT s s.turn t va size align need = .ok l
  home : localSa s.turn.core l = some sa
  own : saPeer l.ca = s.turn.peer
  memory : saKind l.ca ≠ 5

/-- A load: the registers it reads, its address, its size, what it makes of the bytes, where that goes, its lookahead, whether it
is in mode .m, whether it acquires. -/
structure LoadForm where
  uses : List Dst
  addr : Core → Thread → Word
  size : Nat
  value : List Byte → List Word
  dsts : List Dst
  la : Nat
  mode : Bool
  acquire : Bool

/-- The bytes of a little-endian number of `n` bits, sign-extended. -/
def signed1 (n : Nat) (bs : List Byte) : List Word := [(BitVec.ofNat n (leNat bs)).signExtend 64]

/-- The bytes of a little-endian number of `n` bits, zero-extended. -/
def zeroed1 (n : Nat) (bs : List Byte) : List Word := [(BitVec.ofNat n (leNat bs)).setWidth 64]

/-- An L form: a + offset × size. -/
def loadOff (size : Nat) (value : List Byte → List Word) (d a : Reg) (la : BitVec 4) (off : BitVec 9) : Option LoadForm :=
  some ⟨[ri a], fun k t => readI k t a + off.signExtend 64 * BitVec.ofNat 64 size, size, value, [ri d], la.toNat, true, false⟩

/-- An X form: a + b. -/
def loadIdx (size : Nat) (value : List Byte → List Word) (d a b : Reg) (la : BitVec 4) (mode acquire : Bool) : Option LoadForm :=
  some ⟨[ri a, ri b], fun k t => readI k t a + readI k t b, size, value, [ri d], la.toNat, mode, acquire⟩

/-- The loads. -/
def loadForm : Instr → Option LoadForm
  | .ldBSx d a la off => loadOff 1 (signed1 8) d a la off
  | .ldBZx d a la off => loadOff 1 (zeroed1 8) d a la off
  | .ldHSx d a la off => loadOff 2 (signed1 16) d a la off
  | .ldHZx d a la off => loadOff 2 (zeroed1 16) d a la off
  | .ldWSx d a la off => loadOff 4 (signed1 32) d a la off
  | .ldWZx d a la off => loadOff 4 (zeroed1 32) d a la off
  | .ldD d a la off => loadOff 8 (zeroed1 64) d a la off
  | .ldxBSx d a b la => loadIdx 1 (signed1 8) d a b la true false
  | .ldxBZx d a b la => loadIdx 1 (zeroed1 8) d a b la true false
  | .ldxHSx d a b la => loadIdx 2 (signed1 16) d a b la true false
  | .ldxHZx d a b la => loadIdx 2 (zeroed1 16) d a b la true false
  | .ldxWSx d a b la => loadIdx 4 (signed1 32) d a b la true false
  | .ldxWZx d a b la => loadIdx 4 (zeroed1 32) d a b la true false
  | .ldxD d a b la => loadIdx 8 (zeroed1 64) d a b la true false
  | .ldfBSx d a b la => loadIdx 1 (signed1 8) d a b la false false
  | .ldfBZx d a b la => loadIdx 1 (zeroed1 8) d a b la false false
  | .ldfHSx d a b la => loadIdx 2 (signed1 16) d a b la false false
  | .ldfHZx d a b la => loadIdx 2 (zeroed1 16) d a b la false false
  | .ldfWSx d a b la => loadIdx 4 (signed1 32) d a b la false false
  | .ldfWZx d a b la => loadIdx 4 (zeroed1 32) d a b la false false
  | .ldfD d a b la => loadIdx 8 (zeroed1 64) d a b la false false
  | .ldaW d a b la => loadIdx 4 (signed1 32) d a b la true true
  | .ldaD d a b la => loadIdx 8 (zeroed1 64) d a b la true true
  | .ldp d a la off => some ⟨[ri a], fun k t => readI k t a + off.signExtend 64 * 16, 16,
      fun bs => [BitVec.ofNat 64 (leNat (bs.take 8)), BitVec.ofNat 64 (leNat (bs.drop 8))],
      [ri (pairLo d), ri (pairHi d)], la.toNat, true, false⟩
  | _ => none

/-- A store or release: the registers it names, its address, its bytes; `rel` is given for a release and tells an STL.G. -/
structure StoreForm where
  uses : List Dst
  addr : Core → Thread → Word
  data : Core → Thread → List Byte
  rel : Option Bool

/-- An L form: a + offset × size, the low bytes of d. -/
def storeOff (size : Nat) (d a : Reg) (off : BitVec 9) : Option StoreForm :=
  some ⟨[ri a, ri d], fun k t => readI k t a + off.signExtend 64 * BitVec.ofNat 64 size,
    fun k t => leBytes size (readI k t d).toNat, none⟩

/-- An X form: a + b. -/
def storeIdx (size : Nat) (d a b : Reg) (rel : Option Bool) : Option StoreForm :=
  some ⟨[ri a, ri b, ri d], fun k t => readI k t a + readI k t b, fun k t => leBytes size (readI k t d).toNat, rel⟩

/-- The stores and releases. -/
def storeForm? : Instr → Option StoreForm
  | .stB d a off => storeOff 1 d a off
  | .stH d a off => storeOff 2 d a off
  | .stW d a off => storeOff 4 d a off
  | .stD d a off => storeOff 8 d a off
  | .stxB d a b => storeIdx 1 d a b none
  | .stxH d a b => storeIdx 2 d a b none
  | .stxW d a b => storeIdx 4 d a b none
  | .stxD d a b => storeIdx 8 d a b none
  | .stlW d a b => storeIdx 4 d a b (some false)
  | .stlD d a b => storeIdx 8 d a b (some false)
  | .stlGW d a b => storeIdx 4 d a b (some true)
  | .stlGD d a b => storeIdx 8 d a b (some true)
  | .stp d a off => some ⟨[ri a, ri (pairLo d)], fun k t => readI k t a + off.signExtend 64 * 16,
      fun k t => leBytes 8 (readI k t (pairLo d)).toNat ++ leBytes 8 (readI k t (pairHi d)).toNat, none⟩
  | _ => none

/-- An atomic: its operation, its width (.w), address register, operand, destination (none when posted), register of the compare
value, lookahead. -/
structure AtomForm where
  op : AtomOp
  w : Bool
  a : Reg
  b : Dst
  d : Option Dst
  cmp : Reg
  la : Nat

/-- The atomics of R244 in their returning and their posted forms. -/
def atomForm : Instr → Option AtomForm
  | .aadd w d a b la => some ⟨.add, w, a, ri b, some (ri d), d, la.toNat⟩
  | .aand w d a b la => some ⟨.and, w, a, ri b, some (ri d), d, la.toNat⟩
  | .aor w d a b la => some ⟨.or, w, a, ri b, some (ri d), d, la.toNat⟩
  | .axor w d a b la => some ⟨.xor, w, a, ri b, some (ri d), d, la.toNat⟩
  | .amin w d a b la => some ⟨.min, w, a, ri b, some (ri d), d, la.toNat⟩
  | .amax w d a b la => some ⟨.max, w, a, ri b, some (ri d), d, la.toNat⟩
  | .aminu w d a b la => some ⟨.minu, w, a, ri b, some (ri d), d, la.toNat⟩
  | .amaxu w d a b la => some ⟨.maxu, w, a, ri b, some (ri d), d, la.toNat⟩
  | .aswp w d a b la => some ⟨.swp, w, a, ri b, some (ri d), d, la.toNat⟩
  | .acas w d a b la => some ⟨.cas, w, a, ri b, some (ri d), d, la.toNat⟩
  | .afadd w d a b la => some ⟨.fadd, w, a, rf b, some (rf d), 0, la.toNat⟩
  | .afmin w d a b la => some ⟨.fmin, w, a, rf b, some (rf d), 0, la.toNat⟩
  | .afmax w d a b la => some ⟨.fmax, w, a, rf b, some (rf d), 0, la.toNat⟩
  | .aaddP w a b => some ⟨.add, w, a, ri b, none, 0, 0⟩
  | .aandP w a b => some ⟨.and, w, a, ri b, none, 0, 0⟩
  | .aorP w a b => some ⟨.or, w, a, ri b, none, 0, 0⟩
  | .axorP w a b => some ⟨.xor, w, a, ri b, none, 0, 0⟩
  | .aminP w a b => some ⟨.min, w, a, ri b, none, 0, 0⟩
  | .amaxP w a b => some ⟨.max, w, a, ri b, none, 0, 0⟩
  | .aminuP w a b => some ⟨.minu, w, a, ri b, none, 0, 0⟩
  | .amaxuP w a b => some ⟨.maxu, w, a, ri b, none, 0, 0⟩
  | .aswpP w a b => some ⟨.swp, w, a, ri b, none, 0, 0⟩
  | .acasP w d a b => some ⟨.cas, w, a, ri b, none, d, 0⟩
  | .afaddP w a b => some ⟨.fadd, w, a, rf b, none, 0, 0⟩
  | .afminP w a b => some ⟨.fmin, w, a, rf b, none, 0, 0⟩
  | .afmaxP w a b => some ⟨.fmax, w, a, rf b, none, 0, 0⟩
  | _ => none

/-- The registers that an atomic names. -/
def AtomForm.uses (f : AtomForm) : List Dst := [ri f.a, f.b] ++ f.d.toList ++ (if f.op = .cas then [ri f.cmp] else [])

/-- The thread's region with one more item. -/
def Machine.Thread.adds (t : Thread) (i : Item) : Thread := { t with region := { t.region with items := t.region.items ++ [i] } }

/-- A region of the slot takes an item: it is not exclusive, and there is a line for it (R219). -/
structure Takes (s : State) (t : Thread) (i : Item) : Prop where
  shared : t.region.exclusive = false
  line : lineFree s s.turn t (newLines t.region i) = true

/-- An exclusive region may write to some lines at once (R217): no fixed region of another thread reads one, and every slice that
takes a write is free. -/
structure Through (s : State) (t : Thread) (lines : List Nat) : Prop where
  exclusive : t.region.exclusive = true
  free : blocked s (some t.uid) lines = false
  slices : slicesFree s s.turn lines = true

/-- Every thread has a place of its own and a name of its own, and none is on the move. -/
structure Settled (s : State) : Prop where
  places : (s.threads.map (·.1)).Nodup
  names : (s.threads.map (·.2.uid)).Nodup
  still : s.migs = []

/-- A write of some lines has aborted the regions of other threads that read one of them (R215), and changed no other thread. -/
def ReadersRestart (s s' : State) (lines : List Nat) : Prop :=
  ∀ q u, q ≠ s.turn → s.thread q = some u →
    ((∃ n ∈ lines, n ∈ u.region.reads) → s'.thread q = some (u.restart true))
    ∧ (¬(∃ n ∈ lines, n ∈ u.region.reads) → s'.thread q = some u)

/-! ## Streams as operands, and handlers (R254, R271 to R273) -/

/-- A scalar floating-point instruction of which one field names a mapped read stream, whose next element is reached in place (R271
to R273): the element is popped, read as the slot's loads read, and the stream moves on. At the stream's end, or where the element's
address fails its checks, the instruction traps. -/
def PopsF (i : Instr) (srcs : List Dst) (d : Dst) (f : List Word → Word) : Prop :=
  ∀ (s : State) (t u : Thread) (pre post : List Dst) (x : Dst) (n sa : Nat) (e : Stream) (l : Loc),
    srcs = pre ++ x :: post → CanIssue s t (srcs ++ [d]) → MayWrite s t d → Unmapped s t (pre ++ post ++ [d]) →
    (coreNow s).mapped t.uid x = some (n, e) → t.acquiring = false → e.dir = false →
    let z := pinFor s t d
    let va := e.addr e.pos
    let size := typeSize e.type
    (e.count ≤ e.pos → Traps i s 0x18 (BitVec.ofNat 64 n))
    ∧ (∀ c, e.pos < e.count → lookT s s.turn t va size size needR = .fault c → Traps i s c.code c.value)
    ∧ (e.pos < e.count → z.thread s.turn = some u → lookT s s.turn t va size size needR = .ok l →
      lookT z s.turn u va size size needR = .ok l → directSa s.turn t.apCore l = some sa → poisonHit s sa size = false →
      Runs i s (((joinRead z s.turn sa size).bump (coreOf s.turn) n).writeReg s.turn d
        (f (pre.map (readReg (coreNow s) t) ++ BitVec.ofNat 64 (leNat (slotReads s s.turn t sa size)) :: post.map (readReg (coreNow s) t)))))

/-- A scalar floating-point instruction whose destination names a mapped write stream (R271 to R273): the result is stored as the
stream's next element, buffered in the region, and the stream moves on. -/
def PushesF (i : Instr) (srcs : List Dst) (d : Dst) (f : List Word → Word) : Prop :=
  ∀ (s : State) (t : Thread) (n : Nat) (e : Stream) (l : Loc), CanIssue s t (srcs ++ [d]) → Unmapped s t srcs →
    (coreNow s).mapped t.uid d = some (n, e) → t.acquiring = false → e.dir = true →
    let va := e.addr e.pos
    let size := typeSize e.type
    let item := storeItemAt s.turn l (leBytes size (f (srcs.map (readReg (coreNow s) t))).toNat) (s.slack s.turn t)
    (e.count ≤ e.pos → Traps i s 0x18 (BitVec.ofNat 64 n))
    ∧ (∀ c, e.pos < e.count → lookT s s.turn t va size size needW = .fault c → Traps i s c.code c.value)
    ∧ (e.pos < e.count → lookT s s.turn t va size size needW = .ok l → Takes s t item →
      Runs i s ((s.setThread s.turn (t.adds item)).bump (coreOf s.turn) n))

/-- A source that names a write stream, or a destination that names a read stream (R273): STREAM_MISMATCH with the word. -/
def MismatchesF (i : Instr) (srcs : List Dst) (d : Dst) : Prop :=
  ∀ (s : State) (t : Thread), CanIssue s t (srcs ++ [d]) → t.acquiring = false →
    ((∃ x ∈ srcs, ∃ n e, (coreNow s).mapped t.uid x = some (n, e) ∧ e.dir = true) → Traps i s 0x16 (wordOf i))
    ∧ (∀ n e, (∀ x ∈ srcs, ∀ m g, (coreNow s).mapped t.uid x = some (m, g) → g.dir = false) →
      (coreNow s).mapped t.uid d = some (n, e) → e.dir = false → Traps i s 0x16 (wordOf i))

/-- A scalar floating-point instruction with a mapped stream among its fields. -/
def StreamsF (i : Instr) (srcs : List Dst) (d : Dst) (f : List Word → Word) : Prop :=
  PopsF i srcs d f ∧ PushesF i srcs d f ∧ MismatchesF i srcs d

/-- A scalar floating-point instruction, with registers and with streams. -/
def ScalarF (i : Instr) (srcs : List Dst) (d : Dst) (f : List Word → Word) : Prop := WritesF i srcs d f ∧ StreamsF i srcs d f

/-- An operand of an instruction that is made in state `z`: a register, or the element of a mapped read stream that is reached in
place; `y` is the state in which it has been read, `v` its value (R271). -/
def Operand (s : State) (t : Thread) (x : Dst) (z y : State) (v : Word) : Prop :=
  (Unmapped s t [x] ∧ y = z ∧ v = readReg (coreNow s) t x)
  ∨ ∃ n e l sa, (coreNow s).mapped t.uid x = some (n, e) ∧ e.dir = false ∧ e.pos < e.count
    ∧ lookT s s.turn t (e.addr e.pos) (typeSize e.type) (typeSize e.type) needR = .ok l
    ∧ (∀ u, z.thread s.turn = some u → lookT z s.turn u (e.addr e.pos) (typeSize e.type) (typeSize e.type) needR = .ok l)
    ∧ directSa s.turn t.apCore l = some sa ∧ poisonHit s sa (typeSize e.type) = false
    ∧ y = (joinRead z s.turn sa (typeSize e.type)).bump (coreOf s.turn) n
    ∧ v = BitVec.ofNat 64 (leNat (slotReads s s.turn t sa (typeSize e.type)))

/-- The destination of an atomic: a register that no stream is mapped on, or the next element of a mapped write stream whose address
passes its checks, with `n` lines free for it (R219, R271). -/
def Target (s : State) (t : Thread) (d : Dst) (n : Nat) : Prop :=
  Unmapped s t [d]
  ∨ ∃ m e l, (coreNow s).mapped t.uid d = some (m, e) ∧ e.dir = true ∧ e.pos < e.count
    ∧ lookT s s.turn t (e.addr e.pos) (typeSize e.type) (typeSize e.type) needW = .ok l
    ∧ (t.region.exclusive = false → lineFree s s.turn t n = true)

/-- The slot whose turn it is runs an active-message handler, and no field of the instruction names the shared bank (R254). -/
structure HandlerIssue (s : State) (t : Thread) (uses : List Dst) : Prop where
  here : s.thread s.turn = some t
  handler : t.isHandler = true
  own : uses.any (fun d => isShared d.reg) = false

/-- A handler's address lies in the slice of its core, and the handler has no write under way. -/
structure HandlerAt (s : State) (t : Thread) (va : Word) (size need : Nat) (l : Loc) (sa : Nat) : Prop where
  found : lookT s s.turn t va size size need = .ok l
  home : l.sa = some sa
  slice : saKind sa = 3 ∧ scratchCore (saOff sa) = s.turn.core
  done : ∀ k ∈ s.packets, k.uid ≠ t.uid

/-! ## Queued commands (R225, R290, R299) -/

/-- A vector command: its cfn7, its stream fields, its scalar and its control register. -/
structure VectorForm where
  fn : Nat
  sd : BitVec 2
  sa : Option (BitVec 2)
  sb : Option (BitVec 2)
  a : Reg
  b : Reg

/-- The vector commands of R290. -/
def vectorForm : Instr → Option VectorForm
  | .vadd sd sa sb a b => some ⟨0x00, sd, some sa, some sb, a, b⟩
  | .vsub sd sa sb a b => some ⟨0x01, sd, some sa, some sb, a, b⟩
  | .vmul sd sa sb a b => some ⟨0x02, sd, some sa, some sb, a, b⟩
  | .vfma sd sa sb a b => some ⟨0x03, sd, some sa, some sb, a, b⟩
  | .vfms sd sa sb a b => some ⟨0x04, sd, some sa, some sb, a, b⟩
  | .vdiv sd sa sb a b => some ⟨0x05, sd, some sa, some sb, a, b⟩
  | .vmin sd sa sb a b => some ⟨0x06, sd, some sa, some sb, a, b⟩
  | .vmax sd sa sb a b => some ⟨0x07, sd, some sa, some sb, a, b⟩
  | .vabs sd sa a b => some ⟨0x08, sd, some sa, none, a, b⟩
  | .vcvt sd sa a b => some ⟨0x09, sd, some sa, none, a, b⟩
  | .vcmp sd sa sb a b => some ⟨0x0A, sd, some sa, some sb, a, b⟩
  | .vsel sd sa sb a b => some ⟨0x0B, sd, some sa, some sb, a, b⟩
  | .vand sd sa sb a b => some ⟨0x0C, sd, some sa, some sb, a, b⟩
  | .vor sd sa sb a b => some ⟨0x0D, sd, some sa, some sb, a, b⟩
  | .vxor sd sa sb a b => some ⟨0x0E, sd, some sa, some sb, a, b⟩
  | .vshl sd sa sb a b => some ⟨0x0F, sd, some sa, some sb, a, b⟩
  | .vshr sd sa sb a b => some ⟨0x10, sd, some sa, some sb, a, b⟩
  | .viota sd a b => some ⟨0x11, sd, none, none, a, b⟩
  | .vshop sd sa a b => some ⟨0x12, sd, some sa, none, a, b⟩
  | .vexp2 sd sa a b => some ⟨0x13, sd, some sa, none, a, b⟩
  | .vlog2 sd sa a b => some ⟨0x14, sd, some sa, none, a, b⟩
  | .vrcp sd sa a b => some ⟨0x15, sd, some sa, none, a, b⟩
  | .vrsq sd sa a b => some ⟨0x16, sd, some sa, none, a, b⟩
  | .vsqrt sd sa a b => some ⟨0x17, sd, some sa, none, a, b⟩
  | .vsin sd sa a b => some ⟨0x18, sd, some sa, none, a, b⟩
  | .vcos sd sa a b => some ⟨0x19, sd, some sa, none, a, b⟩
  | .vtanh sd sa a b => some ⟨0x1A, sd, some sa, none, a, b⟩
  | _ => none

/-- A command is queued by its thread: it takes a line of the region. -/
def Queues (i : Instr) (s : State) (t : Thread) (queue ct : Nat) (work : Work) : Prop :=
  let r := mkCmd s s.turn t queue ct work
  Takes r.1 t (.command r.2) → Runs i s (r.1.setThread s.turn (t.adds (.command r.2)))

/-- A command is queued by its thread, and 0 is its result. -/
def QueuesGiving (i : Instr) (s : State) (t : Thread) (d : Reg) (la : Nat) (work : Work) : Prop :=
  ∀ u, (pinFor s t (ri d)).thread s.turn = some u →
    let r := mkCmd (pinFor s t (ri d)) s.turn u 5 0 work
    Takes (mkCmd s s.turn t 5 0 work).1 t (.command (mkCmd s s.turn t 5 0 work).2) → Takes r.1 u (.command r.2) →
    Runs i s (pendNow (r.1.setThread s.turn (u.adds (.command r.2))) s.turn [ri d] la false [0])

/-- A form that commits and then acts (R161, R218): `pre` is what it checks before the commit, of the state and its thread; `act`
relates the state behind the commit, the thread before and behind it, and the state it comes to. With a shared register the
instruction is made with the token, and the region that the commit has opened takes it too. -/
def ActsBehind (i : Instr) (s : State) (t : Thread) (d : Reg) (pre : State → Thread → Prop)
    (act : State → Thread → Thread → State → Prop) : Prop :=
  ∀ (s₁ z₀ z w₀ w : State) (t₁ u₀ u : Thread), s₁ = pinFor s t (ri d) → s₁.thread s.turn = some t₁ → pre s t → pre s₁ t₁ →
    tryCommit s s.turn t false 0 (t.pc + 4) = some z₀ → z₀.thread s.turn = some u₀ → act z₀ t u₀ w₀ →
    tryCommit s₁ s.turn t₁ false 0 (t.pc + 4) = some z → z.thread s.turn = some u → act z t₁ u w →
    Runs i s (if isShared d = true ∧ w.pinnedAt s.turn = false then giveToken w s.turn false else w)

/-- A step of the machine beside the issue of a slot comes to a state. -/
def Does (i : Instr) (s s' : State) : Prop := exec i s = .next s'

/-! ## Frames -/

/-- The special registers of a thread that only their own instructions, traps and commits change: trap, window, slack, late, region,
name and live mask. -/
def Thread.specials (t : Thread) : List Word :=
  [t.tpc, t.tcause, t.tval, t.tvec, t.tstat, t.wsp, t.wdep.setWidth 64, t.slk.setWidth 64, t.slkdef.setWidth 64,
    t.live.setWidth 64, t.lateq.setWidth 64, BitVec.ofNat 64 t.lateev.toNat, t.region.rstart, t.region.rts.setWidth 64, t.wid, t.shadow.ls0, t.shadow.le0, t.shadow.lc0, t.shadow.ls1, t.shadow.le1,
    t.shadow.lc1]

/-- A context but for what the token step changes, and for when its pages were last accessed (R62, R135). -/
def Machine.Ctx.settled (x : Ctx) : Ctx :=
  { x with token_ := none, cmark := 0, hbm := x.hbm.map (fun g => { g with used := 0 }) }

/-- Between two states nothing that a program of the slot reads has changed but the destinations `ds`, the program counter and
the loop levels of the slot (R67): every other register of the slot, the shared registers of its core, its special registers, the
control registers of its core, those still to take effect among them (R97), and of every context, and every byte of memory. -/
structure SameBut (s s' : State) (t t' : Thread) (ds : List Dst) : Prop where
  here : s'.thread s.turn = some t'
  ints : ∀ r : Reg, isShared r = false → ⟨false, r⟩ ∉ ds → readI (coreNow s) t' r = readI (coreNow s) t r
  floats : ∀ r : Reg, isShared r = false → ⟨true, r⟩ ∉ ds → readF (coreNow s) t' r = readF (coreNow s) t r
  banks : (s'.core (coreOf s.turn)).j = (coreNow s).j ∧ (s'.core (coreOf s.turn)).g = (coreNow s).g
  core : (s'.core (coreOf s.turn)).mregs = (coreNow s).mregs ∧ (s'.core (coreOf s.turn)).vshare = (coreNow s).vshare
    ∧ (s'.core (coreOf s.turn)).mseq = (coreNow s).mseq ∧ (s'.core (coreOf s.turn)).lateCsr = (coreNow s).lateCsr
  special : Thread.specials t' = Thread.specials t
  ctxs : ∀ c, (s'.ctx c).map Ctx.settled = (s.ctx c).map Ctx.settled
  mem : ∀ a, memRead s'.mem a = memRead s.mem a

end Sys2Proof
end

