-- ==== Sys2Proof/Certificates/Slice0/Obligations.lean ====
section
/-! DEFINITION. The statements for the provers. -/

open Sys2Proof Sys2Proof.Machine

/-! ## Integer instructions -/

/-- The arithmetic and logic of R80, at .d on 64 bits and at .w on the low 32 bits with the result sign-extended. -/
def Obligations.IntegerArithmetic : Prop :=
  ∀ (w : Bool) (d a b : Reg),
    Binary (.add w d a b) d a b (at2 w fun _ x y => x + y)
    ∧ Binary (.sub w d a b) d a b (at2 w fun _ x y => x - y)
    ∧ Binary (.mul w d a b) d a b (at2 w fun _ x y => x * y)
    ∧ Binary (.mulh w d a b) d a b (at2 w fun n x y => BitVec.ofInt n (x.toInt * y.toInt / 2 ^ n))
    ∧ Binary (.mulhu w d a b) d a b (at2 w fun n x y => BitVec.ofNat n (x.toNat * y.toNat / 2 ^ n))
    ∧ Ternary (.madd w d a b) d a b (at3 w fun _ z x y => z + x * y)
    ∧ Unary (.abs w d a) d a (at1 w fun _ x => if x.toInt < 0 then -x else x)
    ∧ Binary (.min w d a b) d a b (at2 w fun _ x y => if x.toInt ≤ y.toInt then x else y)
    ∧ Binary (.max w d a b) d a b (at2 w fun _ x y => if x.toInt ≤ y.toInt then y else x)
    ∧ Binary (.minu w d a b) d a b (at2 w fun _ x y => if x.toNat ≤ y.toNat then x else y)
    ∧ Binary (.maxu w d a b) d a b (at2 w fun _ x y => if x.toNat ≤ y.toNat then y else x)
    ∧ Binary (.and w d a b) d a b (at2 w fun _ x y => x &&& y)
    ∧ Binary (.or w d a b) d a b (at2 w fun _ x y => x ||| y)
    ∧ Binary (.xor w d a b) d a b (at2 w fun _ x y => x ^^^ y)
    ∧ Binary (.andn w d a b) d a b (at2 w fun _ x y => x &&& ~~~y)

/-- ADDV and SUBV (R81): the exact result where it is in the signed range, else OVERFLOW with the wrapped result as TVAL and
nothing written.
The divisions of R82 with their corners: by zero all ones and the dividend, the signed minimum by −1 itself and 0; DIVV
traps in both. -/
def Obligations.CheckedAndDivision : Prop :=
  (∀ (w : Bool) (d a b : Reg) (s : State) (t : Thread), CanIssue s t [ri a, ri b, ri d] →
      let x := readI (coreNow s) t a
      let y := readI (coreNow s) t b
      let n : Nat := if w then 32 else 64
      let value (z : Word) : Int := if w then (low z).toInt else z.toInt
      let fits (v : Int) : Prop := -2 ^ (n - 1) ≤ v ∧ v < 2 ^ (n - 1)
      (if fits (value x + value y) then MayWrite s t (ri d) →
          Runs (.addv w d a b) s ((pinFor s t (ri d)).writeReg s.turn (ri d) (at2 w (fun _ u v => u + v) x y))
        else Traps (.addv w d a b) s 0x20 (at2 w (fun _ u v => u + v) x y))
      ∧ (if fits (value x - value y) then MayWrite s t (ri d) →
          Runs (.subv w d a b) s ((pinFor s t (ri d)).writeReg s.turn (ri d) (at2 w (fun _ u v => u - v) x y))
        else Traps (.subv w d a b) s 0x20 (at2 w (fun _ u v => u - v) x y)))
  ∧ (∀ (w : Bool) (d a b : Reg),
      Binary (.div w d a b) d a b (at2 w fun n x y => if y = 0 then BitVec.allOnes n else x.sdiv y)
      ∧ Binary (.divu w d a b) d a b (at2 w fun n x y => if y = 0 then BitVec.allOnes n else x / y)
      ∧ Binary (.rem w d a b) d a b (at2 w fun _ x y => if y = 0 then x else x.srem y)
      ∧ Binary (.remu w d a b) d a b (at2 w fun _ x y => if y = 0 then x else x % y)
      ∧ ∀ (s : State) (t : Thread), CanIssue s t [ri a, ri b, ri d] →
          let x := readI (coreNow s) t a
          let y := readI (coreNow s) t b
          let zero : Prop := if w then low y = 0 else y = 0
          let corner : Prop := if w then low x = BitVec.intMin 32 ∧ low y = BitVec.allOnes 32
            else x = BitVec.intMin 64 ∧ y = BitVec.allOnes 64
          (zero → Traps (.divv w d a b) s 0x21 (at1 w (fun _ u => u) x))
          ∧ (corner → Traps (.divv w d a b) s 0x20 (at1 w (fun n _ => BitVec.intMin n) x))
          ∧ (¬zero → ¬corner → MayWrite s t (ri d) →
              Runs (.divv w d a b) s ((pinFor s t (ri d)).writeReg s.turn (ri d) (at2 w (fun _ u v => u.sdiv v) x y))))

/-- The shifts, rotations and counts of R83; the shift amount is the low 6 bits of b at .d and the low 5 at .w.
The compares and the select of R84. -/
def Obligations.ShiftsComparesSelect : Prop :=
  (∀ (w : Bool) (d a b : Reg),
      Binary (.shl w d a b) d a b (at2 w fun n x y => x <<< (y.toNat % n))
      ∧ Binary (.shr w d a b) d a b (at2 w fun n x y => x >>> (y.toNat % n))
      ∧ Binary (.sra w d a b) d a b (at2 w fun n x y => x.sshiftRight (y.toNat % n))
      ∧ Binary (.rol w d a b) d a b (at2 w fun n x y => x.rotateLeft (y.toNat % n))
      ∧ Unary (.clz w d a) d a (count1 w fun _ x => ((bitsDown x).takeWhile (· == false)).length)
      ∧ Unary (.ctz w d a) d a (count1 w fun _ x => ((bitsUp x).takeWhile (· == false)).length)
      ∧ Unary (.popc w d a) d a (count1 w fun _ x => (bitsUp x).count true)
      ∧ Unary (.brev w d a) d a (at1 w fun _ x => x.reverse))
  ∧ (∀ (w : Bool) (d a b : Reg),
      Binary (.seq w d a b) d a b (test2 w fun _ x y => decide (x = y))
      ∧ Binary (.sne w d a b) d a b (test2 w fun _ x y => decide (x ≠ y))
      ∧ Binary (.slt w d a b) d a b (test2 w fun _ x y => decide (x.toInt < y.toInt))
      ∧ Binary (.sltu w d a b) d a b (test2 w fun _ x y => decide (x.toNat < y.toNat))
      ∧ Ternary (.sel w d a b) d a b (at3 w fun _ z x y => if z = 0 then y else x))

/-- Immediates, immediate shifts, bit fields and constants (R85 to R88). The immediates are sign-extended, but for the low part
that LIH puts in.
LDL (R46): the two pool words at an 8-aligned address of the text, low word first; MISALIGN for another address. -/
def Obligations.ConstantsAndFields : Prop :=
  (∀ (w : Bool) (d a : Reg) (imm : BitVec 13) (amt width1 pos : BitVec 6) (big : BitVec 19),
      Unary (.addi d a imm) d a (fun x => x + imm.signExtend 64)
      ∧ Unary (.andi d a imm) d a (fun x => x &&& imm.signExtend 64)
      ∧ Unary (.ori d a imm) d a (fun x => x ||| imm.signExtend 64)
      ∧ Unary (.xori d a imm) d a (fun x => x ^^^ imm.signExtend 64)
      ∧ Unary (.slti d a imm) d a (fun x => if x.toInt < imm.toInt then 1 else 0)
      ∧ (shiftOk w amt = true →
          Unary (.shli w d a amt) d a (at1 w fun _ x => x <<< amt.toNat)
          ∧ Unary (.shri w d a amt) d a (at1 w fun _ x => x >>> amt.toNat)
          ∧ Unary (.srai w d a amt) d a (at1 w fun _ x => x.sshiftRight amt.toNat))
      ∧ (fieldOk width1 pos = true →
          Unary (.bfx d a width1 pos) d a (fun x => (x.extractLsb' pos.toNat (width1.toNat + 1)).setWidth 64)
          ∧ Unary (.bfxs d a width1 pos) d a (fun x => (x.extractLsb' pos.toNat (width1.toNat + 1)).signExtend 64)
          ∧ Writes (.bfi d a width1 pos) [ri a, ri a] (ri d) (fun k t =>
              let mask : Word := BitVec.ofNat 64 (2 ^ (width1.toNat + 1) - 1)
              (readI k t d &&& ~~~(mask <<< pos.toNat)) ||| ((readI k t a &&& mask) <<< pos.toNat)))
      ∧ Writes (.li d big) [] (ri d) (fun _ _ => big.signExtend 64)
      ∧ Writes (.lih d big) [] (ri d) (fun k t => (readI k t d <<< 19) ||| big.setWidth 64)
      ∧ Writes (.addpc d big) [] (ri d) (fun _ t => t.pc + 4 * big.signExtend 64))
  ∧ (∀ (d : Reg) (imm : BitVec 19) (s : State) (t : Thread) (x : Ctx), CanIssue s t [ri d] → s.ctx (t.ctxId s.turn) = some x →
      let va := t.pc + 4 * imm.signExtend 64
      (va.toNat % 8 ≠ 0 → Traps (.ldl d imm) s 0x08 va)
      ∧ (∀ lo hi, va.toNat % 8 = 0 → MayWrite s t (ri d) →
          x.text.has va.toNat = true → x.text.isPool va.toNat = true →
          x.text.has (va.toNat + 4) = true → x.text.isPool (va.toNat + 4) = true →
          textWord s x.text va.toNat = some lo → textWord s x.text (va.toNat + 4) = some hi →
          Runs (.ldl d imm) s ((pinFor s t (ri d)).writeReg s.turn (ri d) (BitVec.ofNat 64 (lo + 2 ^ 32 * hi)))))

/-! ## Scalar floating point -/

/-- What the scalar floating-point instructions write (R37): the exact value of the operation rounded once to nearest even, and
the sign operations, compares, conversions and moves. A field that names a mapped stream pops its next element, here one that is
reached in place, or pushes the result (R271 to R273), with the traps of a wrong direction, of the stream's end and of the element's
address.
The corners of R37 in both precisions, on codes: an invalid operation gives the canonical quiet NaN; a finite non-zero value
over zero gives an infinity of the product of the signs; −0 is below +0 for FMIN and FMAX, and one NaN gives the other operand;
the root of −0 is −0 and of a negative value NaN; a NaN compares false and converts to 0. -/
def Obligations.FloatingPoint : Prop :=
  (∀ (p : Bool) (d a b : Reg),
      let fmt := if p then fp64 else fp32
      let val (x : Word) : Val := fpVal fmt (if p then x.toNat else (low x).toNat)
      let rounded (v : Val) : Word := BitVec.ofNat 64 (encodeFp fmt v)
      let sign : Word := if p then 0x8000000000000000 else 0x80000000
      let bits (x : Word) : Word := if p then x else x &&& 0xFFFFFFFF
      let two (f : Word → Word → Word) (vs : List Word) : Word := f (vs[0]?.getD 0) (vs[1]?.getD 0)
      let one (f : Word → Word) (vs : List Word) : Word := f (vs[0]?.getD 0)
      let ordered (f : Ordering → Prop) (x y : Word) : Prop := ∃ o, valCmp (val x) (val y) = some o ∧ f o
      ScalarF (.fadd p d a b) [rf a, rf b] (rf d) (two fun x y => rounded (valAdd (val x) (val y)))
      ∧ ScalarF (.fsub p d a b) [rf a, rf b] (rf d) (two fun x y => rounded (valAdd (val x) (valNeg (val y))))
      ∧ ScalarF (.fmul p d a b) [rf a, rf b] (rf d) (two fun x y => rounded (valMul (val x) (val y)))
      ∧ ScalarF (.fdiv p d a b) [rf a, rf b] (rf d) (two fun x y => BitVec.ofNat 64 (fpQuot .rne fmt (val x) (val y)))
      ∧ ScalarF (.fmadd p d a b) [rf a, rf b, rf d] (rf d)
          (fun vs => rounded (valAdd (val (vs[2]?.getD 0)) (valMul (val (vs[0]?.getD 0)) (val (vs[1]?.getD 0)))))
      ∧ ScalarF (.fmin p d a b) [rf a, rf b] (rf d) (two fun x y => BitVec.ofNat 64 (fpMin fmt (bits x).toNat (bits y).toNat))
      ∧ ScalarF (.fmax p d a b) [rf a, rf b] (rf d) (two fun x y => BitVec.ofNat 64 (fpMax fmt (bits x).toNat (bits y).toNat))
      ∧ ScalarF (.fabs p d a) [rf a] (rf d) (one fun x => bits x &&& ~~~sign)
      ∧ ScalarF (.fneg p d a) [rf a] (rf d) (one fun x => bits x ^^^ sign)
      ∧ ScalarF (.fsqrt p d a) [rf a] (rf d) (one fun x => BitVec.ofNat 64 (fpSqrt fmt (bits x).toNat))
      ∧ (∀ s t, CanIssue s t [rf a, rf b, ri d] → MayWrite s t (ri d) → Unmapped s t [rf a, rf b, ri d] →
          let x := readF (coreNow s) t a
          let y := readF (coreNow s) t b
          let put (v : Word) := (pinFor s t (ri d)).writeReg s.turn (ri d) v
          (ordered (· = .eq) x y → Runs (.fcmpeq p d a b) s (put 1)) ∧ (¬ordered (· = .eq) x y → Runs (.fcmpeq p d a b) s (put 0))
          ∧ (ordered (· = .lt) x y → Runs (.fcmplt p d a b) s (put 1)) ∧ (¬ordered (· = .lt) x y → Runs (.fcmplt p d a b) s (put 0))
          ∧ (ordered (· ≠ .gt) x y → Runs (.fcmple p d a b) s (put 1)) ∧ (¬ordered (· ≠ .gt) x y → Runs (.fcmple p d a b) s (put 0)))
      ∧ StreamsF (.fcmpeq p d a b) [rf a, rf b] (ri d)
          (two fun x y => if valCmp (val x) (val y) = some .eq then 1 else 0)
      ∧ StreamsF (.fcmplt p d a b) [rf a, rf b] (ri d)
          (two fun x y => if valCmp (val x) (val y) = some .lt then 1 else 0)
      ∧ StreamsF (.fcmple p d a b) [rf a, rf b] (ri d)
          (two fun x y => if valCmp (val x) (val y) = some .lt ∨ valCmp (val x) (val y) = some .eq then 1 else 0)
      ∧ ScalarF (.fcvtif p d a) [ri a] (rf d) (one fun x => rounded (valOfInt x.toInt))
      ∧ ScalarF (.fcvtfi p d a) [rf a] (ri d) (one fun x => BitVec.ofInt 64 (valToInt .rtz (-2 ^ 63) (2 ^ 63 - 1) (val x)))
      ∧ ScalarF (.fcvtw p d a) [rf a] (rf d)
          (one fun x => rounded (if p then fpVal fp32 (low x).toNat else fpVal fp64 x.toNat))
      ∧ ScalarF (.fmvif p d a) [ri a] (rf d) (one bits)
      ∧ ScalarF (.fmvfi p d a) [rf a] (ri d) (one bits))
  ∧ (fp32.nan = 0x7FC00000 ∧ fp64.nan = 0x7FF8000000000000
    ∧ ∀ (p : Bool) (a b : Nat),
      let f := if p then fp64 else fp32
      let nan (c : Nat) : Prop := fpVal f c = .nan
      let inf (n : Bool) (c : Nat) : Prop := fpVal f c = .inf n
      let nonzero (n : Bool) (c : Nat) : Prop := ∃ m e, fpVal f c = .fin n m e ∧ m ≠ 0
      let zero (n : Bool) (c : Nat) : Prop := ∃ e, fpVal f c = .fin n 0 e
      (nan a ∨ nan b → fpAdd f a b = f.nan ∧ fpSub f a b = f.nan ∧ fpMul f a b = f.nan ∧ fpDiv f a b = f.nan)
      ∧ (∀ n, inf n a → inf (!n) b → fpAdd f a b = f.nan)
      ∧ (∀ n m, inf n a → zero m b → fpMul f a b = f.nan)
      ∧ (∀ n m, zero n a → zero m b → fpDiv f a b = f.nan)
      ∧ (∀ n m, nonzero n a → zero m b → inf (n != m) (fpDiv f a b))
      ∧ (∀ m, zero true a → zero m b → zero true (fpMin f a b) ∧ zero m (fpMax f a b))
      ∧ (a < 2 ^ f.width → nan b → ¬nan a → fpMin f a b = a ∧ fpMax f a b = a ∧ fpMin f b a = a ∧ fpMax f b a = a)
      ∧ (nan a → nan b → fpMin f a b = f.nan ∧ fpMax f a b = f.nan)
      ∧ (∀ n, zero n a → zero n (fpSqrt f a))
      ∧ (nonzero true a → fpSqrt f a = f.nan)
      ∧ (nan a → valCmp (fpVal f a) (fpVal f b) = none ∧ valToInt .rtz (-2 ^ 63) (2 ^ 63 - 1) (fpVal f a) = 0))

/-! ## Control -/

/-- The conditional branches (R89) compare 64-bit registers; taken, control goes to PC + 4 × the offset.
The jumps (R90): J goes to PC + 4 × its offset, JR to a register's value, which must be a multiple of 4. -/
def Obligations.BranchesAndJumps : Prop :=
  (∀ (a b : Reg) (off : BitVec 13) (s : State) (t : Thread), CanIssue s t [ri a, ri b] →
      let x := readI (coreNow s) t a
      let y := readI (coreNow s) t b
      let goes (i : Instr) (c : Prop) : Prop :=
        (c → Jumps i s s (t.pc + 4 * off.signExtend 64)) ∧ (¬c → Runs i s s)
      goes (.beq a b off) (x = y) ∧ goes (.bne a b off) (x ≠ y)
      ∧ goes (.blt a b off) (x.toInt < y.toInt) ∧ goes (.bge a b off) (y.toInt ≤ x.toInt)
      ∧ goes (.bltu a b off) (x.toNat < y.toNat) ∧ goes (.bgeu a b off) (y.toNat ≤ x.toNat))
  ∧ (∀ (off : BitVec 25) (a : Reg) (s : State) (t : Thread), CanIssue s t [ri a] →
      let x := readI (coreNow s) t a
      Jumps (.j off) s s (t.pc + 4 * off.signExtend 64)
      ∧ (x.toNat % 4 = 0 → Jumps (.jr a) s s x)
      ∧ (x.toNat % 4 ≠ 0 → Traps (.jr a) s 0x08 x))

/-- CALL and CALLR (R91) push the return address and the window, clear the new window and go to the target; a target of CALLR
that is not a multiple of 4 traps, as does a push at depth 65,535 (WSTACK).
RET (R91, R92) with its frame resident: the window comes back and control goes to the return address; below the opening
depth of the region it commits first. At depth 0 it traps (WSTACK, TVAL 0). -/
def Obligations.CallsAndReturn : Prop :=
  (∀ (off : BitVec 25) (a : Reg) (s : State) (t : Thread), CanIssue s t [ri a] →
      let x := readI (coreNow s) t a
      let pushed (i : Instr) (pc : Word) : Prop := ∃ u, Jumps i s (s.setThread s.turn u) pc
        ∧ u.frames = ⟨t.pc + 4, t.window, false⟩ :: t.frames.take 2 ∧ u.wdep = t.wdep + 1
        ∧ (∀ r : Reg, r.toNat < 16 → readI (coreNow s) u r = readI (coreNow s) t r)
        ∧ (∀ r : Reg, 16 ≤ r.toNat → r.toNat < 32 → readI (coreNow s) u r = 0)
        ∧ u.f = t.f ∧ Thread.specials { u with wdep := t.wdep } = Thread.specials t ∧ u.loops = t.loops ∧ u.region = t.region
      (PushRoom s t → pushed (.call off) (t.pc + 4 * off.signExtend 64))
      ∧ (PushRoom s t → x.toNat % 4 = 0 → pushed (.callr a) x)
      ∧ (x.toNat % 4 ≠ 0 → Traps (.callr a) s 0x08 x)
      ∧ (t.wdep = 65535 → Traps (.call off) s 0x11 0xFFFF ∧ (x.toNat % 4 = 0 → Traps (.callr a) s 0x11 0xFFFF)))
  ∧ (∀ (s : State) (t : Thread) (f : Frame) (rest : List Frame), CanIssue s t [] →
      (t.wdep = 0 → Traps .ret s 0x11 0)
      ∧ (t.wdep ≠ 0 → t.frames = f :: rest → ∃ u : Thread,
          (t.region.odep.toNat ≤ t.wdep.toNat - 1 → Jumps .ret s (s.setThread s.turn u) f.ret)
          ∧ (t.wdep.toNat - 1 < t.region.odep.toNat → ∀ z, tryCommit (s.setThread s.turn u) s.turn u false 0 f.ret = some z →
              Jumps .ret s z f.ret)
          ∧ u.frames = rest ∧ u.wdep = t.wdep - 1
          ∧ (∀ r : Reg, r.toNat < 16 → readI (coreNow s) u r = readI (coreNow s) t r)
          ∧ (∀ j : Fin 16, readI (coreNow s) u (BitVec.ofNat 6 (16 + j)) = f.win[j])
          ∧ u.f = t.f ∧ Thread.specials { u with wdep := t.wdep } = Thread.specials t ∧ u.loops = t.loops ∧ u.region = t.region))

/-- LOOP, LOOPI and LBRK (R66, R68): the level's start, end and count; a count of 0 goes on behind the end; LBRK clears the
level.
The levels at a retirement (R67), shown by NOP: level 1 is looked at first and goes back while its count is above 1; when
it ends at the same address as level 0, level 0 is looked at next. -/
def Obligations.HardwareLoops : Prop :=
  (∀ (a : Reg) (n : BitVec 6) (off : BitVec 18) (s : State) (t : Thread), CanIssue s t [ri a] → off ≠ 0 →
      let le := t.pc + 4 * off.setWidth 64
      let l := t.loops
      let zero (c : Word) : Loops := { l with ls0 := t.pc + 4, le0 := le, lc0 := c }
      let one (c : Word) : Loops := { l with ls1 := t.pc + 4, le1 := le, lc1 := c }
      let sets (i : Instr) (c : Word) (m : Loops) : Prop :=
        Jumps i s (s.setThread s.turn { t with loops := m }) (if c = 0 then le + 4 else t.pc + 4)
      let x := readI (coreNow s) t a
      sets (.loop false a off) x (zero x) ∧ sets (.loop true a off) x (one x)
      ∧ sets (.loopi false n off) (n.setWidth 64) (zero (n.setWidth 64))
      ∧ sets (.loopi true n off) (n.setWidth 64) (one (n.setWidth 64))
      ∧ Jumps (.lbrk false) s (s.setThread s.turn { t with loops := { l with ls0 := 0, le0 := 0, lc0 := 0 } }) (t.pc + 4)
      ∧ Jumps (.lbrk true) s (s.setThread s.turn { t with loops := { l with ls1 := 0, le1 := 0, lc1 := 0 } }) (t.pc + 4))
  ∧ (∀ (s : State) (t : Thread), CanIssue s t [] → Quiet t → t.replay = none →
      let l := t.loops
      let after (m : Loops) (pc : Word) : Prop :=
        ∃ s' u, exec .nop s = .next s' ∧ s'.thread s.turn = some u ∧ u.loops = m ∧ u.pc = pc
      (t.pc = l.le1 → 2 ≤ l.lc1.toNat → after { l with lc1 := l.lc1 - 1 } l.ls1)
      ∧ (t.pc = l.le1 → l.lc1 = 1 → t.pc ≠ l.le0 ∨ l.lc0 = 0 → after { l with lc1 := 0 } (t.pc + 4))
      ∧ (t.pc = l.le1 → l.lc1 = 1 → t.pc = l.le0 → 2 ≤ l.lc0.toNat → after { l with lc1 := 0, lc0 := l.lc0 - 1 } l.ls0)
      ∧ (t.pc ≠ l.le1 ∨ l.lc1 = 0 → t.pc = l.le0 → 2 ≤ l.lc0.toNat → after { l with lc0 := l.lc0 - 1 } l.ls0)
      ∧ (t.pc ≠ l.le1 ∨ l.lc1 = 0 → t.pc = l.le0 → l.lc0 = 1 → after { l with lc0 := 0 } (t.pc + 4))
      ∧ (t.pc ≠ l.le1 ∨ l.lc1 = 0 → t.pc ≠ l.le0 ∨ l.lc0 = 0 → after l (t.pc + 4)))

/-- RPT (R69, R70): the words of the frame are captured and its replay starts at the first one; a count of 0 goes on behind the
frame; the first word whose major a frame may not hold, or that ends a live loop, traps (FRAME_ILLEGAL), wherever it stands.
A replay (R70): an instruction that retires inside it goes on to the next word, from the last to the first one of the next replay,
and from that of the last replay to the instruction behind the frame, and no loop level steps; the word that issues is the captured
one with the fields that the mask selects staggered, shown for forms of one, two and three register fields. -/
def Obligations.RepeatFrames : Prop :=
  (∀ (len1 : BitVec 4) (mask : BitVec 3) (stp : BitVec 5) (a : Reg) (s : State) (t : Thread), CanIssue s t [ri a] →
    let i : Instr := .rpt len1 mask stp a
    let n := len1.toNat + 1
    let count := (readI (coreNow s) t a).toNat % 65536
    (∀ ws, capture s s.turn t n (t.pc + 4) = .ok ws → ws.length = n →
      (count ≠ 0 → Jumps i s (s.setThread s.turn { t with replay := some ⟨t.pc, ws, mask, stp.toNat, count, 0, 0⟩ }) (t.pc + 4))
      ∧ (count = 0 → Jumps i s (s.setThread s.turn { t with replay := none }) (t.pc + 4 + 4 * BitVec.ofNat 64 n)))
    ∧ (let va (j : Nat) : Word := t.pc + 4 * BitVec.ofNat 64 (j + 1)
      let word (j w : Nat) : Prop := fetch s (t.ctxId s.turn) t.locks t.seen (va j) = .inl w
      let may (j w : Nat) : Prop := ((1 ≤ w / 2 ^ 25 % 128 ∧ w / 2 ^ 25 % 128 ≤ 0x0A) ∨ w / 2 ^ 25 % 128 = 0x0F)
        ∧ ¬(t.loops.lc0 ≠ 0 ∧ t.loops.le0 = va j) ∧ ¬(t.loops.lc1 ≠ 0 ∧ t.loops.le1 = va j)
      ∀ j w, j < n → (∀ k, k < j → ∃ v, word k v ∧ decodes v = true ∧ may k v) → word j w →
        (decodes w = false → Traps i s 0x01 (BitVec.ofNat 64 w)) ∧ (decodes w = true → ¬may j w → Traps i s 0x13 (va j))))
  ∧ (∀ (s : State) (p : Place) (t : Thread) (r : Replay), s.thread p = some t → t.replay = some r → Quiet t →
      let goes (q : Option Replay) (pc : Word) : Prop :=
        ∃ u, (retire s p false).thread p = some u ∧ u.replay = q ∧ u.pc = pc ∧ u.loops = t.loops
      (r.i + 1 < r.words.length → goes (some { r with i := r.i + 1 }) (t.pc + 4))
      ∧ (r.words.length ≤ r.i + 1 → r.k + 1 < r.count → goes (some { r with k := r.k + 1, i := 0 }) (r.fb + 4))
      ∧ (r.words.length ≤ r.i + 1 → r.count ≤ r.k + 1 → goes none (r.fb + 4 * BitVec.ofNat 64 (r.words.length + 1))))
  ∧ (∀ (s : State) (p : Place) (t : Thread) (r : Replay) (w : Nat), t.replay = some r → r.words[r.i]? = some w → w < 2 ^ 32 →
      let x (m : Nat) (reg : Reg) : Reg := if r.mask.toNat / m % 2 = 1
        then BitVec.ofNat 6 (reg.toNat / 32 * 32 + (reg.toNat % 32 + r.k * r.stp) % 32) else reg
      ∃ v, nextWord s p t = .inl v
        ∧ (∀ wd d a b, decodeWord w = .ok (.add wd d a b) → decodeWord v = .ok (.add wd (x 4 d) (x 2 a) (x 1 b)))
        ∧ (∀ pr d a b, decodeWord w = .ok (.fmadd pr d a b) → decodeWord v = .ok (.fmadd pr (x 4 d) (x 2 a) (x 1 b)))
        ∧ (∀ pr d a, decodeWord w = .ok (.fneg pr d a) → decodeWord v = .ok (.fneg pr (x 4 d) (x 2 a)))
        ∧ (∀ d a imm, decodeWord w = .ok (.addi d a imm) → decodeWord v = .ok (.addi (x 4 d) (x 2 a) imm))
        ∧ (∀ d imm, decodeWord w = .ok (.li d imm) → decodeWord v = .ok (.li (x 4 d) imm)))

/-! ## Traps -/

/-- Taking a trap (R71), for a slot with no result under way: what the entry saves and where it goes.
A trap inside a replay (R71, R76): FRM is set and the place within the frame is kept in TSTAT. -/
def Obligations.TrapEntry : Prop :=
  (∀ (s : State) (t : Thread) (code : Nat) (v : Word),
      s.thread s.turn = some t → t.isHandler = false → t.pend = [] → t.replay = none → unhandled t.tstat code = false →
      ∃ u, (raise s s.turn ⟨code, v⟩).thread s.turn = some u
        ∧ u.pc = t.tvec ∧ u.tpc = t.pc ∧ u.tcause = BitVec.ofNat 64 code ∧ u.tval = v
        ∧ u.shadow = t.loops ∧ u.loops = { t.loops with lc0 := 0, lc1 := 0 }
        ∧ tsDepth u.tstat = (tsDepth t.tstat + 1) % 4 ∧ tsNE u.tstat = 0 ∧ tsPNE u.tstat = tsNE t.tstat ∧ tsFRM u.tstat = 0
        ∧ u.i = t.i ∧ u.f = t.f ∧ u.wsp = t.wsp ∧ u.wdep = t.wdep ∧ u.frames = t.frames ∧ u.tvec = t.tvec ∧ u.slk = t.slk
        ∧ (raise s s.turn ⟨code, v⟩).mem = s.mem)
  ∧ (∀ (s : State) (t : Thread) (r : Replay) (code : Nat) (v : Word),
      s.thread s.turn = some t → t.isHandler = false → t.pend = [] → t.replay = some r → unhandled t.tstat code = false →
      r.i < 16 → r.k < 65536 → r.count < 65536 →
      ∃ u, (raise s s.turn ⟨code, v⟩).thread s.turn = some u ∧ u.replay = none
        ∧ tsFRM u.tstat = 1 ∧ tsFI u.tstat = r.i ∧ tsFK u.tstat = r.k ∧ tsFC u.tstat = r.count)

/-- The instructions that only trap: TRAP and BRK (R105), a word that is no instruction (R40), a failed fetch (R41).
A trap that no handler takes (R72): a fatal code, depth 2, or depth 1 with NE clear. The context of a LIVE thread stops with
the cause that ends in FAULTED, and the fault record names the first such trap. -/
def Obligations.TrapInstructions : Prop :=
  (∀ (imm : BitVec 19) (word : BitVec 32) (code : Nat) (va : Word) (s : State) (t : Thread), CanIssue s t [] →
      Traps (.trap imm) s 0x40 (imm.signExtend 64) ∧ Traps .brk s 0x41 0
      ∧ Traps (.illegalInstruction word) s 0x01 (word.setWidth 64) ∧ Traps (.fetchFault code va) s code va)
  ∧ (∀ (s : State) (t : Thread) (x : Ctx) (code : Nat) (v : Word),
      s.thread s.turn = some t → t.isHandler = false → t.pend = [] → s.ctx (t.ctxId s.turn) = some x → x.state = .live →
      (code = 0x12 ∨ 2 ≤ tsDepth t.tstat ∨ (tsDepth t.tstat = 1 ∧ tsNE t.tstat = 0)) →
      ∃ y, (raise s s.turn ⟨code, v⟩).ctx (t.ctxId s.turn) = some y ∧ y.state = .stopping ∧ y.cause = some 2
        ∧ (x.fault = none → y.fault = some ⟨t.uid, t.pc, code, v, t.tstat⟩))

/-- ERET (R73) outside a replay: the loop levels come back from the shadows, the depth falls, NE comes from PNE, and control goes
to TPC. At depth 0 it traps (ILLEGAL).
ERET (R73) of a trap taken inside a replay: the frame is captured again from its RPT and goes on at replay FK, index FI; if FI
has come to the frame's length, at the start of the next replay; past the last one control goes on behind the frame. -/
def Obligations.TrapReturn : Prop :=
  (∀ (s : State) (t : Thread), CanIssue s t [] →
      (tsDepth t.tstat = 0 → Traps .eret s 0x01 0x3E000001)
      ∧ (tsDepth t.tstat ≠ 0 → tsFRM t.tstat = 0 → ∃ u, Jumps .eret s (s.setThread s.turn u) t.tpc
          ∧ u.loops = t.shadow ∧ tsDepth u.tstat = tsDepth t.tstat - 1 ∧ tsNE u.tstat = tsPNE t.tstat
          ∧ tsPNE u.tstat = tsPNE t.tstat ∧ tsFRM u.tstat = 0
          ∧ u.i = t.i ∧ u.f = t.f ∧ u.shadow = t.shadow ∧ u.tpc = t.tpc ∧ u.tcause = t.tcause ∧ u.tval = t.tval
          ∧ u.tvec = t.tvec ∧ u.wsp = t.wsp ∧ u.wdep = t.wdep ∧ u.region = t.region))
  ∧ (∀ (s : State) (t : Thread) (w : Nat) (ws : List Nat), CanIssue s t [] → tsDepth t.tstat ≠ 0 → tsFRM t.tstat = 1 →
      let fi := tsFI t.tstat
      let fk := tsFK t.tstat
      let fc := tsFC t.tstat
      let fb := t.tpc - 4 * BitVec.ofNat 64 (fi + 1)
      let n := w / 2 ^ 21 % 16 + 1
      let runs (i k : Nat) : Prop := ∃ u, Jumps .eret s (s.setThread s.turn u) (fb + 4 * BitVec.ofNat 64 (i + 1))
        ∧ u.replay = some ⟨fb, ws, BitVec.ofNat 3 (w / 2 ^ 18), w / 2 ^ 13 % 32, fc, k, i⟩
        ∧ u.loops = t.shadow ∧ tsFRM u.tstat = 0 ∧ tsDepth u.tstat = tsDepth t.tstat - 1
        ∧ tsFI u.tstat = i ∧ tsFK u.tstat = k ∧ tsFC u.tstat = fc
      let past (i k : Nat) : Prop := ∃ u, Jumps .eret s (s.setThread s.turn u) (fb + 4 * BitVec.ofNat 64 (n + 1))
        ∧ u.replay = none ∧ u.loops = t.shadow ∧ tsFRM u.tstat = 0 ∧ tsDepth u.tstat = tsDepth t.tstat - 1
        ∧ tsFI u.tstat = i ∧ tsFK u.tstat = k ∧ tsFC u.tstat = fc
      w < 2 ^ 32 → fetch s (t.ctxId s.turn) t.locks t.seen fb = .inl w → w / 2 ^ 25 = 0x1A → w % 128 = 0 →
      capture s s.turn { t with loops := t.shadow } n (fb + 4) = .ok ws → ws.length = n →
      (fi < n → fk ≠ fc → runs fi fk) ∧ (fi < n → fk = fc → past fi fk)
      ∧ (fi = n → fk + 1 < 65536 → fk + 1 ≠ fc → runs 0 (fk + 1)) ∧ (fi = n → fk + 1 < 65536 → fk + 1 = fc → past 0 (fk + 1)))

/-- WFLUSH (R95) and NOP (R107). WFLUSH writes every frame that its area does not hold, the lowest first, each as 17 words at its
places in the area: afterwards the area holds every frame, the resident frames are the same, and of memory only those words differ.
The slack forms (R51, R261): SLK sets the slot's slack, SLK.once the slack of the next instruction alone, LATEQ reads the count
of late packets. -/
def Obligations.HintsAndWindows : Prop :=
  (∀ (s s' : State) (t : Thread), CanIssue s t [] →
      Runs .nop s s
      ∧ (t.unspilled = [] → Runs .wflush s s)
      ∧ (∀ pieces : List (List Nat), flushFrames s s.turn = .ok s' →
          (∀ m, t.unspilled.map (fun e => framePieces { s with mem := m } s.turn t needW e.1) = pieces.map some) →
          let put (m : List Host.Cell) (e : Frame × List Nat) : List Host.Cell :=
            ((List.range 17).zip e.2).foldl (fun m x => memWrites m x.2 ((e.1.bytes.drop (8 * x.1)).take 8)) m
          s'.mem = ((t.unspilled.map (·.2)).zip pieces).foldl put s.mem)
      ∧ (flushFrames s s.turn = .ok s' → (s.threads.map (·.1)).Nodup → Runs .wflush s s'
          ∧ ∃ u, s'.thread s.turn = some u ∧ u.frames = t.frames.map (fun f => { f with inArea := true }) ∧ u.wdep = t.wdep ∧ u.i = t.i))
  ∧ (∀ (n : BitVec 12) (d : Reg) (s : State) (t : Thread), CanIssue s t [ri d] →
      Runs (.slk n) s (s.setThread s.turn { t with slk := n })
      ∧ exec (.slkOnce n) s = .next (retire (s.setThread s.turn { t with once := some n }) s.turn true)
      ∧ (MayWrite s t (ri d) → Gives (.lateq d) s t d 0 id (t.lateq.setWidth 64))
      ∧ (Quiet t → ∃ s' u, exec (.slkOnce n) s = .next s' ∧ s'.thread s.turn = some u ∧ u.once = some n ∧ u.slk = t.slk)
      ∧ (Quiet t → ∃ s' u, exec .nop s = .next s' ∧ s'.thread s.turn = some u ∧ u.once = none))

/-! ## Control registers, shared registers -/

/-- CSRR (R96): the register's value; ILLEGAL, with the word as TVAL, for a number that names none.
CSRW, CSRS and CSRC (R96): the new value is a, CR OR a, CR AND NOT a. A register that is read-only traps (PERM), as does a new
DEPTH of TSTAT; a reserved bit that would be set traps (CSR_RESERVED); else the register is written. A write of a slot register
reads back at once; one of a core register takes effect after 12 cycles. -/
def Obligations.ControlRegisters : Prop :=
  (∀ (d : Reg) (n : BitVec 13) (s : State) (t : Thread), CanIssue s t [ri d] →
      (∀ v, csrRead s s.turn t (coreNow s) n.toNat = some v → MayWrite s t (ri d) →
        Runs (.csrr d n) s ((pinFor s t (ri d)).writeReg s.turn (ri d) v))
      ∧ (csrRead s s.turn t (coreNow s) n.toNat = none → Traps (.csrr d n) s 0x01 (wordOf (.csrr d n))))
  ∧ (∀ (a : Reg) (n : BitVec 13) (s : State) (t : Thread) (cr : Word), CanIssue s t [ri a] →
      (n.toNat = 0x107 → s.ownsCore s.turn t = true) → csrRead s s.turn t (coreNow s) n.toNat = some cr →
      let x := readI (coreNow s) t a
      let pin := if csrPins n.toNat && !t.region.pinned then giveToken s s.turn false else s
      let sets (i : Instr) (new : Word) : Prop :=
        (csrReadOnly n.toNat = true → Traps i s 0x0C (n.setWidth 64))
        ∧ (n.toNat = 4 → wbits new 0 2 ≠ wbits cr 0 2 → Traps i s 0x0C 4)
        ∧ (csrReadOnly n.toNat = false → (n.toNat = 4 → wbits new 0 2 = wbits cr 0 2) →
          (new &&& csrReserved n.toNat ≠ 0 → Traps i s 0x03 (n.setWidth 64))
          ∧ (new &&& csrReserved n.toNat = 0 →
            (csrPins n.toNat = true → t.region.pinned = true ∨ canToken s s.turn t = true) →
            Runs i s (csrWrite pin s.turn t n.toNat new)
            ∧ (n.toNat < 0x100 → ∃ u, (csrWrite pin s.turn t n.toNat new).thread s.turn = some u
                ∧ csrRead (csrWrite pin s.turn t n.toNat new) s.turn u (coreNow s) n.toNat = some new)
            ∧ (0x100 ≤ n.toNat → n.toNat < 0x200 →
                ((csrWrite pin s.turn t n.toNat new).core (coreOf s.turn)).lateCsr
                  = (coreNow s).lateCsr ++ [⟨t.ctx, n.toNat, new, (coreNow s).cycle + 12, s.turn.slot⟩])))
      sets (.csrw a n) x ∧ sets (.csrs a n) (cr ||| x) ∧ sets (.csrc a n) (cr &&& ~~~x))

/-- A field that names the shared bank, in a slot whose context does not own the core (R60): SHARED_DENIED with the word as TVAL,
and nothing else happens, shown for the forms of each kind of field.
When a write of a shared register takes effect (R61): in program order of the cycles, and of one cycle the higher slot's is
kept; until then the register reads as before. -/
def Obligations.SharedRegisters : Prop :=
  (∀ (w p : Bool) (d a b : Reg) (off : BitVec 13) (la : BitVec 4) (s : State) (t : Thread),
      s.thread s.turn = some t → t.isHandler = false → s.ownsCore s.turn t = false →
      (isShared d || isShared a || isShared b) = true →
      Traps (.add w d a b) s 0x10 (wordOf (.add w d a b)) ∧ Traps (.madd w d a b) s 0x10 (wordOf (.madd w d a b))
      ∧ Traps (.fadd p d a b) s 0x10 (wordOf (.fadd p d a b))
      ∧ Traps (.ldxD d a b la) s 0x10 (wordOf (.ldxD d a b la)) ∧ Traps (.stxD d a b) s 0x10 (wordOf (.stxD d a b))
      ∧ Traps (.aadd w d a b la) s 0x10 (wordOf (.aadd w d a b la))
      ∧ ((isShared a || isShared b) = true → Traps (.beq a b off) s 0x10 (wordOf (.beq a b off))))
  ∧ (∀ (k : Core) (t : Thread) (r : Reg) (v v' : Word) (c c' slot slot' : Nat), isShared r = true →
      (k.late = [⟨ri r, v, c, slot⟩] → readI k.settle t r = if c < k.cycle then v else readI k t r)
      ∧ (k.late = [⟨ri r, v, c, slot⟩, ⟨ri r, v', c', slot'⟩] → c < k.cycle → c' < k.cycle → (c ≠ c' ∨ slot ≠ slot') →
          readI k.settle t r = if c < c' ∨ (c = c' ∧ slot < slot') then v' else v)
      ∧ (∀ (s : State) (p : Place), s.thread p = some t → isShared r = true →
          ((s.writeReg p (ri r) v).core (coreOf p)).late
            = (s.core (coreOf p)).late ++ [⟨ri r, v, (s.core (coreOf p)).cycle + 12, p.slot⟩]))

/-! ## Memory -/

/-- The checks of an address (R102) in their order, each with the address as TVAL: not canonical, not aligned, an aperture address
outside the granted scratch spans, a dropped lock, no translation.
An access whose checks fail traps with what they found, and an access to a missing page parks the slot (R100, R102, R204): the
loads, the stores and the atomics, returning and posted; one with a shared destination parks with the token that its issue takes
(log entry 14, DEDUCED). -/
def Obligations.AccessChecks : Prop :=
  (∀ (s : State) (t : Thread) (x : Ctx) (va : Word) (size align need : Nat), s.ctx (t.ctxId s.turn) = some x →
      let faults (code : Nat) : Prop := lookT s s.turn t va size align need = .fault ⟨code, va⟩
      let sound : Prop := va.toNat / 2 ^ 56 = 0 ∨ va.toNat / 2 ^ 56 = 255
      let aligned : Prop := va.toNat % align = 0
      let aperture : Prop := 0xFFFFFFFFFE000000 ≤ va.toNat
      (¬sound → faults 0x04)
      ∧ (sound → ¬aligned → faults 0x08)
      ∧ (sound → aligned → aperture → (va.toNat / 2 ^ 17 % 256 < 192 ∨ va.toNat / 2 ^ 17 % 256 = 255) →
          spansCover x.spans (apertureCore t.apCore va) (va.toNat % 2 ^ 17) size = false → faults 0x06)
      ∧ (sound → aligned → ¬aperture → (∃ k, t.locks.find? (fun k => k.range.covers va) = some k ∧ k.dropped = true) → faults 0x07)
      ∧ (sound → aligned → ¬aperture → t.locks = [] → imageRange (t.ctxId s.turn) x va = none →
          s.cached (t.ctxId s.turn) va = [] →
          (walk s (t.ctxId s.turn) x va = none → faults 0x05)
          ∧ (∀ r, walk s (t.ctxId s.turn) x va = some r →
              let ca := r.target + (va.toNat - r.base)
              saPeer ca = s.turn.peer →
              (x.stage2 s.turn.peer t.ctx ca = none → faults 0x05)
              ∧ (x.stage2 s.turn.peer t.ctx ca ≠ none → permits r.attr need = false → faults 0x0C))))
  ∧ (∀ (i : Instr) (s : State) (t : Thread), t.acquiring = false →
      let parks (d : Option Dst) (va : Word) (n align need : Nat) : Prop := ∀ (z : State) (u : Thread) (page : Nat),
        (∀ e, d = some e → MayWrite s t e) → z = (match d with | some e => pinFor s t e | none => s) → z.thread s.turn = some u →
        lookT s s.turn t va n align need = .absent page → lookT z s.turn u va n align need = .absent page →
        exec i s = .next { parkPage z s.turn page with stalled := false }
      (∀ f, loadForm i = some f → CanIssue s t (f.uses ++ f.dsts) →
        let va := f.addr (coreNow s) t
        (∀ c, lookT s s.turn t va f.size f.size needR = .fault c → Traps i s c.code c.value)
        ∧ (∀ d ∈ f.dsts, parks (some d) va f.size f.size needR))
      ∧ (∀ f, storeForm? i = some f → CanIssue s t f.uses →
        let va := f.addr (coreNow s) t
        let n := (f.data (coreNow s) t).length
        (∀ c, lookT s s.turn t va n n needW = .fault c → Traps i s c.code c.value)
        ∧ (∀ page, lookT s s.turn t va n n needW = .absent page →
            exec i s = .next { parkPage s s.turn page with stalled := false }))
      ∧ (∀ f, atomForm i = some f → CanIssue s t f.uses →
        let n : Nat := if f.w then 4 else 8
        let va := readI (coreNow s) t f.a
        (∀ c, lookT s s.turn t va n n needRW = .fault c → Traps i s c.code c.value) ∧ parks f.d va n n needRW))

/-- Every load of a local line that is reached in place, in the core's own slice or in the group data cache (R100, R189, R212, R239,
R240, R242; log entries 4, DEDUCED, and 102, DESIGN CHOICE): the value that goes to the destinations is made of the bytes as the
region sees them, its own buffered stores first; the lines join the read set. -/
def Obligations.LocalLoads : Prop :=
  ∀ (i : Instr) (f : LoadForm) (s : State) (t : Thread) (l : Loc) (sa : Nat), loadForm i = some f →
    CanIssue s t (f.uses ++ f.dsts) → (∀ d ∈ f.dsts, MayWrite s t d) → t.acquiring = false →
    LocalAt s t (f.addr (coreNow s) t) f.size f.size needR l sa → hitSa s s.turn t.apCore l = some sa →
    poisonHit s sa f.size = false →
    ∀ d ∈ f.dsts, Runs i s (acquired (pendNow (joinRead (pinFor s t d) s.turn sa f.size) s.turn f.dsts f.la f.acquire
      (f.value (slotReads s s.turn t sa f.size))) s.turn t f.acquire)

/-- A load whose line is not reached in place and to which the thread does not move (R103, R187, R189 to R192, R212, R242): one that
is not local, one of another slice of the district, one that misses the cache. A request leaves for the home, its reply is a
pending result, and memory stays as it is.
A far load in mode .m that a place is granted for (R103, R195): the place and an arrival-buffer entry are reserved, and the
thread goes on until its window closes. -/
def Obligations.FarLoads : Prop :=
  (∀ (i : Instr) (f : LoadForm) (d : Dst) (s : State) (t t' : Thread) (l : Loc), loadForm i = some f → d ∈ f.dsts →
      CanIssue s t (f.uses ++ f.dsts) → MayWrite s t d → t.acquiring = false →
      let va := f.addr (coreNow s) t
      let ready (z : State) (u : Thread) : Prop := lookT z s.turn u va f.size f.size needR = .ok l
        ∧ (f.mode = true → isFar z s.turn u l = true → busyForMove z s.turn u = false) ∧ moveTarget z s.turn u l f.mode = none
        ∧ poisonAt z s.turn u l f.size = false ∧ hitSa z s.turn u.apCore l = none
      (l.sa.isSome = true → saKind l.ca ≠ 6) → (saKind l.ca = 5 → f.size ≠ 16) →
      ready s t → (pinFor s t d).thread s.turn = some t' → ready (pinFor s t d) t' →
      ∃ conv s', Runs i s s'
        ∧ s' = acquired (askHome (pinFor s t d) s.turn t' va l.ca (.read f.size conv) f.dsts f.la f.acquire) s.turn t' f.acquire
        ∧ (∀ bs : List Byte, bs.length = f.size → readWords f.size conv bs = f.value bs) ∧ s'.mem = s.mem)
  ∧ (∀ (i : Instr) (f : LoadForm) (d : Dst) (s : State) (t t' : Thread) (l : Loc) (dst : Place), loadForm i = some f → d ∈ f.dsts →
      CanIssue s t (f.uses ++ f.dsts) → MayWrite s t d → t.acquiring = false →
      let va := f.addr (coreNow s) t
      let ready (z : State) (u : Thread) : Prop := lookT z s.turn u va f.size f.size needR = .ok l
        ∧ busyForMove z s.turn u = false ∧ moveTarget z s.turn u l f.mode = some dst
      (saKind l.ca = 5 → f.size ≠ 16) → ready s t → (pinFor s t d).thread s.turn = some t' → ready (pinFor s t d) t' →
      ∃ s' id, Runs i s s' ∧ (∃ m ∈ s'.migs, m.id = id ∧ m.dst = dst ∧ m.src = s.turn ∧ m.thread = t')
        ∧ ((s'.core (coreOf dst)).arrivals = (s.core (coreOf dst)).arrivals ++ [id]) ∧ s'.mem = s.mem)

/-- Every store and release to a local line (R101, R213, R239, R241): one buffered item with the bytes; no byte of memory changes
until the region commits.
A store or release to a line that is not local (R213, R224, R238, R241) is buffered as a packet; a release to memory that is
not the host's counts the packets before it.
In an exclusive region (R217) the store acts at once: its bytes are in memory, and the regions of other threads that read one of
its lines are aborted; one that is not local leaves as a packet, and what the slot's engines have fetched ahead is read again. -/
def Obligations.Stores : Prop :=
  (∀ (i : Instr) (f : StoreForm) (s : State) (t : Thread) (l : Loc) (sa : Nat), storeForm? i = some f →
      CanIssue s t f.uses → t.acquiring = false →
      let data := f.data (coreNow s) t
      LocalAt s t (f.addr (coreNow s) t) data.length data.length needW l sa → Takes s t (.store sa data) →
      Runs i s (s.setThread s.turn (t.adds (.store sa data)))
      ∧ (Quiet t → ∃ s', exec i s = .next s' ∧ (∀ a, memRead s'.mem a = memRead s.mem a)))
  ∧ (∀ (i : Instr) (f : StoreForm) (s : State) (t : Thread) (l : Loc), storeForm? i = some f →
      CanIssue s t f.uses → t.acquiring = false →
      let data := f.data (coreNow s) t
      let body : Body := if f.rel.isSome && !decide (saKind l.ca = 5) then .release data else .store data
      let item : Item := .packet l.ca body (f.rel.getD false) (s.slack s.turn t)
      lookT s s.turn t (f.addr (coreNow s) t) data.length data.length needW = .ok l → localSa s.turn.core l = none →
      (saKind l.ca = 5 → data.length ≠ 16) →
      (Takes s t item → Runs i s (s.setThread s.turn (t.adds item)))
      ∧ (t.region.exclusive = true →
        let r := mkPacket s s.turn t l.ca body (f.rel.getD false) (s.slack s.turn t)
        Runs i s (acquired (sendPacket r.1 r.2) s.turn t true)))
  ∧ (∀ (i : Instr) (f : StoreForm) (s : State) (t : Thread) (l : Loc) (sa : Nat), storeForm? i = some f →
      CanIssue s t f.uses → t.acquiring = false →
      let data := f.data (coreNow s) t
      let lines := linesOf sa data.length
      LocalAt s t (f.addr (coreNow s) t) data.length data.length needW l sa → Through s t lines → Settled s →
      ∃ s', Runs i s s' ∧ s'.mem = memWrites s.mem sa data ∧ s'.thread s.turn = some t ∧ ReadersRestart s s' lines)

/-- What the atomics make of a word (R244), at 64 and at 32 bits; AFADD, AFMIN and AFMAX what FADD, FMIN and FMAX make of the two
(R37).
A result-returning atomic on a local line (R193, R213, R245). Where the own slice or the cache runs it, the old value, as the
region sees it, is the result, and the new one is buffered as a store of the region. Where its home slice runs it, a message
leaves for the old value and the operation is buffered with its operand. In an exclusive region it is made at once (R217). The
operand of the floating-point forms may be popped from a mapped stream, and their result pushed to one (R271). -/
def Obligations.LocalAtomics : Prop :=
  (∀ (w : Bool) (old b cmp : Nat),
      let n : Nat := if w then 32 else 64
      let x := BitVec.ofNat n old
      let y := BitVec.ofNat n b
      old < 2 ^ n →
      let gives (op : AtomOp) (v : BitVec n) : Prop := atomNew op w old b cmp = v.toNat
      gives .add (x + y) ∧ gives .and (x &&& y) ∧ gives .or (x ||| y) ∧ gives .xor (x ^^^ y)
      ∧ gives .min (if x.toInt ≤ y.toInt then x else y) ∧ gives .max (if x.toInt ≤ y.toInt then y else x)
      ∧ gives .minu (if x.toNat ≤ y.toNat then x else y) ∧ gives .maxu (if x.toNat ≤ y.toNat then y else x)
      ∧ gives .swp y ∧ gives .cas (if x = BitVec.ofNat n cmp then y else x)
      ∧ atomNew .fadd w old b cmp = fpAdd (if w then fp32 else fp64) old y.toNat
      ∧ atomNew .fmin w old b cmp = fpMin (if w then fp32 else fp64) old y.toNat
      ∧ atomNew .fmax w old b cmp = fpMax (if w then fp32 else fp64) old y.toNat)
  ∧ (∀ (i : Instr) (f : AtomForm) (d : Dst) (s y : State) (t u : Thread) (v : Word) (l : Loc) (sa : Nat), atomForm i = some f →
      f.d = some d → CanIssue s t f.uses → MayWrite s t d → t.acquiring = false →
      Operand s t f.b (pinFor s t d) y v → y.thread s.turn = some u → Target s t d 2 →
      let n : Nat := if f.w then 4 else 8
      let old := leNat (slotReads s s.turn t sa n)
      let new := atomNew f.op f.w old v.toNat (readI (coreNow s) t f.cmp).toNat
      let item : Item := .store sa (leBytes n new)
      let conv : Conv := if f.op = .fadd ∨ f.op = .fmin ∨ f.op = .fmax then .zx (8 * n) else .sx (8 * n)
      LocalAt s t (readI (coreNow s) t f.a) n n needRW l sa → poisonHit s sa n = false →
      (Takes s t item → atomicHere s s.turn t l = true →
        let noted := notePredictor (joinRead y s.turn sa n) (t.ctxId s.turn) sa (!l.uncached)
        Runs i s (pushLast (pendNow (noted.updThread s.turn (fun w => w.adds item)) s.turn [d] f.la false [conv.apply old])
          s.turn t.uid d))
      ∧ (∀ t', Takes s t item → atomicHere s s.turn t l = false → (pinFor s t d).thread s.turn = some t' →
        lookT (pinFor s t d) s.turn t' (readI (coreNow s) t f.a) n n needRW = .ok l →
        let asked := askHome y s.turn u (readI (coreNow s) t f.a) l.ca (.read n conv) [d] f.la false
        let noted := notePredictor asked (t.ctxId s.turn) sa (!l.uncached)
        Runs i s (pushLast (noted.updThread s.turn (fun w =>
          w.adds (.patomic sa f.op f.w v (readI (coreNow s) t f.cmp) false))) s.turn t.uid d))
      ∧ (Through s t (linesOf sa n) → Settled s → (directSa s.turn t.apCore l = none → messageLets s sa = true) →
        ∃ s', Runs i s (pushLast (pendNow s' s.turn [d] f.la false [conv.apply old]) s.turn t.uid d)
          ∧ s'.mem = memWrites s.mem sa (leBytes n new)
          ∧ s'.thread s.turn = some { u with region := u.region.read sa n } ∧ ReadersRestart s s' (linesOf sa n)))

/-- A result-returning atomic elsewhere, to which the thread does not move (R213, R245): the region commits, then a request for
one step at the home leaves. A shared destination pins the region that the commit has opened. A floating-point operand may be popped
from a mapped stream, and the result pushed to one (R271).
A posted atomic (R213, R246): buffered with its operand as read at issue, by line where the line is local and as a packet
where it is not; in an exclusive region (R217) it is made at once, or its packet leaves. -/
def Obligations.FarAtomics : Prop :=
  (∀ (i : Instr) (f : AtomForm) (d : Dst) (s y₀ y s₀ s' : State) (t u₀ u t₀ t₁ t' : Thread) (v : Word) (l : Loc),
      atomForm i = some f → f.d = some d → CanIssue s t f.uses → MayWrite s t d → t.acquiring = false →
      Operand s t f.b s y₀ v → y₀.thread s.turn = some u₀ →
      tryCommit y₀ s.turn u₀ false 0 (t.pc + 4) = some s₀ → s₀.thread s.turn = some t₀ →
      let va := readI (coreNow s) t f.a
      let n : Nat := if f.w then 4 else 8
      let ready (z : State) (u : Thread) : Prop := lookT z s.turn u va n n needRW = .ok l
        ∧ (isFar z s.turn u l = true → busyForMove z s.turn u = false) ∧ moveTarget z s.turn u l true = none
        ∧ poisonAt z s.turn u l n = false
      let s₁ := pinFor s t d
      localSa s.turn.core l = none → (saKind l.ca = 5 → f.op = .add ∨ f.op = .swp ∨ f.op = .cas) →
      ready s t → s₁.thread s.turn = some t₁ → ready s₁ t₁ → Target s t d 1 →
      Operand s t f.b s₁ y v → y.thread s.turn = some u →
      tryCommit y s.turn u false 0 (t.pc + 4) = some s' → s'.turn = s.turn → s'.thread s.turn = some t' →
      let asked := pushLast (askHome s' s.turn t' va l.ca
        (.ratomic f.op f.w v (readI (coreNow s) t f.cmp)) [d] f.la false) s.turn t'.uid d
      Runs i s (if isShared d.reg = true then giveToken asked s.turn false else asked))
  ∧ (∀ (i : Instr) (f : AtomForm) (s y : State) (t u : Thread) (v : Word) (l : Loc), atomForm i = some f → f.d = none →
      CanIssue s t f.uses → t.acquiring = false → Operand s t f.b s y v → y.thread s.turn = some u →
      let n : Nat := if f.w then 4 else 8
      let cmp := readI (coreNow s) t f.cmp
      lookT s s.turn t (readI (coreNow s) t f.a) n n needRW = .ok l →
      (saKind l.ca = 5 → f.op = .add ∨ f.op = .swp ∨ f.op = .cas) →
      let item : Item := match localSa s.turn.core l with
        | some sa => .patomic sa f.op f.w v cmp (!l.uncached)
        | none => .packet l.ca (.patomic f.op f.w v cmp) false (s.slack s.turn t)
      (Takes s t item → Runs i s (y.setThread s.turn (u.adds item)))
      ∧ (∀ sa, localSa s.turn.core l = some sa → Through s t [lineOf sa] → Settled s →
        ∃ s', Runs i s s' ∧ s'.mem = memWrites s.mem sa (leBytes n (atomNew f.op f.w (leNat (memReads s.mem sa n)) v.toNat cmp.toNat))
          ∧ s'.thread s.turn = some u ∧ ReadersRestart s s' [lineOf sa])
      ∧ (localSa s.turn.core l = none → t.region.exclusive = true →
        let r := mkPacket y s.turn u l.ca (.patomic f.op f.w v cmp) false (s.slack s.turn t)
        Runs i s (acquired (sendPacket r.1 r.2) s.turn u true)))

/-- Reading M (R2, R210): the byte written is read back, every other byte is as before, and the form stays canonical. -/
def Obligations.MemoryWrites : Prop :=
  ∀ (m : List Host.Cell) (a : Nat) (bs : List Byte), Memory.wf m = true →
    Memory.wf (memWrites m a bs) = true
    ∧ (∀ j, j < bs.length → memRead (memWrites m a bs) (a + j) = bs[j]?.getD 0)
    ∧ (∀ b, (b < a ∨ a + bs.length ≤ b) → memRead (memWrites m a bs) b = memRead m b)
    ∧ (∀ m', Memory.wf m' = true → (∀ b, memRead m b = memRead m' b) → m = m')

/-! ## Regions and fences -/

/-- RGN and CMT (R214, R218, R247) commit the region of a slot without results under way whenever the commit is allowed: its local
stores are in memory and nothing else is, and the region that opens is empty, explicit for RGN, with RSTART at the next
instruction.
The commit of a region with local stores aborts every other region that has read one of the lines (R214, R215): it goes back to
its opening, its own stores gone; no other thread changes. -/
def Obligations.Commits : Prop :=
  (∀ (a : Reg) (s : State) (t : Thread), CanIssue s t [ri a] → t.pend = [] → canCommit s s.turn t = true →
      (s.threads.map (·.1)).Nodup → (∀ i ∈ t.region.items, ∃ sa data, i = .store sa data) →
      let commits (i : Instr) (explicit : Bool) : Prop := ∃ s' u, Runs i s s' ∧ s'.thread s.turn = some u
        ∧ s'.mem = t.region.items.foldl Item.apply s.mem
        ∧ u.region.items = [] ∧ u.region.reads = [] ∧ u.region.explicit = explicit ∧ u.region.rstart = t.pc + 4
        ∧ u.region.fixed = false ∧ u.region.aborts = 0 ∧ u.region.odep = t.wdep ∧ u.region.check.i = t.i ∧ u.region.check.f = t.f
        ∧ u.i = t.i ∧ u.f = t.f ∧ u.pc = t.pc
      commits (.rgn a) true ∧ commits .cmt false)
  ∧ (∀ (s s' : State) (t u : Thread) (q : Place), s.thread s.turn = some t → t.pend = [] →
      (∀ i ∈ t.region.items, ∃ sa data, i = .store sa data) → q ≠ s.turn → s.thread q = some u → u.uid ≠ t.uid →
      (s.threads.map (·.1)).Nodup → (s.threads.map (·.2.uid)).Nodup → s.migs = [] →
      tryCommit s s.turn t false 0 (t.pc + 4) = some s' →
      (u.region.fixed = false → (∃ n ∈ t.region.written, n ∈ u.region.reads) → s'.thread q = some (u.restart true))
      ∧ (¬(∃ n ∈ t.region.written, n ∈ u.region.reads) → s'.thread q = some u))

/-- ABRT (R215, R247): the thread is at its region's opening again, with the registers of the checkpoint, nothing buffered and the
abort count unchanged; memory and the registers that no checkpoint holds are as before. A pinned or exclusive region traps
(ABORT_DENIED).
RGNQ (R248): the fields of the region word. -/
def Obligations.AbortAndQuery : Prop :=
  (∀ (s : State) (t : Thread), CanIssue s t [] →
      (t.region.fixed = true → Traps .abrt s 0x14 0)
      ∧ (t.region.fixed = false → ∃ s' u, exec .abrt s = .next s' ∧ s'.thread s.turn = some u ∧ s'.mem = s.mem
          ∧ u.pc = t.region.rstart ∧ u.i = t.region.check.i ∧ u.f = t.region.check.f ∧ u.wdep = t.region.check.wdep
          ∧ u.loops = t.region.check.loops ∧ u.shadow = t.region.check.shadow ∧ u.tpc = t.region.check.tpc
          ∧ u.tcause = t.region.check.tcause ∧ u.tval = t.region.check.tval ∧ u.tvec = t.region.check.tvec
          ∧ u.tstat = t.region.check.tstat ∧ u.replay = t.region.check.replay
          ∧ u.pend = [] ∧ u.region.items = [] ∧ u.region.reads = [] ∧ u.region.aborts = t.region.aborts ∧ u.region.rts = t.region.rts
          ∧ u.once = none ∧ u.wsp = t.wsp ∧ u.slk = t.slk ∧ u.live = t.live ∧ u.lateq = t.lateq ∧ u.events = t.events))
  ∧ (∀ (d : Reg) (s : State) (t u : Thread), CanIssue s t [ri d] → MayWrite s t (ri d) →
      (pinFor s t (ri d)).thread s.turn = some u → u.region.lines < 128 → u.region.aborts ≤ 8 →
      ∃ v, Runs (.rgnq d) s (pendNow (pinFor s t (ri d)) s.turn [ri d] 0 false [v])
        ∧ wbits v 0 7 = u.region.lines ∧ wbits v 7 1 = 0 ∧ wbit v 8 = u.region.explicit ∧ wbit v 9 = u.region.pinned
        ∧ wbit v 10 = u.region.exclusive ∧ wbits v 11 4 = u.region.aborts ∧ wbit v 15 = false
        ∧ wbits v 16 16 = u.region.odep.toNat ∧ wbits v 32 32 = 0)

/-- The fences that wait (R223, R298) let the slot go on once nothing they cover is under way, and hold it at the fence while
something is; VWAIT lets go of the slot until the vector commands it saw are over.
IFENCE (R228) makes the slot's later fetches see the current text; LFENCE, TFENCE and QFENCE (R226, R227, R249, R250) are
buffered in the region. -/
def Obligations.Fences : Prop :=
  (∀ (s : State) (t : Thread), CanIssue s t [] →
      let p := s.turn
      let holds (i : Instr) (busy : Prop) : Prop := (¬busy → Runs i s s) ∧ (busy → exec i s = .next (waits s p))
      let mine (q : Packet) : Prop := q ∈ s.packets ∧ q.uid = t.uid ∧ q.body.isAccess = true
      holds (.fence true) (∃ q, mine q ∧ q.body.isLoad = true ∧ homeIs s q p.peer (coreDist p.core) = true)
      ∧ holds (.fence false) ((∃ q, mine q ∧ saPeer q.ca = q.ctx.peer)
          ∨ ∃ m ∈ s.migs, m.thread.uid = t.uid ∧ m.access.isSome = true ∧ m.dst.peer = p.peer)
      ∧ holds .fencep ((∃ q, mine q ∧ saPeer q.ca ≠ q.ctx.peer)
          ∨ ∃ m ∈ s.migs, m.thread.uid = t.uid ∧ m.access.isSome = true ∧ m.dst.peer ≠ p.peer)
      ∧ holds .vfence (∃ c ∈ (coreNow s).cmds, c.uid = t.uid ∧ c.queue = 4 ∧ c.open_ = false)
      ∧ ((∀ c ∈ (coreNow s).cmds, c.queue ≠ 4) → Runs .vwait s s)
      ∧ ((∃ c ∈ (coreNow s).cmds, c.queue = 4) → exec .vwait s = .next { s.setThread p
          { t with wait := .vector (((coreNow s).cmds.filter (fun c => c.queue == 4)).map (·.cid)) } with stalled := false }))
  ∧ (∀ (mask : BitVec 6) (s : State) (t : Thread) (x : Ctx), CanIssue s t [] →
      (s.ctx (t.ctxId s.turn) = some x → Runs .ifence s (s.setThread s.turn { t with seen := x.text.version }))
      ∧ (Takes s t .lfence → Runs .lfence s (s.setThread s.turn (t.adds .lfence)))
      ∧ (Takes s t .tfence → Runs .tfence s (s.setThread s.turn (t.adds .tfence)))
      ∧ (Takes s t (.qfence mask) → Runs (.qfence mask) s (s.setThread s.turn (t.adds (.qfence mask)))))

/-! ## Moves, messages, barriers, joins, translations -/

/-- GO and GOHOME (R251, R252): the region commits; a thread that is not where it is sent, may move and finds a place has its move
reserved; else the instruction is over. A slot with a mapped stream or a matrix claim traps (MIGRATE_BUSY).
AMSG (R253): an address in the quarter aperture that the context is granted and an aligned handler give one buffered message
with i9 to i11; another address traps (NOMAP), another handler too (MISALIGN). That the entry need only be aligned is log entry 25
(DEDUCED). GO to a page that is not resident commits and parks with RSTART at itself, and issues again when it is there; with no place
it is over where it is (log entries 30, DEDUCED, and 72, DESIGN CHOICE). -/
def Obligations.MovesAndMessages : Prop :=
  (∀ (a : Reg) (s s' : State) (t : Thread) (l : Loc), CanIssue s t [ri a] →
      let p := s.turn
      let va := readI (coreNow s) t a
      let found := lookT s p t va 1 1 0 = .ok l ∧ saKind l.ca ≠ 5 ∧ saKind l.ca ≠ 6
      (busyForMove s p t = true → (found → Traps (.go a) s 0x0D va) ∧ Traps .gohome s 0x0D 0)
      ∧ (busyForMove s p t = false → tryCommit s p t false 0 (t.pc + 4) = some s' →
        let stays := tsDepth t.tstat ≠ 0 ∨ liveFits t = false ∨ framesWritable s' p t = false
        let home := if p.core ≠ t.apCore then (⟨p.peer, t.apCore⟩ : CoreId) else ⟨t.launchPeer, t.launchCore⟩
        let here := awayAbsent s p t l.ca = false
        (found → here → stays ∨ atHome s' p t l.ca = true → Runs (.go a) s s')
        ∧ (found → here → ¬stays → atHome s' p t l.ca = false → migTarget s' (t.ctxId p) l.ca = none → Runs (.go a) s s')
        ∧ (∀ dst, found → here → ¬stays → atHome s' p t l.ca = false → migTarget s' (t.ctxId p) l.ca = some dst →
            Runs (.go a) s (moveTo s' p t dst) ∧ ∃ m ∈ (moveTo s' p t dst).migs, m.src = p ∧ m.dst = dst ∧ m.access = none)
        ∧ (∀ z m, found → awayAbsent s p t l.ca = true → tryCommit s p t false 0 t.pc = some z →
            member s (t.ctxId p) (saPeer l.ca) = some m →
            exec (.go a) s = .next { parkPageOn z p m (saOff l.ca / 4096) with stalled := false })
        ∧ (stays ∨ coreOf p = home → Runs .gohome s s')
        ∧ (∀ dst, ¬stays → coreOf p ≠ home → slotOn s' (t.ctxId p) home = some dst → Runs .gohome s (moveTo s' p t dst))))
  ∧ (∀ (a b : Reg) (s : State) (t : Thread) (x : Ctx), CanIssue s t [ri a, ri b] → s.ctx (t.ctxId s.turn) = some x →
      let va := readI (coreNow s) t a
      let entry := readI (coreNow s) t b
      let core := apertureCore t.apCore va
      let good := 0xFFFFFFFFFE000000 ≤ va.toNat ∧ (va.toNat / 2 ^ 17 % 256 < 192 ∨ va.toNat / 2 ^ 17 % 256 = 255)
        ∧ spansCover x.spans core (va.toNat % 2 ^ 17) 1 = true
      let item : Item := .post (.amsg core entry (BitVec.ofNat 64 (va.toNat % 2 ^ 17))
        [readI (coreNow s) t 9, readI (coreNow s) t 10, readI (coreNow s) t 11] t.slk.toNat) (s.slack s.turn t)
      (¬good → Traps (.amsg a b) s 0x05 va)
      ∧ (good → entry.toNat % 4 ≠ 0 → Traps (.amsg a b) s 0x08 entry)
      ∧ (good → entry.toNat % 4 = 0 → Takes s t item → Runs (.amsg a b) s (s.setThread s.turn (t.adds item))))

/-- The barrier forms (R255 to R258): BARSET and BARA are buffered, BARREG registers the thread at once and at most four times, and
a number the context does not have traps (BARRIER_FAULT).
BARW and BARAW (R257, R258): the region commits; the slot goes on if the barrier's phase is not the one named, and waits while
it is, RSTART at the wait. BARAW makes its arrival behind the commit. -/
def Obligations.Barriers : Prop :=
  (∀ (a b : Reg) (s : State) (t : Thread) (x : Ctx), CanIssue s t [ri a, ri b] → s.ctx (t.ctxId s.turn) = some x →
      let n := readI (coreNow s) t a
      let v := readI (coreNow s) t b
      let known := n.toNat < x.block.barriers
      let set : Item := .post (.barset n.toNat (wbits v 0 24) (wbit v 24)) (s.slack s.turn t)
      let arrival : Item := .post (.arrival n.toNat 1) (s.slack s.turn t)
      (¬known → Traps (.barset a b) s 0x15 n ∧ Traps (.barreg a) s 0x15 n ∧ Traps (.bara a) s 0x15 n
          ∧ Traps (.barw a b) s 0x15 n ∧ Traps (.baraw a b) s 0x15 n)
      ∧ (known → (v.toNat % 2 ^ 24 = 0 ∨ v.toNat / 2 ^ 25 ≠ 0) → Traps (.barset a b) s 0x15 v)
      ∧ (known → v.toNat % 2 ^ 24 ≠ 0 → v.toNat / 2 ^ 25 = 0 → Takes s t set →
          Runs (.barset a b) s (s.setThread s.turn (t.adds set)))
      ∧ (known → (∃ e ∈ t.bars, e.1 = n.toNat) → Runs (.barreg a) s s)
      ∧ (known → (∀ e ∈ t.bars, e.1 ≠ n.toNat) → t.bars.length < 4 →
          Runs (.barreg a) s (s.setThread s.turn { t with bars := t.bars ++ [(n.toNat, false, [])] }))
      ∧ (known → (∀ e ∈ t.bars, e.1 ≠ n.toNat) → 4 ≤ t.bars.length → Traps (.barreg a) s 0x15 n)
      ∧ (known → Takes s t arrival → Runs (.bara a) s (s.setThread s.turn (t.adds arrival))))
  ∧ (∀ (a b : Reg) (s s' : State) (t u : Thread) (x : Ctx), CanIssue s t [ri a, ri b] → s.ctx (t.ctxId s.turn) = some x →
      let p := s.turn
      let n := (readI (coreNow s) t a).toNat
      let named := wbit (readI (coreNow s) t b) 0
      n < x.block.barriers → tryCommit s p t false 0 (t.pc + 4) = some s' → s'.thread p = some u →
      let waiting (z : State) : State :=
        { z.updThread p (fun w => { w with wait := .barrier n named false, region := { w.region with rstart := w.pc } })
            with stalled := false }
      let arrived := arrive s' p u n (s.slack p t)
      (phaseOf s' (t.ctxId p) n ≠ named → Runs (.barw a b) s s')
      ∧ (phaseOf s' (t.ctxId p) n = named → exec (.barw a b) s = .next (waiting s'))
      ∧ (phaseOf arrived (t.ctxId p) n ≠ named → Runs (.baraw a b) s arrived)
      ∧ (phaseOf arrived (t.ctxId p) n = named → exec (.baraw a b) s = .next (waiting arrived)))

/-- JSET and JDEC (R256) are buffered at their counter's line; JWAIT commits and goes on where the counter reads 0, and else waits at
the instruction unless the thread's own grid lends its slot; a poisoned counter traps (POISON, R151).
QUIT (R108, R381): once there is a line for the item's decrement, the region's commit is allowed and the task's end is not held, the thread is gone from its slot; a
handler just ends. -/
def Obligations.JoinsAndEnds : Prop :=
  (∀ (a b : Reg) (s s' : State) (t : Thread) (l : Loc) (sa : Nat) (d : Bool), CanIssue s t [ri a, ri b] → t.acquiring = false →
      let p := s.turn
      let va := readI (coreNow s) t a
      let bytes := leBytes 8 (readI (coreNow s) t b).toNat
      let counter (need : Nat) : Prop := lookT s p t va 8 8 need = .ok l ∧ saKind l.ca ≠ 5 ∧ saKind l.ca ≠ 6
      (counter needW → localSa p.core l = some sa → Takes s t (.store sa bytes) →
        Runs (.jset a b) s (s.setThread p (t.adds (.store sa bytes))))
      ∧ (counter needW → localSa p.core l = none → Takes s t (.packet l.ca (.store bytes) false (s.slack p t)) →
        Runs (.jset a b) s (s.setThread p (t.adds (.packet l.ca (.store bytes) false (s.slack p t)))))
      ∧ (counter needRW → localSa p.core l = some sa → Takes s t (.jdec sa) → Runs (.jdec a) s (s.setThread p (t.adds (.jdec sa))))
      ∧ (counter needRW → localSa p.core l = none → Takes s t (.packet l.ca .jdec false (s.slack p t)) →
        Runs (.jdec a) s (s.setThread p (t.adds (.packet l.ca .jdec false (s.slack p t)))))
      ∧ (counter needR → tryCommit s p t false 0 (t.pc + 4) = some s' → resolve s' (t.ctxId p) l.ca = some (sa, d) →
        poisonHit s' sa 8 = true → Traps (.jwait a) s 0x1D va)
      ∧ (counter needR → tryCommit s p t false 0 (t.pc + 4) = some s' → resolve s' (t.ctxId p) l.ca = some (sa, d) →
        poisonHit s' sa 8 = false →
        (leNat (s'.reads sa 8) = 0 → Runs (.jwait a) s s')
        ∧ (leNat (s'.reads sa 8) ≠ 0 → ownGrid s' (t.ctxId p) t l.ca = none → exec (.jwait a) s = .next
            { s'.updThread p (fun u => { u with wait := .join va, region := { u.region with rstart := u.pc } }) with stalled := false })
        ∧ (∀ z, leNat (s'.reads sa 8) ≠ 0 → (ownGrid s' (t.ctxId p) t l.ca).isSome = true → (mgetD s'.donors p []).length < 4 →
            donate s' p va = .ok z → exec (.jwait a) s = .next { z with stalled := false })))
  ∧ (∀ (s : State) (t : Thread), s.thread s.turn = some t →
      (t.isHandler = true → t.settled = true → exec .quit s = .next { s.freeSlot s.turn with stalled := false })
      ∧ (∀ t₀ s₁ s₂, t.isHandler = false → itemRoom s s.turn t = true → (finishItem s s.turn t).thread s.turn = some t₀ →
          tryCommit (finishItem s s.turn t) s.turn t₀ false 0 (t.pc + 4) = some s₁ →
          endTask (retireThread s₁ s.turn) s.turn t = .ok s₂ →
          exec .quit s = .next { s₂ with stalled := false }
          ∧ ((t.role = .child ∨ t.role = .entry ∨ ∃ k h m, t.role = .item k h m) → (s₁.threads.map (·.1)).Nodup →
              s₂.thread s.turn = none)))

/-- The translation locks (R202, R203, R260): RLOCK holds the range that covers the address, at most four at a time; RUNLK drops
those that cover it; RPRE fills the caches of its core and quarter, and nothing faults. Dropped locks count toward the four, but
for those that cover the address, whose place the new one takes (log entry 15, DESIGN CHOICE).
PREF (R243) changes nothing where its address can be read or fails its checks, and asks for a page that is not resident. -/
def Obligations.Translations : Prop :=
  (∀ (a : Reg) (s : State) (t : Thread) (x : Ctx), CanIssue s t [ri a] → s.ctx (t.ctxId s.turn) = some x →
      let c := t.ctxId s.turn
      let va := readI (coreNow s) t a
      (rangeFor s c va = none → rangesHit s c x = false → Traps (.rlock a) s 0x05 va)
      ∧ (rangesHit s c x = true → Traps (.rlock a) s 0x1D va)
      ∧ (∀ r, rangeFor s c va = some r →
        let others := t.locks.filter (fun l => l.range != r && !(l.dropped && l.range.covers va))
        ((r.attr / 2 ^ 13 % 2 = 0 ∨ 4 ≤ others.length) → Traps (.rlock a) s 0x0C va)
        ∧ (r.attr / 2 ^ 13 % 2 = 1 → others.length < 4 →
            Runs (.rlock a) s (s.setThread s.turn { t with locks := others ++ [⟨r, false⟩] })))
      ∧ Runs (.runlk a) s (s.setThread s.turn { t with locks := t.locks.filter (fun l => !l.range.covers va) })
      ∧ (∀ r, walk s c x va = some r → Runs (.rpre a) s (cacheFor s s.turn c.id false r))
      ∧ (walk s c x va = none → Runs (.rpre a) s s))
  ∧ (∀ (a b : Reg) (s : State) (t : Thread), CanIssue s t [ri a, ri b] →
      let found := lookT s s.turn t (readI (coreNow s) t a + readI (coreNow s) t b) 1 1 needR
      ((∀ page, found ≠ .absent page) → Runs (.pref a b) s s)
      ∧ (∀ page, found = .absent page → Runs (.pref a b) s (askPage s (t.ctxId s.turn) page)))

/-! ## Streams and queued commands -/

/-- The stream forms (R263 to R265, R270, R289), each with the state it comes to: its result is pending on d, from where control
goes on to the next instruction.
SCFG takes the lowest free engine within the core's share, or re-bases one that the slot holds; its first element is checked, and
a bad word, a misaligned base and a missing engine give a code.
SBND: the counts and strides of the record at b, for an engine that the thread holds; a stride that is no multiple of the element
size, or 2^32 elements, is refused by a code.
SMAP gives an engine one name and a name one engine, SUNMAP releases it, SQRY reads its state word. -/
def Obligations.Streams : Prop :=
  (∀ (d a b : Reg) (la : BitVec 4) (s : State) (t u : Thread) (x : Ctx),
      CanGive s t [ri a, ri b] d → s.ctx (t.ctxId s.turn) = some x → (pinFor s t (ri d)).thread s.turn = some u →
      let k := coreNow s
      let z := pinFor s t (ri d)
      let va := readI k t a
      let w := readI k t b
      let gives (i : Instr) (z' : State) (v : Word) : Prop :=
        exec i s = .next (retire (pendNow z' s.turn [ri d] la.toNat false [v]) s.turn false)
      let held (v : Nat) (e : Stream) : Prop := mget k.streams v = some e ∧ e.holder = some t.uid ∧ e.released = false
      let type := wbits w 0 4
      let size := typeSize type
      let eng := wbits w 8 3
      let share := x.share s.turn.core x.block.streams
      let bad : Prop := wbits w 11 53 ≠ 0 ∨ wbits w 6 2 ≠ 0 ∨ 8 ≤ type ∨ (wbit w 5 = false ∧ eng ≠ 0)
        ∨ (wbit w 5 = true ∧ ¬∃ e, held eng e)
      let check (y : State) (v : Thread) : Option Trap := checkAt y s.turn v va size 1 (if wbit w 4 then needW else needR)
      let good : Prop := ¬bad ∧ check s t = none ∧ check z u = none
      (bad → gives (.scfg d a b la) z 0x71)
      ∧ (∀ c, ¬bad → check s t = some c → Traps (.scfg d a b la) s c.code c.value)
      ∧ (good → va.toNat % size ≠ 0 → gives (.scfg d a b la) z 0x71)
      ∧ (∀ e, good → va.toNat % size = 0 → wbit w 5 = true → held eng e →
          gives (.scfg d a b la) ((dropFetched z (coreOf s.turn) t.uid).setStream s.turn eng
            { e with base := va, type := type, dir := wbit w 4, pos := 0, got := [] }) (BitVec.ofNat 64 eng))
      ∧ (good → va.toNat % size = 0 → wbit w 5 = false →
          (freeEngine k t.uid = none ∨ (share ≤ enginesHeld s s.turn t.ctx ∧ share ≤ enginesHeld z s.turn t.ctx) →
            gives (.scfg d a b la) z 0x70)
          ∧ (∀ n, freeEngine k t.uid = some n → enginesHeld s s.turn t.ctx < share → enginesHeld z s.turn t.ctx < share →
              gives (.scfg d a b la) (z.setStream s.turn n
                ⟨some t.uid, s.turn.slot, type, wbit w 4, none, va, [], [], 0, false, []⟩) (BitVec.ofNat 64 n)))
      ∧ ((¬∃ e, held va.toNat e) ∨ wbits w 2 62 ≠ 0 → gives (.smap d a b la) z 0x71)
      ∧ (∀ e, held va.toNat e → wbits w 2 62 = 0 →
          (k.named t.uid (wbits w 0 2) = none →
            gives (.smap d a b la) (z.setStream s.turn va.toNat { e with name := some (wbits w 0 2) }) 0)
          ∧ (∀ n old, k.named t.uid (wbits w 0 2) = some (n, old) →
            gives (.smap d a b la) ((z.setStream s.turn n { old with name := none }).setStream s.turn va.toNat
              { e with name := some (wbits w 0 2) }) 0))
      ∧ (t.acquiring = false →
          (∀ c, readRecord s s.turn t w 32 8 = .stop (.trap c) → Traps (.sbnd d a b la) s c.code c.value)
          ∧ (∀ (bs : List Byte) (s₀ s₁ : State), readRecord s s.turn t w 32 8 = .ok bs s₀ → readRecord z s.turn u w 32 8 = .ok bs s₁ →
            ((¬∃ e, held va.toNat e) → gives (.sbnd d a b la) s₁ 0x71)
            ∧ (∀ e, held va.toNat e →
              let strides := [signed 32 (leAt bs 4 4), signed 32 (leAt bs 12 4), signed 32 (leAt bs 20 4), signed 32 (leAt bs 28 4)]
              let e' : Stream :=
                { e with counts := [leAt bs 0 4, leAt bs 8 4, leAt bs 16 4, leAt bs 24 4], strides := strides, got := [] }
              let wrong : Prop := (∃ r ∈ strides, r % (typeSize e.type : Int) ≠ 0) ∨ 2 ^ 32 ≤ e'.count
              (wrong → gives (.sbnd d a b la) s₁ 0x71)
              ∧ (¬wrong → gives (.sbnd d a b la) ((dropFetched s₁ (coreOf s.turn) t.uid).setStream s.turn va.toNat e') 0)))))
  ∧ (∀ (d a : Reg) (la : BitVec 4) (s : State) (t : Thread), CanGive s t [ri a] d →
      let k := coreNow s
      let z := pinFor s t (ri d)
      let va := readI k t a
      let gives (i : Instr) (z' : State) (v : Word) : Prop :=
        exec i s = .next (retire (pendNow z' s.turn [ri d] la.toNat false [v]) s.turn false)
      (∀ n e, k.named t.uid (wbits va 0 2) = some (n, e) →
          gives (.sunmap d a la) ((dropFetched z (coreOf s.turn) t.uid).setStream s.turn n
            { e with name := none, released := true, got := [] }) 0)
      ∧ (k.named t.uid (wbits va 0 2) = none → gives (.sunmap d a la) z 0)
      ∧ (8 ≤ va.toNat → gives (.sqry d a la) z 0x71)
      ∧ (va.toNat < 8 → (∀ e, mget k.streams va.toNat = some e → e.released = true) → gives (.sqry d a la) z 0)
      ∧ (∀ e, va.toNat < 8 → mget k.streams va.toNat = some e → e.released = false → ∃ v, gives (.sqry d a la) z v
          ∧ wbits v 32 32 = e.pos % 2 ^ 32 ∧ wbits v 17 15 = 0 ∧ wbit v 16 = !e.levels.isEmpty ∧ wbit v 15 = e.name.isSome
          ∧ wbits v 13 2 = (e.name.getD 0) % 4 ∧ wbit v 12 = e.dir ∧ wbits v 8 4 = e.type % 16 ∧ wbits v 4 4 = e.slot % 16
          ∧ wbit v 3 = true ∧ wbits v 0 3 = 0))

/-- Every vector command (R266, R290, R292) is buffered with what it captured at issue: its streams, the scalar of its a field, the
control word and the seed.
The engine commands (R268, R299): with the checks of their addresses passed they are buffered for the engine queue that they
name; the first check that fails traps, of a copy the source's before the destination's, of the others the record's, the
destination's and the source's in this order. -/
def Obligations.QueuedCommands : Prop :=
  (∀ (i : Instr) (f : VectorForm) (s : State) (t : Thread), vectorForm i = some f → CanIssue s t [rf f.a, ri f.b] →
      let cap (n : BitVec 2) : StreamOp := ((coreNow s).named t.uid n.toNat).map (fun e => { e.2 with got := [] })
      Queues i s t 4 0 (.vector f.fn (cap f.sd) (f.sa.bind cap) (f.sb.bind cap) ((f.sb.map (fun n => n.toNat)).getD 0)
        (readF (coreNow s) t f.a) (readI (coreNow s) t f.b) ((coreNow s).mat t.ctx).srndseed))
  ∧ (∀ (d a b : Reg) (q : BitVec 2) (ct : BitVec 5) (s : State) (t : Thread), CanIssue s t [ri a, ri b, ri d] →
      let x := readI (coreNow s) t a
      let y := readI (coreNow s) t b
      let z := readI (coreNow s) t d
      let passes (va : Word) (size need : Nat) : Prop := checkAt s s.turn t va size size need = none
      (passes y 1 needR → passes x 1 needW → Queues (.cpy d a b q ct) s t q.toNat ct.toNat (.cpy x y (z.toNat % 2 ^ 32)))
      ∧ (∀ c, checkAt s s.turn t y 1 1 needR = some c → Traps (.cpy d a b q ct) s c.code c.value)
      ∧ (∀ c, passes y 1 needR → checkAt s s.turn t x 1 1 needW = some c → Traps (.cpy d a b q ct) s c.code c.value)
      ∧ (passes z 32 needR → passes x 1 needW → passes y 1 needR →
          Queues (.cpy2d d a b q ct) s t q.toNat ct.toNat (.cpy2d z x y)
          ∧ Queues (.gath d a b q ct) s t q.toNat ct.toNat (.gath z x y)
          ∧ Queues (.scat d a b q ct) s t q.toNat ct.toNat (.scat z x y))
      ∧ (passes z 32 needR → passes x 1 needW → passes y 8 needR → Queues (.coll d a b q ct) s t q.toNat ct.toNat (.coll z x y))
      ∧ (∀ c, checkAt s s.turn t z 32 32 needR = some c →
          Traps (.cpy2d d a b q ct) s c.code c.value ∧ Traps (.gath d a b q ct) s c.code c.value
          ∧ Traps (.scat d a b q ct) s c.code c.value ∧ Traps (.coll d a b q ct) s c.code c.value)
      ∧ (∀ c, passes z 32 needR → checkAt s s.turn t x 1 1 needW = some c →
          Traps (.cpy2d d a b q ct) s c.code c.value ∧ Traps (.gath d a b q ct) s c.code c.value
          ∧ Traps (.scat d a b q ct) s c.code c.value ∧ Traps (.coll d a b q ct) s c.code c.value)
      ∧ (∀ c, passes z 32 needR → passes x 1 needW → checkAt s s.turn t y 1 1 needR = some c →
          Traps (.cpy2d d a b q ct) s c.code c.value ∧ Traps (.gath d a b q ct) s c.code c.value
          ∧ Traps (.scat d a b q ct) s c.code c.value)
      ∧ (∀ c, passes z 32 needR → passes x 1 needW → checkAt s s.turn t y 8 8 needR = some c →
          Traps (.coll d a b q ct) s c.code c.value))

/-! ## The matrix unit -/

/-- The claims and format registers (R310 to R313, R318, R337). MCLAIM takes all the numbers of its masks or none and says why; MREL
of numbers that are claimed is buffered, and of others, or of masks that are none, refused; MFMT and MSCL write their register by
the rule of core control registers, and refuse a value or a selector that is none.
The queries, the burst and the wait of the unit (R317, R344, R345). -/
def Obligations.MatrixClaims : Prop :=
  (∀ (d a b : Reg) (la : BitVec 4) (s : State) (t : Thread), CanGive s t [ri a, ri b] d →
      let k := coreNow s
      let x := readI k t a
      let y := readI k t b
      let slots := maskBits x.toNat 32
      let tiles := maskBits y.toNat 4
      let whole := x.toNat < 2 ^ 32 ∧ y.toNat < 16
      let free := slots.all (claimable k.oclaims t.uid) = true ∧ tiles.all (claimable k.tclaims t.uid) = true
      let within (z : State) : Prop :=
        heldClaims k.oclaims t.ctx + (newClaims k.oclaims t.uid slots).length ≤ coreShare z z.turn t (·.oslots)
        ∧ heldClaims k.tclaims t.ctx + (newClaims k.tclaims t.uid tiles).length ≤ coreShare z z.turn t (·.tiles)
      (¬whole → Gives (.mclaim d a b la) s t d la.toNat id 0x7E)
      ∧ (whole → ¬free → Gives (.mclaim d a b la) s t d la.toNat id 0x7C)
      ∧ (whole → free → ¬within s → ¬within (pinFor s t (ri d)) → Gives (.mclaim d a b la) s t d la.toNat id 0x7D)
      ∧ (whole → free → within s → ∃ eff, Gives (.mclaim d a b la) s t d la.toNat eff 0
          ∧ claimed ((eff (pinFor s t (ri d))).core (coreOf s.turn)).oclaims t.uid slots = true
          ∧ claimed ((eff (pinFor s t (ri d))).core (coreOf s.turn)).tclaims t.uid tiles = true)
      ∧ (whole → claimed k.oclaims t.uid slots = true → claimed k.tclaims t.uid tiles = true →
          QueuesGiving (.mrel d a b la) s t d la.toNat (.mrel x.toNat y.toNat))
      ∧ (¬whole → Gives (.mrel d a b la) s t d la.toNat id 0x7E)
      ∧ (whole → (claimed k.oclaims t.uid slots = false ∨ claimed k.tclaims t.uid tiles = false) →
          Gives (.mrel d a b la) s t d la.toNat id 0x7F)
      ∧ (∀ c, checkAt s s.turn t x 1 1 needR = some c → Traps (.mscl d a b la) s c.code c.value)
      ∧ (∀ u, (pinFor s t (ri d)).thread s.turn = some u → checkAt s s.turn t x 1 1 needR = none →
          checkAt (pinFor s t (ri d)) s.turn u x 1 1 needR = none → 2 ≤ y.toNat → Gives (.mscl d a b la) s t d la.toNat id 0x7E)
      ∧ ((3 ≤ y.toNat ∨ fmtValid y.toNat x = false) → Gives (.mfmt d a b la) s t d la.toNat id 0x7E)
      ∧ (t.region.pinned = true ∨ canToken s s.turn t = true →
          let z := if t.region.pinned = true then s else giveToken s s.turn false
          let writes (i : Instr) (n : Nat) : Prop := Runs i s (pendNow (csrWrite z s.turn t n x) s.turn [ri d] la.toNat false [0])
          (y.toNat < 3 → fmtValid y.toNat x = true → writes (.mfmt d a b la) (0x100 + y.toNat))
          ∧ (∀ u, z.thread s.turn = some u → y.toNat < 2 → checkAt s s.turn t x 1 1 needR = none →
              checkAt z s.turn u x 1 1 needR = none → writes (.mscl d a b la) (0x103 + y.toNat))))
  ∧ (∀ (d a : Reg) (la : BitVec 4) (s : State) (t : Thread), CanGive s t [ri a] d →
      let k := coreNow s
      let x := readI k t a
      let standing := k.cmds.filter (fun q => q.queue == 5 && !q.work.isRelease)
      let n := x.toNat % 65536
      (x = 0 → Gives (.mseqq d a la) s t d la.toNat id (BitVec.ofNat 64 (standing.filter (fun q => q.uid == t.uid)).length))
      ∧ (x = 1 → Gives (.mseqq d a la) s t d la.toNat id (BitVec.ofNat 64 standing.length))
      ∧ (5 ≤ x.toNat → Gives (.mseqq d a la) s t d la.toNat id 0xFFFFFFFFFFFFFFFF)
      ∧ Runs (.mburst a) s (s.updCore (coreOf s.turn) (fun k =>
          { k with burst := n, burstAt := k.cycle, rampAt := if n = 0 then k.rampAt else none }))
      ∧ ((∀ q ∈ k.cmds, ¬(q.uid = t.uid ∧ q.queue = 5 ∧ q.open_ = false)) → Runs .mwait s s)
      ∧ ((∃ q ∈ k.cmds, q.uid = t.uid ∧ q.queue = 5 ∧ q.open_ = false) → exec .mwait s = .next (waits s s.turn)))

/-- The commands of one tile (R333, R334, R338 to R340): with their checks passed they are buffered with the formats, scales and seed
of their issue; with the checks before it passed, a slot or tile that is not claimed traps (MATRIX_CLAIM), for each of the six.
The macro-operations (R314, R342), buffered with status 0; MGEMM of what is not claimed and a bad format give their codes. -/
def Obligations.MatrixCommands : Prop :=
  (∀ (o oa ob : BitVec 5) (c : BitVec 2) (cd cs : BitVec 3) (a b : Reg) (s : State) (t : Thread), CanIssue s t [ri a, ri b] →
      let k := coreNow s
      let m := k.mat t.ctx
      let x := readI k t a
      let y := readI k t b
      let code := y.toNat / 2 ^ 32
      let mine (w : Work) : Prop := claimed k.oclaims t.uid w.slots = true ∧ claimed k.tclaims t.uid w.tiles = true
      let load (i : Instr) (fn : Nat) (w : Work) : Prop := code < 3 → y.toNat % 2 ^ 32 % 2 ^ code = 0 → o.toNat % 2 ^ code = 0 →
        checkAt s s.turn t x (2 ^ code) (2 ^ code) needR = none →
        (mine w → Queues i s t 5 0 w)
        ∧ (¬mine w → Traps i s 0x1A (wordX 0x61 o.toNat a.toNat b.toNat 0 fn))
      let read : Work := .mrd c.toNat x y m.fmtc m.srndseed
      let product (i : Instr) (cs' fn : Nat) (w : Work) : Prop :=
        oa.toNat % fmtSlots m.fmta = 0 → ob.toNat % fmtSlots m.fmtb = 0 →
        (mine w → fmtValid 0 m.fmta = true → fmtValid 1 m.fmtb = true → Queues i s t 5 0 w)
        ∧ (¬mine w → Traps i s 0x1A (wordM cd.toNat cs' oa.toNat ob.toNat fn))
      load (.mldt o a b) 4 (.mldt o.toNat x y) ∧ load (.mtrn o a b) 5 (.mtrn o.toNat x y)
      ∧ (y.toNat < 2 ^ 32 → y.toNat % fmtSlots m.fmtc = 0 →
          checkAt s s.turn t x (fmtSlots m.fmtc) (fmtSlots m.fmtc) needW = none →
          (mine read → fmtValid 2 m.fmtc = true → Queues (.mrd c a b) s t 5 0 read)
          ∧ (¬mine read → Traps (.mrd c a b) s 0x1A (wordX 0x61 c.toNat a.toNat b.toNat 0 6)))
      ∧ product (.mma cd cs oa ob) cs.toNat 0 (.mma cd.toNat (some cs.toNat) oa.toNat ob.toNat m.fmta m.fmtb m.scla m.sclb)
      ∧ product (.mmaz cd oa ob) 0 1 (.mma cd.toNat none oa.toNat ob.toNat m.fmta m.fmtb m.scla m.sclb)
      ∧ (mine (.mzero cd.toNat) → Queues (.mzero cd) s t 5 0 (.mzero cd.toNat))
      ∧ (claimed k.tclaims t.uid [cd.toNat] = false → Traps (.mzero cd) s 0x1A (wordM cd.toNat 0 0 0 2)))
  ∧ (∀ (d a b : Reg) (la : BitVec 4) (s : State) (t u : Thread), CanGive s t [ri a, ri b] d →
      (pinFor s t (ri d)).thread s.turn = some u →
      let k := coreNow s
      let m := k.mat t.ctx
      let x := readI k t a
      let y := readI k t b
      let oa := wbits y 2 5
      let ob := wbits y 7 5
      let sa := slotsFrom oa (fmtSlots m.fmta)
      let sb := slotsFrom ob (fmtSlots m.fmtb)
      let record := checkAt s s.turn t x 64 64 needR = none ∧ checkAt (pinFor s t (ri d)) s.turn u x 64 64 needR = none
      let fmt := if y.toNat = 0 then m.fmta else if y.toNat = 1 then m.fmtb else m.fmtc
      let good := y.toNat < 2 ^ 12 ∧ fmtValid 0 m.fmta = true ∧ fmtValid 1 m.fmtb = true ∧ fmtValid 2 m.fmtc = true
        ∧ oa % fmtSlots m.fmta = 0 ∧ ob % fmtSlots m.fmtb = 0 ∧ (∀ n ∈ sa, n ∉ sb)
      (record → y.toNat < 3 → fmtValid y.toNat fmt = true →
          QueuesGiving (.mcvt d a b la) s t d la.toNat (.mcvt x fmt m.srndseed))
      ∧ (record → ¬good → Gives (.mgemm d a b la) s t d la.toNat id 0x7E)
      ∧ (record → good → claimed k.oclaims t.uid (sa ++ sb) = true → claimed k.tclaims t.uid [wbits y 0 2] = true →
          QueuesGiving (.mgemm d a b la) s t d la.toNat
            (.mgemm x (wbits y 0 2) oa ob m.fmta m.fmtb m.fmtc m.scla m.sclb m.srndseed))
      ∧ (record → good → claimed k.oclaims t.uid (sa ++ sb) = false → Gives (.mgemm d a b la) s t d la.toNat id 0x7F))

/-! ## Queues, heaps, launches -/

/-- The queue forms (R282 to R285, R304 to R308). QDERIV and QSTAT are read at issue; the others commit, and a request for their unit
leaves, its answer a pending result.
A handle that QDERIV makes (R283, R307) has the queue, generation and context of the one it is made from and the rights that
were asked for, which that one had. -/
def Obligations.QueueForms : Prop :=
  (∀ (d a b : Reg) (la : BitVec 4) (s : State) (t : Thread), CanGive s t [ri a, ri b] d →
      let p := s.turn
      let x := readI (coreNow s) t a
      let y := readI (coreNow s) t b
      let asks (i : Instr) (fn : Nat) (u v : Word) (pre : State → Thread → Prop) : Prop :=
        ActsBehind i s t d pre (fun z t₁ _ w =>
          w = askUnit z p t₁ (t₁.ctxId p) (queueUnit p fn u v) (.queue fn u v (coreOf p)) (ri d) la.toNat)
      let area (z : State) (u : Thread) : Prop :=
        lookSpan z (u.ctxId p) u.apCore u.locks needW (queueBytes (wbits y 0 32) / 16 + 3) x (queueBytes (wbits y 0 32)) = none
      let record (z : State) (u : Thread) : Prop := ∃ l, lookT z p u y 16 16 needW = .ok l
      let descriptor (z : State) (u : Thread) : Prop :=
        x = 0 ∨ (x.toNat % 64 = 0 ∧ lookSpan z (u.ctxId p) u.apCore u.locks needR 19 x 256 = none)
      asks (.qmake d a b la) 0 x y area ∧ asks (.qenq d a b la) 1 x y (fun _ _ => True)
      ∧ asks (.qdeq d a b la) 2 x y record ∧ asks (.qsteal d a b la) 3 x y record
      ∧ asks (.qdest d a la) 5 x 0 (fun _ _ => True) ∧ asks (.govset d a b la) 7 x y descriptor
      ∧ Gives (.qderiv d a b la) s t d la.toNat id (deriveHandle (pinFor s t (ri d)) p.peer x y)
      ∧ Gives (.qstat d a b la) s t d la.toNat id (queueStat (pinFor s t (ri d)) p.peer p.core x y))
  ∧ (∀ (s : State) (peer : Nat) (h rights : Word), handleCheck s peer h = none → 1 ≤ rights.toNat → rights.toNat < 8 →
      hasRights h rights.toNat = true →
      let g := deriveHandle s peer h rights
      hQid g = hQid h ∧ hGen g = hGen h ∧ hCtx g = hCtx h ∧ hRights g = rights.toNat ∧ tagOk s peer g = true)

/-- The heap forms (R349, R350, R353, R375 to R379). Those that change a heap commit and ask its summary heap; HQRY and HTOP ask it
and commit nothing; SRRD is read at issue. What the heap answers is in KernelSteps.
LAUNCH, WNEXT and SPAWN (R25, R352, R358, R372 to R374): a launch block that can be launched becomes a kernel and its number is
the result; a thread that holds an item finishes it and takes the next, and the region that WNEXT opens has WID and d behind the
claim (log entry 104, DEDUCED); a spawn commits and its request leaves. -/
def Obligations.HeapsAndLaunches : Prop :=
  (∀ (d a b : Reg) (la : BitVec 4) (s : State) (t : Thread), CanGive s t [ri a, rf b, ri b] d →
      let p := s.turn
      let x := readI (coreNow s) t a
      let f := readF (coreNow s) t b
      let y := readI (coreNow s) t b
      let asks (i : Instr) (fn : Nat) (v : Word) (pre : State → Thread → Prop) : Prop :=
        ActsBehind i s t d pre (fun z t₁ _ w => ∃ k, heapKernel s p t x = heapKernel (pinFor s t (ri d)) p t x
          ∧ z.heapOf (heapKernel s p t x).1 (heapKernel s p t x).2 = some k
          ∧ w = askUnit z p t₁ (heapKernel s p t x).1 k.summary (.heap fn x v (heapKernel s p t x).2) (ri d) la.toNat)
      let area (z : State) (u : Thread) : Prop := y.toNat % 8 = 0 ∧ lookSpan z (u.ctxId p) u.apCore u.locks needW
        (8 * wbits x 0 32 / 8 + 2) y (8 * wbits x 0 32) = none
      let plain (z : State) (u : Thread) : Prop := (z.core (coreOf p)).mapped u.uid (rf b) = none
      asks (.hmerge d a b la) 0 f plain ∧ asks (.hadd d a b la) 1 f plain
      ∧ asks (.hclose d a la) 3 0 (fun _ _ => True) ∧ asks (.hdrain d a b la) 4 y area
      ∧ (∀ k, let z := pinFor s t (ri d)
        let ck := heapKernel z p t x
        z.heapOf ck.1 ck.2 = some k → ∀ t₁, z.thread p = some t₁ →
        let reads (i : Instr) (fn : Nat) (v : Word) : Prop :=
          Runs i s (askUnit z p t₁ ck.1 k.summary (.heap fn x v ck.2) (ri d) la.toNat)
        reads (.hqry d a b la) 2 y ∧ reads (.htop d a la) 6 0)
      ∧ (∀ k, heapKernel s p t x = heapKernel (pinFor s t (ri d)) p t x →
        (pinFor s t (ri d)).heapOf (heapKernel s p t x).1 (heapKernel s p t x).2 = some k → badOperand 5 x y = false →
        Gives (.srrd d a b la) s t d la.toNat id (srrItem k y.toNat)))
  ∧ (∀ (d a b : Reg) (la : BitVec 4) (s : State) (t : Thread) (x : Ctx), CanGive s t [ri a, ri b] d →
      s.ctx (t.ctxId s.turn) = some x →
      let p := s.turn
      let va := readI (coreNow s) t a
      let entry := readI (coreNow s) t b
      ActsBehind (.launch d a la) s t d (fun z u => ∃ bs z', readRecord z p u va 128 64 = .ok bs z')
          (fun z t₁ u w => ∃ h z' z'' num, readRecord z p u va 128 64 = .ok h z'
            ∧ launchWith z' (t₁.ctxId p) t₁.apCore t₁.locks t₁.uid t₁.slk.toNat (p.core / 256) h = .ok z'' num
            ∧ w = pendNow z'' p [ri d] la.toNat false [withBit63 num])
      ∧ (entry.toNat % 4 ≠ 0 → Traps (.spawn d a b la) s 0x08 entry)
      ∧ (entry.toNat % 4 = 0 → va.toNat < 2 ^ 13 → coreOk va.toNat = true → x.isCode entry = true →
        ActsBehind (.spawn d a b la) s t d (fun _ _ => True) (fun z t₁ _ w =>
          w = askUnit z p t₁ (t₁.ctxId p) (va.toNat / 256) (.spawn va.toNat entry
            [readI (coreNow s) t 8, readI (coreNow s) t 9, readI (coreNow s) t 10, readI (coreNow s) t 11] t.wid t.slk.toNat)
            (ri d) la.toNat))
      ∧ (∀ num team s₁ t₁ u₀ z₀ t₀ z, t.role = .item num true team → itemRoom s p t = true → s₁ = pinFor s t (ri d) →
          s₁.thread p = some t₁ → itemRoom s₁ p t₁ = true →
          (finishItem s p t).thread p = some u₀ → tryCommit (finishItem s p t) p u₀ false 0 (t.pc + 4) = some z₀ →
          (finishItem s₁ p t₁).thread p = some t₀ → tryCommit (finishItem s₁ p t₁) p t₀ false 0 (t.pc + 4) = some z →
          let st := statusWord (claimItem z p num team t.wid).2
          let w := pendNow (checkpointed (claimItem z p num team t.wid).1 p d st) p [ri d] la.toNat false [st]
          Runs (.wnext d la) s (if isShared d = true ∧ w.pinnedAt p = false then giveToken w p false else w))
      ∧ ((∀ num team, t.role ≠ .item num true team) →
          Gives (.wnext d la) s t d la.toNat id (statusWord stNotItem)))

/-! ## Warrants, time, events, records -/

/-- The forms of R160 that read at issue: DTIME (R174) gives the time while its bound is small enough, WQRY (R172) an item of a
warrant, RLIMQ (R180) a limiter, of the two of a district the lower rate (log entry 35, DESIGN CHOICE); EVPOST (R179) is buffered.
The forms that write a record behind their commit (R161, R173, R175 to R178, R303): the bytes go to the program's memory and the
result is pending. TNONCE writes the nonce it draws, CAPRD an entry of the capability table, EVWAIT an event that has come, EVRD a
completion record, CKPT the image of the thread; with no record to give EVRD gives all ones, and with no event EVWAIT waits. What EVWAIT and EVRD
take from the event store is log entry 40 (DEDUCED). -/
def Obligations.ReadsAndRecords : Prop :=
  (∀ (d a b : Reg) (la : BitVec 4) (s : State) (t : Thread) (x : Ctx), CanGive s t [ri a, ri b] d →
      s.ctx (t.ctxId s.turn) = some x →
      let p := s.turn
      let u := readI (coreNow s) t a
      let v := readI (coreNow s) t b
      let known := (s.dev p.peer).timeA.isSome = true ∧ s.dunc p.peer ≤ u.toNat
      let item : Item := .post (.evpost u v) (s.slack p t)
      (known → Gives (.dtime d a la) s t d la.toNat id (BitVec.ofNat 64 (s.dtime p.peer)))
      ∧ (¬known → Gives (.dtime d a la) s t d la.toNat id (BitVec.allOnes 64))
      ∧ Gives (.wqry d a b la) s t d la.toNat id (wqryValue s (t.ctxId p) u v)
      ∧ Gives (.rlimq d a la) s t d la.toNat id (rlimValue x s.now (coreDist p.core) u)
      ∧ (Takes s t item → Runs (.evpost a b) s (s.setThread p (t.adds item))))
  ∧ (∀ (d a b : Reg) (la : BitVec 4) (s : State) (t : Thread), CanGive s t [ri a, ri b] d →
      let p := s.turn
      let va := readI (coreNow s) t a
      let y := readI (coreNow s) t b
      let area (align : Nat) (z : State) (u : Thread) : Prop := checkVa z p u va align needW = none
      let puts (z : State) (u : Thread) (bs : List Byte) (v : State → Word) (w : State) : Prop :=
        ∃ z', putBytes z (u.ctxId p) u.apCore u.locks va bs = .ok z' ∧ w = pendNow z' p [ri d] la.toNat false [v z']
      ActsBehind (.tnonce d a la) s t d (area 16) (fun z _ u w => puts (drawNonce z p.peer).1 u (drawNonce z p.peer).2 (fun _ => 0) w)
      ∧ ActsBehind (.caprd d a b la) s t d (area (if wbit y 63 then 64 else 32)) (fun z _ u w =>
          (capRecord z p.peer y = none ∧ w = pendNow z p [ri d] la.toNat false [BitVec.allOnes 64])
          ∨ ∃ n bs, capRecord z p.peer y = some (n, bs) ∧ puts z u bs (fun z' => (z'.dev p.peer).capGen.setWidth 64) w)
      ∧ ActsBehind (.evrd d a la) s t d (area 16) (fun z _ u w =>
          (takeRecord z p u = none ∧ w = pendNow z p [ri d] la.toNat false [BitVec.allOnes 64])
          ∨ ∃ r z', takeRecord z p u = some (r, z') ∧ puts z' u r.bytes (fun q => recordsLeft q p) w)
      ∧ ActsBehind (.evwait d a b la) s t d (area 16) (fun z _ u w => eventCodeOk y = true
          ∧ ∃ n bs z', pickEvent z p u y.toNat = some (n, bs, z') ∧ puts z' u bs (fun _ => BitVec.ofNat 64 n) w)
      ∧ (∀ s₁ t₁ z₀ u₀ z u, s₁ = pinFor s t (ri d) → s₁.thread p = some t₁ → area 16 s t → area 16 s₁ t₁ →
          tryCommit s p t false 0 (t.pc + 4) = some z₀ → z₀.thread p = some u₀ → pickEvent z₀ p u₀ y.toNat = none →
          tryCommit s₁ p t₁ false 0 (t.pc + 4) = some z → z.thread p = some u → pickEvent z p u y.toNat = none →
          eventCodeOk y = true →
          exec (.evwait d a b la) s = .next { eventWait z p va y.toNat (ri d) la.toNat with stalled := false })
      ∧ ActsBehind (.ckpt d a b la) s t d (area 4096) (fun z _ u w => (ckptImage z p u d).length ≤ y.toNat
          ∧ lookSpan z (u.ctxId p) u.apCore u.locks needW ((ckptImage z p u d).length / 16 + 3) va
              (ckptImage z p u d).length = none
          ∧ puts z u (ckptImage z p u d) (fun _ => BitVec.ofNat 64 (ckptImage z p u d).length) w))

/-- The warrant forms (R161, R164 to R171). PRESENT and WACCEPT take what they read behind their commit; WSPLIT carves a child and
gives its serial, WDELEG writes its slip and posts it, WSURR gives up a part or, with address 0, the context; WAMEND amends. -/
def Obligations.WarrantForms : Prop :=
  ∀ (d a b : Reg) (la : BitVec 4) (s : State) (t : Thread), CanGive s t [ri a, ri b] d →
    let p := s.turn
    let va := readI (coreNow s) t a
    let y := readI (coreNow s) t b
    let n := la.toNat
    let reads (align need : Nat) (z : State) (u : Thread) : Prop := checkVa z p u va align need = none
    let gives (z : State) (v : Word) (w : State) : Prop := w = pendNow z p [ri d] n false [v]
    (y = 0 → ActsBehind (.present d a b la) s t d (reads 64 needR) (fun z _ u w => ∃ r id z',
        grabRecord z p u va = .ok r ∧ recKind r = some .slip
        ∧ presentRecord z p.peer none r [] 0 none 0 (z.slack p u) = .built id z'
        ∧ gives z' (withBit63 id) w))
    ∧ (y = 0 → ActsBehind (.present d a b la) s t d (reads 64 needR) (fun z _ u w => ∃ r st z',
        grabRecord z p u va = .ok r ∧ recKind r ≠ some .warrant
        ∧ presentRecord z p.peer none r [] 0 none 0 (z.slack p u) = .refused st z'
        ∧ gives (countRefusal z' p.peer st) (statusWord st) w))
    ∧ ActsBehind (.waccept d a b la) s t d (reads 64 needR) (fun z _ u w => ∃ r x id z',
        grabAt z p u va 64 = .ok r ∧ recKind r = some .slip ∧ z.ctx (u.ctxId p) = some x
        ∧ presentRecord z p.peer none r [] 0 (some (x.doorFn, x.token)) y (z.slack p u) = .built id z' ∧ gives z' (withBit63 id) w)
    ∧ ActsBehind (.wsplit d a b la) s t d (reads 8 needR) (fun z _ u w => ∃ r x bl cv m,
        grabAt z p u va 128 = .ok r ∧ z.ctx (u.ctxId p) = some x ∧ splitCheck z (u.ctxId p) x y (some r) = .ok (bl, cv, m)
        ∧ gives (splitOff z (u.ctxId p) x u.uid y bl cv m).2 (BitVec.ofNat 64 (splitOff z (u.ctxId p) x u.uid y bl cv m).1) w)
    ∧ ActsBehind (.wdeleg d a b la) s t d (reads 64 needW) (fun z _ u w => ∃ x ch z',
        z.ctx (u.ctxId p) = some x
        ∧ x.children.find? (fun c => c.serial == y.toNat && c.presented.isNone) = some ch
        ∧ putBytes z (u.ctxId p) u.apCore u.locks va (slipBytes z p.peer ch.serial x.serial) = .ok z'
        ∧ gives (postSlip z' (u.ctxId p) x ch (((slipBytes z p.peer ch.serial x.serial).drop 32).take 16)) 0 w)
    ∧ (va ≠ 0 → ActsBehind (.wsurr d a b la) s t d (reads 8 needR) (fun z _ u w => ∃ r x bl,
        grabAt z p u va 128 = .ok r ∧ z.ctx (u.ctxId p) = some x ∧ surrenderCheck x r = .ok bl
        ∧ gives (shrink z (u.ctxId p) bl) (statusWord 0) w))
    ∧ (∀ s₁ t₁ z₀ u₀ z u, s₁ = pinFor s t (ri d) → s₁.thread p = some t₁ → va = 0 →
        tryCommit s p t false 0 (t.pc + 4) = some z₀ → z₀.thread p = some u₀ →
        tryCommit s₁ p t₁ false 0 (t.pc + 4) = some z → z.thread p = some u →
        exec (.wsurr d a b la) s = .next { stopNow (retireThread z p) (u.ctxId p) 0 y with stalled := false })
    ∧ (y = 0 → ActsBehind (.wamend d a b la) s t d (reads 64 needR) (fun z _ u w => ∃ r x z',
        grabAt z p u va 640 = .ok r ∧ z.ctx (u.ctxId p) = some x ∧ amend z (u.ctxId p) x r none = .ok z'
        ∧ gives z' (statusWord 0) w))

/-! ## Steps of the machine beside the issue of a slot -/

/-- The steps of a region (R62, R214, R216, R217). COMMIT_REGION commits the region of a slot at a commit point whenever it is
allowed to: its local stores are in memory and an empty region is open at the same instruction. TOKEN_STEP gives the token to
a region that waits for it, which is then exclusive or pinned; CMARK is at least its timestamp. PIN_BUDGET stops the context, with
the counted cycles as TVAL. -/
def Obligations.RegionSteps : Prop :=
  ∀ (p : Place) (s : State) (t : Thread) (x : Ctx), s.thread p = some t → s.ctx (t.ctxId p) = some x →
    (t.isHandler = false → t.wait = .none → atCommitPoint s p t = true → pinOut s p t = false → t.pend = [] →
      canCommit s p t = true → (s.threads.map (·.1)).Nodup → (∀ i ∈ t.region.items, ∃ sa data, i = .store sa data) →
      ∃ s' u, Does (.commitRegion p) s s' ∧ s'.thread p = some u ∧ s'.mem = t.region.items.foldl Item.apply s.mem
        ∧ u.region.items = [] ∧ u.region.reads = [] ∧ u.region.rstart = t.pc ∧ u.pc = t.pc ∧ u.i = t.i ∧ u.f = t.f)
    ∧ (∀ e : Bool, t.region.fixed = false → canToken s p t = true → (t.region.wantExcl = true ∨ t.region.want = true) →
      t.region.wantExcl = e → ∃ s' u y, Does (.tokenStep p) s s' ∧ s'.thread p = some u ∧ s'.ctx (t.ctxId p) = some y
        ∧ u.region.exclusive = e ∧ u.region.pinned = !e ∧ u.region.want = false ∧ u.region.items = t.region.items
        ∧ y.token_ = some t.uid ∧ y.cmark.toNat = max x.cmark.toNat t.region.rts.toNat ∧ s'.mem = s.mem)
    ∧ (pinOut s p t = true → x.state = .live → (∀ q ∈ t.pend, q.value.isSome = true ∧ q.push = none) → ∃ s' y, Does (.pinBudget p) s s' ∧ s'.ctx (t.ctxId p) = some y
        ∧ y.state = .stopping ∧ y.cause = some 2 ∧ t.uid ∈ y.faulted
        ∧ (x.fault = none → y.fault = some ⟨t.uid, t.pc, 0x12, BitVec.ofNat 64 (x.pinb.toNat + 1), t.tstat⟩))

/-- What a packet does at its home (R182, R201, R212, R220, R222, R245): a store is performed once its stream lets it and no
pinned or exclusive region reads its lines, a load and an atomic in one step; each is then answered.
Replies and arrivals (R57, R182, R183, R257). A result whose window has closed is in its register; an acknowledgement ends
its packet, or is lost on the fabric, and 8 µs after a transmission the packet goes again with its number and its first slack, as
a copy if it is still on its way. A barrier flips
once its expected count has arrived. -/
def Obligations.PacketSteps : Prop :=
  (∀ (s : State) (k : Packet) (sa : Nat), findPacket s k.id = some k → k.phase = .arrived → placeOf s k = some (sa, true) →
      let answers (i : Instr) (m : List Host.Cell) (res : List Word) : Prop := ∃ s' k', Does i s s' ∧ s'.mem = m
        ∧ findPacket s' k.id = some k' ∧ k'.phase = .reply ∧ k'.result = res ∧ k'.body = k.body
      let first (key : StreamKey) : Prop := (mgetD s.streams key StreamSt.reset).done.contains k.num = false
      let j := k.aged s.now
      let turn : Prop := streamLets s j = true ∧ handlerLets s j sa = true ∧ cqLets s j sa = true
      (∀ key d, k.stream = some key → (k.body = .store d ∨ k.body = .release d) → first key → turn →
        blocked s none (linesOf sa (max 1 d.length)) = false → answers (.performPacket k.id) (memWrites s.mem sa d) [])
      ∧ (∀ n conv, k.body = .read n conv → saKind sa ≠ 6 → handlerLets s k sa = true → poisonHit s sa n = false →
        answers (.remotePerform k.id) s.mem (readWords n conv (memReads (viewFor s k) sa n)))
      ∧ (∀ key op w v c, k.stream = some key → k.body = .ratomic op w v c → first key → turn →
        poisonHit s sa (if w then 4 else 8) = false → blocked s none (linesOf sa 8) = false →
        answers (.remotePerform k.id) (memWrites s.mem sa (atomBytes s.mem sa op w v c).2)
          [(atomConv op w).apply (atomBytes s.mem sa op w v c).1]))
  ∧ (∀ (s : State) (k : Packet), findPacket s k.id = some k →
      (∀ p t d v, k.phase = .reply → k.path = [] → ((∃ n conv, k.body = .read n conv) ∨ ∃ op w x c, k.body = .ratomic op w x c) →
        (s.packets.find? (fun q => k.same q && !q.dup)).map (·.id) = some k.id → k.late = false → k.result = [v] →
        s.findThread k.uid = some (p, t) → s.thread p = some t → isShared d = false →
        t.pend = [⟨k.id, [ri d], 0, none, [], false, none⟩] →
        ∃ s' u, Does (.resultArrival k.id) s s' ∧ s'.thread p = some u ∧ u.pend = []
          ∧ readI (s'.core (coreOf p)) u d = if d = 0 then 0 else v)
      ∧ (k.phase = .reply → k.path = [] → k.body.returns = false → k.late = false →
          Does (.acknowledgement k.id false) s (releaseHeld (settlePacket s k) k.uid 64)
          ∧ findPacket (settlePacket s k) k.id = none)
      ∧ (∀ key, k.stream = some key → key.fabric = true → k.num ≠ 0 → k.dup = false →
        (k.phase = .reply → Does (.acknowledgement k.id true) s (setPacket s { k with phase := .lost, path := [] }))
        ∧ (∀ sent, k.sentAt = some sent → sent + 15200 ≤ s.now → ∃ s' k', Does (.retransmit k.id) s s' ∧ k' ∈ s'.packets
          ∧ k'.phase = .request ∧ k'.num = k.num ∧ k'.body = k.body ∧ k'.slack = k.slack0 ∧ k'.sentAt = some s.now
          ∧ (k.phase = .lost → k'.id = k.id) ∧ (k.phase ≠ .lost → k'.dup = true)))
      ∧ (∀ bar n x, k.phase = .arrived → k.body = .arrival bar n → s.ctx k.ctx = some x →
        let b := mgetD x.barriers bar Barrier.reset
        b.e ≠ 0 → b.stat = false → ∃ s' y c, Does (.barrierArrival k.id) s s' ∧ s'.ctx k.ctx = some y
          ∧ mgetD y.barriers bar Barrier.reset = c ∧ c.count = (b.count + n) % b.e
          ∧ c.flips = b.flips + (b.count + n) / b.e ∧ (c.phase != b.phase) = decide ((b.count + n) / b.e % 2 = 1)))

/-- The queues of packets (R209, R230, R231, R233, R234, R235). A queue serves the least slack, and of equals the packet that entered
first, while the next queue takes it: one that holds 64 packets of slack 0 takes no further one; 32 cycles of waiting cost one unit of
slack, and fewer none; a limiter admits what its level allows; a transmitter sends to a peer that is up and does not hold it. -/
def Obligations.PacketQueues : Prop :=
  (∀ now ks k, leastSlack now ks = some k → k ∈ ks ∧ ∀ j ∈ ks, (k.aged now).slack < (j.aged now).slack
      ∨ ((k.aged now).slack = (j.aged now).slack ∧ k.ord ≤ j.ord))
  ∧ ∀ (s : State) (k : Packet),
    (∀ q, ((∃ a b, q = .crossing a b) ∨ (∃ a b c, q = .homeIn a b c) ∨ (∃ a b, q = .fabRx a b) ∨ ∃ a b, q = .source a b) →
      leastSlack s.now (inXQ s q) = some k →
      (nextTakes s (k.aged s.now) = true → Does (.queueService q) s (moveOn s k))
      ∧ (∀ r, (k.aged s.now).slack = 0 → k.path.tail.head? = some r → servesBySlack r = true →
        64 ≤ ((inXQ s r).filter (fun j => (j.aged s.now).slack == 0)).length → Does (.queueService q) s s))
    ∧ (findPacket s k.id = some k → k.waiting = true → k.phase ≠ .held → k.phase ≠ .lost →
      (k.entered + 32 ≤ s.now → Does (.slackDecrement k.id) s
        (setPacket s { k with slack := k.slack - 1, late := k.late || decide (k.slack ≤ 1), entered := k.entered + 32 }))
      ∧ (s.now < k.entered + 32 → Does (.slackDecrement k.id) s s))
    ∧ (∀ peer ctx site x x', findPacket s k.id = some k → k.path.head? = some (.shaping peer ctx site) →
      leastSlack s.now (inXQ s (.shaping peer ctx site)) = some k → k.target = none → s.ctx (limiterCtx s k.ctx peer) = some x →
      x.limiterPass site s.now (k.counted site) = some x' → nextTakes s (k.aged s.now) = true →
      Does (.limiterAdmit k.id) s (moveOn (s.setCtx (limiterCtx s k.ctx peer) x') k))
    ∧ (∀ peer plane tx, tx < 4 → mget (s.dev peer).tuned (plane, tx) = none →
      leastSlack s.now ((inXQ s (.fabTx peer plane)).filter (fun j =>
        (s.dev peer).peersUp.contains j.fabDst && !(s.dev peer).holds.contains (plane, j.fabDst))) = some k →
      nextTakes s (k.aged s.now) = true →
      ∃ s' d, Does (.transmit peer plane tx) s s' ∧ s' = moveOn (s.setDev peer d) { k.aged s.now with
          sentAt := some s.now, slack0 := if k.sentAt = none ∧ k.dup = false then (k.aged s.now).slack else k.slack0 }
        ∧ mget d.tuned (plane, tx) = some k.fabDst)
    ∧ (∀ n, Does (.linkReplay n) s s)
    ∧ (∀ peer plane dst (hold : Bool), ∃ s', Does (.holdReleaseSignal peer plane dst hold) s s'
        ∧ (s'.dev peer).holds.contains (plane, dst) = hold ∧ s'.mem = s.mem ∧ s'.threads = s.threads)

/-- The steps of an engine command, shown by CPY, and those that all commands share (R220, R225, R268, R274, R277, R278): the oldest
of its queue starts, an engine takes the started command of least slack, bytes are read and then written, and its record
goes to the slot that issued it. A waiting command enters its queue when there is room.
Host writes, layout copies and stored events (R177, R220, R227): a write from the host port is in memory once no pinned or
exclusive region reads its lines; a copy of a layout record is kept under its address; a held event enters the store. -/
def Obligations.CommandSteps : Prop :=
  (∀ (s : State) (q : Cmd), s.findCmd q.cid = some q →
      (∀ a b len, q.work = .cpy a b len → q.queue < 4 → mayStart s q = true →
        Does (.commandStart q.cid) s (s.setCmd { q with started := true, startedAt := s.now, since := s.now }))
      ∧ (∀ a b len n bs, q.work = .cpy a b len → q.queue < 4 → q.started = true → q.ended = none →
        q.prog < len → q.budget ≠ 0 →
        let src := b + BitVec.ofNat 64 q.prog
        let dst := a + BitVec.ofNat 64 q.prog
        let m := min (min (len - q.prog) q.budget) (min (32 - src.toNat % 32) (32 - dst.toNat % 32))
        let k := if n = 0 then m else min m n
        cmdGet s q src k 1 = .ok bs →
        Does (.commandRead q.cid n) s (s.setCmd { (q.took src k).spend k s.now with
          prog := q.prog + k, writes := q.writes ++ [⟨dst, bs, none⟩] }))
      ∧ (∀ n w l, q.started = true → q.writes[n]? = some w → mayWrite s q n = true → writesOpen q = true →
        writePlace s q w = .ok l →
        let sent := cmdPacket s q w.va l.ca (.cwrite q.cid w.data)
        (∀ sa, q.own l = some sa → blocked s none (linesOf sa w.data.length) = false →
          ∃ s', Does (.externalWrite (.command q.cid n)) s s' ∧ s'.mem = memWrites s.mem sa w.data
            ∧ s' = (extWrite s none sa w.data).setCmd { q with
                writes := q.writes.eraseIdx n, count := q.count + w.data.length })
        ∧ (∀ sa, q.own l = some sa → blocked s none (linesOf sa w.data.length) = true →
          Does (.externalWrite (.command q.cid n)) s ((keepPacket sent.1 sent.2).setCmd { q with writes := q.writes.eraseIdx n }))
        ∧ (q.own l = none → Does (.externalWrite (.command q.cid n)) s
            ((cmdSend s q w.va l.ca (.cwrite q.cid w.data)).setCmd { q with writes := q.writes.eraseIdx n })))
      ∧ (∀ p t t' x, q.queue < 4 → q.ct = 0 → q.refused = false → cmdDone s q = true → q.ended.getD 0 = 0 →
        recordHeld s q = false → s.ctx q.ctx = some x → x.store = [] → s.findThread q.uid = some (p, t) → s.thread p = some t →
        t.ctxId p = q.ctx → t.take (.inr ⟨q.tag, 0, q.moved, s.nextId⟩) = some t' →
        Does (.commandComplete q.cid) s (removeCmd (noteRecords (s.fresh.2.setThread p t') q.ctx p) q))
      ∧ (4 ≤ q.queue → q.refused = false → cmdDone s q = true → q.ended.getD 0 = 0 →
        Does (.commandComplete q.cid) s (removeCmd s q))
      ∧ (∀ peer dist qtr kind, let all := (quarterCmds s peer dist qtr).filter (fun d => d.work.engine == some kind)
        (all.filter Cmd.served).length < engineCount kind → all.filter Cmd.offers ≠ [] →
        ∃ d ∈ all.filter Cmd.offers, (∀ e ∈ all.filter Cmd.offers, d.slack - d.fallen s.now < e.slack - e.fallen s.now
              ∨ (d.slack - d.fallen s.now = e.slack - e.fallen s.now ∧ d.startedAt ≤ e.startedAt))
          ∧ Does (.engineSelect peer dist qtr kind) s (s.setCmd { d with budget := 65536, lost := d.fallen s.now }))
      ∧ (∀ c pre, (s.core c).cmds = pre ++ [q] → (∀ d ∈ pre, d.entered = true ∧ d.cid ≠ q.cid) → q.entered = false →
        q.work.isRelease = false → (∀ m, q.work ≠ .fence m) → (s.core c).inQueue q.queue < queueCap q.queue →
        ∃ s', Does (.queueEntry c) s s' ∧ (s'.core c).cmds = pre ++ [{ q with
          entered := true
          since := s.now
          waits := q.waits ++ (s.core c).waitsFor q.queue }]))
  ∧ (∀ (s : State) (c : CtxId) (x : Ctx) (pa : Nat), s.ctx c = some x →
      (∀ bs : List Byte, saKind pa < 4 → pa + bs.length < 2 ^ 64 → blocked s none (linesOf pa bs.length) = false → sliceFree s pa = true →
        ∃ s', Does (.externalWrite (.host pa bs)) s s' ∧ s' = extWriteBy false s none pa bs ∧ s'.mem = memWrites s.mem pa bs
          ∧ (∀ q u, s.threads = [(q, u)] → u.region.fixed = false → (∃ n ∈ linesOf pa bs.length, n ∈ u.region.reads) →
              bs ≠ [] → s'.thread q = some (u.restart true)))
      ∧ (pa % 32 = 0 → poisonHit s pa 256 = false →
        Does (.lpCopy c pa) s (s.setCtx c { x with lp := mset x.lp pa (readSa s pa 256) }))
      ∧ (∀ h : Stored, x.held = [h] → x.generals < 256 → h.uid = none → (∀ e ∈ x.store, e.uid = none) →
        (∀ k ∈ s.cores, ∀ q ∈ k.2.cmds, q.refused = false) →
        Does (.eventStoreEntry c) s (s.setCtx c { x with held := [], store := x.store ++ [{ h with reserved := false }] })))

/-- The lane groups and the sequencer of the matrix unit (R276, R315, R343, R345). A lane group takes a slice of the one core that
offers one, whose credit comes to what it was; MGEMM_STEP accumulates one 32 × 32 × 32 product in the tile, MGEMM_DRAIN queues
the writes of a tile that is complete; a burst ends after 4,096 idle cycles, its ramp-down after 32, and the unit is cold (core
cycles of the island, R4). -/
def Obligations.UnitSteps : Prop :=
  ∀ (s : State) (c : CoreId) (q : Cmd),
    (∀ dist qtr grp core, c = ⟨c.peer, core⟩ → q.core = c → eligible s c = some q →
      (groupCores dist qtr grp).filter (fun n => (eligible s ⟨c.peer, n⟩).isSome) = [core] →
      lanesBusy s ((groupCores dist qtr grp).map (fun n => (⟨c.peer, n⟩ : CoreId))) < 4 →
      ∃ s', Does (.sliceSelect c.peer dist qtr grp) s s'
        ∧ (s'.core c).head 4 = some { q with prog := q.prog + 1, runs := q.runs ++ [⟨q.prog, 0, none⟩] }
        ∧ (s'.core c).credit = (s.core c).credit)
    ∧ (∀ rec_ tile oa ob fmta fmtb fmtc scla sclb seed,
      q.work = .mgemm rec_ tile oa ob fmta fmtb fmtc scla sclb seed → runningGemm s c = some q → q.core = c → q.budget = 0 →
      q.prog < gemmTotal q.record → (gemmNeeds q).length ≤ q.got.length →
      let r := q.record
      let fa := fmtFields fmta
      let fb := fmtFields fmtb
      let n := leAt r 4 2 / 32
      let mt := q.prog / (n * (leAt r 2 2 / 32))
      let nt := q.prog / n % (leAt r 2 2 / 32)
      let kt := q.prog % n
      let na := (scaleNeeds fa scla (fun _ _ => 0)).length
      gemmNeeds q = tileNeeds fa.size (fun i j =>
          offW (leAt r 8 8) + offW ((32 * mt + i) * leAt r 0x20 4 + (32 * kt + j) * fa.size))
        ++ tileNeeds fb.size (fun i j =>
          offW (leAt r 0x10 8) + offW ((32 * kt + i) * leAt r 0x24 4 + (32 * nt + j) * fb.size))
        ++ scaleNeeds fa scla (fun i t => (32 * mt + i) * leAt r 0x2C 2 + 32 * kt / fa.block + t)
        ++ scaleNeeds fb sclb (fun i t => (32 * kt / fb.block + t) * leAt r 0x2E 2 + 32 * nt + i)
      ∧ ∃ s', Does (.mgemmStep c) s s' ∧ s'.mem = s.mem ∧ ((s'.core c).tile tile) =
          (tileStep fa.eff fb.eff (q.got.take 1024).flatten ((q.got.drop 1024).take 1024).flatten
            (scaleGrid fa ((q.got.drop 2048).take na)) (scaleGrid fb ((q.got.drop 2048).drop na))
            (if kt = 0 ∧ leAt r 6 2 = 0 then List.replicate 1024 0 else (s.core c).tile tile)).map (·.1)
        ∧ (s'.core c).head 5 = some { q with prog := q.prog + 1, got := [], budget := if kt + 1 = n then 1 else 0 })
    ∧ (∀ rec_ tile oa ob fmta fmtb fmtc scla sclb seed ws,
      q.work = .mgemm rec_ tile oa ob fmta fmtb fmtc scla sclb seed → runningGemm s c = some q → q.core = c → q.budget = 1 →
      let r := q.record
      let f := fmtFields fmtc
      let n := leAt r 4 2 / 32
      let mt := (q.prog - 1) / (n * (leAt r 2 2 / 32))
      let nt := (q.prog - 1) / n % (leAt r 2 2 / 32)
      drainList s q f seed ((s.core c).tile tile) (offW (leAt r 0x18 8) + offW (32 * mt * leAt r 0x28 4 + 32 * nt * f.size))
        (leAt r 0x28 4) (fun i j => (32 * mt + i) * leAt r 2 2 + 32 * nt + j) tileCells = (ws, none) →
      ∃ s', Does (.mgemmDrain c) s s' ∧ s'.mem = s.mem ∧ (s'.core c).head 5 = some { q with
        budget := 0, writes := q.writes ++ ws.map (·.1), ended := if gemmTotal r ≤ q.prog then some 0 else none })
    ∧ (let k := s.core c
      (k.burst ≠ 0 → k.burstAt + 4096 ≤ k.cycle → (∀ last, k.mmaAt = some last → last + 4096 ≤ k.cycle) →
        Does (.burstExpiry c) s (s.setCore c { k with burst := 0, rampAt := some k.cycle }))
      ∧ (∀ start, k.rampAt = some start → start + 32 ≤ k.cycle → Does (.rampDownEnd c) s (s.setCore c { k with rampAt := none })
        ∧ (k.burst = 0 → (∀ last, k.mmaAt = some last → last + 256 ≤ k.cycle) → ({ k with rampAt := none } : Core).cold = true)))

/-- Windows, translations and handlers (R64, R191, R202, R253, R254). WINDOW_SPILL writes the lowest frame that the area does not
hold, WINDOW_FILL brings the top frame back; WALK_COMPLETE caches what a walk finds; slot 15 takes the next message, with
its offset and its arguments in i8 to i11, and ends at its 65th instruction with an event of exit word 0x100.
In a handler (R254) register instructions run, shown for ADD; loads, stores and returning atomics of its core's slice are made at
once, the writes as external ones; an access elsewhere and a form that a handler may not execute end it. -/
def Obligations.SlotSteps : Prop :=
  (∀ (i : Instr) (s : State) (t : Thread) (l : Loc) (sa : Nat),
    let ends : Prop := exec i s = .next { misuse s s.turn t with stalled := false } ∧ (misuse s s.turn t).thread s.turn = none
    (∀ w d a b, i = .add w d a b → HandlerIssue s t [ri a, ri b, ri d] →
      Runs i s (s.writeReg s.turn (ri d) (at2 w (fun _ x y => x + y) (readI (coreNow s) t a) (readI (coreNow s) t b))))
    ∧ (∀ f, loadForm i = some f → handlerAllows (wordOf i) = true → HandlerIssue s t (f.uses ++ f.dsts) → t.acquiring = false →
      let va := f.addr (coreNow s) t
      (∀ c, lookT s s.turn t va f.size f.size needR = .fault c → Traps i s c.code c.value)
      ∧ (HandlerAt s t va f.size needR l sa → poisonHit s sa f.size = false →
        Runs i s (pendNow s s.turn f.dsts f.la f.acquire (f.value (memReads s.mem sa f.size))))
      ∧ (lookT s s.turn t va f.size f.size needR = .ok l → l.sa = none ∨ l.sa = some sa ∧
          (saKind sa ≠ 3 ∨ scratchCore (saOff sa) ≠ s.turn.core) → ends))
    ∧ (∀ f, storeForm? i = some f → handlerAllows (wordOf i) = true → HandlerIssue s t f.uses → t.acquiring = false →
      let va := f.addr (coreNow s) t
      let data := f.data (coreNow s) t
      (HandlerAt s t va data.length needW l sa → blocked s none (linesOf sa data.length) = false → Settled s →
        ∃ s', Runs i s s' ∧ s'.mem = memWrites s.mem sa data ∧ ReadersRestart s s' (linesOf sa data.length))
      ∧ (lookT s s.turn t va data.length data.length needW = .ok l → l.sa = none ∨ l.sa = some sa ∧
          (saKind sa ≠ 3 ∨ scratchCore (saOff sa) ≠ s.turn.core) → ends))
    ∧ (∀ f d, atomForm i = some f → f.d = some d → handlerAllows (wordOf i) = true → HandlerIssue s t f.uses →
      t.acquiring = false →
      let n : Nat := if f.w then 4 else 8
      let old := leNat (memReads s.mem sa n)
      let new := atomNew f.op f.w old (readReg (coreNow s) t f.b).toNat (readI (coreNow s) t f.cmp).toNat
      let conv : Conv := if f.op = .fadd ∨ f.op = .fmin ∨ f.op = .fmax then .zx (8 * n) else .sx (8 * n)
      HandlerAt s t (readI (coreNow s) t f.a) n needRW l sa → poisonHit s sa n = false → blocked s none (linesOf sa n) = false →
      Settled s → ∃ s', Runs i s (pendNow s' s.turn [d] f.la false [conv.apply old]) ∧ s'.mem = memWrites s.mem sa (leBytes n new)
        ∧ ReadersRestart s s' (linesOf sa n))
    ∧ (∀ a b d, i ∈ [.jwait a, .go a, .gohome, .amsg a b, .rgn a, .cmt, .lateq d, .wflush] → s.thread s.turn = some t →
      t.isHandler = true → ends))
  ∧ ∀ (s : State) (p : Place) (t : Thread) (x : Ctx),
    (∀ n f rest sas, s.thread p = some t → t.unspilled = (n, f) :: rest → t.frames.length ≤ t.wdep.toNat →
      framePieces s p t needW n = some sas → piecesBlocked s t.uid sas = false → piecesAway s p sas = false →
      ∃ s' u, Does (.windowSpill p) s s' ∧ s'.thread p = some u ∧ u.unspilled = rest
        ∧ u.frames.map (·.win) = t.frames.map (·.win) ∧ u.wdep = t.wdep ∧ s'.mem = (writePieces s t.uid sas f.bytes).mem)
    ∧ (∀ sas, s.thread p = some t → t.frames = [] → t.wdep ≠ 0 → framePieces s p t needR t.wdep.toNat = some sas →
      piecesAway s p sas = false → Does (.windowFill p) s (s.setThread p { t with frames := [Frame.ofWords (sas.map (fun a =>
        BitVec.ofNat 64 (leNat (memReads s.mem a 8))))] }))
    ∧ (∀ va r, s.thread p = some t → s.ctx (t.ctxId p) = some x → s.cached (t.ctxId p) va = [] →
      walk s (t.ctxId p) x va = some r → Does (.walkComplete p va) s (cacheFor s p t.ctx (r.covers t.pc) r))
    ∧ (∀ m rest a0 a1 a2, p.slot = 15 → hqItems s (coreOf p) = .code m :: rest → hqHeld s (coreOf p) = false →
      s.thread p = none → s.ctx m.ctx = some x → m.args = [a0, a1, a2] → ∃ s' u, Does (.activeMessage (coreOf p)) s s' ∧ s'.thread p = some u
        ∧ u.pc = m.entry ∧ u.ctx = m.ctx.id ∧ u.isHandler = true ∧ (s'.core (coreOf p)).hq = rest
        ∧ u.i[8] = m.off ∧ u.i[9] = a0 ∧ u.i[10] = a1 ∧ u.i[11] = a2 ∧ u.slk = BitVec.ofNat 12 m.slk)
    ∧ (∀ uid slot n q u, p.slot = 15 → s.thread p = some t → t.role = .handler uid slot n → 64 ≤ n → t.settled = true →
      (s.freeSlot p).findThread uid = some (q, u) → (s.freeSlot p).thread q = some u → q.peer = p.peer → u.ctx = t.ctx →
      s.ctx (t.ctxId p) = some x → x.store = [] → u.events.length < 16 →
      ∃ s' w, Does (.handlerInstructionLimit (coreOf p)) s s' ∧ s'.thread p = none ∧ s'.thread q = some w
        ∧ w = { u with events := w.events } ∧ (u.events ++ [⟨0x64, t.ctx, 0x100, s.nextId⟩]) <+: w.events)

/-- Pages (R135, R152, R158, R204). A page that arrives from tier-2, or from the host under the current generation, is resident
with its bytes, and its slots go on; a response of another generation is counted; a page above the cap leaves HBM.
Threads on the move (R145, R146, R195 to R197, R369). A migration leaves once its region has committed and its frames are
written, and its slot is free; it arrives with its registers, and its region opens there. A hot island's fullest core displaces its
highest thread that may go, which keeps its aperture core and its locks, and the
next follows 19,000 reference cycles later (log entry 82). -/
def Obligations.PagesAndMoves : Prop :=
  (∀ (s : State) (c : CtxId) (x : Ctx) (page : Nat) (g : Page), s.ctx c = some x → x.hbm[page]? = some g →
      Memory.wf s.mem = true →
      (∀ place, g.where_ = .tier2 → gainPlace s c x = some (s, place) →
        ∃ s' s₁ y, Does (.pageArrival c page) s s' ∧ s' = wakePage (noteResidence s₁ c) c page
          ∧ s'.ctx c = some y ∧ y.hbm[page]? = some ⟨place, .hbm, s.now⟩
          ∧ (∀ j, j < 4096 → memRead s₁.mem (place + j) = memRead s.mem (g.sa + j))
          ∧ (∀ p t, (s.threads.map (fun e => e.1)).Nodup → s.thread p = some t → p.peer = c.peer → t.ctx = c.id →
              t.wait = .page c.peer page → (t.region.fixed = true ∨ t.region.reads = []) →
              ∃ u, s'.thread p = some u ∧ u.wait = .none ∧ u.pc = t.pc ∧ u.i = t.i))
      ∧ (∀ fn gen bs s₁ place, gen = (mgetD (s.dev c.peer).doors fn (Door.reset fn)).gen.toNat → x.doorFn = fn → g.where_ = .host →
        x.requests.any (fun r => r.1 == page) = true →
        s₁ = (s.setCtx c { x with requests := x.requests.filter (fun r => r.1 != page) }).writes g.sa
          (bs.take 4096 ++ List.replicate (4096 - bs.length) 0) → gainPlace s₁ c x = some (s₁, place) →
        ∃ s' s₂ y, Does (.pageResponse c fn gen page bs) s s' ∧ s' = wakePage (noteResidence s₂ c) c page
          ∧ s'.ctx c = some y ∧ y.hbm[page]? = some ⟨place, .hbm, s.now⟩
          ∧ y.requests = x.requests.filter (fun r => r.1 != page)
          ∧ (∀ j, j < 4096 → memRead s₂.mem (place + j) = bs[j]?.getD 0))
      ∧ (∀ fn gen bs, gen ≠ (mgetD (s.dev c.peer).doors fn (Door.reset fn)).gen.toNat → (s.dev c.peer).pridrop ≠ BitVec.allOnes 64 →
        Does (.pageResponse c fn gen page bs) s (s.setDev c.peer { s.dev c.peer with pridrop := (s.dev c.peer).pridrop + 1 }))
      ∧ (x.cap < x.resident → x.oldest x.hbm.length = some page →
        let place := ((x.freeTier2 s).bind (fun j => x.tier2[j]?)).getD (outPlace s c.peer)
        ∃ s₁ y, Does (.pageMoveComplete c page) s (settleOwed s₁ c) ∧ s₁.ctx c = some y
          ∧ y.hbm[page]? = some ⟨place, residenceOf place, g.used⟩))
  ∧ (∀ (s : State) (m : Mig),
      (∀ p t s₂ s₃, s.thread p = some t → s.migs.find? (fun n => n.thread.uid == t.uid && !n.displaced) = some m →
        (∀ q ∈ t.pend, (q.id = m.id ∧ (q.left = 0 ∨ m.early = true)) ∨ (q.id ≠ m.id ∧ q.value.isSome = true)) →
        framesWritable s p t = true → pinOut s p t = false →
        let u := { t with pend := t.pend.filter (fun q => q.id != m.id) }
        tryCommit (s.setThread p u) p u false 0 t.pc = some s₂ → flushFrames s₂ p = .ok s₃ →
        ∃ s', Does (.migrationDepart p) s s' ∧ s'.thread p = none)
      ∧ (∀ c, s.migs.find? (fun n => n.id == m.id && !n.displaced) = some m → s.findThread m.thread.uid = none →
        carried s m.id = true → m.landed = false → member s ⟨m.src.peer, m.thread.ctx⟩ m.dst.peer = some c → m.access = none →
        ∃ s' u, Does (.migrationArrival m.id) s s' ∧ s'.thread m.dst = some u ∧ u.pc = m.thread.pc ∧ u.i = m.thread.i
          ∧ u.f = m.thread.f ∧ u.wdep = m.thread.wdep ∧ u.apCore = m.dst.core ∧ u.ctx = c.id ∧ u.region.rstart = m.thread.pc
          ∧ u.region.items = [] ∧ u.region.explicit = false)
      ∧ (∀ c va n conv ds s₁ vs, s.migs.find? (fun n => n.id == m.id && !n.displaced) = some m → s.findThread m.thread.uid = none →
        carried s m.id = true → member s ⟨m.src.peer, m.thread.ctx⟩ m.dst.peer = some c → m.access = some (va, .read n conv, ds) →
        deniedAt s c m = false →
        arrivalAccess (uncarry s m.id) c m.thread.uid m.dst va (.read n conv) = .ok s₁ vs → Does (.migrationArrival m.id) s (land s₁ c m (some vs)))
      ∧ (∀ peer island p t rest s', let i := (s.dev peer).island island
        i.hot = true → (i.shedAt = none ∨ ∃ last, i.shedAt = some last ∧ last + 19000 ≤ s.now) →
        generalThreads s ⟨peer, fullestCore s peer island⟩ = (p, t) :: rest → displace s p t = some s' →
        ∃ s₁, Does (.thermalDisplacement peer island) s s₁ ∧ s₁.thread p = none ∧ s₁.migs = s'.migs
          ∧ ((s₁.dev peer).island island).shedAt = some s.now ∧ ∃ n ∈ s'.migs, n.displaced = true ∧ n.src = p ∧ n.access = none)
      ∧ (∀ peer island last, let i := (s.dev peer).island island
        (i.hot = false ∨ (i.shedAt = some last ∧ s.now < last + 19000)) → Does (.thermalDisplacement peer island) s s)
      ∧ (s.migs.find? (fun n => n.id == m.id && n.displaced) = some m → s.findThread m.thread.uid = none → carried s m.id = true →
        ∃ s' u, Does (.displacementArrival m.id) s s' ∧ s'.thread m.dst = some u ∧ u.pc = m.thread.pc ∧ u.i = m.thread.i
          ∧ u.f = m.thread.f ∧ u.apCore = m.thread.apCore ∧ u.locks = m.thread.locks ∧ u.wait = m.thread.wait))

/-- Kernels (R23, R24, R28, R257, R332, R350, R351, R355, R358, R361, R362, R371, R374, R377, R378). Teams are placed, by their map or in rotation; items and tasks start
in free slots with their registers; a parked parent takes its slot back once its counter reads 0; a spawn starts its child in the
lowest free slot of its core or is refused; the summary heap answers its requests; a
barrier's statistics are gathered in the gather step, which takes the record where its bytes cannot be written yet (log entry 32,
DEDUCED), and only the flip waits for them. -/
def Obligations.KernelSteps : Prop :=
  ∀ (s : State) (c : CtxId) (x : Ctx) (k : Kernel) (n : Nat), s.ctx c = some x → x.kernel n = some k →
    let starts (i : Instr) (core slot : Nat) (pc : Word) (role : Role) (regs : List (Nat × Word)) : Prop :=
      ∃ s' u, Does i s s' ∧ s'.thread ⟨c.peer, core, slot⟩ = some u ∧ u.ctx = c.id ∧ u.pc = pc ∧ u.role = role
        ∧ ∀ e ∈ regs, u.i[e.1]? = some e.2
    (∀ d, k.map = none → k.nextTeam < k.teamCount → x.districts[k.rr % x.districts.length]? = some d →
      Does (.teamPlacement c n) s (s.setKernel c
        { k with teams := k.teams ++ [⟨k.nextTeam, d, 0⟩], nextTeam := k.nextTeam + 1, rr := k.rr + 1 }))
    ∧ (∀ base stride len d, k.map = some (base, stride, len) → k.nextTeam < k.teamCount → d ∈ x.districts →
      mostBytes (residentBytes s c ((base + BitVec.ofNat 64 (k.teamIndex k.nextTeam) * stride).toNat) len.toNat) = some d →
      Does (.teamPlacement c n) s (s.setKernel c
        { k with teams := k.teams ++ [⟨k.nextTeam, d, 0⟩], nextTeam := k.nextTeam + 1 }))
    ∧ (∀ dist core slot team, x.state = .live → storesOpen s k.uid k.born = false → itemSlot s c dist = some (core, slot) →
      k.nextFrom dist none = some team →
      let wid : Word := BitVec.ofNat 64 (k.wid team.index team.given)
      starts (.itemDistribution c n dist) core slot k.entry (.item k.num true team.index)
        [(8, wid), (9, BitVec.ofNat 64 k.num), (10, k.arg), (11, 0)])
    ∧ (∀ core slot heap e s₁, k.mask ≠ 0 → k.closed = false → k.closing = false → x.state = .live → taskWaits x n = false →
      k.bound.all (fun e => x.slots.contains e) = true → freeBound s c k = some (core, slot) → k.source (core / 256) = some heap →
      topOf (k.ready heap) = some e → putKernel s c k (takeEntry s c x k heap e) = .ok s₁ → storesOpen s k.uid k.born = false →
      starts (.dispatch c n) core slot (k.table[e.sel]?.getD 0) (.task k.num e.key e.gain)
        [(8, e.key.setWidth 64), (9, BitVec.ofNat 64 (core / 256)), (10, k.arg), (11, 0)])
    ∧ (∀ p t rest va, mgetD s.donors p [] = t :: rest → t.wait = .donating va → t.ctxId p = c → x.state = .live →
      s.thread p = none → (∀ m ∈ s.migs, m.dst ≠ p) → counterHit s c t va = false → counterAt s c t va = some 0 →
      ∃ s' u, Does (.donorResume p) s s' ∧ s'.thread p = some u ∧ u.wait = .ended ∧ u.pc = t.pc ∧ u.i = t.i ∧ u.f = t.f
        ∧ mgetD s'.donors p [] = rest)
    ∧ (∀ q fn a b s₁ v, findPacket s q.id = some q → q.phase = .arrived → q.body = .heap fn a b n → q.ctx = c →
      s.findThread q.uid = none → x.heapOf n = some k → heapStep s c n fn 0 [] a b = .ok (s₁, v) →
      Does (.heapUpdate q.id) s (answerUnit s₁ (q.aged s.now) k.summary [v]))
    ∧ (∀ q a b v, findPacket s q.id = some q → q.phase = .arrived → q.ctx = c → x.heapOf n = some k →
      ((q.body = .heap 2 a b n ∧ badOperand 2 a b = false ∧ v = heapItem k (opKey a) b.toNat)
        ∨ (q.body = .heap 6 a b n ∧ badOperand 6 a b = false ∧ k.closed = false ∧ k.closing = false
          ∧ ∃ e, k.topReady = some e ∧ v = withBit63 (2 ^ 32 * k.home e.key + e.key.toNat))) →
      Does (.heapUpdate q.id) s (answerUnit s (q.aged s.now) k.summary [v]))
    ∧ (∀ q core entry a0 a1 a2 a3 wid slk slot, findPacket s q.id = some q → q.phase = .arrived →
      q.body = .spawn core entry [a0, a1, a2, a3] wid slk → q.ctx = c → storesOpen s q.uid q.id = false →
      spawnTurn s q = true →
      let free := (s.freeSlots c).filter (fun e => e.1 == core)
      (lowest free = some (core, slot) → storeUsed s c.peer (core / 256) < 256 →
        starts (.spawnAccept q.id) core slot entry .child [(8, a0), (9, a1), (10, a2), (11, a3)])
      ∧ (free = [] → Does (.spawnAccept q.id) s (answerUnit s q (core / 256) [statusWord stNoSlot])))
    ∧ (∀ bar, let b := mgetD x.barriers bar Barrier.reset
      (b.stat = true → x.barb.toNat / 2 ^ 21 ≠ 0 → b.gathered = false → b.e ≠ 0 → b.e ≤ b.count →
        Does (.statisticsGather c bar) s (zeroCounters (setBarrier s c bar
          { b with count := b.count - b.e, gathered := true, record := some (statRecord s c x bar b) }) c x))
      ∧ (∀ s₁, b.gathered = true → writeStat s c x bar (b.record.getD []) = .ok s₁ →
        ∃ s' y, Does (.statisticsFlip c bar) s s' ∧ s'.mem = s₁.mem ∧ s'.ctx c = some y
        ∧ mgetD y.barriers bar Barrier.reset = { b with gathered := false, record := none, phase := !b.phase, flips := b.flips + 1 })
      ∧ (b.gathered = true → writeStat s c x bar (b.record.getD []) = .held → Does (.statisticsFlip c bar) s s))

/-- Queues and governors (R285 to R287, R306). An enqueue puts the payload and its sender's word at the tail, a dequeue takes the record
at the head; a queue that is not live is read in from its header; a governor lends the last group of the donor to a stage at its
high mark, and sends the latest group home from a stage at its low mark, every 4,096 cycles at most. -/
def Obligations.QueueSteps : Prop :=
  ∀ (s : State) (c : CtxId) (x : Ctx), s.ctx c = some x →
    (∀ k h v core q, findPacket s k.id = some k → k.phase = .arrived → k.body = .queue 1 h v core → queueTurn s k = true → k.ctx = c → hCtx h = c.id →
      handleCheck s c.peer h = none → hasRights h 4 = true → isRole h = false → queueOf s c.peer h = some q → q.live = true → q.count < q.cap →
      spansCover x.spans (scratchCore (saOff (q.ring q.tail))) (saOff (q.ring q.tail) % 2 ^ 17) 16 = true →
      blocked s none (linesOf (q.ring q.tail) 16) = false →
      ∃ s' y k', Does (.queueOperation k.id) s s' ∧ s'.ctx c = some y ∧ findPacket s' k.id = some k' ∧ k'.phase = .reply
        ∧ k'.result = [0] ∧ mget y.queues (hQid h) = some { q with tail := (q.tail + 1) % 2 ^ 32, seq := (q.seq + 1) % 2 ^ 32, used := s.now }
        ∧ s'.mem = memWrites s.mem (q.ring q.tail) (leBytes 8 v.toNat ++ leBytes 8 (c.id % 2 ^ 14 * 2 ^ 34 + q.seq)))
    ∧ (∀ k h va core q s₁, findPacket s k.id = some k → k.phase = .arrived → k.body = .queue 2 h va core → queueTurn s k = true → k.ctx = c → hCtx h = c.id →
      handleCheck s c.peer h = none → hasRights h 2 = true → isRole h = false → queueOf s c.peer h = some q → q.live = true → q.count ≠ 0 →
      s.findThread k.uid = none → putBytes s c 0 [] va (memReads s.mem (q.ring q.head) 16) = .ok s₁ →
      ∃ s' k', Does (.queueOperation k.id) s s' ∧ s' = answerUnit
          (setQueue s₁ c (hQid h) { q with head := (q.head + 1) % 2 ^ 32, used := s₁.now }) (k.aged s.now) (queueUnit k.place 2 h va) [0]
        ∧ findPacket s' k.id = some k' ∧ k'.phase = .reply ∧ k'.result = [0])
    ∧ (∀ qid q, mget x.queues qid = some q → q.exists_ = true → q.live = false → (liveQueues s c.peer (qid % 32)).length < 64 →
      Does (.queueSwapIn c qid) s (setQueue s c qid { q.loaded s with live := true, used := s.now }))
    ∧ (∀ peer dist pipe stage g i n, mget (s.dev peer).pipes (8 * dist + pipe) = some g → g.mayAct s.now = true → stage < g.handles.length →
      highActs s peer g stage = true → (∀ j, j < stage → highActs s peer g j = false) →
      donorOf s peer g stage = some i → (g.serving i).getLast? = some n →
      ∃ s' g', Does (.governorLend peer dist pipe stage) s s' ∧ mget (s'.dev peer).pipes (8 * dist + pipe) = some g'
        ∧ mget g'.serves n = some stage ∧ (∀ m, m ≠ n → mget g'.serves m = mget g.serves m) ∧ g'.lastAct = some s.now)
    ∧ (∀ peer dist pipe stage g n, mget (s.dev peer).pipes (8 * dist + pipe) = some g → g.mayAct s.now = true →
      lowActs s peer g stage = true → (∀ j, j < g.handles.length → highActs s peer g j = false) →
      (∀ j, j < stage → lowActs s peer g j = false) → g.lent.find? (fun e => e.2 == stage) = some (n, stage) →
      ∃ s' g', Does (.governorReturn peer dist pipe stage) s s' ∧ mget (s'.dev peer).pipes (8 * dist + pipe) = some g'
        ∧ mget g'.serves n = some (mgetD g.home n 0) ∧ (∀ m, m ≠ n → mget g'.serves m = mget g.serves m) ∧ g'.lastAct = some s.now)

/-- Stops and what follows them (R135, R140 to R144, R149 to R151, R154, R157). A cause stops a LIVE context; one that comes to rest is
PARKED without slots, or gone in one step with all below it if it is surrendered; a parked one resumes, here or on another device; a slot goes to the context
that needs it and comes back to a waiting thread. -/
def Obligations.StopSteps : Prop :=
  ∀ (s : State) (c : CtxId) (x : Ctx), s.ctx c = some x →
    (∀ cause exit, x.state = .live →
      stopCtx s c cause exit = s.setCtx c { x with state := .stopping, cause := some cause, exitWord := exit })
    ∧ (∀ cause exit, x.state = .stopping → x.ending = false →
      stopCtx s c cause exit = s.setCtx c (if causeRank cause < causeRank (x.cause.getD 99)
        then { x with cause := some cause, exitWord := exit } else x))
    ∧ Does (.hostPark c) s (stopNow (showCmd s c 1 0) c 7 0)
    ∧ Does (.hostSurrender c) s (stopNow (showCmd s c 3 0) c 5 0)
    ∧ (expired s c x = true → x.state ≠ .faulted → Does (.contextExpiry c) s (stopNow s c 1 0))
    ∧ (x.state = .orphaned → holdLapsed s c x = true → Does (.orphanTimeout c) s (stopNow s c 4 0))
    ∧ (∀ s₁ s₂ y, x.state = .stopping → x.cause = some 7 → unloadAll s c = some s₁ → s₁.ctx c = some y →
      writeWhole s₁ c y 7 = some s₂ →
      ∃ s' z, Does (.stopComplete c) s s' ∧ s'.ctx c = some z ∧ z.state = .parked ∧ z.slots = [] ∧ z.whole.isSome = true)
    ∧ (∀ s₁, x.state = .stopping → x.cause = some 5 → x.liveAs = none → (∀ id, x.parent = some id → ending s ⟨c.peer, id⟩ = false) →
      restTree s c 9 = (s₁, true) → Does (.stopComplete c) s (endTree s₁ c false 9) ∧ (endTree s₁ c false 9).ctx c = none)
    ∧ (x.state = .parked → x.liveAs = none → x.ending = false → pagesLoad s (x.whole.getD []) = true → ∃ s' y, Does (.hostResume c) s s' ∧ s'.ctx c = some y ∧ y.state = .live ∧ y.cause = none)
    ∧ (∀ target, migratable (showCmd s c 4 target) c x target = true → x.liveAs = none →
      let y := { x with liveTo := some target }
      let s₁ := (showCmd s c 4 target).setCtx c y
      (x.state = .parked → Does (.hostLiveMigrate c target) s ((writeWhole s₁ c y 8).getD s₁))
      ∧ (x.state ≠ .parked → Does (.hostLiveMigrate c target) s (stopNow s₁ c 8 0)))
    ∧ (∀ target q, x.state = .parked → x.liveTo = some target → x.liveAs = none → x.ending = false → sentImage s x = true →
      migratable s c x target = true →
      (s.dev target).ready = true → classTest s target x.cls Block.zero x.block true = true → movePlan s x target = some q →
      ∃ s' y z, Does (.liveMigrationImage c target) s s' ∧ s'.ctx c = some z ∧ z.liveAs = some q.ctx ∧ z.state = .parked
        ∧ s'.ctx ⟨target, q.ctx⟩ = some y ∧ y.state = .live ∧ y.serial = x.serial ∧ y.block = x.block)
    ∧ (∀ s₁, x.state = .parked → x.liveAs.isSome = true → x.parent = none → restTree (s.setCtx c (x.stopFor 5 0)) c 9 = (s₁, true) →
      Does (.liveMigrationRelease c) s (endTree s₁ c true 9) ∧ (endTree s₁ c true 9).ctx c = none)
    ∧ (∀ peer, Does (.eccError (.corrected peer)) s (s.setDev peer { s.dev peer with corrected := (s.dev peer).corrected + 1 }))
    ∧ (∀ n, ownerOf s n = some c → x.state = .live → ∃ s' y, Does (.eccError (.line n)) s s' ∧ s'.poisoned.contains n = true
        ∧ s'.ctx c = some y ∧ y.state = .stopping ∧ y.cause = some 3)
    ∧ (∀ p t, s.thread p = some t → t.region.fixed = false → Does (.eccError (.slot p)) s (abortPlace s p true))
    ∧ (∀ needy y rest e, x.owesSlots = false → x.fractional = true → x.state = .live →
      wanting s c.peer x.coreHome = (needy, y) :: rest → freeOn s c.peer x.coreHome = [] → needy ≠ c → s.ctx needy = some y →
      oldestCommit (victimsOn s c.peer x.coreHome (needy, y)) = some c →
      highest ((yieldable s c x needy).filter (fun e => s.slotFree ⟨c.peer, e.1, e.2⟩)) = some e →
      let s₁ := s.setCtx c { x with slots := x.slots.filter (· != e) }
      Does (.slotReclaim c) s (s₁.setCtx needy (y.takeSlot s₁ needy e)))
    ∧ (∀ m rest core slot, x.state = .live → x.images = m :: rest → pagesLoad s m.pages = true →
      m.slotFor s c x = some (core, slot) →
      ∃ s' u, Does (.slotReturn c) s s' ∧ s'.thread ⟨c.peer, core, slot⟩ = some u ∧ u.pc = m.thread.pc ∧ u.i = m.thread.i
        ∧ u.f = m.thread.f ∧ u.wait = .none)

/-- Presentation and redemption (R118 to R121, R124, R127 to R131, R153). The entry of a presentation ring is read with its record
and image, and answered by an event with its status, or kept while its home is asked; a malformed one sets DSTAT.RING (log entry 55).
An accepted certificate sets the time, a declaration the ratios, an enrolment and a revocation a key, a warrant builds a context. A
launch entry is answered likewise. The home reserves a serial once, a commit makes it redeemed, and a cancel gives it back. -/
def Obligations.AdmissionSteps : Prop :=
  (∀ (s : State) (peer fn : Nat), presTakes s peer fn = true →
    let e := presEntry s peer fn
    let r := hostRecord s peer fn (leAt e 0 8)
    let image := if leAt e 8 8 = 0 then [] else hostBytes s peer fn (leAt e 8 8) (leAt e 0x10 4)
    let tag : Word := BitVec.ofNat 64 (leAt e 0x18 8)
    let s₁ := takePres s peer fn
    let d := s.dev peer
    let token := (s.door peer fn).atoken
    let verdict := presentRecord s₁ peer (some fn) r image token none 0 (doorSlack r)
    let comes (i : Instr) : Prop :=
      (presEntryOk e = true → Does i s (answerRing s₁ peer fn tag r image verdict))
      ∧ (presEntryOk e = false → Does i s (answerRing s₁ peer fn tag r image (.refused 0x30 (ringError s₁ peer fn))))
    let slot := leAt r 6 1
    ((recKind r = some .warrant ∨ recKind r = none) → comes (.warrant peer fn (leAt e 0 8) (leAt e 8 8) tag))
    ∧ (recKind r = some .slip → comes (.delegationSlip peer fn (leAt e 0 8) tag))
    ∧ (recKind r = some .certificate → comes (.timeCertificate peer fn (leAt e 0 8) tag))
    ∧ (recKind r = some .declaration → comes (.capacityDeclaration peer fn (leAt e 0 8) tag))
    ∧ (recKind r = some .enrolment → comes (.enrolment peer fn (leAt e 0 8) tag))
    ∧ (recKind r = some .revocation → comes (.revocation peer fn (leAt e 0 8) tag))
    ∧ (presEntryOk e = true →
      (∀ n, recKind r = some .certificate → d.ready = true → certificateOk r = true → leAt r 6 1 = 0 → d.modulus 0 = some n →
        signedBy n 0x80 r = true → idMatches peer r 8 = true → nonceMatches s peer r = true →
        (d.timeA.isSome = true → s.dtime peer ≤ leAt r 0x20 8 + s.dunc peer) → ∃ s', Does (.timeCertificate peer fn (leAt e 0 8) tag) s s'
          ∧ s'.dtime peer = leAt r 0x20 8 ∧ (s'.dev peer).timeA = some (leAt r 0x28 8) ∧ (s'.dev peer).nonce = none)
      ∧ (fn = 0 → recKind r = some .enrolment → keyRecordOk r true = true → signedBy Config.zilkorModulus 0x1C0 r = true →
        idMatches peer r 8 = true → mget d.keys slot = none → ∃ s', Does (.enrolment peer fn (leAt e 0 8) tag) s s'
          ∧ mget (s'.dev peer).keys slot = some ⟨leAt r 0x20 384, leAt r 0x10 4⟩ ∧ (s'.dev peer).window slot = Window.reset)
      ∧ (fn = 0 → recKind r = some .revocation → keyRecordOk r false = true → signedBy Config.zilkorModulus 0x1C0 r = true →
        idMatches peer r 8 = true → (mget d.keys slot).isSome = true → ∃ s', Does (.revocation peer fn (leAt e 0 8) tag) s s'
          ∧ mget (s'.dev peer).keys slot = none)
      ∧ (∀ n, recKind r = some .declaration → d.ready = true → declarationOk r = true → leAt r 0x10 1 = 0 → d.modulus 0 = some n →
        signedBy n 0x100 r = true → idMatches peer r 0x18 = true → d.declSerial < leAt r 8 8 →
        grantsHold (s₁.capUpdate peer (fun d => { d with ratios := declEntries r, declSerial := leAt r 8 8, adopt := leAt r 6 2 == 1 }))
          peer = true → ∃ s', Does (.capacityDeclaration peer fn (leAt e 0 8) tag) s s'
          ∧ (s'.dev peer).ratios = declEntries r ∧ (s'.dev peer).declSerial = leAt r 8 8)
      ∧ (∀ id s₂, recKind r = some .warrant → d.ready = true → admitWarrant s₁ peer r image token (doorSlack r) = .built id s₂ →
        ∃ y, Does (.warrant peer fn (leAt e 0 8) (leAt e 8 8) tag) s (presDone s₂ peer fn tag 0 id (leAt r 8 8)) ∧ s₂.ctx ⟨peer, id⟩ = some y
          ∧ y.state = .live ∧ y.serial = leAt r 8 8 ∧ y.block = recBlock r ∧ y.parent = none)
      ∧ (∀ st s₂, recKind r = some .slip → verdict = .refused st s₂ →
        Does (.delegationSlip peer fn (leAt e 0 8) tag) s (presDone (countRefusal s₂ peer st) peer fn tag st 0 (leAt r 0 8)))))
  ∧ (∀ (s : State) (peer fn : Nat) (x : Ctx), launchTakes s peer fn = true →
    let e := launchEntry s peer fn
    let id := leAt e 0 2
    let tag : Word := BitVec.ofNat 64 (leAt e 0x18 8)
    let c : CtxId := ⟨peer, id⟩
    let core := ((lowest x.slots).map (·.1)).getD x.coreHome
    let launch := launchWith s.fresh.2 c core [] s.fresh.1 (max 0x200 (classFloor x.cls)) (core / 256)
      (hostBytes s peer fn (leAt e 8 8) 128)
    let done (z : State) (st serial : Nat) (tag : Word) : Prop :=
      Does (.doorwayLaunch peer fn id (leAt e 8 8) (BitVec.ofNat 64 (leAt e 0x18 8))) s
        (launchDone (takeLaunch z peer fn) peer fn id st serial tag)
    (launchEntryOk e = true →
      (s.ctx c = none → done s stDomain 0 tag)
      ∧ (s.ctx c = some x → x.doorFn ≠ fn → done s stDomain 0 tag)
      ∧ (s.ctx c = some x → x.doorFn = fn → x.state ≠ .live → done s stNotLive x.serial tag)
      ∧ (∀ st, s.ctx c = some x → x.doorFn = fn → x.state = .live → launch = .status st → done s st x.serial tag)
      ∧ (∀ z num, s.ctx c = some x → x.doorFn = fn → x.state = .live → launch = .ok z num → done z 0 x.serial (withBit63 num)))
    ∧ (launchEntryOk e = false →
      Does (.doorwayLaunch peer fn id (leAt e 8 8) tag) s
        (launchDone (ringError (takeLaunch s peer fn) peer fn) peer fn id stBadLaunch 0 tag)))
  ∧ (∀ (s : State) (g : Msg), findMsg s g.id = some g →
    let w := (s.dev g.dst).window g.key
    let after (s' : State) : Window := (s'.dev g.dst).window g.key
    let sends (i : Instr) (kind : MsgKind) : Prop := ∃ s' m, Does i s s' ∧ m ∈ s'.msgs ∧ m.kind = kind ∧ m.src = g.dst
      ∧ m.pres = g.pres
    (∀ serial total key, g.kind = .request serial false total key.modulus → mget (s.dev g.dst).keys g.key = some key →
      (w.base ≤ serial → serial ∉ w.redeemed → (∀ e ∈ w.reserved, e.1 ≠ serial) → sends (.redeemRequest g.id) .grant
        ∧ ∃ s', Does (.redeemRequest g.id) s s' ∧ (serial, g.asker, g.pres, false) ∈ (after s').reserved)
      ∧ (serial ∈ w.redeemed → sends (.redeemRequest g.id) (.deny 0x35)))
    ∧ (∀ n serial counted, g.kind = .commit n → w.held g.asker g.pres = some (serial, g.asker, g.pres, counted) → w.base ≤ serial →
      ∃ s', Does (.redemptionCommit g.id) s s' ∧ (counted = false → serial ∈ (after s').redeemed)
        ∧ (serial, g.asker, g.pres, counted) ∉ (after s').reserved ∧ (after s').counted = w.counted)
    ∧ (∀ n, g.kind = .cancel n → ∃ s', Does (.redemptionCancel g.id) s s' ∧ (after s').base = w.base
        ∧ (after s').redeemed = w.redeemed ∧ (w.held g.asker g.pres = none → after s' = w)
        ∧ (∀ serial counted, w.held g.asker g.pres = some (serial, g.asker, g.pres, counted) →
          (serial, g.asker, g.pres, counted) ∉ (after s').reserved
          ∧ (counted = true → ∀ m, mget w.counted serial = some m → mget (after s').counted serial = some (m + 1))
          ∧ (counted = false → (after s').counted = w.counted)))
    ∧ (g.kind = .grant → (∀ v ∈ (s.dev g.dst).press, v.id ≠ g.pres) → sends (.redeemReply g.id) (.cancel 0))
    ∧ (∀ st v fn, g.kind = .deny st → (s.dev g.dst).press.find? (fun v => v.id == g.pres) = some v → v.fn = some fn →
      nsOf (s.now - v.since) ≤ 10 ^ 6 →
      let z := dropPres (dropMsg s g.id) g.dst v.id
      Does (.redeemReply g.id) s (presDone (countRefusal z g.dst st) g.dst fn v.tag st 0 (recOwn v.record))))
  ∧ (∀ (s : State) (peer : Nat) (v : Pres), (s.dev peer).press.find? (fun w => w.id == v.id) = some v →
    10 ^ 6 < nsOf (s.now - v.since) → let z := dropPres s peer v.id
    Does (.redeemTimeout peer v.id) s (answerPres z peer v (.refused 0x36 (cancelPres z peer v))))
  ∧ (∀ (s : State) (home key serial asker pres : Nat) (counted : Bool), (s.dev home).peersUp.contains asker = false →
    10 ^ 10 ≤ downFor s home asker → ((s.dev home).window key).reserved.find? (fun e => e.1 == serial && e.2.1 == asker)
      = some (serial, asker, pres, counted) →
    Does (.reservationHoldExpiry home key serial asker) s (s.updWindow home key (fun w => w.commit asker pres)))

/-- The doorway (R152, R154 to R157). Ring registers are written while their ring is empty, and a write that may not be made sets RING;
PRTAIL, ATOKEN and ERHEAD are written; writing 1 to NONCEREQ draws a nonce. A function that goes down without contexts is
disabled; one that comes up is enabled, and the orphan whose token it wins is live again on it. That OHOLD outside 1 to 3,600,000 is
ignored, and which function wins a token, is log entry 79 (DESIGN CHOICE); the 32 bits of the ring indices are log entry 92 (DEDUCED),
and that an ORPHANED context is attached to no function log entry 46 (DEDUCED). -/
def Obligations.DoorSteps : Prop :=
  ∀ (s : State) (peer fn : Nat) (v : Word), (s.door peer fn).heldEvents = [] →
    let d := s.door peer fn
    let sets (i : Instr) (d' : Door) : Prop := Does i s (s.setDoor peer fn d')
    (d.prhead = d.prtail → sets (.ringRegisterWrite peer fn 0x000 v) { d with prbase := v }
      ∧ (ringSizeOk v = true → sets (.ringRegisterWrite peer fn 0x008 v) { d with prsize := v })
      ∧ (ringSizeOk v = false → sets (.ringRegisterWrite peer fn 0x008 v) { d with ringErr := true }))
    ∧ (d.prhead ≠ d.prtail → sets (.ringRegisterWrite peer fn 0x000 v) { d with ringErr := true }
      ∧ sets (.ringRegisterWrite peer fn 0x008 v) { d with ringErr := true })
    ∧ (d.lrhead = d.lrtail → sets (.ringRegisterWrite peer fn 0x020 v) { d with lrbase := v })
    ∧ (d.erhead = d.ertail → sets (.ringRegisterWrite peer fn 0x040 v) { d with erbase := v })
    ∧ sets (.registerWrite peer fn 0x010 v) { d with prtail := v.setWidth 32 }
    ∧ sets (.registerWrite peer fn 0x030 v) { d with lrtail := v.setWidth 32 }
    ∧ sets (.registerWrite peer fn 0x060 v) { d with atoken := v, tokenAt := s.now }
    ∧ sets (.erheadWrite peer fn v) { d with erhead := v.setWidth 32 }
    ∧ (v = 1 → ∃ s', Does (.noncereq peer v) s s' ∧ (s'.dev peer).noncereq = v
        ∧ (s'.dev peer).nonce = some ((s.dev peer).nonceCount, s.now) ∧ (s'.dev peer).nonceCount = (s.dev peer).nonceCount + 1
        ∧ (s'.dev peer).nonce1 ++ (s'.dev peer).nonce0 = Config.nonce peer (s.dev peer).nonceCount)
    ∧ sets (.registerWrite peer fn 0x068 v) { d with eovf := d.eovf && !wbit v 2, ringErr := d.ringErr && !wbit v 1 }
    ∧ (fn = 0 → Does (.registerWrite peer fn 0x080 v) s
        (if 1 ≤ v.toNat ∧ v.toNat ≤ 3600000 then s.setDev peer { s.dev peer with ohold := v } else s))
    ∧ ((∀ e ∈ s.ctxs, e.1.peer = peer → e.2.state ≠ .orphaned → e.2.doorFn ∉ (List.range 64).map (· + 1)) → (s.dev peer).press = [] →
      (∀ n, 1 ≤ n → n ≤ 64 → ∃ s', Does (.functionLevelReset peer n) s s' ∧ (s'.door peer n).enabled = false
        ∧ (s'.door peer n).gen = (s.door peer n).gen ∧ s'.ctxs = s.ctxs ∧ s'.mem = s.mem)
      ∧ ∃ s', Does (.vfEnableClear peer) s s' ∧ (∀ n, 1 ≤ n → n ≤ 64 → (s'.door peer n).enabled = false)
        ∧ (s'.door peer 0).enabled = (s.door peer 0).enabled ∧ s'.ctxs = s.ctxs ∧ s'.mem = s.mem)
    ∧ (1 ≤ fn → fn ≤ 64 →
      let up : Door := { d with enabled := true, enabledAt := s.now }
      ((∀ e ∈ s.ctxs, e.1.peer = peer → e.2.state ≠ .orphaned) → sets (.vfEnable peer fn) up)
      ∧ (∀ c x, s.ctx c = some x → c.peer = peer → d.atoken ≠ 0 → tokenWinner ((s.setDoor peer fn up).dev peer)
          d.atoken x.orphanedAt = some fn → holdLapsed (s.setDoor peer fn up) c x = false → x.state = .orphaned →
        x.ending = false → x.token = d.atoken → s.ctxs = [(c, x)] →
        let s' := reattach (s.setDoor peer fn up) c fn
        Does (.vfEnable peer fn) s s' ∧ (x.whole = none → ∃ y, s'.ctx c = some y ∧ y.state = .live ∧ y.doorFn = fn)))

/-- Devices (R16, R53, R123, R125, R128, R159, R201, R207, R366, R367). Reset leaves a device at bring-up stage 1 without contexts, threads
and time, and keeps its keys; the self-test leads on; peers come and go; the time of a peer is adopted where it is better. Temperatures
are sampled with all ranks at once, frequencies step within 1.0 and 1.9 GHz, and a droop stretches the clock. That a reset keeps the
bytes of memory and the redemption windows is log entry 27, that TIME_ADOPTION and TIME_EXCHANGE are one attempt log entry 57, what is
known of a peer's extent log entry 58 (all DEDUCED). -/
def Obligations.DeviceSteps : Prop :=
  ∀ (s : State) (peer other : Nat),
    let d := s.dev peer
    (∃ s', Does (.deviceReset peer) s s' ∧ (s'.dev peer).stage = 1 ∧ (s'.dev peer).ready = false ∧ (s'.dev peer).timeA = none
      ∧ (s'.dev peer).keys = d.keys ∧ (s'.dev peer).windows = d.windows ∧ (s'.dev peer).peersUp = []
      ∧ (∀ e ∈ s'.ctxs, e.1.peer ≠ peer) ∧ (∀ e ∈ s'.threads, e.1.peer ≠ peer)
      ∧ (other ≠ peer → (s'.dev other).peersUp.contains peer = false) ∧ s'.mem = s.mem)
    ∧ (d.stage = 1 → d.failed = [] →
      (mget d.keys 0 = none → Does (.selfTestComplete peer []) s (s.setDev peer { d with stage := 2 }))
      ∧ ((mget d.keys 0).isSome = true → ∃ s', Does (.selfTestComplete peer []) s s' ∧ (s'.dev peer).stage = 3
        ∧ (s'.dev peer).ready = true)
      ∧ (∀ n ns, Does (.selfTestComplete peer (n :: ns)) s
          ((n :: ns).foldl (fun z m => errorReport z peer m 1) (s.setDev peer { d with failed := n :: ns }))))
    ∧ (d.ready = true → other ≠ peer → other < 128 → d.peersUp.contains other = false →
      ∃ s', Does (.peerUp peer other) s s' ∧ (s'.dev peer).peersUp = d.peersUp ++ [other])
    ∧ (d.peersUp.contains other = true → ∃ s', Does (.linkLoss peer other) s s' ∧ (s'.dev peer).peersUp.contains other = false
      ∧ mget (s'.dev peer).lostAt other = some s.now)
    ∧ (∀ rt, mayAsk s peer other = true → betterTime s peer other rt = true → ∀ i : Instr,
      (i = .timeAdoption peer other rt ∨ i = .timeExchange peer other rt) → ∃ s', Does i s s'
        ∧ s'.dtime peer = s.dtime other + rt / 2 ∧ (s'.dev peer).timeA = some (s.dunc other + rt) ∧ (s'.dev peer).askedAt = s.now)
    ∧ (∀ c x y m, s.ctx c = some x → other ≠ c.peer → member s c other = some m → s.ctx m = some y →
      Does (.memberExtentUpdate c other) s (s.setCtx c { x with
        extents := mset x.extents other (4096 * (y.hbm.length + y.tier2.length), y.spans) }))
    ∧ (∀ rs, ∃ s', Does (.thermalSample peer rs) s s'
      ∧ (∀ n, (hottest rs n = none ∨ isIsland n = false) → (s'.dev peer).island n = d.island n)
      ∧ (∀ n t, isIsland n = true → hottest rs n = some t → ((s'.dev peer).island n).temp = t
        ∧ ((s'.dev peer).island n).slow = (if (d.island n).slow then decide (1600 ≤ t) else decide (1680 ≤ t))
        ∧ ((s'.dev peer).island n).hot = (if (d.island n).hot then decide (1520 ≤ t)
            else decide (1568 ≤ t) && decide (((s'.dev peer).island n).runs ≤ 40))
        ∧ ((s'.dev peer).island n).freq = (d.island n).freq)
      ∧ (∀ q, q < 32 → mget (s'.dev peer).ranks q = some (rankQuarter s' peer q)))
    ∧ (∀ n, isIsland n = true → ((d.island n).stepAt = none ∨ ∃ last, (d.island n).stepAt = some last ∧ last + 19000 ≤ s.now) →
      ∃ s', Does (.frequencyStep peer n) s s' ∧ ((s'.dev peer).island n).freq = (if 1472 < (d.island n).temp
        then max 40 ((d.island n).freq - 1) else if (d.island n).temp < 1408 then min 76 ((d.island n).freq + 1) else (d.island n).freq))
    ∧ (∀ n last, (d.island n).stepAt = some last → s.now < last + 19000 → Does (.frequencyStep peer n) s s)
    ∧ (∀ mw, (mw ≤ 3800000 → Does (.modulePowerStep peer mw) s s)
      ∧ (3800000 < mw → ∃ s', Does (.modulePowerStep peer mw) s s' ∧ ∀ n,
        ((s'.dev peer).island n).freq = (if n ∈ islandNumbers then max 40 ((d.island n).freq - 1) else (d.island n).freq)))
    ∧ (∀ n, isIsland n = true ↔ ((n < 2048 ∧ n % 64 < 48) ∨ (2048 ≤ n ∧ n < 2112)))
    ∧ (∀ n cycles, isIsland n = true → ∃ s', Does (.droop peer n cycles) s s' ∧ ((s'.dev peer).island n).stretch = max 8 cycles)

/-! ## The whole machine -/

/-- A well-formed instruction that has a word decodes from its word to itself, with every operand at every value (R31 to R40). -/
def Obligations.DecodeEncode : Prop :=
  ∀ (i : Instr) (w : Nat), wellFormed i = true → encode i = some w → w < 2 ^ 32 ∧ decodeWord w = .ok i

/-- A word that decodes is the word of what it decodes to, which is well-formed: no two words are one instruction, and no ignored
bit is left (R40). -/
def Obligations.EncodeDecode : Prop :=
  ∀ (w : Nat) (i : Instr), w < 2 ^ 32 → decodeWord w = .ok i → wellFormed i = true ∧ encode i = some w

/-- Words written out from the encoding tables (R31 to R39) decode to their instructions, and words that R40 excludes to none. -/
def Obligations.DecodeSamples : Prop :=
  (∀ e ∈ ([(0x03F80547, .madd true 63 0 10),
      (0x0E5DC111, .srai false 11 46 17),
      (0x11CD4444, .bfx 57 42 17 4),
      (0x1FFFD004, .fmadd false 63 62 32),
      (0x2713C904, .bge 34 30 2308),
      (0x31816DF2, .loop true 32 93682),
      (0x34AE3600, .rpt 5 3 17 44),
      (0x3E000001, .eret),
      (0x36A0192F, .csrr 20 6447),
      (0x4CD91A23, .ldD 27 8 13 35),
      (0x5A2308E8, .ldp 2 24 4 232),
      (0x4EE712AA, .ldxHSx 28 56 37 5),
      (0x71EA4C28, .aadd false 61 18 24 5),
      (0x784E3FB1, .acas false 9 49 63 6),
      (0x74057080, .aaddP false 43 33),
      (0x80000001, .cmt),
      (0x86050000, .rlock 40),
      (0x8404A002, .bara 37),
      (0x90676939, .wsplit 12 59 18 7),
      (0x933DA040, .dtime 39 45 8),
      (0x9228E0C3, .evwait 5 7 1 8),
      (0xA15D7FA2, .smap 43 43 63 4),
      (0xA202DBD3, .vadd 2 3 1 47 19),
      (0xA49AC3E1, .cpy 19 22 7 3 1),
      (0xB0E66331, .qenq 28 51 6 6),
      (0xC0D20A00, .mma 3 2 8 5),
      (0xC459A918, .mgemm 11 13 18 3),
      (0xD1988070, .launch 51 4 14),
      (0x1B8032FB, .addpc 48 13051),
      (0x8204E000, .go 39)] : List (Nat × Instr)),
      decodeWord e.1 = .ok e.2)
  ∧ ∀ w ∈ ([0x00000000, 0xFE000000, 0x02000023, 0x0200008D, 0x0E000060, 0x8000000D, 0xC1000002] : List Nat), ∀ i, decodeWord w ≠ .ok i

/-- A step runs the decoded instruction (R41, R53): where no event is due and the slot whose turn it is may issue, the step is the
instruction that the word at the program counter decodes to, with what follows every change of the machine, and then the turn
passes on. A word without an instruction raises
ILLEGAL, a fetch that fails its fault, and a missing page parks the slot. -/
def Obligations.StepRunsDecoded : Prop :=
  ∀ (s : State) (t : Thread), s.agenda = [] → s.stalled = false →
    let u := atTurn s
    let runs (i : Instr) : Prop := (∀ s', exec i u = .next s' → step s = .next (rotate (afterwards s')))
      ∧ (∀ f, exec i u = .fault f → step s = .fault f) ∧ (∀ r, exec i u = .refused r → step s = .refused r)
    u.turn = s.turn ∧ u.mem = s.mem ∧ u.threads = s.threads
    ∧ (s.thread s.turn = some t → slotReady u s.turn t = true →
      (∀ w i, nextWord u s.turn t = .inl w → decodeWord w = .ok i → runs i)
      ∧ (∀ w e, nextWord u s.turn t = .inl w → decodeWord w = .error e → runs (.illegalInstruction (BitVec.ofNat 32 w)))
      ∧ (∀ c, nextWord u s.turn t = .inr (.fault c) → runs (.fetchFault c.code c.value))
      ∧ (∀ n, nextWord u s.turn t = .inr (.absent n) → step s = .next (rotate (afterwards (parkPage u s.turn n))))
      ∧ (∀ x l sa, t.replay = none → u.ctx (t.ctxId s.turn) = some x → canonical t.pc = true → inAperture t.pc = false →
          versionsAt x t.seen t.pc.toNat = [] → look u (t.ctxId s.turn) 0 t.locks t.pc 4 4 needX = .ok l → l.sa = some sa →
          nextWord u s.turn t = .inl (leNat (memReads s.mem sa 4)))
      ∧ (∀ x sa, t.replay = none → u.ctx (t.ctxId s.turn) = some x → canonical t.pc = true → inAperture t.pc = false →
          versionsAt x t.seen t.pc.toNat = [x.text] → x.text.isPool t.pc.toNat = false →
          x.text.pages[(t.pc.toNat - x.text.va) / 4096]? = some sa → (∀ g ∈ x.hbm, g.sa = sa → g.where_ = .hbm) →
          nextWord u s.turn t = .inl (leNat (memReads s.mem (sa + (t.pc.toNat - x.text.va) % 4096) 4))))

/-- Memory keeps its canonical form in every step: addresses strictly rise, and no listed byte is the one that an unlisted address
reads as. -/
def Obligations.MemoryFormKept : Prop := ∀ s s' : State, Inv s → step s = .next s' → Inv s'

/-- R256: a thread that waits in JWAIT does not stay in the wait once its counter reads 0. No step leaves such a thread waiting. -/
def Obligations.JoinsAwakeKept : Prop := ∀ s s' : State, JoinsAwake s → step s = .next s' → JoinsAwake s'

/-- R118: the operator keys of a device change by no step but the presentation of an enrolment or revocation record through the
ring of its physical function, and only where the record carries Zilkor's signature. -/
def Obligations.KeysOnlyBySignedRecords : Prop :=
  ∀ (i : Instr) (s s' : State) (peer : Nat), exec i s = .next s' → (s'.dev peer).keys ≠ (s.dev peer).keys →
    ∃ r, presented s i = some (peer, 0, r) ∧ (recKind r = some .enrolment ∨ recKind r = some .revocation)
      ∧ signedBy Config.zilkorModulus 0x1C0 r = true

/-- Reset (R123, R131, R152, R159): every device is at stage 1, not READY, its time unknown, without a declaration, its virtual
functions disabled and its physical function enabled; there is no context and no thread, and the invariants hold. -/
def Obligations.ResetState : Prop :=
  Inv State.reset ∧ JoinsAwake State.reset
  ∧ (∀ peer, let d := State.reset.dev peer
      d.stage = 1 ∧ d.ready = false ∧ d.timeA = none ∧ d.ratios = [] ∧ d.declSerial = 0
      ∧ (State.reset.door peer 0).enabled = true ∧ ∀ n, n ≠ 0 → (State.reset.door peer n).enabled = false)
  ∧ (∀ c, State.reset.ctx c = none) ∧ (∀ p, State.reset.thread p = none)

/-- Frames (R33, R55, R67). A form that writes one register, a load from a local line, a store that its region takes and a transfer
of control leave every other register of the slot, its special registers, the shared banks, the control registers of the core and of
every context, and every byte of memory as they were; i0 reads 0 in every state. -/
def Obligations.Frames : Prop :=
  (∀ (k : Core) (t : Thread), readI k t 0 = 0)
  ∧ ∀ (i : Instr) (s s' : State) (t : Thread), Quiet t → exec i s = .next s' →
    let keeps (ds : List Dst) : Prop := ∃ t', SameBut s s' t t' ds
    (∀ uses d f, Writes i uses d f → CanIssue s t (uses ++ [d]) → MayWrite s t d → keeps [d])
    ∧ (∀ srcs d f, WritesF i srcs d f → CanIssue s t (srcs ++ [d]) → MayWrite s t d → Unmapped s t (srcs ++ [d]) → keeps [d])
    ∧ (∀ f l sa, loadForm i = some f → CanIssue s t (f.uses ++ f.dsts) → (∀ d ∈ f.dsts, MayWrite s t d) → t.acquiring = false →
        LocalAt s t (f.addr (coreNow s) t) f.size f.size needR l sa → poisonHit s sa f.size = false → keeps f.dsts)
    ∧ (∀ f l sa, storeForm? i = some f → CanIssue s t f.uses → t.acquiring = false →
        let data := f.data (coreNow s) t
        LocalAt s t (f.addr (coreNow s) t) data.length data.length needW l sa → Takes s t (.store sa data) → keeps [])
    ∧ (∀ pc, Jumps i s s pc → CanIssue s t [] → keeps [])
    ∧ (Runs i s s → CanIssue s t [] → keeps [])

/-- The window of a result (R57, R58). A pending result is written as the instructions of its window retire and is read as before
until then; the slot does not issue while its window has closed on a result that has not arrived; i0 takes nothing; a later
instruction that writes the register discards it. -/
def Obligations.ResultWindow : Prop :=
  ∀ (s : State) (p : Place) (t : Thread) (r : Reg) (k n : Nat), s.thread p = some t → isShared r = false → t.region.lines < 48 →
    let pending (left : Nat) (v : Option Word) : List Pend := [⟨k, [ri r], left, v.map (fun v => [v]), [], false, none⟩]
    (∀ v, t.pend = pending 1 (some v) → ∃ u, (retire s p false).thread p = some u ∧ u.pend = []
      ∧ readI ((retire s p false).core (coreOf p)) u r = (if r = 0 then 0 else v)
      ∧ ∀ q : Reg, isShared q = false → q ≠ r → readI ((retire s p false).core (coreOf p)) u q = readI (s.core (coreOf p)) t q)
    ∧ (∀ v, t.pend = pending (n + 2) (some v) → ∃ u, (retire s p false).thread p = some u ∧ u.pend = pending (n + 1) (some v)
      ∧ u.i = t.i ∧ u.f = t.f)
    ∧ (t.pend = pending 0 none → slotReady s p t = false)
    ∧ (∀ v, t.pend = pending 0 none → ∃ u, (arriveValue s p k [v]).thread p = some u ∧ u.pend = []
      ∧ readI ((arriveValue s p k [v]).core (coreOf p)) u r = if r = 0 then 0 else v)
    ∧ (∀ v w, t.pend = pending 2 (some v) → ∃ u, (retire (retire (s.writeReg p (ri r) w) p false) p false).thread p = some u
      ∧ u.pend = [] ∧ readI (s.core (coreOf p)) u r = if r = 0 then 0 else w)
end

