-- ==== Sys2Proof/Laws/State.lean ====
section
/-! SUPPORT. One lemma per field of State per update, and what the keyed updates read back. -/

namespace Sys2Proof.Machine


/-! ## setThread -/

@[simp] theorem State.setThread_mem (s : State) (p : Place) (t : Thread) : (s.setThread p t).mem = s.mem := rfl
@[simp] theorem State.setThread_poisoned (s : State) (p : Place) (t : Thread) : (s.setThread p t).poisoned = s.poisoned := rfl
@[simp] theorem State.setThread_repair (s : State) (p : Place) (t : Thread) : (s.setThread p t).repair = s.repair := rfl
@[simp] theorem State.setThread_threads (s : State) (p : Place) (t : Thread) : (s.setThread p t).threads = mset s.threads p t := rfl
@[simp] theorem State.setThread_donors (s : State) (p : Place) (t : Thread) : (s.setThread p t).donors = s.donors := rfl
@[simp] theorem State.setThread_cores (s : State) (p : Place) (t : Thread) : (s.setThread p t).cores = s.cores := rfl
@[simp] theorem State.setThread_ctxs (s : State) (p : Place) (t : Thread) : (s.setThread p t).ctxs = s.ctxs := rfl
@[simp] theorem State.setThread_devs (s : State) (p : Place) (t : Thread) : (s.setThread p t).devs = s.devs := rfl
@[simp] theorem State.setThread_packets (s : State) (p : Place) (t : Thread) : (s.setThread p t).packets = s.packets := rfl
@[simp] theorem State.setThread_streams (s : State) (p : Place) (t : Thread) : (s.setThread p t).streams = s.streams := rfl
@[simp] theorem State.setThread_migs (s : State) (p : Place) (t : Thread) : (s.setThread p t).migs = s.migs := rfl
@[simp] theorem State.setThread_msgs (s : State) (p : Place) (t : Thread) : (s.setThread p t).msgs = s.msgs := rfl
@[simp] theorem State.setThread_agenda (s : State) (p : Place) (t : Thread) : (s.setThread p t).agenda = s.agenda := rfl
@[simp] theorem State.setThread_turn (s : State) (p : Place) (t : Thread) : (s.setThread p t).turn = s.turn := rfl
@[simp] theorem State.setThread_now (s : State) (p : Place) (t : Thread) : (s.setThread p t).now = s.now := rfl
@[simp] theorem State.setThread_nextId (s : State) (p : Place) (t : Thread) : (s.setThread p t).nextId = s.nextId := rfl
@[simp] theorem State.setThread_plan (s : State) (p : Place) (t : Thread) : (s.setThread p t).plan = s.plan := rfl
@[simp] theorem State.setThread_draws (s : State) (p : Place) (t : Thread) : (s.setThread p t).draws = s.draws := rfl
@[simp] theorem State.setThread_stalled (s : State) (p : Place) (t : Thread) : (s.setThread p t).stalled = s.stalled := rfl

/-! ## freeSlot -/

@[simp] theorem State.freeSlot_mem (s : State) (p : Place) : (s.freeSlot p).mem = s.mem := rfl
@[simp] theorem State.freeSlot_poisoned (s : State) (p : Place) : (s.freeSlot p).poisoned = s.poisoned := rfl
@[simp] theorem State.freeSlot_repair (s : State) (p : Place) : (s.freeSlot p).repair = s.repair := rfl
@[simp] theorem State.freeSlot_threads (s : State) (p : Place) : (s.freeSlot p).threads = mdel s.threads p := rfl
@[simp] theorem State.freeSlot_donors (s : State) (p : Place) : (s.freeSlot p).donors = s.donors := rfl
@[simp] theorem State.freeSlot_cores (s : State) (p : Place) : (s.freeSlot p).cores = s.cores := rfl
@[simp] theorem State.freeSlot_ctxs (s : State) (p : Place) : (s.freeSlot p).ctxs = s.ctxs := rfl
@[simp] theorem State.freeSlot_devs (s : State) (p : Place) : (s.freeSlot p).devs = s.devs := rfl
@[simp] theorem State.freeSlot_packets (s : State) (p : Place) : (s.freeSlot p).packets = s.packets := rfl
@[simp] theorem State.freeSlot_streams (s : State) (p : Place) : (s.freeSlot p).streams = s.streams := rfl
@[simp] theorem State.freeSlot_migs (s : State) (p : Place) : (s.freeSlot p).migs = s.migs := rfl
@[simp] theorem State.freeSlot_msgs (s : State) (p : Place) : (s.freeSlot p).msgs = s.msgs := rfl
@[simp] theorem State.freeSlot_agenda (s : State) (p : Place) : (s.freeSlot p).agenda = s.agenda := rfl
@[simp] theorem State.freeSlot_turn (s : State) (p : Place) : (s.freeSlot p).turn = s.turn := rfl
@[simp] theorem State.freeSlot_now (s : State) (p : Place) : (s.freeSlot p).now = s.now := rfl
@[simp] theorem State.freeSlot_nextId (s : State) (p : Place) : (s.freeSlot p).nextId = s.nextId := rfl
@[simp] theorem State.freeSlot_plan (s : State) (p : Place) : (s.freeSlot p).plan = s.plan := rfl
@[simp] theorem State.freeSlot_draws (s : State) (p : Place) : (s.freeSlot p).draws = s.draws := rfl
@[simp] theorem State.freeSlot_stalled (s : State) (p : Place) : (s.freeSlot p).stalled = s.stalled := rfl

/-! ## setCore -/

@[simp] theorem State.setCore_mem (s : State) (c : CoreId) (k : Core) : (s.setCore c k).mem = s.mem := rfl
@[simp] theorem State.setCore_poisoned (s : State) (c : CoreId) (k : Core) : (s.setCore c k).poisoned = s.poisoned := rfl
@[simp] theorem State.setCore_repair (s : State) (c : CoreId) (k : Core) : (s.setCore c k).repair = s.repair := rfl
@[simp] theorem State.setCore_threads (s : State) (c : CoreId) (k : Core) : (s.setCore c k).threads = s.threads := rfl
@[simp] theorem State.setCore_donors (s : State) (c : CoreId) (k : Core) : (s.setCore c k).donors = s.donors := rfl
@[simp] theorem State.setCore_cores (s : State) (c : CoreId) (k : Core) : (s.setCore c k).cores = mset s.cores c k := rfl
@[simp] theorem State.setCore_ctxs (s : State) (c : CoreId) (k : Core) : (s.setCore c k).ctxs = s.ctxs := rfl
@[simp] theorem State.setCore_devs (s : State) (c : CoreId) (k : Core) : (s.setCore c k).devs = s.devs := rfl
@[simp] theorem State.setCore_packets (s : State) (c : CoreId) (k : Core) : (s.setCore c k).packets = s.packets := rfl
@[simp] theorem State.setCore_streams (s : State) (c : CoreId) (k : Core) : (s.setCore c k).streams = s.streams := rfl
@[simp] theorem State.setCore_migs (s : State) (c : CoreId) (k : Core) : (s.setCore c k).migs = s.migs := rfl
@[simp] theorem State.setCore_msgs (s : State) (c : CoreId) (k : Core) : (s.setCore c k).msgs = s.msgs := rfl
@[simp] theorem State.setCore_agenda (s : State) (c : CoreId) (k : Core) : (s.setCore c k).agenda = s.agenda := rfl
@[simp] theorem State.setCore_turn (s : State) (c : CoreId) (k : Core) : (s.setCore c k).turn = s.turn := rfl
@[simp] theorem State.setCore_now (s : State) (c : CoreId) (k : Core) : (s.setCore c k).now = s.now := rfl
@[simp] theorem State.setCore_nextId (s : State) (c : CoreId) (k : Core) : (s.setCore c k).nextId = s.nextId := rfl
@[simp] theorem State.setCore_plan (s : State) (c : CoreId) (k : Core) : (s.setCore c k).plan = s.plan := rfl
@[simp] theorem State.setCore_draws (s : State) (c : CoreId) (k : Core) : (s.setCore c k).draws = s.draws := rfl
@[simp] theorem State.setCore_stalled (s : State) (c : CoreId) (k : Core) : (s.setCore c k).stalled = s.stalled := rfl

/-! ## setCtx -/

@[simp] theorem State.setCtx_mem (s : State) (c : CtxId) (x : Ctx) : (s.setCtx c x).mem = s.mem := rfl
@[simp] theorem State.setCtx_poisoned (s : State) (c : CtxId) (x : Ctx) : (s.setCtx c x).poisoned = s.poisoned := rfl
@[simp] theorem State.setCtx_repair (s : State) (c : CtxId) (x : Ctx) : (s.setCtx c x).repair = s.repair := rfl
@[simp] theorem State.setCtx_threads (s : State) (c : CtxId) (x : Ctx) : (s.setCtx c x).threads = s.threads := rfl
@[simp] theorem State.setCtx_donors (s : State) (c : CtxId) (x : Ctx) : (s.setCtx c x).donors = s.donors := rfl
@[simp] theorem State.setCtx_cores (s : State) (c : CtxId) (x : Ctx) : (s.setCtx c x).cores = s.cores := rfl
@[simp] theorem State.setCtx_ctxs (s : State) (c : CtxId) (x : Ctx) : (s.setCtx c x).ctxs = mset s.ctxs c x := rfl
@[simp] theorem State.setCtx_devs (s : State) (c : CtxId) (x : Ctx) : (s.setCtx c x).devs = s.devs := rfl
@[simp] theorem State.setCtx_packets (s : State) (c : CtxId) (x : Ctx) : (s.setCtx c x).packets = s.packets := rfl
@[simp] theorem State.setCtx_streams (s : State) (c : CtxId) (x : Ctx) : (s.setCtx c x).streams = s.streams := rfl
@[simp] theorem State.setCtx_migs (s : State) (c : CtxId) (x : Ctx) : (s.setCtx c x).migs = s.migs := rfl
@[simp] theorem State.setCtx_msgs (s : State) (c : CtxId) (x : Ctx) : (s.setCtx c x).msgs = s.msgs := rfl
@[simp] theorem State.setCtx_agenda (s : State) (c : CtxId) (x : Ctx) : (s.setCtx c x).agenda = s.agenda := rfl
@[simp] theorem State.setCtx_turn (s : State) (c : CtxId) (x : Ctx) : (s.setCtx c x).turn = s.turn := rfl
@[simp] theorem State.setCtx_now (s : State) (c : CtxId) (x : Ctx) : (s.setCtx c x).now = s.now := rfl
@[simp] theorem State.setCtx_nextId (s : State) (c : CtxId) (x : Ctx) : (s.setCtx c x).nextId = s.nextId := rfl
@[simp] theorem State.setCtx_plan (s : State) (c : CtxId) (x : Ctx) : (s.setCtx c x).plan = s.plan := rfl
@[simp] theorem State.setCtx_draws (s : State) (c : CtxId) (x : Ctx) : (s.setCtx c x).draws = s.draws := rfl
@[simp] theorem State.setCtx_stalled (s : State) (c : CtxId) (x : Ctx) : (s.setCtx c x).stalled = s.stalled := rfl

/-! ## setDev -/

@[simp] theorem State.setDev_mem (s : State) (n : Nat) (d : Device) : (s.setDev n d).mem = s.mem := rfl
@[simp] theorem State.setDev_poisoned (s : State) (n : Nat) (d : Device) : (s.setDev n d).poisoned = s.poisoned := rfl
@[simp] theorem State.setDev_repair (s : State) (n : Nat) (d : Device) : (s.setDev n d).repair = s.repair := rfl
@[simp] theorem State.setDev_threads (s : State) (n : Nat) (d : Device) : (s.setDev n d).threads = s.threads := rfl
@[simp] theorem State.setDev_donors (s : State) (n : Nat) (d : Device) : (s.setDev n d).donors = s.donors := rfl
@[simp] theorem State.setDev_cores (s : State) (n : Nat) (d : Device) : (s.setDev n d).cores = s.cores := rfl
@[simp] theorem State.setDev_ctxs (s : State) (n : Nat) (d : Device) : (s.setDev n d).ctxs = s.ctxs := rfl
@[simp] theorem State.setDev_devs (s : State) (n : Nat) (d : Device) : (s.setDev n d).devs = mset s.devs n d := rfl
@[simp] theorem State.setDev_packets (s : State) (n : Nat) (d : Device) : (s.setDev n d).packets = s.packets := rfl
@[simp] theorem State.setDev_streams (s : State) (n : Nat) (d : Device) : (s.setDev n d).streams = s.streams := rfl
@[simp] theorem State.setDev_migs (s : State) (n : Nat) (d : Device) : (s.setDev n d).migs = s.migs := rfl
@[simp] theorem State.setDev_msgs (s : State) (n : Nat) (d : Device) : (s.setDev n d).msgs = s.msgs := rfl
@[simp] theorem State.setDev_agenda (s : State) (n : Nat) (d : Device) : (s.setDev n d).agenda = s.agenda := rfl
@[simp] theorem State.setDev_turn (s : State) (n : Nat) (d : Device) : (s.setDev n d).turn = s.turn := rfl
@[simp] theorem State.setDev_now (s : State) (n : Nat) (d : Device) : (s.setDev n d).now = s.now := rfl
@[simp] theorem State.setDev_nextId (s : State) (n : Nat) (d : Device) : (s.setDev n d).nextId = s.nextId := rfl
@[simp] theorem State.setDev_plan (s : State) (n : Nat) (d : Device) : (s.setDev n d).plan = s.plan := rfl
@[simp] theorem State.setDev_draws (s : State) (n : Nat) (d : Device) : (s.setDev n d).draws = s.draws := rfl
@[simp] theorem State.setDev_stalled (s : State) (n : Nat) (d : Device) : (s.setDev n d).stalled = s.stalled := rfl

/-! ## writes -/

@[simp] theorem State.writes_mem (s : State) (a : Nat) (bs : List Byte) : (s.writes a bs).mem = memWrites s.mem a bs := rfl
@[simp] theorem State.writes_poisoned (s : State) (a : Nat) (bs : List Byte) : (s.writes a bs).poisoned = s.poisoned := rfl
@[simp] theorem State.writes_repair (s : State) (a : Nat) (bs : List Byte) : (s.writes a bs).repair = s.repair := rfl
@[simp] theorem State.writes_threads (s : State) (a : Nat) (bs : List Byte) : (s.writes a bs).threads = s.threads := rfl
@[simp] theorem State.writes_donors (s : State) (a : Nat) (bs : List Byte) : (s.writes a bs).donors = s.donors := rfl
@[simp] theorem State.writes_cores (s : State) (a : Nat) (bs : List Byte) : (s.writes a bs).cores = s.cores := rfl
@[simp] theorem State.writes_ctxs (s : State) (a : Nat) (bs : List Byte) : (s.writes a bs).ctxs = s.ctxs := rfl
@[simp] theorem State.writes_devs (s : State) (a : Nat) (bs : List Byte) : (s.writes a bs).devs = s.devs := rfl
@[simp] theorem State.writes_packets (s : State) (a : Nat) (bs : List Byte) : (s.writes a bs).packets = s.packets := rfl
@[simp] theorem State.writes_streams (s : State) (a : Nat) (bs : List Byte) : (s.writes a bs).streams = s.streams := rfl
@[simp] theorem State.writes_migs (s : State) (a : Nat) (bs : List Byte) : (s.writes a bs).migs = s.migs := rfl
@[simp] theorem State.writes_msgs (s : State) (a : Nat) (bs : List Byte) : (s.writes a bs).msgs = s.msgs := rfl
@[simp] theorem State.writes_agenda (s : State) (a : Nat) (bs : List Byte) : (s.writes a bs).agenda = s.agenda := rfl
@[simp] theorem State.writes_turn (s : State) (a : Nat) (bs : List Byte) : (s.writes a bs).turn = s.turn := rfl
@[simp] theorem State.writes_now (s : State) (a : Nat) (bs : List Byte) : (s.writes a bs).now = s.now := rfl
@[simp] theorem State.writes_nextId (s : State) (a : Nat) (bs : List Byte) : (s.writes a bs).nextId = s.nextId := rfl
@[simp] theorem State.writes_plan (s : State) (a : Nat) (bs : List Byte) : (s.writes a bs).plan = s.plan := rfl
@[simp] theorem State.writes_draws (s : State) (a : Nat) (bs : List Byte) : (s.writes a bs).draws = s.draws := rfl
@[simp] theorem State.writes_stalled (s : State) (a : Nat) (bs : List Byte) : (s.writes a bs).stalled = s.stalled := rfl

/-! ## fresh and draw -/

@[simp] theorem State.fresh_mem (s : State) : s.fresh.2.mem = s.mem := rfl
@[simp] theorem State.fresh_poisoned (s : State) : s.fresh.2.poisoned = s.poisoned := rfl
@[simp] theorem State.fresh_repair (s : State) : s.fresh.2.repair = s.repair := rfl
@[simp] theorem State.fresh_threads (s : State) : s.fresh.2.threads = s.threads := rfl
@[simp] theorem State.fresh_donors (s : State) : s.fresh.2.donors = s.donors := rfl
@[simp] theorem State.fresh_cores (s : State) : s.fresh.2.cores = s.cores := rfl
@[simp] theorem State.fresh_ctxs (s : State) : s.fresh.2.ctxs = s.ctxs := rfl
@[simp] theorem State.fresh_devs (s : State) : s.fresh.2.devs = s.devs := rfl
@[simp] theorem State.fresh_packets (s : State) : s.fresh.2.packets = s.packets := rfl
@[simp] theorem State.fresh_streams (s : State) : s.fresh.2.streams = s.streams := rfl
@[simp] theorem State.fresh_migs (s : State) : s.fresh.2.migs = s.migs := rfl
@[simp] theorem State.fresh_msgs (s : State) : s.fresh.2.msgs = s.msgs := rfl
@[simp] theorem State.fresh_agenda (s : State) : s.fresh.2.agenda = s.agenda := rfl
@[simp] theorem State.fresh_turn (s : State) : s.fresh.2.turn = s.turn := rfl
@[simp] theorem State.fresh_now (s : State) : s.fresh.2.now = s.now := rfl
@[simp] theorem State.fresh_nextId (s : State) : s.fresh.2.nextId = s.nextId + 1 := rfl
@[simp] theorem State.fresh_plan (s : State) : s.fresh.2.plan = s.plan := rfl
@[simp] theorem State.fresh_draws (s : State) : s.fresh.2.draws = s.draws := rfl
@[simp] theorem State.fresh_stalled (s : State) : s.fresh.2.stalled = s.stalled := rfl
@[simp] theorem State.fresh_name (s : State) : s.fresh.1 = s.nextId := rfl
@[simp] theorem State.draw_mem (s : State) : s.draw.2.mem = s.mem := rfl
@[simp] theorem State.draw_poisoned (s : State) : s.draw.2.poisoned = s.poisoned := rfl
@[simp] theorem State.draw_repair (s : State) : s.draw.2.repair = s.repair := rfl
@[simp] theorem State.draw_threads (s : State) : s.draw.2.threads = s.threads := rfl
@[simp] theorem State.draw_donors (s : State) : s.draw.2.donors = s.donors := rfl
@[simp] theorem State.draw_cores (s : State) : s.draw.2.cores = s.cores := rfl
@[simp] theorem State.draw_ctxs (s : State) : s.draw.2.ctxs = s.ctxs := rfl
@[simp] theorem State.draw_devs (s : State) : s.draw.2.devs = s.devs := rfl
@[simp] theorem State.draw_packets (s : State) : s.draw.2.packets = s.packets := rfl
@[simp] theorem State.draw_streams (s : State) : s.draw.2.streams = s.streams := rfl
@[simp] theorem State.draw_migs (s : State) : s.draw.2.migs = s.migs := rfl
@[simp] theorem State.draw_msgs (s : State) : s.draw.2.msgs = s.msgs := rfl
@[simp] theorem State.draw_agenda (s : State) : s.draw.2.agenda = s.agenda := rfl
@[simp] theorem State.draw_turn (s : State) : s.draw.2.turn = s.turn := rfl
@[simp] theorem State.draw_now (s : State) : s.draw.2.now = s.now := rfl
@[simp] theorem State.draw_nextId (s : State) : s.draw.2.nextId = s.nextId := rfl
@[simp] theorem State.draw_plan (s : State) : s.draw.2.plan = s.plan := rfl
@[simp] theorem State.draw_draws (s : State) : s.draw.2.draws = s.draws + 1 := rfl
@[simp] theorem State.draw_stalled (s : State) : s.draw.2.stalled = s.stalled := rfl
@[simp] theorem State.draw_value (s : State) : s.draw.1 = s.draws := rfl

/-! ## Keyed updates -/

@[simp] theorem mget_mset_same {κ α : Type} [DecidableEq κ] (m : Map κ α) (k : κ) (v : α) : mget (mset m k v) k = some v := by
  induction m with
  | nil => simp [mset, mget]
  | cons e m ih =>
    obtain ⟨k', v'⟩ := e
    by_cases h : k' = k <;> simp [mset, mget, h, ih]

@[simp] theorem mget_mset_other {κ α : Type} [DecidableEq κ] (m : Map κ α) {k j : κ} (v : α) (h : j ≠ k) :
    mget (mset m k v) j = mget m j := by
  induction m with
  | nil => simp [mset, mget, Ne.symm h]
  | cons e m ih =>
    obtain ⟨k', v'⟩ := e
    by_cases h1 : k' = k
    · subst h1
      simp [mset, mget, Ne.symm h]
    · have h3 : ¬ k = j := Ne.symm h
      by_cases h2 : k' = j
      · subst h2
        simp [mset, mget, h]
      · simp [mset, mget, h1, h2, ih]

@[simp] theorem State.thread_setThread (s : State) (p : Place) (t : Thread) : (s.setThread p t).thread p = some t := by
  simp [State.thread]

theorem State.thread_setThread_other (s : State) {p q : Place} (t : Thread) (h : q ≠ p) :
    (s.setThread p t).thread q = s.thread q := by simp [State.thread, h]

@[simp] theorem State.ctx_setCtx (s : State) (c : CtxId) (x : Ctx) : (s.setCtx c x).ctx c = some x := by simp [State.ctx]

@[simp] theorem State.core_setCore (s : State) (c : CoreId) (k : Core) : (s.setCore c k).core c = k := by
  simp [State.core, mgetD]

theorem State.core_setCore_other (s : State) {c e : CoreId} (k : Core) (h : e ≠ c) : (s.setCore c k).core e = s.core e := by
  simp [State.core, mgetD, h]

@[simp] theorem State.dev_setDev (s : State) (n : Nat) (d : Device) : (s.setDev n d).dev n = d := by
  simp [State.dev, mgetD]

@[simp] theorem State.core_setThread (s : State) (p : Place) (t : Thread) (c : CoreId) : (s.setThread p t).core c = s.core c := rfl
@[simp] theorem State.ctx_setThread (s : State) (p : Place) (t : Thread) (c : CtxId) : (s.setThread p t).ctx c = s.ctx c := rfl
@[simp] theorem State.dev_setThread (s : State) (p : Place) (t : Thread) (n : Nat) : (s.setThread p t).dev n = s.dev n := rfl
@[simp] theorem State.thread_setCore (s : State) (c : CoreId) (k : Core) (p : Place) : (s.setCore c k).thread p = s.thread p := rfl
@[simp] theorem State.ctx_setCore (s : State) (c : CoreId) (k : Core) (d : CtxId) : (s.setCore c k).ctx d = s.ctx d := rfl
@[simp] theorem State.thread_setCtx (s : State) (c : CtxId) (x : Ctx) (p : Place) : (s.setCtx c x).thread p = s.thread p := rfl
@[simp] theorem State.core_setCtx (s : State) (c : CtxId) (x : Ctx) (d : CoreId) : (s.setCtx c x).core d = s.core d := rfl

/-- What a changed thread is. -/
theorem State.thread_updThread (s : State) (p : Place) (f : Thread → Thread) : (s.updThread p f).thread p = (s.thread p).map f := by
  unfold State.updThread
  cases h : s.thread p with
  | none => simp [h]
  | some t => simp

@[simp] theorem State.core_updThread (s : State) (p : Place) (f : Thread → Thread) (c : CoreId) :
    (s.updThread p f).core c = s.core c := by unfold State.updThread; split <;> rfl

@[simp] theorem State.mem_updThread (s : State) (p : Place) (f : Thread → Thread) : (s.updThread p f).mem = s.mem := by
  unfold State.updThread; split <;> rfl

@[simp] theorem State.turn_updThread (s : State) (p : Place) (f : Thread → Thread) : (s.updThread p f).turn = s.turn := by
  unfold State.updThread; split <;> rfl

@[simp] theorem State.mem_updCtx (s : State) (c : CtxId) (f : Ctx → Ctx) : (s.updCtx c f).mem = s.mem := by
  unfold State.updCtx; split <;> rfl

@[simp] theorem State.mem_updCore (s : State) (c : CoreId) (f : Core → Core) : (s.updCore c f).mem = s.mem := rfl

end Sys2Proof.Machine
end

