-- ==== Sys2Proof/Laws/Issue.lean ====
section
/-! SUPPORT. What an issue comes to: the ordinary forms, those whose effect pins the region, and the shape `compute` of the
register instructions; what the token step, a register write and a retirement leave alone. -/

namespace Sys2Proof

open Machine

/-! ## The token step -/

theorem giveToken_thread (s : State) (p : Place) (t : Thread) (h : s.thread p = some t) (e : Bool) :
    ∃ r, (giveToken s p e).thread p = some { t with region := r } ∧ (r.pinned = (t.region.pinned || !e))
      ∧ r.exclusive = (t.region.exclusive || e) ∧ r.items = t.region.items := by
  unfold giveToken
  rw [h]
  simp only [State.thread_setThread]
  refine ⟨_, rfl, rfl, rfl, rfl⟩

theorem giveToken_core (s : State) (p : Place) (e : Bool) (c : CoreId) : (giveToken s p e).core c = s.core c := by
  unfold giveToken
  split
  · rfl
  · simp only [State.core_setThread]
    unfold State.updCtx
    split <;> rfl

theorem giveToken_turn (s : State) (p : Place) (e : Bool) : (giveToken s p e).turn = s.turn := by
  unfold giveToken
  split
  · rfl
  · simp only [State.setThread_turn]
    unfold State.updCtx
    split <;> rfl

theorem giveToken_mem (s : State) (p : Place) (e : Bool) : (giveToken s p e).mem = s.mem := by
  unfold giveToken
  split
  · rfl
  · simp

/-- With the token taken the region is pinned. -/
theorem giveToken_pinned (s : State) (p : Place) (t : Thread) (h : s.thread p = some t) :
    (giveToken s p false).pinnedAt p = true := by
  obtain ⟨r, hr, hp, _, _⟩ := giveToken_thread s p t h false
  simp [State.pinnedAt, hr, hp]

/-! ## Registers read the same in a thread that differs in its region only -/

@[simp] theorem readI_region (k : Core) (t : Thread) (r : Region) (x : Reg) : readI k { t with region := r } x = readI k t x := rfl
@[simp] theorem readF_region (k : Core) (t : Thread) (r : Region) (x : Reg) : readF k { t with region := r } x = readF k t x := rfl

/-! ## Issue -/

/-- An ordinary form that does its work. -/
theorem issue_next {word : Word} {uses : List Dst} {body : Place → Thread → Core → State → Res} {s : State} {t : Thread}
    (h : CanIssue s t uses) : issue word uses false body s = finish s s.turn false (body s.turn t (coreNow s) s) := by
  have h2 := h.plain
  have h3 : (uses.any (fun d => isShared d.reg) && !s.ownsCore s.turn t) = false := by
    cases ho : uses.any (fun d => isShared d.reg)
    · rfl
    · simp [h.owns ho]
  simp only [issue, issueWith, h.here, h3, coreNow]
  cases hr : t.role <;> simp_all [Thread.isHandler]

/-- A form whose effect pins the region. -/
theorem issue_pinned {word : Word} {uses : List Dst} {body : Place → Thread → Core → State → Res} {s : State} {t : Thread}
    (h : CanIssue s t uses) : issue word uses true body s = finish s s.turn false (issuePinned s s.turn t body) := by
  have h2 := h.plain
  have h3 : (uses.any (fun d => isShared d.reg) && !s.ownsCore s.turn t) = false := by
    cases ho : uses.any (fun d => isShared d.reg)
    · rfl
    · simp [h.owns ho]
  simp only [issue, issueWith, h.here, h3]
  cases hr : t.role <;> simp_all [Thread.isHandler]

theorem setReg_region (t : Thread) (d : Dst) (v : Word) : (t.setReg d v).region = t.region := by
  unfold Thread.setReg
  split
  · rfl
  · split <;> rfl

/-- A changed thread whose region stays. -/
theorem updThread_pinnedAt (s : State) (p : Place) (f : Thread → Thread) (hf : ∀ t, (f t).region = t.region) :
    (s.updThread p f).pinnedAt p = s.pinnedAt p := by
  unfold State.pinnedAt
  rw [State.thread_updThread]
  cases s.thread p <;> simp [hf]

/-- What a write of a register leaves: the region of the slot. -/
theorem writeReg_pinnedAt (s : State) (p : Place) (d : Dst) (v : Word) : (s.writeReg p d v).pinnedAt p = s.pinnedAt p := by
  unfold State.writeReg State.putReg
  split
  · exact updThread_pinnedAt s p _ (fun _ => rfl)
  · rw [updThread_pinnedAt _ p _ (fun t => setReg_region t d v)]
    exact updThread_pinnedAt s p _ (fun _ => rfl)

/-- A register instruction of one result that is the same with and without the token: its next state. -/
theorem compute_next {word : Word} {uses : List Dst} {d : Dst} {f : Place → Thread → Core → State → Except Trap Word} {s : State}
    {t : Thread} {v : Word} (h : CanIssue s t (uses ++ [d])) (hw : MayWrite s t d) (hv : f s.turn t (coreNow s) s = .ok v)
    (hp : ∀ r : Region, f s.turn { t with region := r } (coreNow s) (giveToken s s.turn false) = .ok v) :
    compute word uses d f s = .next (retire ((pinFor s t d).writeReg s.turn d v) s.turn false) := by
  unfold compute
  by_cases hs : isShared d.reg = true
  · rw [hs, issue_pinned h]
    unfold issuePinned
    have hv' : f s.turn t (s.core (coreOf s.turn)) s = .ok v := hv
    simp only [hv']
    by_cases hf : t.region.pinned = true
    · have hfx : s.pinnedAt s.turn = true := by simp [State.pinnedAt, h.here, hf]
      simp [hf, finish, pinFor, pinOpened, writeReg_pinnedAt, hfx]
    · have hc := (hw hs).resolve_left hf
      obtain ⟨r, hr, _, _, _⟩ := giveToken_thread s s.turn t h.here false
      have hp' := hp r
      simp only [Bool.not_eq_true] at hf
      simp [hf, hc, hr, giveToken_core, coreNow] at hp' ⊢
      simp [hp', pinOpened, writeReg_pinnedAt, giveToken_pinned s s.turn t h.here, finish, pinFor, hs, hf]
  · simp only [Bool.not_eq_true] at hs
    rw [hs, issue_next h]
    simp only [hv, finish, pinFor, hs, Bool.false_and, Bool.false_eq_true, if_false]

/-! ## Pending results -/

/-- Discarding pending writes leaves the region. -/
theorem discards_region (ds : List Dst) : ∀ t : Thread, (ds.foldl Thread.discard t).region = t.region := by
  induction ds with
  | nil => intro t; rfl
  | cons d ds ih => intro t; exact (ih (t.discard d)).trans rfl

/-- A pending result leaves the region of the slot. -/
theorem pendNow_pinnedAt (s : State) (p : Place) (ds : List Dst) (la : Nat) (acq : Bool) (vs : List Word) :
    (pendNow s p ds la acq vs).pinnedAt p = s.pinnedAt p := by
  unfold pendNow
  exact updThread_pinnedAt _ p _ (fun t => discards_region ds t)

/-- A register instruction whose result is pending at once, the same with and without the token: its next state. -/
theorem give_next {word : Word} {uses : List Dst} {d : Reg} {la : BitVec 4} {body : Place → Thread → Core → State → Res} {s z' : State}
    {t : Thread} {v : Word} (h : CanGive s t uses d) (hb : ∃ x, body s.turn t (coreNow s) s = .done x)
    (hz : ∀ u, (pinFor s t (ri d)).thread s.turn = some u → body s.turn u (coreNow s) (pinFor s t (ri d)) = give z' s.turn d la v)
    (hp : z'.pinnedAt s.turn = (pinFor s t (ri d)).pinnedAt s.turn) :
    issue word (uses ++ [ri d]) (isShared d) body s = .next (retire (pendNow z' s.turn [ri d] la.toNat false [v]) s.turn false) := by
  obtain ⟨x, hx⟩ := hb
  have hx' : body s.turn t (s.core (coreOf s.turn)) s = .done x := hx
  obtain ⟨h, hw⟩ := h
  by_cases hs : isShared d = true
  · rw [hs, issue_pinned h]
    unfold issuePinned
    simp only [hx']
    by_cases hf : t.region.pinned = true
    · have hfx : s.pinnedAt s.turn = true := by simp [State.pinnedAt, h.here, hf]
      have hq : pinFor s t (ri d) = s := by simp [pinFor, hf]
      rw [hq] at hz hp
      have := hz t h.here
      rw [this] at hx
      simp only [hf, if_true]
      rw [hx'.symm, show s.core (coreOf s.turn) = coreNow s from rfl, this]
      simp [give, pinOpened, pendNow_pinnedAt, hp, hfx, finish]
    · have hc := (hw hs).resolve_left hf
      obtain ⟨r, hr, _, _, _⟩ := giveToken_thread s s.turn t h.here false
      simp only [Bool.not_eq_true] at hf
      have hq : pinFor s t (ri d) = giveToken s s.turn false := by simp [pinFor, hf, hs, ri]
      rw [hq] at hz hp
      have := hz _ hr
      simp only [hf, hc, hr, giveToken_core, Bool.false_eq_true, if_false, if_true]
      rw [show s.core (coreOf s.turn) = coreNow s from rfl, this]
      simp [give, pinOpened, pendNow_pinnedAt, hp, giveToken_pinned s s.turn t h.here, finish]
  · simp only [Bool.not_eq_true] at hs
    rw [hs, issue_next h]
    have hq : pinFor s t (ri d) = s := by simp [pinFor, hs, ri]
    rw [hq] at hz
    rw [hz t h.here]
    rfl

end Sys2Proof
end

