-- ==== Sys2Proof/Laws/Memory.lean ====
section
/-! SUPPORT. The laws of memory: the canonical form is kept by every operation, a read after a write, and no other address
changes. -/

namespace Sys2Proof.Machine

/-- A weaker lower bound. -/
theorem memAbove_mono {lo lo' : Nat} (h : lo' ≤ lo) : ∀ m : List Host.Cell, memAbove lo m = true → memAbove lo' m = true
  | [], _ => rfl
  | (a, b) :: m, hm => by
    simp only [memAbove, Bool.and_eq_true, decide_eq_true_eq] at hm ⊢
    exact ⟨⟨Nat.le_trans h hm.1.1, hm.1.2⟩, hm.2⟩

/-- A byte written at or above a bound. -/
theorem memAbove_write {a : Nat} {b : Byte} : ∀ (m : List Host.Cell) {lo : Nat}, lo ≤ a → memAbove lo m = true →
    memAbove lo (memWrite m a b) = true
  | [], lo, h, _ => by
    by_cases hb : b = 0#8
    · simp [memWrite, hb, memAbove]
    · simp [memWrite, hb, memAbove, h]
  | (a', b') :: m, lo, h, hm => by
    simp only [memAbove, Bool.and_eq_true, decide_eq_true_eq] at hm
    obtain ⟨⟨h1, h2⟩, h3⟩ := hm
    have h2' : ¬ b' = 0#8 := h2
    unfold memWrite
    by_cases hlt : a < a'
    · have h4 : a + 1 ≤ a' := hlt
      by_cases hb : b = 0#8
      · simp [hlt, hb, memAbove, h1, h2', h3]
      · simp [hlt, hb, memAbove, h, h2', h3, h4]
    · by_cases he : a = a'
      · subst he
        by_cases hb : b = 0#8
        · simpa [hb] using memAbove_mono (show lo ≤ a + 1 by omega) m h3
        · simp [hb, memAbove, h, h3]
      · have h5 : a' + 1 ≤ a := by omega
        simp [hlt, he, memAbove, h1, h2', memAbove_write m h5 h3]

/-- One write keeps the canonical form. -/
theorem memWrite_wf {m : List Host.Cell} (h : Memory.wf m = true) (a : Nat) (b : Byte) : Memory.wf (memWrite m a b) = true :=
  memAbove_write m (Nat.zero_le a) h

/-- A run of writes keeps it. -/
theorem memWrites_wf : ∀ (bs : List Byte) {m : List Host.Cell}, Memory.wf m = true → ∀ a, Memory.wf (memWrites m a bs) = true
  | [], _, h, _ => h
  | b :: bs, _, h, a => memWrites_wf bs (memWrite_wf h a b) (a + 1)

/-- Taking entries away keeps it. -/
theorem memFilter_above (f : Host.Cell → Bool) : ∀ (m : List Host.Cell) {lo : Nat}, memAbove lo m = true →
    memAbove lo (m.filter f) = true
  | [], _, _ => rfl
  | (a, b) :: m, lo, h => by
    simp only [memAbove, Bool.and_eq_true, decide_eq_true_eq] at h
    have ih := memFilter_above f m h.2
    have h2 : ¬ b = 0#8 := h.1.2
    by_cases hf : f (a, b) = true
    · simp [List.filter, hf, memAbove, h.1.1, h2, ih]
    · simp only [List.filter, Bool.not_eq_true] at hf ⊢
      simp only [hf]
      exact memAbove_mono (by omega) _ ih

theorem memFilter_wf (f : Host.Cell → Bool) {m : List Host.Cell} (h : Memory.wf m = true) : Memory.wf (m.filter f) = true :=
  memFilter_above f m h

/-- Below its bound a memory reads 0. -/
theorem memRead_below : ∀ (m : List Host.Cell) {lo a : Nat}, memAbove lo m = true → a < lo → memRead m a = 0
  | [], _, _, _, _ => rfl
  | (a', b') :: m, lo, a, h, hl => by
    simp only [memAbove, Bool.and_eq_true, decide_eq_true_eq] at h
    have h1 : ¬ a' = a := by omega
    have h2 : a < a' := by omega
    simp [memRead, h1, h2]

/-- A write is read back, and no other address changes. -/
theorem memRead_write_above : ∀ (m : List Host.Cell) {lo : Nat} (a c : Nat) (b : Byte), memAbove lo m = true →
    memRead (memWrite m a b) c = if c = a then b else memRead m c
  | [], _, a, c, b, _ => by
    by_cases hb : b = 0#8
    · subst hb
      simp [memWrite, memRead]
    · by_cases hc : c = a
      · simp [memWrite, hb, memRead, hc]
      · simp [memWrite, hb, memRead, hc, Ne.symm hc]
  | (a', b') :: m, _, a, c, b, h => by
    simp only [memAbove, Bool.and_eq_true, decide_eq_true_eq] at h
    obtain ⟨⟨_, hb'⟩, hm⟩ := h
    have below : ∀ x, x < a' + 1 → memRead m x = 0 := fun x hx => memRead_below m hm hx
    have ih := memRead_write_above m a c b hm
    by_cases hlt : a < a'
    · by_cases hb : b = 0#8
      · subst hb
        by_cases hc : c = a
        · subst hc
          have : ¬ a' = c := by omega
          simp [memWrite, hlt, memRead, this]
        · simp [memWrite, hlt, hc]
      · by_cases hc : c = a
        · subst hc
          simp [memWrite, hlt, hb, memRead]
        · by_cases hca : c < a
          · have h1 : ¬ a = c := by omega
            have h2 : ¬ a' = c := by omega
            have h3 : c < a' := by omega
            simp [memWrite, hlt, hb, memRead, hc, h1, hca, h2, h3]
          · have h1 : ¬ a = c := by omega
            simp [memWrite, hlt, hb, memRead, hc, h1, hca]
    · by_cases he : a = a'
      · subst he
        by_cases hb : b = 0#8
        · subst hb
          by_cases hc : c = a
          · subst hc
            simp [memWrite, below c (by omega)]
          · by_cases hca : c < a
            · have h1 : ¬ a = c := by omega
              simp [memWrite, memRead, hc, h1, hca, below c (by omega)]
            · have h1 : ¬ a = c := by omega
              simp [memWrite, memRead, hc, h1, hca]
        · by_cases hc : c = a
          · subst hc
            simp [memWrite, hb, memRead]
          · have h1 : ¬ a = c := by omega
            simp [memWrite, hb, memRead, hc, h1]
      · by_cases h1 : a' = c
        · subst h1
          have hc : ¬ a' = a := by omega
          simp [memWrite, hlt, he, memRead, hc]
        · by_cases h2 : c < a'
          · have hc : ¬ c = a := by omega
            simp [memWrite, hlt, he, memRead, h1, h2, hc]
          · simp [memWrite, hlt, he, memRead, h1, h2, ih]

/-- A byte read after a write. -/
theorem memRead_write {m : List Host.Cell} (h : Memory.wf m = true) (a c : Nat) (b : Byte) :
    memRead (memWrite m a b) c = if c = a then b else memRead m c := memRead_write_above m a c b h

/-- Bytes outside a run of writes stay. -/
theorem memRead_writes_outside : ∀ (bs : List Byte) {m : List Host.Cell} (_ : Memory.wf m = true) (a c : Nat),
    (c < a ∨ a + bs.length ≤ c) → memRead (memWrites m a bs) c = memRead m c
  | [], _, _, _, _, _ => rfl
  | b :: bs, m, h, a, c, hc => by
    have h1 : c ≠ a := by
      rcases hc with hc | hc
      · omega
      · simp only [List.length_cons] at hc; omega
    have h2 : c < a + 1 ∨ a + 1 + bs.length ≤ c := by
      rcases hc with hc | hc
      · omega
      · simp only [List.length_cons] at hc; omega
    rw [memWrites, memRead_writes_outside bs (memWrite_wf h a b) (a + 1) c h2, memRead_write h, if_neg h1]

end Sys2Proof.Machine
end

