-- ==== Sys2Proof/Tests/Slice0.lean ====
section
/-! SUPPORT. Tests: ill-formed terms, words written out from the encoding tables of the spec, one step of small states, and for
each statement with hypotheses a concrete state that meets them. -/

set_option Elab.async false

namespace Sys2Proof.Tests

open Sys2Proof Sys2Proof.Machine

/-! ## Well-formed instructions -/

/-- Each check of `wellFormed` refuses a term that breaks it alone. -/
theorem test_ill_formed : ∀ i ∈ ([.shli true 1 2 32, .shri true 1 2 63, .srai true 1 2 32, .bfx 1 2 63 1, .bfxs 1 2 1 63, .bfi 1 2 31 33,
    .loop false 1 0, .loopi true 3 0, .qfence 0, .mma 4 0 0 0, .mma 0 4 0 0, .mmaz 7 0 0, .mzero 4] : List Instr),
    wellFormed i = false := by decide

/-- The nearest terms that keep the checks. -/
theorem test_well_formed : ∀ i ∈ ([.shli false 1 2 63, .shri true 1 2 31, .srai true 1 2 31, .bfx 1 2 63 0, .bfxs 1 2 0 63, .bfi 1 2 31 32,
    .loop false 1 1, .loopi true 0 1, .qfence 1, .mma 3 3 31 31, .mmaz 3 0 0, .mzero 3] : List Instr), wellFormed i = true := by decide

/-- No ill-formed instruction has a word: the words that their fields would make decode to nothing (R40). -/
theorem test_ill_formed_words : ∀ w ∈ ([0x0E084060, 0x0E0840FF, 0x0E084160, 0x10084FC1, 0x1208407F, 0x140847E1, 0x30040000, 0x32000000, 0x8000000D, 0xC1000000, 0xC1C00001, 0xC1000002, 0x00000000, 0xFE000000, 0x02000023, 0x0200008D, 0x0E000060, 0x8000000D, 0xC1000002] : List Nat), decodeTableWord 32 w = none := by decide +kernel

/-! ## Words of the encoding tables -/

theorem test_decode_01_part0 : ∀ e ∈ ([(0x03DF2C40, .add true 59 57 24),
      (0x03E2E601, .sub false 60 23 12),
      (0x033245C2, .addv true 38 18 11),
      (0x03972A03, .subv false 50 57 20),
      (0x0240E204, .mul false 8 7 4),
      (0x02F07D85, .mulh false 30 3 59),
      (0x03C32EC6, .mulhu true 56 25 29),
      (0x03F80547, .madd true 63 0 10),
      (0x031E8548, .div true 35 52 10),
      (0x0343B249, .divu true 40 29 36),
      (0x0241B98A, .rem false 8 13 51),
      (0x032E240B, .remu false 37 49 8),
      (0x02036D0C, .divv false 0 27 26),
      (0x03E6000D, .abs false 60 48)] : List (Nat × Instr)),
    decodeTableWord 32 e.1 = some e.2 := by decide +kernel

theorem test_decode_01_part1 : ∀ e ∈ ([(0x03A92CCE, .min true 53 9 25),
      (0x035973CF, .max true 43 11 39),
      (0x020E87D0, .minu true 1 52 15),
      (0x02F98091, .maxu false 31 12 1),
      (0x03DFCB12, .and false 59 62 22),
      (0x03CB0813, .or false 57 24 16),
      (0x0389D954, .xor true 49 14 50),
      (0x02D81155, .andn true 27 0 34),
      (0x02134BD6, .shl true 2 26 23),
      (0x0260A957, .shr true 12 5 18),
      (0x03C42098, .sra false 56 33 1),
      (0x032E24D9, .rol true 37 49 9),
      (0x025B401A, .clz false 11 26),
      (0x020DE01B, .ctz false 1 47)] : List (Nat × Instr)),
    decodeTableWord 32 e.1 = some e.2 := by decide +kernel

theorem test_decode_01_08 : ∀ e ∈ ([(0x03D2005C, .popc true 58 16),
      (0x028E205D, .brev true 17 49),
      (0x029CEE9E, .seq false 19 39 29),
      (0x02C28C9F, .sne false 24 20 25),
      (0x03E95AE0, .slt true 61 10 53),
      (0x0269A221, .sltu false 13 13 4),
      (0x02F65062, .sel true 30 50 32),
      (0x05AFD2C7, .addi 53 62 4807),
      (0x06B10816, .andi 22 8 2070),
      (0x08EFA4BE, .ori 29 61 1214),
      (0x0B1B6D0D, .xori 35 27 3341),
      (0x0C11113A, .slti 2 8 4410),
      (0x0FCBE047, .shli true 57 31 7),
      (0x0EB480AF, .shri false 22 36 47),
      (0x0E5DC111, .srai false 11 46 17),
      (0x11CD4444, .bfx 57 42 17 4)] : List (Nat × Instr)),
    decodeTableWord 32 e.1 = some e.2 := by decide +kernel

theorem test_decode_09_0e : ∀ e ∈ ([(0x1244EA11, .bfxs 8 39 40 17),
      (0x14578275, .bfi 10 60 9 53),
      (0x161FFFB2, .li 3 524210),
      (0x180E1E09, .lih 1 400905),
      (0x1B8032FB, .addpc 48 13051),
      (0x1C494881, .ldl 9 84097)] : List (Nat × Instr)),
    decodeTableWord 32 e.1 = some e.2 := by decide +kernel

theorem test_decode_0f_part0 : ∀ e ∈ ([(0x1E741A80, .fadd false 14 32 53),
      (0x1F8F5C41, .fsub true 49 58 56),
      (0x1E5073C2, .fmul true 10 3 39),
      (0x1FE84E83, .fdiv false 61 2 29),
      (0x1FFFD004, .fmadd false 63 62 32),
      (0x1F7CC905, .fmin false 47 38 18),
      (0x1EAD7C06, .fmax false 21 43 56),
      (0x1EF52047, .fabs true 30 41),
      (0x1F032048, .fneg true 32 25),
      (0x1ECB6049, .fsqrt true 25 27),
      (0x1EE50D4A, .fcmpeq true 28 40 26),
      (0x1E8FF60B, .fcmplt false 17 63 44),
      (0x1E446A8C, .fcmple false 8 35 21),
      (0x1FCF800D, .fcvtif false 57 60)] : List (Nat × Instr)),
    decodeTableWord 32 e.1 = some e.2 := by decide +kernel

theorem test_decode_0f_1b : ∀ e ∈ ([(0x1EDE804E, .fcvtfi true 27 52),
      (0x1FFD004F, .fcvtw true 63 40),
      (0x1F492050, .fmvif true 41 9),
      (0x1F18A011, .fmvfi false 35 5),
      (0x211DB3C7, .beq 35 45 5063),
      (0x221239EE, .bne 2 17 6638),
      (0x25D30195, .blt 58 24 405),
      (0x2713C904, .bge 34 30 2308),
      (0x2831DC93, .bltu 6 14 7315),
      (0x2A6DE4FD, .bgeu 13 47 1277),
      (0x2CCACDB4, .j 13290932),
      (0x2ECC2028, .call 13377576),
      (0x31816DF2, .loop true 32 93682),
      (0x32F04A16, .loopi false 60 18966),
      (0x34AE3600, .rpt 5 3 17 44),
      (0x36A0192F, .csrr 20 6447)] : List (Nat × Instr)),
    decodeTableWord 32 e.1 = some e.2 := by decide +kernel

theorem test_decode_1c_23 : ∀ e ∈ ([(0x38038594, .csrw 28 1428),
      (0x3A0698D4, .csrs 52 6356),
      (0x3C021CD5, .csrc 16 7381),
      (0x3E000000, .nop),
      (0x3E000001, .eret),
      (0x3E000002, .brk),
      (0x3E000003, .quit),
      (0x3E074004, .jr 58),
      (0x3E032005, .callr 25),
      (0x3E000006, .ret),
      (0x3E000007, .lbrk false),
      (0x3E000008, .wflush),
      (0x41857D4E, .ldBSx 48 43 14 334),
      (0x42D186DA, .ldBZx 26 12 3 218),
      (0x44FE253D, .ldHSx 31 49 2 317),
      (0x474C2164, .ldHZx 41 33 0 356)] : List (Nat × Instr)),
    decodeTableWord 32 e.1 = some e.2 := by decide +kernel

theorem test_decode_24_2b : ∀ e ∈ ([(0x48509D5E, .ldWSx 10 4 14 350),
      (0x4BAC7E1D, .ldWZx 53 35 15 29),
      (0x4CD91A23, .ldD 27 8 13 35),
      (0x4EB548F8, .ldxBSx 22 42 17 15),
      (0x4E9F1F91, .ldxBZx 19 56 63 2),
      (0x4EE712AA, .ldxHSx 28 56 37 5),
      (0x4F04F833, .ldxHZx 32 39 48 6),
      (0x4F32517C, .ldxWSx 38 18 34 15),
      (0x4ECE8705, .ldxWZx 25 52 14 0),
      (0x4F8062E6, .ldxD 48 3 5 12),
      (0x507FC05F, .stB 15 62 95),
      (0x52A901D5, .stH 21 8 469),
      (0x55A66113, .stW 52 51 275),
      (0x56FF81F8, .stD 31 60 504)] : List (Nat × Instr)),
    decodeTableWord 32 e.1 = some e.2 := by decide +kernel

theorem test_decode_2c_2f : ∀ e ∈ ([(0x58857B80, .stxB 16 43 55),
      (0x59E50681, .stxH 60 40 13),
      (0x58C6A182, .stxW 24 53 3),
      (0x590A0103, .stxD 33 16 2),
      (0x5A2308E8, .ldp 2 24 4 232),
      (0x5C048149, .stp 0 36 329),
      (0x5F6BFF98, .ldaW 45 31 63 3),
      (0x5FF9F031, .ldaD 63 15 32 6),
      (0x5FB85802, .stlW 55 2 48),
      (0x5FA28D03, .stlD 52 20 26),
      (0x5EDB6884, .stlGW 27 27 17),
      (0x5EED8B85, .stlGD 29 44 23)] : List (Nat × Instr)),
    decodeTableWord 32 e.1 = some e.2 := by decide +kernel

theorem test_decode_30_39 : ∀ e ∈ ([(0x61450C30, .ldfBSx 40 40 24 6),
      (0x60C188B9, .ldfBZx 24 12 17 7),
      (0x608170E2, .ldfHSx 16 11 33 12),
      (0x6066FAA3, .ldfHZx 12 55 53 4),
      (0x60CE611C, .ldfWSx 25 51 2 3),
      (0x60CDB71D, .ldfWZx 25 45 46 3),
      (0x615B04FE, .ldfD 43 24 9 15),
      (0x6201A180, .pref 13 3),
      (0x71EA4C28, .aadd false 61 18 24 5),
      (0x70D2CA49, .aand false 26 22 20 9),
      (0x703A3D92, .aor false 7 17 59 2),
      (0x714E5DEB, .axor false 41 50 59 13),
      (0x70CAFA75, .amax false 25 23 52 14),
      (0x700D2567, .amaxu false 1 41 10 12),
      (0x73BB5784, .amin true 55 26 47 0),
      (0x737E6C2E, .aminu true 47 51 24 5)] : List (Nat × Instr)),
    decodeTableWord 32 e.1 = some e.2 := by decide +kernel

theorem test_decode_3a_3e : ∀ e ∈ ([(0x74057080, .aaddP false 43 33),
      (0x74057305, .amaxP false 43 38),
      (0x7601CA01, .aandP true 14 20),
      (0x76023502, .aorP true 17 42),
      (0x7606EB83, .axorP true 55 23),
      (0x76034B84, .aminP true 26 23),
      (0x76018086, .aminuP true 12 1),
      (0x7600CE87, .amaxuP true 6 29),
      (0x784E3FB1, .acas false 9 49 63 6),
      (0x7990471A, .afadd false 50 2 14 3),
      (0x7907198B, .afmin false 32 56 51 1),
      (0x79802644, .afmax false 48 1 12 8),
      (0x7B356DE0, .aswp true 38 43 27 12),
      (0x7C062A02, .afaddP false 49 20)] : List (Nat × Instr)),
    decodeTableWord 32 e.1 = some e.2 := by decide +kernel

theorem test_decode_3f_40 : ∀ e ∈ ([(0x7E047580, .aswpP true 35 43),
      (0x7E670481, .acasP true 12 56 9),
      (0x7E078A83, .afminP true 60 21),
      (0x7E00FB04, .afmaxP true 7 54),
      (0x8007E000, .rgn 63),
      (0x80000001, .cmt),
      (0x80000002, .abrt),
      (0x81A80003, .rgnq 53),
      (0x80000088, .fence true),
      (0x80000009, .fencep),
      (0x8000000A, .ifence),
      (0x8000000B, .lfence),
      (0x8000000C, .tfence),
      (0x8000198D, .qfence 51),
      (0x8000000E, .vfence),
      (0x8000000F, .vwait)] : List (Nat × Instr)),
    decodeTableWord 32 e.1 = some e.2 := by decide +kernel

theorem test_decode_41_43 : ∀ e ∈ ([(0x8204E000, .go 39),
      (0x82000001, .gohome),
      (0x8205D202, .amsg 46 36),
      (0x8407B100, .barset 61 34),
      (0x84048001, .barreg 36),
      (0x8404A002, .bara 37),
      (0x84006083, .barw 3 1),
      (0x8403E284, .baraw 31 5),
      (0x84029A05, .jset 20 52),
      (0x84062006, .jdec 49),
      (0x8400C007, .jwait 6),
      (0x86050000, .rlock 40),
      (0x86064001, .runlk 50),
      (0x8600C002, .rpre 6),
      (0x87400003, .lateq 40)] : List (Nat × Instr)),
    decodeTableWord 32 e.1 = some e.2 := by decide +kernel

theorem test_decode_44_48 : ∀ e ∈ ([(0x8800025A, .slk 602),
      (0x88001728, .slkOnce 1832),
      (0x8A06DF4B, .trap 450379),
      (0x91EC0F88, .present 61 32 31 1),
      (0x90676939, .wsplit 12 59 18 7),
      (0x9070DAF2, .wdeleg 14 6 53 14),
      (0x907B435B, .waccept 15 26 6 11),
      (0x9099F774, .wsurr 19 15 46 14),
      (0x908EBD45, .wamend 17 53 58 8),
      (0x91ADC8CE, .wqry 53 46 17 9),
      (0x9083DE9F, .caprd 16 30 61 3)] : List (Nat × Instr)),
    decodeTableWord 32 e.1 = some e.2 := by decide +kernel

theorem test_decode_49_50 : ∀ e ∈ ([(0x933DA040, .dtime 39 45 8),
      (0x93130041, .tnonce 34 24 8),
      (0x92F30FB2, .ckpt 30 24 31 6),
      (0x9228E0C3, .evwait 5 7 1 8),
      (0x92043B04, .evpost 33 54),
      (0x9218801D, .rlimq 3 4 3),
      (0x92E46016, .evrd 28 35 2),
      (0xA05A8F58, .scfg 11 20 30 11),
      (0xA1EFB6B1, .sbnd 61 61 45 6),
      (0xA15D7FA2, .smap 43 43 63 4),
      (0xA049E073, .sunmap 9 15 14),
      (0xA0DF006C, .sqry 27 56 13)] : List (Nat × Instr)),
    decodeTableWord 32 e.1 = some e.2 := by decide +kernel

theorem test_decode_51_part0 : ∀ e ∈ ([(0xA202DBD3, .vadd 2 3 1 47 19),
      (0xA2069DAF, .vsub 2 2 1 54 47),
      (0xA208E28A, .vmul 0 3 2 10 10),
      (0xA20FF981, .vfma 3 3 3 38 1),
      (0xA21092A6, .vfms 0 2 1 10 38),
      (0xA217A49C, .vdiv 3 2 2 18 28),
      (0xA21AA3E9, .vmin 2 2 2 15 41),
      (0xA21FB9FA, .vmax 3 2 3 39 58),
      (0xA2224CDF, .vabs 2 1 51 31),
      (0xA2248B83, .vcvt 0 2 46 3),
      (0xA22AF62F, .vcmp 2 3 3 24 47),
      (0xA22F558B, .vsel 3 1 1 22 11),
      (0xA2338707, .vand 3 2 0 28 7),
      (0xA2358D88, .vor 1 2 0 54 8)] : List (Nat × Instr)),
    decodeTableWord 32 e.1 = some e.2 := by decide +kernel

theorem test_decode_51_54 : ∀ e ∈ ([(0xA23A22A3, .vxor 2 0 2 10 35),
      (0xA23C80D2, .vshl 0 2 0 3 18),
      (0xA240D73E, .vshr 0 3 1 28 62),
      (0xA2460EB2, .viota 2 58 50),
      (0xA24A8A91, .vshop 2 2 42 17),
      (0xA24FC245, .vexp2 3 3 9 5),
      (0xA2538030, .vlog2 3 2 0 48),
      (0xA254C0EE, .vrcp 0 3 3 46),
      (0xA2580D75, .vrsq 0 0 53 53),
      (0xA25D4530, .vsqrt 1 1 20 48),
      (0xA26186B1, .vsin 1 2 26 49),
      (0xA26788C7, .vcos 3 2 35 7),
      (0xA26B83A6, .vtanh 3 2 14 38),
      (0xA49AC3E1, .cpy 19 22 7 3 1),
      (0xA7E8940C, .cpy2d 61 4 40 0 12),
      (0xA8BDADBE, .gath 23 45 27 1 30)] : List (Nat × Instr)),
    decodeTableWord 32 e.1 = some e.2 := by decide +kernel

theorem test_decode_55_60 : ∀ e ∈ ([(0xAAE70BD9, .scat 28 56 23 2 25),
      (0xACB4FEDF, .coll 22 39 61 2 31),
      (0xB19D65F8, .qmake 51 43 11 15),
      (0xB0E66331, .qenq 28 51 6 6),
      (0xB08E318A, .qdeq 17 49 35 1),
      (0xB0F03E5B, .qsteal 30 1 60 11),
      (0xB1CBFAAC, .qderiv 57 31 53 5),
      (0xB1AA8055, .qdest 53 20 10),
      (0xB0942846, .qstat 18 33 16 8),
      (0xB0326B07, .govset 6 19 22 0),
      (0xC0D20A00, .mma 3 2 8 5),
      (0xC0420C01, .mmaz 1 8 6),
      (0xC0400002, .mzero 1)] : List (Nat × Instr)),
    decodeTableWord 32 e.1 = some e.2 := by decide +kernel

theorem test_decode_61_68 : ∀ e ∈ ([(0xC3C03878, .mclaim 56 1 48 15),
      (0xC2F4A771, .mrel 30 37 14 14),
      (0xC20B49CA, .mfmt 1 26 19 9),
      (0xC384D5E3, .mscl 48 38 43 12),
      (0xC22C0C04, .mldt 5 32 24),
      (0xC2660705, .mtrn 12 48 14),
      (0xC214F186, .mrd 2 39 35),
      (0xC3E55CE7, .mcvt 60 42 57 12),
      (0xC459A918, .mgemm 11 13 18 3),
      (0xC482C029, .mseqq 16 22 5),
      (0xC4030002, .mburst 24),
      (0xC4000003, .mwait),
      (0xD1988070, .launch 51 4 14),
      (0xD0580019, .wnext 11 3),
      (0xD0E88A1A, .spawn 29 4 20 3)] : List (Nat × Instr)),
    decodeTableWord 32 e.1 = some e.2 := by decide +kernel

theorem test_decode_69 : ∀ e ∈ ([(0xD3BE84D0, .hmerge 55 52 9 10),
      (0xD3B22D21, .hadd 54 17 26 4),
      (0xD38FB56A, .hqry 49 61 42 13),
      (0xD20E6053, .hclose 1 51 10),
      (0xD2F850D4, .hdrain 31 2 33 10),
      (0xD2C573F5, .srrd 24 43 39 14),
      (0xD26E0036, .htop 13 48 6)] : List (Nat × Instr)),
    decodeTableWord 32 e.1 = some e.2 := by decide +kernel

/-! ## A small machine: one thread, its context, a core that it owns -/

def p0 : Place := ⟨0, 0, 0⟩
def c0 : CtxId := ⟨0, 1⟩

/-- A range of four pages at VA 0x20000. -/
def range : Range := ⟨0x20000, 0x4000, 0, 7 + 2 ^ 13⟩

/-- A thread at the start of its text, with some integer registers; it has locked the range. -/
def th (regs : List (Nat × Word)) : Thread := { (Thread.new 7 1 0x10000 p0).start regs [] with locks := [⟨range, false⟩] }

/-- A grant of one core. -/
def b0 : Block := { Block.zero with
  slots := 14, cores := 1, scratch := 131072, hbm := 16384, oslots := 32, tiles := 4, queues := 4, heap := 64, barriers := 4
  streams := 8, launches := 4 }

/-- Its context: four pages at VA 0x20000 (the text, one of data, one in host memory, one of district 1), the scratch slice of
core 0, and text whose words 8 and 9 are pool. -/
def x0 : Ctx := { Ctx.new with
  mask := 3, block := b0
  slots := (List.range 14).map (fun n => (0, n)), cores := [0], spans := [⟨0, 0, 131072⟩], cap := 4, notAfter := 2 ^ 63
  hbm := [⟨0, .hbm, 0⟩, ⟨4096, .hbm, 0⟩, ⟨8192, .host, 0⟩, ⟨2 ^ 39, .hbm, 0⟩]
  text := ⟨0, 0x10000, 1024, [0, 3], [0]⟩ }

def put (t : Thread) (x : Ctx) : State := { State.reset with threads := [(p0, t)], ctxs := [(c0, x)], nextId := 100 }

/-- Bytes as the list of memory cells that holds them. -/
def cellsAt (a : Nat) (bs : List Byte) : List Host.Cell := (bs.zipIdx.filter (fun e => e.1 != 0)).map (fun e => (a + e.2, e.1))

/-- A range table of one entry: a page at a VA, and where it lies (R199). -/
def table (va target : Nat) : List Byte :=
  leBytes 8 0 ++ leBytes 4 1 ++ List.replicate 20 0 ++ leBytes 8 va ++ leBytes 8 0x1000 ++ leBytes 8 target ++ leBytes 8 (7 + 2 ^ 13)

/-- The state that a meaning answers. -/
def after (i : Instr) (s : State) : Option State :=
  match exec i s with
  | .next s' => some s'
  | _ => none

/-- The thread that a meaning leaves in the slot. -/
def afterT (i : Instr) (s : State) : Option Thread := (after i s).bind (fun s' => s'.thread p0)

/-- i3 after an instruction that is given i1, i2 and i3, at its retirement. -/
def gives3 (i : Instr) (a b d : Word) : Option Word :=
  (afterT i (put (th [(1, a), (2, b), (3, d)]) x0)).bind (fun t => if t.pc = 0x10004 then t.i[3]? else none)

/-- f3 after an instruction that is given f1, f2 and f3. -/
def givesF (i : Instr) (a b d : Word) : Option Word :=
  (afterT i (put ((th []).start [(1, a)] [(1, a), (2, b), (3, d)]) x0)).bind (fun t => t.f[3]?)

/-- i3 after an instruction that is given f1, f2 and f3. -/
def givesI (i : Instr) (a b d : Word) : Option Word :=
  (afterT i (put ((th []).start [] [(1, a), (2, b), (3, d)]) x0)).bind (fun t => t.i[3]?)

/-- The trap that an instruction raises: TCAUSE, TVAL and TPC. -/
def traps (i : Instr) (s : State) : Option (Word × Word × Word) :=
  (afterT i s).bind (fun t => if tsDepth t.tstat = 0 then none else some (t.tcause, t.tval, t.tpc))

/-- Where control goes. -/
def goes (i : Instr) (t : Thread) : Option Word := (afterT i (put t x0)).map (fun u => u.pc)

theorem canOn (t : Thread) (x : Ctx) (cores : Map CoreId Core) (mem : List Host.Cell) (uses : List Dst) (hp : t.isHandler = false) (hc : t.ctx = 1)
    (hx : x.cores = [0] ∧ x.slots = x0.slots) : CanIssue { put t x with cores := cores, mem := mem } t uses := by
  refine ⟨rfl, hp, fun _ => ?_⟩
  have h : ({ put t x with cores := cores, mem := mem } : State).ctx (t.ctxId p0) = some x := by simp [put, State.ctx, Thread.ctxId, hc, mget, c0, p0]
  show State.ownsCore { put t x with cores := cores, mem := mem } p0 t = true
  rw [State.ownsCore, h]
  simp [Ctx.owns, hx.1, hx.2, x0, p0]

theorem can (t : Thread) (x : Ctx) (uses : List Dst) (hp : t.isHandler = false) (hc : t.ctx = 1)
    (hx : x.cores = [0] ∧ x.slots = x0.slots) : CanIssue (put t x) t uses := canOn t x [] [] uses hp hc hx

/-- Every register may be used and written: the private ones and the shared ones. -/
theorem test_may_issue (a b d : Reg) :
    CanIssue (put (th []) x0) (th []) [ri a, ri b, rf a, rf b, ri d, rf d] ∧ MayWrite (put (th []) x0) (th []) (ri d)
      ∧ MayWrite (put (th []) x0) (th []) (rf d) :=
  ⟨can _ _ _ rfl rfl ⟨rfl, rfl⟩, fun _ => .inr (by decide +kernel), fun _ => .inr (by decide +kernel)⟩


/-! ## Integer instructions (values by hand from R79 to R88) -/

theorem test_integer_0 : ∀ e ∈ ([(.add true 3 1 2, 0x8000000180000005, 0x3FFFFFFF9, 0x123456789ABCDEF, 0x7FFFFFFE),
      (.add false 3 1 2, 0xFFFFFFFFFFFFFFFF, 0x3FFFFFFF9, 0x123456789ABCDEF, 0x3FFFFFFF8),
      (.sub false 3 1 2, 0x8000000180000005, 0x3FFFFFFF9, 0x123456789ABCDEF, 0x7FFFFFFD8000000C),
      (.sub true 3 1 2, 0x8000000180000005, 0x3FFFFFFF9, 0x123456789ABCDEF, 0xFFFFFFFF8000000C),
      (.addv false 3 1 2, 0x8000000180000005, 0x3FFFFFFF9, 0x123456789ABCDEF, 0x800000057FFFFFFE),
      (.subv true 3 1 2, 0x5, 0x9, 0x123456789ABCDEF, 0xFFFFFFFFFFFFFFFC),
      (.mul false 3 1 2, 0x8000000180000005, 0x3FFFFFFF9, 0x123456789ABCDEF, 0x800000097FFFFFDD),
      (.mul true 3 1 2, 0x8000000180000005, 0x3FFFFFFF9, 0x123456789ABCDEF, 0x7FFFFFDD),
      (.mulh false 3 1 2, 0x8000000180000005, 0x3FFFFFFF9, 0x123456789ABCDEF, 0xFFFFFFFE00000009),
      (.mulh true 3 1 2, 0x8000000180000005, 0x3FFFFFFF9, 0x123456789ABCDEF, 0x3),
      (.mulhu false 3 1 2, 0x8000000180000005, 0x3FFFFFFF9, 0x123456789ABCDEF, 0x200000002),
      (.mulhu true 3 1 2, 0x8000000180000005, 0x3FFFFFFF9, 0x123456789ABCDEF, 0xFFFFFFFF80000001),
      (.madd false 3 1 2, 0x8000000180000005, 0x3FFFFFFF9, 0x123456789ABCDEF, 0x8123457109ABCDCC),
      (.madd true 3 1 2, 0x8000000180000005, 0x3FFFFFFF9, 0x123456789ABCDEF, 0x9ABCDCC),
      (.div false 3 1 2, 0x8000000180000005, 0xFFFFFFFFFFFFFFF9, 0x123456789ABCDEF, 0x1249249212492491),
      (.div false 3 1 2, 0x8000000180000005, 0x0, 0x123456789ABCDEF, 0xFFFFFFFFFFFFFFFF),
      (.divu false 3 1 2, 0x8000000180000005, 0x3FFFFFFF9, 0x123456789ABCDEF, 0x20000000),
      (.divu true 3 1 2, 0x8000000180000005, 0x3FFFFFFF9, 0x123456789ABCDEF, 0x0)] : List (Instr × Word × Word × Word × Word)),
    gives3 e.1 e.2.1 e.2.2.1 e.2.2.2.1 = some e.2.2.2.2 := by decide +kernel

theorem test_integer_1 : ∀ e ∈ ([(.rem false 3 1 2, 0xFFFFFFFFFFFFFFEF, 0x5, 0x123456789ABCDEF, 0xFFFFFFFFFFFFFFFE),
      (.rem true 3 1 2, 0x80000000, 0xFFFFFFFFFFFFFFFF, 0x123456789ABCDEF, 0x0),
      (.remu false 3 1 2, 0x8000000180000005, 0x3FFFFFFF9, 0x123456789ABCDEF, 0x260000005),
      (.remu true 3 1 2, 0x8000000180000005, 0x100000000, 0x123456789ABCDEF, 0xFFFFFFFF80000005),
      (.divv false 3 1 2, 0xFFFFFFFFFFFFFFEF, 0x5, 0x123456789ABCDEF, 0xFFFFFFFFFFFFFFFD),
      (.abs true 3 1, 0x8000000180000005, 0x0, 0x123456789ABCDEF, 0x7FFFFFFB),
      (.abs false 3 1, 0x8000000000000000, 0x0, 0x123456789ABCDEF, 0x8000000000000000),
      (.min false 3 1 2, 0x8000000180000005, 0x3FFFFFFF9, 0x123456789ABCDEF, 0x8000000180000005),
      (.min true 3 1 2, 0x8000000180000005, 0x3FFFFFFF9, 0x123456789ABCDEF, 0xFFFFFFFF80000005),
      (.max false 3 1 2, 0x8000000180000005, 0x3FFFFFFF9, 0x123456789ABCDEF, 0x3FFFFFFF9),
      (.minu false 3 1 2, 0x8000000180000005, 0x3FFFFFFF9, 0x123456789ABCDEF, 0x3FFFFFFF9),
      (.maxu true 3 1 2, 0x8000000180000005, 0x3FFFFFFF9, 0x123456789ABCDEF, 0xFFFFFFFFFFFFFFF9),
      (.and false 3 1 2, 0x8000000180000005, 0x3FFFFFFF9, 0x123456789ABCDEF, 0x180000001),
      (.or true 3 1 2, 0x8000000180000005, 0x3FFFFFFF9, 0x123456789ABCDEF, 0xFFFFFFFFFFFFFFFD),
      (.xor false 3 1 2, 0x8000000180000005, 0x3FFFFFFF9, 0x123456789ABCDEF, 0x800000027FFFFFFC),
      (.andn false 3 1 2, 0x8000000180000005, 0x3FFFFFFF9, 0x123456789ABCDEF, 0x8000000000000004),
      (.shl false 3 1 2, 0x8000000180000005, 0x44, 0x123456789ABCDEF, 0x1800000050),
      (.shl true 3 1 2, 0x8000000180000005, 0x21, 0x123456789ABCDEF, 0xA)] : List (Instr × Word × Word × Word × Word)),
    gives3 e.1 e.2.1 e.2.2.1 e.2.2.2.1 = some e.2.2.2.2 := by decide +kernel

theorem test_integer_2 : ∀ e ∈ ([(.shr false 3 1 2, 0x8000000180000005, 0x7F, 0x123456789ABCDEF, 0x1),
      (.shr true 3 1 2, 0x8000000180000005, 0x4, 0x123456789ABCDEF, 0x8000000),
      (.sra false 3 1 2, 0x8000000180000005, 0x4, 0x123456789ABCDEF, 0xF800000018000000),
      (.sra true 3 1 2, 0x8000000180000005, 0x1F, 0x123456789ABCDEF, 0xFFFFFFFFFFFFFFFF),
      (.rol false 3 1 2, 0x8000000180000005, 0x4, 0x123456789ABCDEF, 0x1800000058),
      (.rol true 3 1 2, 0x8000000180000005, 0x24, 0x123456789ABCDEF, 0x58),
      (.clz true 3 1, 0x1, 0x0, 0x123456789ABCDEF, 0x1F),
      (.clz false 3 1, 0x0, 0x0, 0x123456789ABCDEF, 0x40),
      (.ctz false 3 1, 0x700, 0x0, 0x123456789ABCDEF, 0x8),
      (.ctz true 3 1, 0x100000000, 0x0, 0x123456789ABCDEF, 0x20),
      (.popc false 3 1, 0x8000000180000005, 0x0, 0x123456789ABCDEF, 0x5),
      (.popc true 3 1, 0xFFFFFFFFFFFFFFFF, 0x0, 0x123456789ABCDEF, 0x20),
      (.brev false 3 1, 0x8000000180000005, 0x0, 0x123456789ABCDEF, 0xA000000180000001),
      (.brev true 3 1, 0x1, 0x0, 0x123456789ABCDEF, 0xFFFFFFFF80000000),
      (.seq true 3 1 2, 0x8000000180000005, 0x80000005, 0x123456789ABCDEF, 0x1),
      (.seq false 3 1 2, 0x8000000180000005, 0x80000005, 0x123456789ABCDEF, 0x0),
      (.sne false 3 1 2, 0x8000000180000005, 0x3FFFFFFF9, 0x123456789ABCDEF, 0x1),
      (.slt false 3 1 2, 0x8000000180000005, 0x3FFFFFFF9, 0x123456789ABCDEF, 0x1)] : List (Instr × Word × Word × Word × Word)),
    gives3 e.1 e.2.1 e.2.2.1 e.2.2.2.1 = some e.2.2.2.2 := by decide +kernel

theorem test_integer_3 : ∀ e ∈ ([(.slt true 3 1 2, 0x1, 0x80000000, 0x123456789ABCDEF, 0x0),
      (.sltu false 3 1 2, 0x8000000180000005, 0x3FFFFFFF9, 0x123456789ABCDEF, 0x0),
      (.sltu true 3 1 2, 0x1, 0x80000000, 0x123456789ABCDEF, 0x1),
      (.sel false 3 1 2, 0x8000000180000005, 0x3FFFFFFF9, 0x0, 0x3FFFFFFF9),
      (.sel true 3 1 2, 0x8000000180000005, 0x3FFFFFFF9, 0x100000000, 0xFFFFFFFFFFFFFFF9),
      (.addi 3 1 0x1FFF, 0x8000000180000005, 0x3FFFFFFF9, 0x123456789ABCDEF, 0x8000000180000004),
      (.addi 3 1 0xFFF, 0x8000000180000005, 0x3FFFFFFF9, 0x123456789ABCDEF, 0x8000000180001004),
      (.andi 3 1 0x1FFE, 0x8000000180000005, 0x3FFFFFFF9, 0x123456789ABCDEF, 0x8000000180000004),
      (.ori 3 1 0x1000, 0x8000000180000005, 0x3FFFFFFF9, 0x123456789ABCDEF, 0xFFFFFFFFFFFFF005),
      (.xori 3 1 0x1FFF, 0x8000000180000005, 0x3FFFFFFF9, 0x123456789ABCDEF, 0x7FFFFFFE7FFFFFFA),
      (.slti 3 1 0x1FFF, 0x8000000180000005, 0x3FFFFFFF9, 0x123456789ABCDEF, 0x1),
      (.slti 3 1 0x1000, 0xFFFFFFFFFFFFF000, 0x3FFFFFFF9, 0x123456789ABCDEF, 0x0),
      (.shli false 3 1 63, 0x8000000180000005, 0x3FFFFFFF9, 0x123456789ABCDEF, 0x8000000000000000),
      (.shli true 3 1 31, 0x8000000180000005, 0x3FFFFFFF9, 0x123456789ABCDEF, 0xFFFFFFFF80000000),
      (.shri true 3 1 4, 0x8000000180000005, 0x3FFFFFFF9, 0x123456789ABCDEF, 0x8000000),
      (.srai false 3 1 63, 0x8000000180000005, 0x3FFFFFFF9, 0x123456789ABCDEF, 0xFFFFFFFFFFFFFFFF),
      (.srai true 3 1 31, 0x8000000180000005, 0x3FFFFFFF9, 0x123456789ABCDEF, 0xFFFFFFFFFFFFFFFF),
      (.bfx 3 1 3 60, 0x8000000180000005, 0x3FFFFFFF9, 0x123456789ABCDEF, 0x8)] : List (Instr × Word × Word × Word × Word)),
    gives3 e.1 e.2.1 e.2.2.1 e.2.2.2.1 = some e.2.2.2.2 := by decide +kernel

theorem test_integer_4 : ∀ e ∈ ([(.bfxs 3 1 3 60, 0x8000000180000005, 0x3FFFFFFF9, 0x123456789ABCDEF, 0xFFFFFFFFFFFFFFF8),
      (.bfi 3 1 7 8, 0x8000000180000005, 0x3FFFFFFF9, 0x123456789ABCDEF, 0x123456789AB05EF),
      (.bfi 3 1 63 0, 0x8000000180000005, 0x3FFFFFFF9, 0x123456789ABCDEF, 0x8000000180000005),
      (.li 3 0x40000, 0x8000000180000005, 0x3FFFFFFF9, 0x123456789ABCDEF, 0xFFFFFFFFFFFC0000),
      (.li 3 0x3FFFF, 0x8000000180000005, 0x3FFFFFFF9, 0x123456789ABCDEF, 0x3FFFF),
      (.lih 3 0x7FFFF, 0x8000000180000005, 0x3FFFFFFF9, 0x123456789ABCDEF, 0x2B3C4D5E6F7FFFFF),
      (.addpc 3 0x7FFFF, 0x8000000180000005, 0x3FFFFFFF9, 0x123456789ABCDEF, 0xFFFC),
      (.addpc 3 0x3FFFF, 0x8000000180000005, 0x3FFFFFFF9, 0x123456789ABCDEF, 0x10FFFC)] : List (Instr × Word × Word × Word × Word)),
    gives3 e.1 e.2.1 e.2.2.1 e.2.2.2.1 = some e.2.2.2.2 := by decide +kernel
/-! ## Scalar floating point (values by IEEE 754, from R37) -/

theorem test_float_to_f0 : ∀ e ∈ ([(.fadd true 3 1 2, 0x3FF0000000000000, 0x3CA0000000000000, 0x77, 0x3FF0000000000000),
      (.fadd false 3 1 2, 0x93FC00000, 0xBFC00000, 0x77, 0x0),
      (.fsub true 3 1 2, 0x3FF0000000000000, 0x7E37E43C8800759C, 0x77, 0xFE37E43C8800759C),
      (.fsub false 3 1 2, 0x3F000000, 0x3DCCCCCD, 0x77, 0x3ECCCCCD),
      (.fmul true 3 1 2, 0x3FF199999999999A, 0x400D99999999999A, 0x77, 0x401047AE147AE148),
      (.fmul false 3 1 2, 0x800000, 0x3F000000, 0x77, 0x400000),
      (.fdiv true 3 1 2, 0x3FF0000000000000, 0x4008000000000000, 0x77, 0x3FD5555555555555),
      (.fdiv false 3 1 2, 0xBF800000, 0x0, 0x77, 0xFF800000),
      (.fmadd true 3 1 2, 0x3FF0000000000001, 0x3FF0000000000001, 0xBFF0000000000000, 0x3CC0000000000000),
      (.fmadd false 3 1 2, 0x40000000, 0x40400000, 0x40800000, 0x41200000),
      (.fmin true 3 1 2, 0x0, 0x8000000000000000, 0x77, 0x8000000000000000),
      (.fmin false 3 1 2, 0x7FC00001, 0x40000000, 0x77, 0x40000000),
      (.fmax true 3 1 2, 0x0, 0x8000000000000000, 0x77, 0x0),
      (.fmax false 3 1 2, 0xC0400000, 0x40000000, 0x77, 0x40000000)] : List (Instr × Word × Word × Word × Word)),
    givesF e.1 e.2.1 e.2.2.1 e.2.2.2.1 = some e.2.2.2.2 := by decide +kernel

theorem test_float_to_f1 : ∀ e ∈ ([(.fabs true 3 1, 0xC004000000000000, 0x0, 0x77, 0x4004000000000000),
      (.fabs false 3 1, 0x5C0200000, 0x0, 0x77, 0x40200000),
      (.fneg true 3 1, 0x4004000000000000, 0x0, 0x77, 0xC004000000000000),
      (.fneg false 3 1, 0xC0200000, 0x0, 0x77, 0x40200000),
      (.fsqrt true 3 1, 0x4000000000000000, 0x0, 0x77, 0x3FF6A09E667F3BCD),
      (.fsqrt false 3 1, 0xC0000000, 0x0, 0x77, 0x7FC00000),
      (.fcvtif true 3 1, 0xC000000000000000, 0x0, 0x77, 0xC3D0000000000000),
      (.fcvtif false 3 1, 0x1000001, 0x0, 0x77, 0x4B800000),
      (.fcvtw true 3 1, 0x3FC00000, 0x0, 0x77, 0x3FF8000000000000),
      (.fcvtw false 3 1, 0x3FF0000010000000, 0x0, 0x77, 0x3F800000),
      (.fmvif true 3 1, 0x8000000000000001, 0x0, 0x77, 0x8000000000000001),
      (.fmvif false 3 1, 0x8000000180000001, 0x0, 0x77, 0x80000001)] : List (Instr × Word × Word × Word × Word)),
    givesF e.1 e.2.1 e.2.2.1 e.2.2.2.1 = some e.2.2.2.2 := by decide +kernel

theorem test_float_to_i0 : ∀ e ∈ ([(.fcmpeq true 3 1 2, 0x0, 0x8000000000000000, 0x77, 0x1),
      (.fcmpeq false 3 1 2, 0x7FC00000, 0x7FC00000, 0x77, 0x0),
      (.fcmplt true 3 1 2, 0xBFF0000000000000, 0x4000000000000000, 0x77, 0x1),
      (.fcmplt false 3 1 2, 0x40000000, 0x40000000, 0x77, 0x0),
      (.fcmple true 3 1 2, 0x4000000000000000, 0x4000000000000000, 0x77, 0x1),
      (.fcmple false 3 1 2, 0x40200000, 0x40000000, 0x77, 0x0),
      (.fcvtfi true 3 1, 0xC006000000000000, 0x0, 0x77, 0xFFFFFFFFFFFFFFFE),
      (.fcvtfi false 3 1, 0x7149F2CA, 0x0, 0x77, 0x7FFFFFFFFFFFFFFF),
      (.fmvfi true 3 1, 0x3FF8000000000000, 0x0, 0x77, 0x3FF8000000000000),
      (.fmvfi false 3 1, 0x73FC00000, 0x0, 0x77, 0x3FC00000)] : List (Instr × Word × Word × Word × Word)),
    givesI e.1 e.2.1 e.2.2.1 e.2.2.2.1 = some e.2.2.2.2 := by decide +kernel

/-! ## Control, traps, control registers -/

/-- A state whose text begins with some words. -/
def code (t : Thread) (x : Ctx) (ws : List Nat) : State := { put t x with mem := memWrites [] 0 (ws.flatMap (leBytes 4)) }

/-- ADDV, SUBV and DIVV trap with the wrapped result, the dividend or the minimum (R81, R82). -/
theorem test_checked_traps : ∀ e ∈ ([(.addv false 3 1 2, 2 ^ 63 - 1, 1, 0x20, 2 ^ 63), (.addv true 3 1 2, 0x7FFFFFFF, 1, 0x20, 0xFFFFFFFF80000000),
      (.subv false 3 1 2, 2 ^ 63, 1, 0x20, 2 ^ 63 - 1), (.subv true 3 1 2, 0x80000000, 1, 0x20, 0x7FFFFFFF),
      (.divv false 3 1 2, 17, 0, 0x21, 17), (.divv true 3 1 2, 2 ^ 31, 2 ^ 32, 0x21, 0xFFFFFFFF80000000),
      (.divv false 3 1 2, 2 ^ 63, 2 ^ 64 - 1, 0x20, 2 ^ 63), (.divv true 3 1 2, 2 ^ 31, 2 ^ 32 - 1, 0x20, 0xFFFFFFFF80000000)]
      : List (Instr × Word × Word × Word × Word)),
    traps e.1 (put (th [(1, e.2.1), (2, e.2.2.1)]) x0) = some (e.2.2.2.1, e.2.2.2.2, 0x10000) := by decide +kernel

/-- LDL reads the pool words at 0x10020; an odd word address traps (R46). -/
theorem test_ldl : ((afterT (.ldl 3 8) { put (th []) x0 with mem := memWrites [] 0x20 (leBytes 8 0x1122334455667788) }).bind
      (fun t => t.i[3]?) = some 0x1122334455667788)
    ∧ traps (.ldl 3 9) (put (th []) x0) = some (0x08, 0x10024, 0x10000) := by decide +kernel

/-- The hypotheses of ConstantsAndFields, of its two parts. -/
theorem test_hyp_constants : shiftOk true 31 = true ∧ fieldOk 63 0 = true ∧ fieldOk 0 63 = true
    ∧ (put (th []) x0).ctx c0 = some x0 ∧ ((0x10024 : Word)).toNat % 8 ≠ 0 ∧ ((0x10000 : Word) + 4 * (8 : BitVec 19).signExtend 64).toNat % 8 = 0
    ∧ x0.text.has 0x10020 = true ∧ x0.text.isPool 0x10020 = true ∧ x0.text.has 0x10024 = true ∧ x0.text.isPool 0x10024 = true
    ∧ textWord (put (th []) x0) x0.text 0x10020 = some 0 ∧ textWord (put (th []) x0) x0.text 0x10024 = some 0 := by decide +kernel

theorem test_branches : ∀ e ∈ ([(.beq 1 2 0x1FFF, 5, 5, 0xFFFC), (.beq 1 2 3, 5, 6, 0x10004), (.bne 1 2 3, 5, 6, 0x1000C), (.bne 1 2 3, 5, 5, 0x10004),
      (.blt 1 2 3, 2 ^ 64 - 1, 0, 0x1000C), (.blt 1 2 3, 0, 0, 0x10004), (.bge 1 2 3, 0, 0, 0x1000C), (.bge 1 2 3, 2 ^ 63, 0, 0x10004),
      (.bltu 1 2 3, 0, 2 ^ 64 - 1, 0x1000C), (.bltu 1 2 3, 2 ^ 64 - 1, 0, 0x10004), (.bgeu 1 2 3, 2 ^ 63, 1, 0x1000C), (.bgeu 1 2 3, 0, 1, 0x10004),
      (.j 0x1FFFFFF, 0, 0, 0xFFFC), (.j 0x0FFFFFF, 0, 0, 0x400FFFC), (.jr 1, 0x12344, 0, 0x12344)] : List (Instr × Word × Word × Word)),
    goes e.1 (th [(1, e.2.1), (2, e.2.2.1)]) = some e.2.2.2 := by decide +kernel

theorem test_jr_misaligned : traps (.jr 1) (put (th [(1, 0x12346)]) x0) = some (0x08, 0x12346, 0x10000) := by decide +kernel

/-- A thread with its window area at the start of its scratch slice. -/
def tw (regs : List (Nat × Word)) : Thread := { th regs with wsp := 0xFFFFFFFFFFFE0000 }

/-- CALL pushes the window and the return address and clears the new window; RET brings them back (R91, R92). -/
theorem test_call_ret : ((afterT (.call 3) (put (tw [(5, 9), (16, 1), (31, 2)]) x0)).map (fun t =>
      (t.pc, t.i[5], t.i[16], t.i[31])) = some (0x1000C, 9, 0, 0))
    ∧ ((afterT (.call 3) (put (tw [(5, 9), (16, 1), (31, 2)]) x0)).map (fun t => t.frames.map (fun f => (f.ret, f.win[0], f.win[15])))
        = some [(0x10004, 1, 2)])
    ∧ ((afterT (.call 3) (put (tw [(16, 1)]) x0)).bind (fun t => (afterT .ret (put { t with pc := 0x1000C } x0)).map (fun u =>
      (u.pc, u.wdep, u.i[16], u.frames.length))) = some (0x10004, 0, 1, 0))
    ∧ goes (.callr 1) (tw [(1, 0x20000)]) = some 0x20000 := by decide +kernel

theorem test_call_traps : traps (.callr 1) (put (tw [(1, 0x20002)]) x0) = some (0x08, 0x20002, 0x10000)
    ∧ traps (.call 1) (put { tw [] with wdep := 65535 } x0) = some (0x11, 0xFFFF, 0x10000)
    ∧ traps (.callr 1) (put { tw [] with wdep := 65535 } x0) = some (0x11, 0xFFFF, 0x10000)
    ∧ traps .ret (put (tw []) x0) = some (0x11, 0, 0x10000) := by decide +kernel

/-- PushRoom at depth 0 and at depth 3 with the lowest frame in the area; a return below the opening depth whose commit is allowed. -/
theorem test_hyp_calls : PushRoom (put (tw []) x0) (tw [])
    ∧ (∀ f, f = Frame.ofWords [] → PushRoom (put { tw [] with frames := [f, f, f], wdep := 3 } x0) { tw [] with frames := [f, f, f], wdep := 3 })
    ∧ (∀ f, f = Frame.ofWords [0x10040] → ∀ t, t = { tw [] with frames := [f], wdep := 1, region := { (tw []).region with odep := 1 } } →
        t.wdep ≠ 0 ∧ t.wdep.toNat - 1 < t.region.odep.toNat ∧ t.settled = true ∧ canCommit (put t x0) p0 t = true
        ∧ goes .ret t = some 0x10040) := by
  refine ⟨⟨by decide, by decide +kernel, by decide +kernel⟩, ?_, ?_⟩
  · rintro f rfl
    exact ⟨by decide, by decide +kernel, by decide +kernel⟩
  · rintro f rfl t rfl
    decide +kernel

/-- The levels that LOOP and LOOPI set, a count of 0, and what LBRK clears (R66, R68). -/
theorem test_loops : ((afterT (.loop true 1 5) (put (th [(1, 7)]) x0)).map (fun t => (t.pc, t.loops.ls1, t.loops.le1, t.loops.lc1, t.loops.lc0))
      = some (0x10004, 0x10004, 0x10014, 7, 0))
    ∧ ((afterT (.loopi false 0 0x3FFFF) (put (th []) x0)).map (fun t => (t.pc, t.loops.le0, t.loops.lc0)) = some (0x110000, 0x10FFFC, 0))
    ∧ ((afterT (.loopi true 63 1) (put (th []) x0)).map (fun t => (t.pc, t.loops.lc1)) = some (0x10004, 63))
    ∧ ((afterT (.loop false 1 5) (put (th [(1, 0)]) x0)).map (fun t => (t.pc, t.loops.lc0)) = some (0x10018, 0))
    ∧ ((afterT (.lbrk true) (put { th [] with loops := ⟨1, 2, 3, 4, 5, 6⟩ } x0)).map (fun t => t.loops) = some ⟨1, 2, 3, 0, 0, 0⟩)
    ∧ ((afterT (.lbrk false) (put { th [] with loops := ⟨1, 2, 3, 4, 5, 6⟩ } x0)).map (fun t => t.loops) = some ⟨0, 0, 0, 4, 5, 6⟩) := by decide +kernel

/-- The six cases of a retirement at loop ends (R67), in their order. -/
theorem test_loop_steps : ∀ e ∈ ([(⟨0, 0, 0, 0x100, 0x10000, 2⟩, 0x100, 0, 1), (⟨0x200, 0x10000, 0, 0x100, 0x10000, 1⟩, 0x10004, 0, 0),
      (⟨0x200, 0x10000, 2, 0x100, 0x10000, 1⟩, 0x200, 1, 0), (⟨0x200, 0x10000, 2, 0x100, 0x10000, 0⟩, 0x200, 1, 0),
      (⟨0x200, 0x10000, 1, 0, 0, 5⟩, 0x10004, 0, 5), (⟨0x200, 0x10008, 3, 0x100, 0x10004, 5⟩, 0x10004, 3, 5)] : List (Loops × Word × Word × Word)),
    (afterT .nop (put { th [] with loops := e.1 } x0)).map (fun t => (t.pc, t.loops.lc0, t.loops.lc1)) = some e.2
      ∧ (th []).pend = [] ∧ (th []).region.lines < 47 ∧ (th []).replay = none := by decide +kernel

/-- A frame of one ADD is captured and replayed; a frame that holds NOP is refused; a count of 0 goes behind it (R69, R70). -/
theorem test_repeat : (capture (code (th [(2, 3)]) x0 [0x34102100, 0x02182100]) p0 (th [(2, 3)]) 1 0x10004 = .ok [0x02182100])
    ∧ ((afterT (.rpt 0 4 1 2) (code (th [(2, 3)]) x0 [0x34102100, 0x02182100])).map (fun t => (t.pc, t.replay))
        = some (0x10004, some ⟨0x10000, [0x02182100], 4, 1, 3, 0, 0⟩))
    ∧ ((afterT (.rpt 0 4 1 2) (code (th [(2, 65536)]) x0 [0x34102100, 0x02182100])).map (fun t => (t.pc, t.replay)) = some (0x10008, none))
    ∧ decodes 0x3E000000 = true
    ∧ fetch (code (th [(2, 3)]) x0 [0x34102100, 0x3E000000]) c0 [] 0 0x10004 = .inl 0x3E000000
    ∧ traps (.rpt 0 4 1 2) (code (th [(2, 3)]) x0 [0x34102100, 0x3E000000]) = some (0x13, 0x10004, 0x10000) := by decide +kernel

/-- A frame of one ADD and of two, whose second word is ERET, or no instruction (R69). -/
def framed (w : Nat) : State := code (th [(2, 3)]) x0 [0x34302100, 0x02182100, w]
theorem test_frame_traps : (∀ e ∈ ([(0x3E000000, 0x13, 0x10008), (0, 0x01, 0)] : List (Nat × Word × Word)),
      traps (.rpt 1 4 1 2) (framed e.1) = some (e.2.1, e.2.2, 0x10000) ∧ fetch (framed e.1) c0 [] 0 0x10008 = .inl e.1)
    ∧ fetch (framed 0) c0 [] 0 0x10004 = .inl 0x02182100 ∧ decodes 0x02182100 = true ∧ decodes 0x3E000000 = true ∧ decodes 0 = false := by
  and_intros <;> decide +kernel

/-- Retirements inside a replay of two words, twice (R70): the next word, the next replay, behind the frame. -/
theorem test_replay_steps : ∀ e ∈ ([(0, 0, 0x10008, some (0, 1)), (0, 1, 0x10004, some (1, 0)), (1, 0, 0x10008, some (1, 1)), (1, 1, 0x1000C, none)]
      : List (Nat × Nat × Word × Option (Nat × Nat))),
    ((retire (put { th [] with
        pc := 0x10004 + 4 * BitVec.ofNat 64 e.2.1
        replay := some ⟨0x10000, [0x02182100, 0x02182100], 4, 1, 2, e.1, e.2.1⟩ } x0) p0 false).thread p0).map
      (fun u => (u.pc, u.replay.map (fun r => (r.k, r.i)))) = some e.2.2 := by decide +kernel

/-- The word that issues in a replay: all three fields of ADD i3, i1, i2 staggered by 2, one of FNEG, one of LI (R70). -/
theorem test_replay_words : ∀ e ∈ ([(0x02182100, 0x02286200, 7), ((wordOf (.fneg true 3 1)).toNat, (wordOf (.fneg true 3 3)).toNat, 2), ((wordOf (.li 3 5)).toNat, (wordOf (.li 5 5)).toNat, 4)]
      : List (Nat × Nat × Nat)), nextWord (put (th []) x0) p0 { th [] with
        replay := some ⟨0x10000, [e.1], BitVec.ofNat 3 e.2.2, 2, 3, 1, 0⟩ } = .inl e.2.1 := by decide +kernel

/-- The word that a replay issues: d staggered by replay × step within its bank (R70). -/
theorem test_stagger : (⟨0x10000, [0x02182100], 4, 5, 3, 2, 0⟩ : Replay).word = 0x02682100
    ∧ (⟨0x10000, [0x02F82100], 4, 31, 3, 1, 0⟩ : Replay).word = 0x02F02100 := by decide +kernel

/-- A thread inside a replay, at trap depth 1 with NE set. -/
def trapping : Thread := { th [] with
  tvec := 0x10100, loops := ⟨1, 2, 3, 4, 5, 6⟩, tstat := tsMake 1 1 0 0 0 0 0, replay := some ⟨0x10000, [0x02182100], 4, 1, 9, 5, 0⟩ }

/-- A trap inside a replay keeps the place of the frame in TSTAT (R71, R76). -/
theorem test_trap_entry : let t := trapping;
    t.isHandler = false ∧ t.pend = [] ∧ unhandled t.tstat 0x40 = false
    ∧ ((afterT (.trap 0x7FFFF) (put t x0)).map (fun u => (u.pc, u.tpc, u.tcause, u.tval)) = some (0x10100, 0x10000, 0x40, 2 ^ 64 - 1))
    ∧ ((afterT (.trap 0x7FFFF) (put t x0)).map (fun u => (u.loops, u.shadow)) = some (⟨1, 2, 0, 4, 5, 0⟩, ⟨1, 2, 3, 4, 5, 6⟩))
    ∧ ((afterT .brk (put t x0)).map (fun u => u.tstat) = some (tsMake 2 0 1 1 0 5 9))
    ∧ traps (.illegalInstruction 0xFE000000) (put t x0) = some (0x01, 0xFE000000, 0x10000)
    ∧ traps (.fetchFault 0x05 0x123) (put t x0) = some (0x05, 0x123, 0x10000) := by decide +kernel

/-- The three reasons for which a trap is not handled (R72): its context stops, and the record names it. -/
theorem test_unhandled : ∀ e ∈ ([(0x12, 0), (0x40, tsMake 2 1 0 0 0 0 0), (0x40, tsMake 1 0 0 0 0 0 0)] : List (Nat × Word)),
    let s := raise (put { th [] with tstat := e.2 } x0) p0 ⟨e.1, 5⟩
    (e.1 = 0x12 ∨ 2 ≤ tsDepth e.2 ∨ (tsDepth e.2 = 1 ∧ tsNE e.2 = 0))
      ∧ (s.ctx c0).map (fun x => (x.state, x.cause, x.fault)) = some (.stopping, some 2, some ⟨7, 0x10000, e.1, 5, e.2⟩) := by decide +kernel

/-- ERET at depth 0 traps; outside a replay it goes to TPC with the shadows; inside one, the four cases of FI and FK (R73). -/
theorem test_eret : traps .eret (put (th []) x0) = some (0x01, 0x3E000001, 0x10000) := by decide +kernel

theorem test_eret_cases :
    ((afterT .eret (put { th [] with tstat := tsMake 2 0 1 0 3 4 5, tpc := 0x10080, shadow := ⟨1, 2, 3, 4, 5, 6⟩ } x0)).map (fun t =>
      (t.pc, t.loops, tsDepth t.tstat, tsNE t.tstat)) = some (0x10080, ⟨1, 2, 3, 4, 5, 6⟩, 1, 1))
    ∧ ∀ e ∈ ([(0, 2, 9, 0x10004, some (2, 0)), (0, 9, 9, 0x10008, none), (1, 2, 9, 0x10004, some (3, 0)), (1, 8, 9, 0x10008, none)]
        : List (Nat × Nat × Nat × Word × Option (Nat × Nat))),
      let t : Thread := { th [] with tstat := tsMake 1 0 0 1 e.1 e.2.1 e.2.2.1, tpc := 0x10000 + 4 * BitVec.ofNat 64 (e.1 + 1) }
      let s := code t x0 [0x34102100, 0x02182100]
      tsDepth t.tstat ≠ 0 ∧ tsFRM t.tstat = 1 ∧ fetch s c0 [] 0 0x10000 = .inl 0x34102100 ∧ 0x34102100 / 2 ^ 25 = 0x1A ∧ 0x34102100 % 128 = 0
      ∧ capture s p0 t 1 0x10004 = .ok [0x02182100]
      ∧ (afterT .eret s).map (fun u => (u.pc, u.replay.map (fun r => (r.k, r.i)))) = some e.2.2.2 := by decide +kernel

/-- What an aperture address names does not depend on memory. -/
theorem look_mem (s : State) (m : List Host.Cell) (c : CtxId) (ap : Nat) (locks : List Lock) (va : Word) (size align need : Nat)
    (h : inAperture va = true) : look { s with mem := m } c ap locks va size align need = look s c ap locks va size align need := by
  have hc : ({ s with mem := m } : State).ctx c = s.ctx c := rfl
  unfold look
  rw [hc]
  cases s.ctx c <;> simp [h]

theorem pieces_mem (s : State) (m : List Host.Cell) (p : Place) (t : Thread) (need n : Nat) (va : Word)
    (h : ∀ j, j < n → inAperture (va + 8 * BitVec.ofNat 64 j) = true) :
    scratchPieces { s with mem := m } p t need n va = scratchPieces s p t need n va := by
  induction n generalizing va with
  | zero => rfl
  | succ n ih =>
    have h0 : inAperture va = true := by simpa using h 0 (by omega)
    have hn := ih (va + 8) (fun j hj => by
      have := h (j + 1) (by omega)
      rwa [show va + 8 * BitVec.ofNat 64 (j + 1) = va + 8 + 8 * BitVec.ofNat 64 j by
        rw [BitVec.ofNat_add, show BitVec.ofNat 64 1 = 1 from rfl]; ring] at this)
    simp only [scratchPieces, lookT, hn, look_mem s m _ _ _ va 8 1 need h0]

/-- WFLUSH writes the frame that the area does not hold, return address first (R64, R95). -/
theorem test_wflush : ∀ t, t = { tw [] with frames := [{ Frame.ofWords [0x10040, 5] with inArea := false }], wdep := 1 } →
    (after .wflush (put t x0)).map (fun s => (leNat (memReads s.mem (scratchSa 0 0 0) 8), leNat (memReads s.mem (scratchSa 0 0 8) 8),
        (s.thread p0).map (fun u => u.frames.map (fun f => f.inArea)))) = some (0x10040, 5, some [true])
      ∧ (∀ m, t.unspilled.map (fun e => framePieces { put t x0 with mem := m } p0 t needW e.1)
          = [some ((List.range 17).map (fun j => scratchSa 0 0 (8 * j)))]) := by
  rintro t rfl
  refine ⟨by decide +kernel, fun m => ?_⟩
  have h : ∀ u : Thread, u.wsp = 0xFFFFFFFFFFFE0000 → framePieces { put u x0 with mem := m } p0 u needW 1 = framePieces (put u x0) p0 u needW 1 := by
    intro u hu
    apply pieces_mem
    rw [hu]
    decide +kernel
  have hl : ∀ u : Thread, u.unspilled.map (·.1) = [1] → u.wsp = 0xFFFFFFFFFFFE0000 →
      u.unspilled.map (fun e => framePieces { put u x0 with mem := m } p0 u needW e.1) = [framePieces (put u x0) p0 u needW 1] := by
    intro u hu hw
    rw [show u.unspilled.map (fun e => framePieces { put u x0 with mem := m } p0 u needW e.1)
      = (u.unspilled.map (·.1)).map (fun n => framePieces { put u x0 with mem := m } p0 u needW n) by simp, hu]
    simp [h u hw]
  exact (hl _ (by decide +kernel) (by decide +kernel)).trans (by decide +kernel)

/-- The slack forms (R51). -/
theorem test_slack : ((afterT (.slk 4095) (put (th []) x0)).map (fun t => (t.slk, t.once)) = some (4095, none))
    ∧ ((afterT (.slkOnce 7) (put (th []) x0)).map (fun t => (t.slk, t.once)) = some (0, some 7))
    ∧ ((afterT .nop (put { th [] with once := some 7 } x0)).map (fun t => t.once) = some none)
    ∧ (afterT (.lateq 3) (put { th [] with lateq := 5 } x0)).bind (fun t => t.i[3]?) = some 5 := by decide +kernel

/-- Control registers: read, written, set and cleared; one that is not there; a read-only one; a reserved bit; DEPTH; a core register's
write in 12 cycles (R43, R75, R96, R98). -/
theorem test_csr : ((afterT (.csrr 3 0x28) (put { th [] with wid := 77 } x0)).bind (fun t => t.i[3]?) = some 77)
    ∧ traps (.csrr 3 0x1FFF) (put (th []) x0) = some (0x01, 0x36181FFF, 0x10000) := by decide +kernel

theorem test_csr_writes : ((afterT (.csrw 1 3) (put (th [(1, 0x10100)]) x0)).map (fun t => t.tvec) = some 0x10100)
    ∧ ((afterT (.csrs 1 0x18) (put (tw [(1, 0x88)]) x0)).map (fun t => t.wsp) = some 0xFFFFFFFFFFFE0088)
    ∧ ((afterT (.csrc 1 0x20) (put { th [(1, 0xF0)] with slk := 0xFFF } x0)).map (fun t => t.slk) = some 0xF0F)
    ∧ (∀ e ∈ ([(.csrw 1 0x28, 1, 0x0C, 0x28), (.csrw 1 3, 2, 0x03, 3), (.csrw 1 4, 1, 0x0C, 4), (.csrs 1 0x106, 0, 0x0C, 0x106)]
        : List (Instr × Word × Word × Word)), traps e.1 (put (th [(1, e.2.1)]) x0) = some (e.2.2.1, e.2.2.2, 0x10000))
    ∧ ((after (.csrw 1 0x105) (put { th [(1, 9)] with region := { (th []).region with pinned := true } } x0)).map (fun s => (s.core ⟨0, 0⟩).lateCsr)
        = some [⟨1, 0x105, 9, 12, 0⟩]) := by decide +kernel

/-! ## Memory -/

/-- Sixteen bytes at VA 0x21008. -/
def data : List Host.Cell :=
  memWrites [] 4104 [0x88, 0x97, 0xA6, 0xB5, 0xC4, 0xD3, 0xE2, 0xF1, 1, 2, 3, 4, 5, 6, 7, 8]

def withData (t : Thread) : State := { put t x0 with mem := data }

/-- Offset 0x1008 of the slice of core 0, and the same bytes there, at VA 0xFFFFFFFFFFFE1008. -/
def sc : Nat := scratchSa 0 0 4104
def inSlice (t : Thread) : State := { put t x0 with
  mem := memWrites [] sc [0x88, 0x97, 0xA6, 0xB5, 0xC4, 0xD3, 0xE2, 0xF1, 1, 2, 3, 4, 5, 6, 7, 8] }

/-- i3 after a load that is given i1 and i2. -/
def loads3 (i : Instr) (a b : Word) : Option Word := (afterT i (inSlice (th [(1, a), (2, b)]))).bind (fun t => t.i[3]?)

/-- The items that a store of i3 buffers, and the bytes that memory then lists beside those it listed. -/
def stores3 (i : Instr) (a b : Word) : Option (List Item × Option (List Host.Cell)) :=
  (after i (withData (th [(1, a), (2, b), (3, 0x1122334455667788)]))).map (fun s =>
    (((s.thread p0).map (fun t => t.region.items)).getD [], some (s.mem.filter (fun c => !data.contains c))))

/-- The result of an atomic on the word of the slice, and the word that its region then sees there. -/
def atomic3 (i : Instr) (b : Word) : Option (Option Word × Nat) :=
  (after i (inSlice (th [(1, 0xFFFFFFFFFFFE1008), (2, b), (3, 1)]))).bind (fun s => (s.thread p0).map (fun t =>
    (t.i[3]?, leNat (slotReads s p0 t sc 8) % (match t.region.items with
      | [.store _ bs] => 2 ^ (8 * bs.length)
      | _ => 1))))

/-- The word that the commit of a posted atomic leaves, by its own width. -/
def posted3 (i : Instr) (b : Word) : Option Nat :=
  (after i (withData (th [(1, 0x21008), (2, b), (3, 1)]))).bind (fun s => (s.thread p0).bind (fun t => match t.region.items with
    | [.patomic sa op w v cmp _] => if sa = 4104 ∧ s.mem = data then some (leNat (atomBytes s.mem sa op w v cmp).2) else none
    | _ => none))

theorem test_loads_0 : ∀ e ∈ ([(.ldBSx 3 1 0 0x1FF, 0xFFFFFFFFFFFE1009, 0x0, 0xFFFFFFFFFFFFFF88),
      (.ldxBSx 3 1 2 0, 0xFFFFFFFFFFFE1018, 0xFFFFFFFFFFFFFFF0, 0xFFFFFFFFFFFFFF88),
      (.ldfBSx 3 1 2 0, 0xFFFFFFFFFFFE1000, 0x8, 0xFFFFFFFFFFFFFF88),
      (.ldBZx 3 1 0 0x1FF, 0xFFFFFFFFFFFE1009, 0x0, 0x88),
      (.ldxBZx 3 1 2 0, 0xFFFFFFFFFFFE1018, 0xFFFFFFFFFFFFFFF0, 0x88),
      (.ldfBZx 3 1 2 0, 0xFFFFFFFFFFFE1000, 0x8, 0x88),
      (.ldHSx 3 1 0 0x1FF, 0xFFFFFFFFFFFE100A, 0x0, 0xFFFFFFFFFFFF9788),
      (.ldxHSx 3 1 2 0, 0xFFFFFFFFFFFE1018, 0xFFFFFFFFFFFFFFF0, 0xFFFFFFFFFFFF9788),
      (.ldfHSx 3 1 2 0, 0xFFFFFFFFFFFE1000, 0x8, 0xFFFFFFFFFFFF9788),
      (.ldHZx 3 1 0 0x1FF, 0xFFFFFFFFFFFE100A, 0x0, 0x9788),
      (.ldxHZx 3 1 2 0, 0xFFFFFFFFFFFE1018, 0xFFFFFFFFFFFFFFF0, 0x9788),
      (.ldfHZx 3 1 2 0, 0xFFFFFFFFFFFE1000, 0x8, 0x9788)] : List (Instr × Word × Word × Word)),
    loads3 e.1 e.2.1 e.2.2.1 = some e.2.2.2 := by decide +kernel

theorem test_loads_1 : ∀ e ∈ ([(.ldWSx 3 1 0 0x1FF, 0xFFFFFFFFFFFE100C, 0x0, 0xFFFFFFFFB5A69788),
      (.ldxWSx 3 1 2 0, 0xFFFFFFFFFFFE1018, 0xFFFFFFFFFFFFFFF0, 0xFFFFFFFFB5A69788),
      (.ldfWSx 3 1 2 0, 0xFFFFFFFFFFFE1000, 0x8, 0xFFFFFFFFB5A69788),
      (.ldWZx 3 1 0 0x1FF, 0xFFFFFFFFFFFE100C, 0x0, 0xB5A69788),
      (.ldxWZx 3 1 2 0, 0xFFFFFFFFFFFE1018, 0xFFFFFFFFFFFFFFF0, 0xB5A69788),
      (.ldfWZx 3 1 2 0, 0xFFFFFFFFFFFE1000, 0x8, 0xB5A69788),
      (.ldD 3 1 0 0x1FF, 0xFFFFFFFFFFFE1010, 0x0, 0xF1E2D3C4B5A69788),
      (.ldxD 3 1 2 0, 0xFFFFFFFFFFFE1018, 0xFFFFFFFFFFFFFFF0, 0xF1E2D3C4B5A69788),
      (.ldfD 3 1 2 0, 0xFFFFFFFFFFFE1000, 0x8, 0xF1E2D3C4B5A69788),
      (.ldaW 3 1 2 0, 0xFFFFFFFFFFFE1008, 0x0, 0xFFFFFFFFB5A69788),
      (.ldaD 3 1 2 0, 0xFFFFFFFFFFFE1008, 0x0, 0xF1E2D3C4B5A69788),
      (.ldD 3 1 0 1, 0xFFFFFFFFFFFE1008, 0x0, 0x807060504030201)] : List (Instr × Word × Word × Word)),
    loads3 e.1 e.2.1 e.2.2.1 = some e.2.2.2 := by decide +kernel

theorem test_stores : ∀ e ∈ ([(.stB 3 1 0x1FF, 0x21011, 0x0, 0x1010, 1),
      (.stxB 3 1 2, 0x21010, 0x20, 0x1030, 1),
      (.stH 3 1 0x1FF, 0x21012, 0x0, 0x1010, 2),
      (.stxH 3 1 2, 0x21010, 0x20, 0x1030, 2),
      (.stW 3 1 0x1FF, 0x21014, 0x0, 0x1010, 4),
      (.stxW 3 1 2, 0x21010, 0x20, 0x1030, 4),
      (.stD 3 1 0x1FF, 0x21018, 0x0, 0x1010, 8),
      (.stxD 3 1 2, 0x21010, 0x20, 0x1030, 8),
      (.stlW 3 1 2, 0x21010, 0x0, 0x1010, 4),
      (.stlD 3 1 2, 0x21010, 0x0, 0x1010, 8),
      (.stlGW 3 1 2, 0x21010, 0x0, 0x1010, 4),
      (.stlGD 3 1 2, 0x21010, 0x0, 0x1010, 8)] : List (Instr × Word × Word × Nat × Nat)),
    stores3 e.1 e.2.1 e.2.2.1 = some ([.store e.2.2.2.1 (leBytes e.2.2.2.2 0x1122334455667788)], some []) := by decide +kernel

theorem test_atomics : ∀ e ∈ ([(.aadd false 3 1 2 0, 0x10, 0xF1E2D3C4B5A69788, 0xF1E2D3C4B5A69798),
      (.aand true 3 1 2 0, 0x10, 0xFFFFFFFFB5A69788, 0x0),
      (.aor false 3 1 2 0, 0x10, 0xF1E2D3C4B5A69788, 0xF1E2D3C4B5A69798),
      (.axor true 3 1 2 0, 0x10, 0xFFFFFFFFB5A69788, 0xB5A69798),
      (.amin false 3 1 2 0, 0x10, 0xF1E2D3C4B5A69788, 0xF1E2D3C4B5A69788),
      (.amax true 3 1 2 0, 0x10, 0xFFFFFFFFB5A69788, 0x10),
      (.aminu false 3 1 2 0, 0x10, 0xF1E2D3C4B5A69788, 0x10),
      (.amaxu true 3 1 2 0, 0x10, 0xFFFFFFFFB5A69788, 0xB5A69788),
      (.aswp false 3 1 2 0, 0x10, 0xF1E2D3C4B5A69788, 0x10),
      (.acas true 3 1 2 0, 0x10, 0xFFFFFFFFB5A69788, 0xB5A69788)] : List (Instr × Word × Word × Nat)),
    atomic3 e.1 e.2.1 = some (some e.2.2.1, e.2.2.2) := by decide +kernel

theorem test_posted_atomics : ∀ e ∈ ([(.aaddP false 1 2, 0x10, 0xF1E2D3C4B5A69798),
      (.aandP true 1 2, 0x10, 0x0),
      (.aorP false 1 2, 0x10, 0xF1E2D3C4B5A69798),
      (.axorP true 1 2, 0x10, 0xB5A69798),
      (.aminP false 1 2, 0x10, 0xF1E2D3C4B5A69788),
      (.amaxP true 1 2, 0x10, 0x10),
      (.aminuP false 1 2, 0x10, 0x10),
      (.amaxuP true 1 2, 0x10, 0xB5A69788),
      (.aswpP false 1 2, 0x10, 0x10),
      (.acasP true 3 1 2, 0x10, 0xB5A69788)] : List (Instr × Word × Nat)),
    posted3 e.1 e.2.1 = some e.2.2 := by decide +kernel

/-- Pairs: i4 and i5 (R101); an odd 8-byte address traps. -/
theorem test_pairs : ((afterT (.ldp 2 1 0 0x1FF) (inSlice (th [(1, 0xFFFFFFFFFFFE1020)]))).map (fun t => (t.i[4], t.i[5])) = some (0x0807060504030201, 0))
    ∧ ((after (.stp 2 1 0) (withData (th [(1, 0x21010), (4, 1), (5, 2)]))).bind (fun s => s.thread p0)).map (fun t => t.region.items)
        = some [.store 4112 (leBytes 8 1 ++ leBytes 8 2)]
    ∧ traps (.ldp 2 1 0 0) (withData (th [(1, 0x21008)])) = some (0x08, 0x21008, 0x10000) := by decide +kernel

/-- Floating-point atomics: 1.5 in memory and 0.25 in f2, at .d; a posted one leaves the sum with the region. -/
theorem test_float_atomics : ∀ s, s = { put ((th []).start [(1, 0xFFFFFFFFFFFE1008)] [(2, 0x3FD0000000000000)]) x0 with mem := memWrites [] sc (leBytes 8 0x3FF8000000000000) } →
    (∀ e ∈ ([(.afadd false 3 1 2 0, 0x3FFC000000000000), (.afmin false 3 1 2 0, 0x3FD0000000000000), (.afmax false 3 1 2 0, 0x3FF8000000000000)]
        : List (Instr × Nat)),
      (afterT e.1 s).map (fun t => (t.f[3], t.region.items)) = some (0x3FF8000000000000, [.store sc (leBytes 8 e.2)]))
    ∧ (∀ e ∈ ([(.afaddP false 1 2, 0x3FFC000000000000), (.afminP false 1 2, 0x3FD0000000000000), (.afmaxP false 1 2, 0x3FF8000000000000)]
        : List (Instr × Nat)),
      (afterT e.1 s).map (fun t => leNat (slotReads s p0 t sc 8)) = some e.2) := by
  rintro s rfl
  decide +kernel

/-- The five checks of an address, each with an address that fails it alone (R102). -/
theorem test_address_checks :
    lookT (put (th []) x0) p0 (th []) 0x0100000000021008 8 8 needR = .fault ⟨0x04, 0x0100000000021008⟩
    ∧ lookT (put (th []) x0) p0 (th []) 0x21004 8 8 needR = .fault ⟨0x08, 0x21004⟩
    ∧ lookT (put (th []) x0) p0 (th []) 0xFFFFFFFFFE020000 8 8 needR = .fault ⟨0x06, 0xFFFFFFFFFE020000⟩
    ∧ lookT (put (th []) x0) p0 { th [] with locks := [⟨⟨0x20000, 0x1000, 0, 7⟩, true⟩] } 0x20008 8 8 needR = .fault ⟨0x07, 0x20008⟩
    ∧ lookT (put (th []) x0) p0 (th []) 0x40000 8 8 needR = .fault ⟨0x05, 0x40000⟩
    ∧ imageRange c0 x0 0x40000 = none ∧ walk (put (th []) x0) c0 x0 0x40000 = none ∧ (put (th []) x0).cached c0 0x40000 = []
    ∧ lookT (put (th []) x0) p0 (th []) 0x22008 8 8 needW = .absent 2 := by decide +kernel

/-- An access whose check fails traps with it, and one of a missing page parks its slot. -/
theorem test_access_checks : traps (.ldD 3 1 0 0) (put (th [(1, 0x40000)]) x0) = some (0x05, 0x40000, 0x10000)
    ∧ traps (.stD 3 1 0) (put (th [(1, 0x21004)]) x0) = some (0x08, 0x21004, 0x10000)
    ∧ traps (.aadd false 3 1 2 0) (put (th [(1, 0x21004)]) x0) = some (0x08, 0x21004, 0x10000)
    ∧ (∀ i ∈ ([.stD 3 1 0, .ldD 3 1 0 0, .ldp 2 1 0 0, .aadd false 3 1 2 0, .aaddP true 1 2] : List Instr),
        (afterT i (put (th [(1, 0x22000)]) x0)).map (fun t => (t.pc, t.wait)) = some (0x10000, .page 0 2))
    ∧ (th []).acquiring = false := by decide +kernel

/-! ### Places that are reached in place, and by message (R187, R189, R193) -/

/-- The place of VA 0xFFFFFFFFFFFE1008: the own slice. -/
def own : Loc := ⟨sc, some sc, false, false⟩

/-- A thread displaced from core 4 of the group: the aperture is still that core's. -/
def moved : Thread := { th [(1, 0xFFFFFFFFFFFE1008), (2, 5)] with apCore := 4 }
def there : State := { put moved { x0 with spans := [⟨0, 0, 131072⟩, ⟨4, 0, 131072⟩] } with
  mem := memWrites [] (scratchSa 0 4 4104) (leBytes 8 40) }
def other : Loc := ⟨scratchSa 0 4 4104, some (scratchSa 0 4 4104), false, false⟩

/-- A line of the own slice is reached in place. -/
theorem test_hyp_in_place : LocalAt (inSlice (th [])) (th []) 0xFFFFFFFFFFFE1008 8 8 needRW own sc
    ∧ hitSa (inSlice (th [])) p0 0 own = some sc ∧ directSa p0 0 own = some sc ∧ poisonHit (inSlice (th [])) sc 8 = false
    ∧ atomicHere (inSlice (th [])) p0 (th []) own = true ∧ Takes (inSlice (th [])) (th []) (.store sc (leBytes 8 0)) :=
  ⟨⟨by decide +kernel, by decide +kernel, by decide +kernel, by decide +kernel⟩, by decide +kernel, by decide +kernel, by decide +kernel,
    by decide +kernel, ⟨by decide +kernel, by decide +kernel⟩⟩

/-- Another slice of the district is asked by message: a load's request leaves, an atomic's too, with its operation buffered. -/
theorem test_hyp_by_message : LocalAt there moved 0xFFFFFFFFFFFE1008 8 8 needRW other (scratchSa 0 4 4104)
    ∧ hitSa there p0 4 other = none ∧ moveTarget there p0 moved other true = none ∧ isFar there p0 moved other = false
    ∧ poisonAt there p0 moved other 8 = false ∧ atomicHere there p0 moved other = false ∧ saKind other.ca = 3
    ∧ Takes there moved (.store (scratchSa 0 4 4104) (leBytes 8 0))
    ∧ ((after (.ldD 3 1 0 0) there).map (fun s => s.packets.map (fun k => (k.body, k.ca))) = some [(.read 8 (.zx 64), scratchSa 0 4 4104)])
    ∧ ((after (.aadd true 3 1 2 0) there).map (fun s => (s.packets.map (fun k => k.body), (s.thread p0).map (fun t => t.region.items)))
        = some ([.read 4 (.sx 32)], some [.patomic (scratchSa 0 4 4104) .add true 5 0 false])) :=
  ⟨⟨by decide +kernel, by decide +kernel, by decide +kernel, by decide +kernel⟩, by decide +kernel, by decide +kernel, by decide +kernel,
    by decide +kernel, by decide +kernel, by decide +kernel, ⟨by decide +kernel, by decide +kernel⟩, by decide +kernel, by decide +kernel⟩

/-! ### Exclusive regions (R217) -/

/-- A thread in an exclusive region, beside one in slot 1 that has read the line of the slice. -/
def alone (regs : List (Nat × Word)) : Thread := { th regs with region := { (th regs).region with explicit := true, exclusive := true } }
def beside (t : Thread) : State := { inSlice t with threads := [(p0, t), (⟨0, 0, 1⟩, { Thread.new 8 1 0x10000 ⟨0, 0, 1⟩ with
  pc := 0x10040, region := { (th []).region with reads := [sc / 64], rstart := 0x10020 } })] }

/-- What memory then holds at the word, and where the reader is. -/
def atOnce (i : Instr) (regs : List (Nat × Word)) : Option (Nat × Option Word × Option (List Item)) :=
  (after i (beside (alone regs))).map (fun s => (leNat (memReads s.mem sc 8), (s.thread ⟨0, 0, 1⟩).map (fun t => t.pc),
    (s.thread p0).map (fun t => t.region.items)))

theorem test_hyp_exclusive : Through (beside (alone [])) (alone []) (linesOf sc 8) ∧ Through (beside (alone [])) (alone []) [lineOf sc]
    ∧ Settled (beside (alone [])) ∧ (∃ n ∈ linesOf sc 8, n ∈ [sc / 64]) :=
  ⟨⟨by decide +kernel, by decide +kernel, by decide +kernel⟩, ⟨by decide +kernel, by decide +kernel, by decide +kernel⟩,
    ⟨by decide +kernel, by decide +kernel, by decide +kernel⟩, by decide +kernel⟩

/-- A store, a returning and a posted atomic act at once and the reader goes back; a packet leaves. -/
theorem test_exclusive :
    (∀ e ∈ ([(.stD 3 1 0, 9), (.aadd false 4 1 3 0, 0xF1E2D3C4B5A69791), (.aaddP false 1 3, 0xF1E2D3C4B5A69791)] : List (Instr × Nat)),
      atOnce e.1 [(1, 0xFFFFFFFFFFFE1008), (3, 9)] = some (e.2, some 0x10020, some []))
    ∧ (∀ i ∈ ([.stD 3 1 0, .aaddP false 1 3] : List Instr), (after i (put (alone [(1, 0x23000), (3, 9)]) x0)).map (fun s => s.packets.length) = some 1) := by
  and_intros <;> decide +kernel

/-! ### Streams as operands (R271 to R273) -/

/-- Engine 0, of FP64, mapped to name 0 with 2 elements of stride 8 in the slice: a read stream or a write stream, at a position. -/
def streamed (dir : Bool) (pos : Nat) : State := { inSlice ((th [(1, 0xFFFFFFFFFFFE1008)]).start [(1, 0xFFFFFFFFFFFE1008)] [(1, 0x3FF0000000000000)]) with
  mem := memWrites [] sc (leBytes 8 0x3FF8000000000000)
  cores := [(⟨0, 0⟩, { Core.reset with streams := [(0, ⟨some 7, 0, 5, dir, some 0, 0xFFFFFFFFFFFE1008, [2], [8], pos, false, []⟩)] })] }

/-- What becomes of the stream's position. -/
def streamPos (i : Instr) (s : State) : Option (List Nat) := (after i s).map (fun s => (s.core ⟨0, 0⟩).streams.map (fun e => e.2.pos))

/-- 1.5 is popped as an operand of FADD and of an atomic; 2.0 is pushed; the stream's end, and a wrong direction (R271, R273). -/
theorem test_stream_operands :
    ((afterT (.fadd true 3 28 1) (streamed false 0)).map (fun t => t.f[3]) = some 0x4004000000000000)
    ∧ streamPos (.fadd true 3 28 1) (streamed false 0) = some [1]
    ∧ ((afterT (.fadd true 28 1 1) (streamed true 0)).map (fun t => t.region.items) = some [.store sc (leBytes 8 0x4000000000000000)])
    ∧ streamPos (.fadd true 28 1 1) (streamed true 0) = some [1]
    ∧ traps (.fadd true 3 28 1) (streamed false 2) = some (0x18, 0, 0x10000) ∧ traps (.fadd true 28 1 1) (streamed true 2) = some (0x18, 0, 0x10000)
    ∧ traps (.fadd true 3 28 1) (streamed true 0) = some (0x16, wordOf (.fadd true 3 28 1), 0x10000)
    ∧ traps (.fcmpeq true 3 28 1) (streamed true 0) = some (0x16, wordOf (.fcmpeq true 3 28 1), 0x10000)
    ∧ traps (.fadd true 28 1 1) (streamed false 0) = some (0x16, wordOf (.fadd true 28 1 1), 0x10000)
    ∧ ((afterT (.afadd false 3 1 28 0) (streamed false 0)).map (fun t => (t.f[3], t.region.items))
        = some (0x3FF8000000000000, [.store sc (leBytes 8 0x4008000000000000)]))
    ∧ streamPos (.afaddP false 1 28) (streamed false 0) = some [1] ∧ streamPos (.afadd false 28 1 1 0) (streamed true 0) = some [1] := by
  and_intros <;> decide +kernel

/-- The hypotheses of the stream clauses: a name is mapped, its element lies in the slice, a line is free for what is pushed. -/
theorem test_hyp_stream_operands (dir : Bool) : (coreNow (streamed dir 0)).mapped 7 (rf 28) =
      some (0, ⟨some 7, 0, 5, dir, some 0, 0xFFFFFFFFFFFE1008, [2], [8], 0, false, []⟩)
    ∧ (coreNow (streamed dir 0)).mapped 7 (rf 1) = none
    ∧ (streamed dir 0).thread p0 = some ((th [(1, 0xFFFFFFFFFFFE1008)]).start [(1, 0xFFFFFFFFFFFE1008)] [(1, 0x3FF0000000000000)])
    ∧ (∀ need ∈ [needR, needW], lookT (streamed dir 0) p0 (th []) 0xFFFFFFFFFFFE1008 8 8 need = .ok own)
    ∧ lineFree (streamed dir 0) p0 (th []) 2 = true ∧ typeSize 5 = 8 := by
  cases dir <;> and_intros <;> decide +kernel

/-! ### Active-message handlers (R254) -/

/-- A handler in slot 15 of core 0, sent by the thread of slot 0, in its turn. -/
def handling (regs : List (Nat × Word)) : Thread := { (Thread.new 9 1 0x10100 ⟨0, 0, 15⟩).start regs [] with role := .handler 7 0 0 }
def inHandler (regs : List (Nat × Word)) : State := { inSlice (th []) with
  threads := [(p0, th []), (⟨0, 0, 15⟩, handling regs)], turn := ⟨0, 0, 15⟩ }

/-- What memory holds at the word of the slice, and i3 of the handler if it goes on. -/
def handled (i : Instr) (regs : List (Nat × Word)) : Option (Nat × Option Word) :=
  (after i (inHandler regs)).map (fun s => (leNat (memReads s.mem sc 8), (s.thread ⟨0, 0, 15⟩).map (fun t => t.i[3])))

theorem test_hyp_handler : HandlerIssue (inHandler []) (handling []) [ri 1, ri 2, ri 3]
    ∧ HandlerAt (inHandler []) (handling []) 0xFFFFFFFFFFFE1008 8 needRW own sc ∧ blocked (inHandler []) none (linesOf sc 8) = false
    ∧ Settled (inHandler []) ∧ (handling []).acquiring = false
    ∧ (∀ i ∈ ([.ldD 3 1 0 0, .stD 3 1 0, .aadd false 3 1 2 0] : List Instr), handlerAllows (wordOf i) = true) :=
  ⟨⟨by decide +kernel, by decide +kernel, by decide +kernel⟩, ⟨by decide +kernel, by decide +kernel, by decide +kernel, by decide +kernel⟩,
    by decide +kernel, ⟨by decide +kernel, by decide +kernel, by decide +kernel⟩, by decide +kernel, by decide +kernel⟩

/-- Register forms and accesses of the slice run; an access outside it and the forms it may not execute end the handler. -/
theorem test_handler : handled (.add false 3 1 2) [(1, 4), (2, 5)] = some (0xF1E2D3C4B5A69788, some 9)
    ∧ handled (.ldD 3 1 0 0) [(1, 0xFFFFFFFFFFFE1008)] = some (0xF1E2D3C4B5A69788, some 0xF1E2D3C4B5A69788)
    ∧ handled (.stD 3 1 0) [(1, 0xFFFFFFFFFFFE1008), (3, 5)] = some (5, some 5)
    ∧ handled (.aadd false 3 1 2 0) [(1, 0xFFFFFFFFFFFE1008), (2, 1)] = some (0xF1E2D3C4B5A69789, some 0xF1E2D3C4B5A69788)
    ∧ (∀ e ∈ ([(.stD 3 1 0, 0x21000), (.ldD 3 1 0 0, 0xFFFFFFFFFE020000), (.jwait 1, 0), (.go 1, 0), (.gohome, 0), (.amsg 1 2, 0),
        (.rgn 1, 0), (.cmt, 0), (.lateq 3, 0), (.wflush, 0)] : List (Instr × Word)), handled e.1 [(1, e.2)] = some (0xF1E2D3C4B5A69788, none)) := by
  and_intros <;> decide +kernel

/-- The place of VA 0x21008: a local line of the own device; a line is free for a store there. -/
theorem test_hyp_local : LocalAt (put (th []) x0) (th []) 0x21008 8 8 needRW ⟨4104, some 4104, false, false⟩ 4104
    ∧ Takes (put (th []) x0) (th []) (.store 4104 (leBytes 8 0)) ∧ Takes (put (th []) x0) (th []) (.patomic 4104 .add false 1 0 true)
    ∧ poisonHit (put (th []) x0) 4104 8 = false ∧ Unmapped (put (th []) x0) (th []) [rf 1, ri 2, rf 28] ∧ Quiet (th []) :=
  ⟨⟨by decide +kernel, by decide +kernel, by decide +kernel, by decide +kernel⟩, ⟨by decide +kernel, by decide +kernel⟩,
    ⟨by decide +kernel, by decide +kernel⟩, by decide +kernel, by unfold Unmapped; decide +kernel, ⟨by decide +kernel, by decide +kernel⟩⟩

/-- The place of VA 0x23000: another district. -/
def far : Loc := ⟨0x3000, some (2 ^ 39), false, false⟩

/-- An explicit region: its far loads do not move the thread. -/
def stays : Thread := { th [(1, 0x23000)] with region := { (th [(1, 0x23000)]).region with explicit := true } }

/-- A far load that asks its home, and one that a place is granted for (R103). -/
theorem test_hyp_far : localSa 0 far = none ∧ (far.sa.isSome = true → saKind far.ca ≠ 6) ∧ (saKind far.ca = 5 → (8 : Nat) ≠ 16)
    ∧ lookT (put stays x0) p0 stays 0x23000 8 8 needR = .ok far ∧ busyForMove (put stays x0) p0 stays = false
    ∧ moveTarget (put stays x0) p0 stays far true = none
    ∧ lookT (put (th [(1, 0x23000)]) x0) p0 (th [(1, 0x23000)]) 0x23000 8 8 needR = .ok far
    ∧ moveTarget (put (th [(1, 0x23000)]) x0) p0 (th [(1, 0x23000)]) far true = some ⟨0, 1024, 14⟩
    ∧ ((after (.ldD 3 1 0 0) (put stays x0)).map (fun s => (s.packets.map (fun k => (k.body, k.ca)), s.migs.length)) = some ([(.read 8 (.zx 64), 0x3000)], 0))
    ∧ ((after (.ldD 3 1 0 0) (put (th [(1, 0x23000)]) x0)).map (fun s => (s.packets.length, s.migs.map (fun m => m.dst))) = some (0, [⟨0, 1024, 14⟩])) := by
  decide +kernel

/-- A store, a release, a global release and a posted atomic of a line that is not local are packets (R213, R224). -/
theorem test_far_stores : ∀ e ∈ ([(.stD 3 1 0, .packet 0x3000 (.store (leBytes 8 9)) false 0), (.stlD 3 1 2, .packet 0x3000 (.release (leBytes 8 9)) false 0),
      (.stlGW 3 1 2, .packet 0x3000 (.release (leBytes 4 9)) true 0), (.aaddP false 1 3, .packet 0x3000 (.patomic .add false 9 0) false 0)]
      : List (Instr × Item)),
    (afterT e.1 (put (th [(1, 0x23000), (3, 9)]) x0)).map (fun t => t.region.items) = some [e.2]
      ∧ lineFree (put (th []) x0) p0 (th []) 1 = true ∧ (th []).region.exclusive = false := by decide +kernel

/-- A result-returning atomic elsewhere commits its region first, then asks (R213, R245). -/
theorem test_hyp_far_atomic : ∀ t, t = { stays with region := { stays.region with items := [.store 4096 (leBytes 8 5)] } } →
    t.settled = true ∧ canCommit (put t x0) p0 t = true ∧ (tryCommit (put t x0) p0 t false 0 (t.pc + 4)).isSome = true
    ∧ moveTarget (put t x0) p0 t far true = none
    ∧ ((after (.aadd false 3 1 2 0) (put t x0)).map (fun s => (s.packets.map (fun k => k.body), leNat (memReads s.mem 4096 8)))
        = some ([.ratomic .add false 0 0], 5)) := by
  rintro t rfl
  decide +kernel

/-- What the hypotheses of SharedRegisters ask: a context without the core; and what a shared write comes to (R60, R61). -/
theorem test_hyp_shared : (put (th []) { x0 with cores := [] }).ownsCore p0 (th []) = false
    ∧ (∀ i ∈ ([.add false 3 1 33, .fadd true 32 1 2, .ldxD 3 40 2 0, .stxD 63 1 2, .aadd false 3 1 32 0, .beq 32 1 5] : List Instr),
        ((afterT i (put (th []) { x0 with cores := [] })).map (fun t => (t.tcause, t.pc)) = some (0x10, 0)))
    ∧ readI (Core.settle { Core.reset with cycle := 13, late := [⟨ri 33, 5, 12, 3⟩, ⟨ri 33, 6, 12, 2⟩] }) (th []) 33 = 5
    ∧ readI (Core.settle { Core.reset with cycle := 12, late := [⟨ri 33, 5, 12, 3⟩] }) (th []) 33 = 0
    ∧ ((after (.addi 33 0 5) (put (th []) x0)).map (fun s => (s.core ⟨0, 0⟩).late) = some [⟨ri 33, 5, 12, 0⟩]) := by decide +kernel

/-- The hypotheses of ControlRegisters for each of its clauses: a number that names no register, a read-only one, DEPTH, a reserved bit,
a slot register and a core register. -/
theorem test_hyp_csr : csrRead (put (th []) x0) p0 (th []) Core.reset 0x1FFF = none ∧ csrReadOnly 0x28 = true
    ∧ wbits (1 : Word) 0 2 ≠ wbits (0 : Word) 0 2 ∧ (2 : Word) &&& csrReserved 3 ≠ 0 ∧ csrReadOnly 3 = false
    ∧ csrRead (put (th []) x0) p0 (th []) Core.reset 3 = some 0 ∧ (0x10100 : Word) &&& csrReserved 3 = 0
    ∧ csrReadOnly 0x107 = false ∧ (put (th []) x0).ownsCore p0 (th []) = true ∧ csrRead (put (th []) x0) p0 (th []) Core.reset 0x107 = some 1
    ∧ csrPins 0x105 = true ∧ canToken (put (th []) x0) p0 (th []) = true := by decide +kernel

/-! ## Regions, fences, moves, barriers, joins, translations -/

/-- A thread with a store in its region, and one in slot 1 that has read the line. -/
def writer : Thread := { th [(1, 0)] with region := { (th [(1, 0)]).region with items := [.store 4096 (leBytes 8 5)] } }
def reader : Thread := { Thread.new 8 1 0x10000 ⟨0, 0, 1⟩ with
  pc := 0x10040, region := { (th []).region with reads := [64], rstart := 0x10020, aborts := 7 } }

/-- The two of them. -/
def pair : State := { put writer x0 with threads := [(p0, writer), (⟨0, 0, 1⟩, reader)] }

/-- Commits of RGN and CMT: the store is in memory, the next region is open, and the reader is back at its opening (R214, R215, R247). -/
theorem test_commits : canCommit pair p0 writer = true ∧ writer.pend = [] ∧ (pair.threads.map (·.1)).Nodup ∧ (pair.threads.map (·.2.uid)).Nodup
    ∧ writer.region.written = [64] ∧ reader.region.fixed = false
    ∧ (∀ e ∈ ([(.rgn 1, true), (.cmt, false)] : List (Instr × Bool)), (after e.1 pair).map (fun s => leNat (memReads s.mem 4096 8)) = some 5
        ∧ (afterT e.1 pair).map (fun t => (t.region.explicit, t.region.items, t.region.rstart, t.pc)) = some (e.2, [], 0x10004, 0x10004)
        ∧ ((after e.1 pair).bind (fun s => s.thread ⟨0, 0, 1⟩)).map (fun t => (t.pc, t.region.reads, t.region.aborts, t.region.wantExcl)) = some (0x10020, [], 8, true)) := by and_intros <;> decide +kernel

/-- ABRT goes back to the opening, and is the instruction at which a ONCE value lapses (R51); a pinned region traps; RGNQ counts the buffer's lines (R247, R248). -/
theorem test_abort : ((afterT .abrt (put { reader with uid := 7, once := some 5 } x0)).map (fun t => (t.pc, t.region.reads, t.region.aborts, t.once)) = some (0x10020, [], 7, none))
    ∧ traps .abrt (put { th [] with region := { (th []).region with pinned := true } } x0) = some (0x14, 0, 0x10000)
    ∧ ((afterT (.rgnq 3) pair).bind (fun t => t.i[3]?) = some 1)
    ∧ ((afterT (.rgnq 3) (put { reader with uid := 7, wdep := 3, region := { reader.region with explicit := true, odep := 3 } } x0)).bind (fun t => t.i[3]?)
        = some (256 + 7 * 2048 + 3 * 65536)) := by and_intros <;> decide +kernel

/-- A packet and a vector command of the thread under way. -/
def inFlight : State := { put (th []) x0 with
  packets := [{ (mkPacket (put (th []) x0) p0 (th []) 0x3000 (.read 8 (.zx 64)) false 0).2 with phase := .request }]
  cores := [(⟨0, 0⟩, { Core.reset with cmds := [(mkCmd (put (th []) x0) p0 (th []) 4 0 (.cpy 0 0 0)).2] })] }

/-- The fences wait for what they cover, and go on where there is nothing (R223, R298). -/
theorem test_fences : (∀ i ∈ ([.fence true, .fence false, .fencep, .vfence, .vwait, .ifence, .lfence, .tfence, .qfence 63] : List Instr),
      goes i (th []) = some 0x10004)
    ∧ (∀ i ∈ ([.fence false, .vfence] : List Instr), (after i inFlight).map (fun s => (s.stalled, (s.thread p0).map (fun t => t.pc))) = some (true, some 0x10000))
    ∧ ((after .fencep inFlight).map (fun s => (s.thread p0).map (fun t => t.pc)) = some (some 0x10004))
    ∧ ((after .vwait inFlight).map (fun s => (s.thread p0).map (fun t => (t.pc, t.wait))) = some (some (0x10000, .vector [100])))
    ∧ ((afterT (.qfence 63) (put (th []) x0)).map (fun t => t.region.items) = some [.qfence 63])
    ∧ ((afterT .ifence (put (th []) { x0 with text := { x0.text with version := 4 } })).map (fun t => t.seen) = some 4) := by and_intros <;> decide +kernel

/-- A load of the thread to a home of another quarter, at its core's own district: what FENCE.local covers. -/
theorem test_fence_local : ∀ k, k = (mkPacket (put (th []) x0) p0 (th []) 4096 (.read 8 (.zx 64)) false 0).2 →
    homeIs { put (th []) x0 with packets := [k] } k 0 0 = true ∧ k.body.isLoad = true ∧ k.uid = (th []).uid
    ∧ (after (.fence true) { put (th []) x0 with packets := [k] }).map (fun s => s.stalled) = some true := by
  rintro k rfl
  and_intros <;> decide +kernel

/-- A core whose engine 0 is mapped by the thread. -/
def mapped : Map CoreId Core := [(⟨0, 0⟩, { Core.reset with streams := [(0, ⟨some 7, 0, 7, false, some 0, 0x21000, [], [], 0, false, []⟩)] })]

/-- The cases of GO and GOHOME: busy, at home already, in a trap handler, no place, and a move (R251, R252). -/
theorem test_moves : busyForMove { put (th [(1, 0x23000)]) x0 with cores := mapped } p0 (th [(1, 0x23000)]) = true
    ∧ traps (.go 1) { put (th [(1, 0x23000)]) x0 with cores := mapped } = some (0x0D, 0x23000, 0x10000)
    ∧ traps .gohome { put (th []) x0 with cores := mapped } = some (0x0D, 0, 0x10000)
    ∧ ((after (.go 1) (put (th [(1, 0x21000)]) x0)).map (fun s => s.migs.length) = some 0)
    ∧ ((after (.go 1) (put { th [(1, 0x23000)] with tstat := 1 } x0)).map (fun s => s.migs.length) = some 0)
    ∧ ((after (.go 1) { put (th [(1, 0x23000)]) x0 with cores := [(⟨0, 1024⟩, { Core.reset with arrivals := [1, 2, 3, 4] })] }).map (fun s => s.migs.length) = some 0)
    ∧ ((after (.go 1) (put (th [(1, 0x23000)]) x0)).map (fun s => s.migs.map (fun m => (m.src, m.dst, m.access.isNone))) = some [(p0, ⟨0, 1024, 14⟩, true)])
    ∧ ((after .gohome (put (th []) x0)).map (fun s => s.migs.length) = some 0)
    ∧ ((after .gohome (put { th [] with launchCore := 1024 } x0)).map (fun s => s.migs.map (fun m => m.dst)) = some [⟨0, 1024, 14⟩]) := by and_intros <;> decide +kernel

/-- AMSG to the own slice; an address outside the grant; an entry that is no multiple of 4 (R253). -/
theorem test_amsg : ((afterT (.amsg 1 2) (put { th [(1, 0xFFFFFFFFFE000040), (2, 0x10100), (9, 1), (10, 2), (11, 3)] with slk := 6 } x0)).map (fun t => t.region.items)
      = some [.post (.amsg 0 0x10100 0x40 [1, 2, 3] 6) 6])
    ∧ traps (.amsg 1 2) (put (th [(1, 0xFFFFFFFFFE020000), (2, 0x10100)]) x0) = some (0x05, 0xFFFFFFFFFE020000, 0x10000)
    ∧ traps (.amsg 1 2) (put (th [(1, 0xFFFFFFFFFFFE0000), (2, 0x10102)]) x0) = some (0x08, 0x10102, 0x10000) := by and_intros <;> decide +kernel

/-- The limits of the barrier forms: barrier 3 of 4, the greatest count, five registrations (R255 to R258). -/
theorem test_barriers : (∀ i ∈ ([.barset 1 2, .barreg 1, .bara 1, .barw 1 2, .baraw 1 2] : List Instr), traps i (put (th [(1, 4), (2, 1)]) x0) = some (0x15, 4, 0x10000))
    ∧ traps (.barset 1 2) (put (th [(1, 3), (2, 0)]) x0) = some (0x15, 0, 0x10000)
    ∧ traps (.barset 1 2) (put (th [(1, 3), (2, 0x2000001)]) x0) = some (0x15, 0x2000001, 0x10000)
    ∧ ((afterT (.barset 1 2) (put (th [(1, 3), (2, 0x1FFFFFF)]) x0)).map (fun t => t.region.items.map (fun i => match i with
        | .post (.barset n e stat) _ => n == 3 && e == 16777215 && stat
        | _ => false)) = some [true])
    ∧ ((afterT (.bara 1) (put (th [(1, 3)]) x0)).map (fun t => t.region.items) = some [.post (.arrival 3 1) 0])
    ∧ ((afterT (.barreg 1) (put { th [(1, 3)] with bars := [(0, false, []), (1, false, []), (2, false, [])] } x0)).map (fun t => t.bars.length) = some 4)
    ∧ traps (.barreg 1) (put { th [(1, 3)] with bars := [(0, false, []), (1, false, []), (2, false, []), (4, false, [])] } x0) = some (0x15, 3, 0x10000) := by and_intros <;> decide +kernel

/-- BARW goes on where the phase is not the one named, and waits where it is; BARAW of the last arrival flips it and goes on. -/
theorem test_barrier_waits : (goes (.barw 1 2) (th [(1, 3), (2, 1)]) = some 0x10004)
    ∧ ((afterT (.barw 1 2) (put (th [(1, 3), (2, 0)]) x0)).map (fun t => (t.pc, t.wait, t.region.rstart)) = some (0x10000, .barrier 3 false false, 0x10000))
    ∧ ((afterT (.baraw 1 2) (put (th [(1, 3), (2, 0)]) { x0 with barriers := [(3, { Barrier.reset with e := 9 })] })).map (fun t => t.wait) = some (.barrier 3 false false))
    ∧ (goes (.baraw 1 2) (th [(1, 3), (2, 1)]) = some 0x10004) := by and_intros <;> decide +kernel

/-- The join forms at a local and at a far counter, the wait, and the end of it at once where the counter reads 0 (R256). -/
theorem test_joins : ((afterT (.jset 1 2) (put (th [(1, 0x21000), (2, 4)]) x0)).map (fun t => t.region.items) = some [.store 4096 (leBytes 8 4)])
    ∧ ((afterT (.jset 1 2) (put (th [(1, 0x23000), (2, 4)]) x0)).map (fun t => t.region.items) = some [.packet 0x3000 (.store (leBytes 8 4)) false 0])
    ∧ ((afterT (.jdec 1) (put (th [(1, 0x21000)]) x0)).map (fun t => t.region.items) = some [.jdec 4096])
    ∧ ((afterT (.jdec 1) (put (th [(1, 0x23000)]) x0)).map (fun t => t.region.items) = some [.packet 0x3000 .jdec false 0])
    ∧ (goes (.jwait 1) (th [(1, 0x21000)]) = some 0x10004)
    ∧ ((afterT (.jwait 1) { put (th [(1, 0x21000)]) x0 with mem := [(4096, 1)] }).map (fun t => (t.pc, t.wait)) = some (0x10000, .join 0x21000))
    ∧ traps (.jwait 1) { put (th [(1, 0x21000)]) x0 with poisoned := [64] } = some (0x1D, 0x21000, 0x10000)
    ∧ ownGrid (put (th [(1, 0x21000)]) x0) c0 (th [(1, 0x21000)]) 4096 = none := by and_intros <;> decide +kernel

/-- QUIT of a handler, of a child and of the entry thread (R108, R381). -/
theorem test_quit : ((after .quit (put { th [] with role := .handler 7 0 3 } x0)).map (fun s => s.threads.length) = some 0)
    ∧ ((after .quit (put { th [] with role := .child } x0)).map (fun s => s.threads.length) = some 0)
    ∧ ((after .quit (put (th []) x0)).map (fun s => s.threads.length) = some 0) := by and_intros <;> decide +kernel

/-- RLOCK of a lockable range, of an address without one, of a fifth; RUNLK; RPRE with a walk to make; PREF (R202, R203, R243, R260). -/
theorem test_translations :
    (∀ t : Thread, t = { th [(1, 0x40008), (2, 0)] with locks := [] } → ∀ s, s = { put t { x0 with rtbase := 4096 } with mem := cellsAt 4096 (table 0x40000 4096) } →
      rangeFor s c0 0x40008 = some ⟨0x40000, 0x1000, 4096, 7 + 2 ^ 13⟩ ∧ (afterT (.rlock 1) s).map (fun u => u.locks.length) = some 1
      ∧ (after (.rpre 1) s).map (fun z => (z.core ⟨0, 0⟩).tlb.map (fun e => e.range.base)) = some [0x40000]
      ∧ s.cached c0 0x40008 = []
      ∧ (afterT (.pref 1 2) s).map (fun u => u.pc) = some 0x10004)
    ∧ traps (.rlock 1) (put (th [(1, 0x40008)]) x0) = some (0x05, 0x40008, 0x10000)
    ∧ traps (.rlock 1) { put (th [(1, 0x40008)]) { x0 with rtbase := 4096 } with mem := cellsAt 4096 (table 0x40000 4096), poisoned := [64] } = some (0x1D, 0x40008, 0x10000)
    ∧ (afterT (.runlk 1) (put { th [(1, 0x20008)] with locks := [⟨⟨0x20000, 0x1000, 0, 7⟩, false⟩] } x0)).map (fun u => u.locks.length) = some 0
    ∧ (after (.pref 1 2) (put (th [(1, 0x22000)]) x0)).map (fun z => (z.ctx c0).map (fun x => x.requests)) = some (some [(2, 0)]) := by
  refine ⟨?_, by and_intros <;> decide +kernel⟩
  rintro t rfl s rfl
  and_intros <;> decide +kernel

/-! ## Streams and queued commands -/

/-- i3 after an instruction that is given i1 and i2, in the small machine with a core. -/
def with3 (i : Instr) (a b : Word) (cores : Map CoreId Core) (mem : List Host.Cell) : Option Word :=
  (afterT i { put (th [(1, a), (2, b)]) x0 with cores := cores, mem := mem }).bind (fun t => t.i[3]?)

/-- The stream forms: a bad word, the lowest free engine, a second name, one that is not held, a release, states (R263 to R265, R270). -/
theorem test_streams : with3 (.scfg 3 1 2 0) 0x21000 8 [] [] = some 0x71
    ∧ with3 (.scfg 3 1 2 0) 0x21000 7 mapped [] = some 1
    ∧ with3 (.smap 3 1 2 0) 0 3 mapped [] = some 0 ∧ with3 (.smap 3 1 2 0) 1 3 mapped [] = some 0x71
    ∧ with3 (.sunmap 3 1 0) 0 0 mapped [] = some 0 ∧ with3 (.sunmap 3 1 0) 1 0 mapped [] = some 0
    ∧ with3 (.sqry 3 1 0) 8 0 mapped [] = some 0x71 ∧ with3 (.sqry 3 1 0) 7 0 mapped [] = some 0
    ∧ with3 (.sqry 3 1 0) 0 0 mapped [] = some (0x8000 + 7 * 256 + 8)
    ∧ ((after (.sunmap 3 1 0) { put (th []) x0 with cores := mapped }).map (fun s => ((s.core ⟨0, 0⟩).streams.map (fun e => (e.2.name, e.2.released))))
        = some [(none, true)]) := by and_intros <;> decide +kernel

/-- A state in which a stream form is given i1 and i2, with engine 0 held and mapped to name 0 and engine 1 free; a record of five
elements at stride −8 at VA 0x21000. -/
def streaming (a b : Word) : State := { put (th [(1, a), (2, b)]) x0 with
  cores := mapped, mem := memWrites [] 4096 (leBytes 4 5 ++ leBytes 4 0xFFFFFFF8) }

/-- The operand-independent hypotheses of the statement of streams. -/
theorem test_hyp_streams (a b : Word) : CanGive (streaming a b) (th [(1, a), (2, b)]) [ri 1, ri 2] 3
    ∧ CanGive (streaming a b) (th [(1, a), (2, b)]) [ri 1] 3 ∧ (streaming a b).ctx c0 = some x0
    ∧ (pinFor (streaming a b) (th [(1, a), (2, b)]) (ri 3)).thread p0 = some (th [(1, a), (2, b)])
    ∧ (th [(1, a), (2, b)]).acquiring = false ∧ (streaming a b).turn = p0 :=
  ⟨⟨canOn _ _ _ _ _ rfl rfl ⟨rfl, rfl⟩, fun h => absurd h (by decide)⟩, ⟨canOn _ _ _ _ _ rfl rfl ⟨rfl, rfl⟩, fun h => absurd h (by decide)⟩, rfl, rfl,
    rfl, rfl⟩

/-- Those of its clauses: the word's fields, the checks of the address, the engines; names and engines that are held; a record. -/
theorem test_hyp_streams_clauses : (8 ≤ wbits (8 : Word) 0 4) ∧ wbits (7 : Word) 11 53 = 0 ∧ wbits (7 : Word) 6 2 = 0 ∧ wbit (7 : Word) 5 = false ∧ wbits (7 : Word) 8 3 = 0
    ∧ wbit (0x27 : Word) 5 = true ∧ wbits (0x27 : Word) 8 3 = 0 ∧ typeSize 7 = 2
    ∧ checkAt (streaming 0x21000 7) p0 (th [(1, 0x21000), (2, 7)]) 0x21000 2 1 needR = none
    ∧ checkAt (streaming 0x40000 7) p0 (th [(1, 0x40000), (2, 7)]) 0x40000 2 1 needR = some ⟨0x05, 0x40000⟩
    ∧ freeEngine ((streaming 0 0).core ⟨0, 0⟩) 7 = some 1 ∧ enginesHeld (streaming 0 0) p0 1 < x0.share 0 x0.block.streams
    ∧ (mget ((streaming 0 0).core ⟨0, 0⟩).streams 0).map (fun e => (e.holder, e.released, e.name)) = some (some 7, false, some 0)
    ∧ mget ((streaming 0 0).core ⟨0, 0⟩).streams 1 = none
    ∧ (((streaming 0 0).core ⟨0, 0⟩).named 7 0).map (·.1) = some 0 ∧ ((streaming 0 0).core ⟨0, 0⟩).named 7 1 = none
    ∧ (match readRecord (streaming 0 0x21000) p0 (th [(1, 0), (2, 0x21000)]) 0x21000 32 8 with
      | .ok bs _ => bs
      | _ => []) = leBytes 4 5 ++ leBytes 4 0xFFFFFFF8 ++ List.replicate 24 0
    ∧ (match readRecord (streaming 0 0x40000) p0 (th [(1, 0), (2, 0x40000)]) 0x40000 32 8 with
      | .stop (.trap c) => c.code
      | _ => 0) = 0x05
    ∧ with3 (.scfg 3 1 2 0) 0x21001 7 mapped [] = some 0x71 ∧ with3 (.scfg 3 1 2 0) 0x21000 0x27 mapped [] = some 0
    ∧ with3 (.smap 3 1 2 0) 0 4 mapped [] = some 0x71 := by
  and_intros <;> decide +kernel

/-- SBND: the bounds of a held engine; a stride that is no multiple of the element; 2^32 elements; an engine not held (R264, R289). -/
theorem test_bounds : with3 (.sbnd 3 1 2 0) 0 0x21000 mapped (memWrites [] 4096 (leBytes 4 5 ++ leBytes 4 0xFFFFFFF8)) = some 0
    ∧ with3 (.sbnd 3 1 2 0) 0 0x21000 mapped (memWrites [] 4096 (leBytes 4 5 ++ leBytes 4 7)) = some 0x71
    ∧ with3 (.sbnd 3 1 2 0) 0 0x21000 mapped (memWrites [] 4096 (leBytes 4 0x10000 ++ leBytes 4 8 ++ leBytes 4 0x10000 ++ leBytes 4 8)) = some 0x71
    ∧ with3 (.sbnd 3 1 2 0) 1 0x21000 mapped [] = some 0x71
    ∧ ((after (.sbnd 3 1 2 0) { put (th [(2, 0x21000)]) x0 with cores := mapped, mem := memWrites [] 4096 (leBytes 4 5 ++ leBytes 4 0xFFFFFFF8) }).map (fun s =>
        (s.core ⟨0, 0⟩).streams.map (fun e => (e.2.counts, e.2.strides))) = some [([5, 0, 0, 0], [-8, 0, 0, 0])]) := by and_intros <;> decide +kernel

/-- The function code of the command that an instruction buffers. -/
def queuedFn (i : Instr) : Option (List (Option (Nat × Option Bool))) :=
  (afterT i { put (th [(2, 7)]) x0 with cores := mapped }).map (fun t => t.region.items.map (fun x => match x with
    | .command c => (match c.work with
      | .vector fn sd _ _ _ _ _ _ => if c.queue = 4 then some (fn, sd.map (fun e => e.name == some 0)) else none
      | _ => none)
    | _ => none))

/-- Every vector command is buffered with its code and the stream that its sd names (R290, R292). -/
theorem test_vector_commands : (∀ e ∈ ([(.vadd 0 1 2 1 2, 0x00), (.vsub 0 1 2 1 2, 0x01), (.vmul 0 1 2 1 2, 0x02), (.vfma 0 1 2 1 2, 0x03),
      (.vfms 0 1 2 1 2, 0x04), (.vdiv 0 1 2 1 2, 0x05), (.vmin 0 1 2 1 2, 0x06), (.vmax 0 1 2 1 2, 0x07), (.vabs 0 1 1 2, 0x08), (.vcvt 0 1 1 2, 0x09),
      (.vcmp 0 1 2 1 2, 0x0A), (.vsel 0 1 2 1 2, 0x0B), (.vand 0 1 2 1 2, 0x0C), (.vor 0 1 2 1 2, 0x0D)] : List (Instr × Nat)),
      queuedFn e.1 = some [some (e.2, some true)])
    ∧ (∀ e ∈ ([(.vxor 0 1 2 1 2, 0x0E), (.vshl 0 1 2 1 2, 0x0F), (.vshr 0 1 2 1 2, 0x10), (.viota 0 1 2, 0x11), (.vshop 0 1 1 2, 0x12),
      (.vexp2 0 1 1 2, 0x13), (.vlog2 0 1 1 2, 0x14), (.vrcp 0 1 1 2, 0x15), (.vrsq 0 1 1 2, 0x16), (.vsqrt 0 1 1 2, 0x17), (.vsin 0 1 1 2, 0x18),
      (.vcos 0 1 1 2, 0x19), (.vtanh 0 1 1 2, 0x1A)] : List (Instr × Nat)),
      queuedFn e.1 = some [some (e.2, some true)])
    ∧ queuedFn (.vadd 1 0 2 1 2) = some [some (0x00, none)] := by and_intros <;> decide +kernel

/-- The command that an engine instruction buffers: its queue, its condition and its work. -/
def queued (i : Instr) (regs : List (Nat × Word)) : Option (List (Option (Nat × Nat × Work))) :=
  (afterT i (put (th regs) x0)).map (fun t => t.region.items.map (fun x => match x with
    | .command c => some (c.queue, c.ct, c.work)
    | _ => none))

/-- The engine commands, and a copy whose source fails its check (R268, R299). -/
theorem test_engine_commands : queued (.cpy 3 1 2 3 31) [(1, 0x21000), (2, 0x20000), (3, 0x100000040)] = some [some (3, 31, .cpy 0x21000 0x20000 0x40)]
    ∧ queued (.cpy2d 3 1 2 0 1) [(1, 0x21000), (2, 0x20000), (3, 0x20020)] = some [some (0, 1, .cpy2d 0x20020 0x21000 0x20000)]
    ∧ queued (.gath 3 1 2 1 0) [(1, 0x21000), (2, 0x20000), (3, 0x20020)] = some [some (1, 0, .gath 0x20020 0x21000 0x20000)]
    ∧ queued (.scat 3 1 2 2 0) [(1, 0x21000), (2, 0x20000), (3, 0x20020)] = some [some (2, 0, .scat 0x20020 0x21000 0x20000)]
    ∧ queued (.coll 3 1 2 0 0) [(1, 0x21000), (2, 0x20000), (3, 0x20020)] = some [some (0, 0, .coll 0x20020 0x21000 0x20000)]
    ∧ traps (.cpy 3 1 2 0 0) (put (th [(1, 0x21000), (2, 0x40000)]) x0) = some (0x05, 0x40000, 0x10000)
    ∧ traps (.gath 3 1 2 0 0) (put (th [(1, 0x21000), (2, 0x20000), (3, 0x20010)]) x0) = some (0x08, 0x20010, 0x10000) := by and_intros <;> decide +kernel

/-- The first failing check of several traps: a copy's destination, and a gather's, behind what passes; the last one's (R268). -/
theorem test_engine_checks : traps (.cpy 3 1 2 0 0) (put (th [(1, 0x40000), (2, 0x20000)]) x0) = some (0x05, 0x40000, 0x10000)
    ∧ (∀ i ∈ ([.cpy2d 3 1 2 0 0, .gath 3 1 2 0 0, .scat 3 1 2 0 0, .coll 3 1 2 0 0] : List Instr),
      traps i (put (th [(1, 0x40008), (2, 0x40000), (3, 0x20020)]) x0) = some (0x05, 0x40008, 0x10000)
      ∧ traps i (put (th [(1, 0x20000), (2, 0x40000), (3, 0x20020)]) x0) = some (0x05, 0x40000, 0x10000))
    ∧ traps (.coll 3 1 2 0 0) (put (th [(1, 0x20000), (2, 0x20004), (3, 0x20020)]) x0) = some (0x08, 0x20004, 0x10000) := by
  and_intros <;> decide +kernel

/-! ## The matrix unit -/

/-- A core whose slots 0 to 7 and tiles 0 and 1 are the thread's, slot 8 another's. -/
def claimsOf (uid : Nat) : Claim := ⟨uid, 1, none, false⟩
def claimed8 : Map CoreId Core := [(⟨0, 0⟩, { Core.reset with
  oclaims := (List.range 8).map (fun n => (n, claimsOf 7)) ++ [(8, claimsOf 9)], tclaims := [(0, claimsOf 7), (1, claimsOf 7)] })]

/-- MCLAIM takes all or none; MFMT and MSCL; the queries and the waits (R310 to R318, R337, R344, R345). -/
theorem test_claims : with3 (.mclaim 3 1 2 0) 0xFF 3 [] [] = some 0 ∧ with3 (.mclaim 3 1 2 0) 0x100000000 3 [] [] = some 0x7E
    ∧ with3 (.mclaim 3 1 2 0) 0x100 0 claimed8 [] = some 0x7C ∧ with3 (.mclaim 3 1 2 0) 0x200 16 claimed8 [] = some 0x7E
    ∧ with3 (.mrel 3 1 2 0) 0xFF 3 claimed8 [] = some 0
    ∧ with3 (.mfmt 3 1 2 0) 0 3 [] [] = some 0x7E ∧ with3 (.mseqq 3 1 0) 0 0 claimed8 [] = some 0 ∧ with3 (.mseqq 3 1 0) 1 0 claimed8 [] = some 0
    ∧ with3 (.mseqq 3 1 0) 5 0 claimed8 [] = some 0xFFFFFFFFFFFFFFFF ∧ goes .mwait (th []) = some 0x10004
    ∧ ((after (.mburst 1) (put (th [(1, 0x1FFFF)]) x0)).map (fun s => ((s.core ⟨0, 0⟩).burst, (s.core ⟨0, 0⟩).cold)) = some (65535, false))
    ∧ fmtValid 0 0x10000000 = true ∧ fmtValid 0 0 = false := by
  and_intros <;> decide +kernel

/-- A claim beyond the share; releases that are refused; MSCL of an address that fails its check, and of no register (R310, R311, R313). -/
theorem test_claim_refusals : (afterT (.mclaim 3 1 2 0) (put (th [(1, 0xFF)]) { x0 with block := { b0 with oslots := 4 } })).bind (fun t => t.i[3]?) = some 0x7D
    ∧ with3 (.mrel 3 1 2 0) 0x100 0 claimed8 [] = some 0x7F ∧ with3 (.mrel 3 1 2 0) 0 4 claimed8 [] = some 0x7F
    ∧ with3 (.mrel 3 1 2 0) 0x100000000 0 claimed8 [] = some 0x7E ∧ with3 (.mrel 3 1 2 0) 0 16 claimed8 [] = some 0x7E
    ∧ traps (.mscl 3 1 2 0) (put (th [(1, 0x40000), (2, 1)]) x0) = some (0x05, 0x40000, 0x10000)
    ∧ with3 (.mscl 3 1 2 0) 0x21000 2 [] [] = some 0x7E := by
  and_intros <;> decide +kernel

/-- In a pinned region MFMT and MSCL write their register by the rule of core control registers (R98). -/
theorem test_formats : ∀ t, t = { th [(1, 0x10000000), (2, 1)] with region := { (th [(1, 0), (2, 1)]).region with pinned := true } } →
    ((after (.mfmt 3 1 2 0) (put t x0)).map (fun s => (s.core ⟨0, 0⟩).lateCsr.map (fun w => (w.csr, w.cycle))) = some [(0x101, 12)])
    ∧ (after (.mscl 3 1 2 0) (put { t with i := (th [(1, 0x21000), (2, 1)]).i } x0)).map (fun s => (s.core ⟨0, 0⟩).lateCsr.map (fun w => (w.csr, w.value)))
        = some [(0x104, 0x21000)] := by
  rintro t rfl
  and_intros <;> decide +kernel

/-- The same claims, with formats of two operand slots a tile. -/
def matrix : Map CoreId Core := [(⟨0, 0⟩, { (claimed8.head?.map (·.2)).getD Core.reset with
  mregs := [(1, { MatRegs.reset with fmta := 0x10000000, fmtb := 0x10000000, fmtc := 0x10000000 })] })]

def queuedM (i : Instr) (a b : Word) : Option (List (Option Work)) :=
  (afterT i { put (th [(1, a), (2, b)]) x0 with cores := matrix }).map (fun t => t.region.items.map (fun x => match x with
    | .command c => if c.queue = 5 ∧ c.ct = 0 then some c.work else none
    | _ => none))

/-- The commands of one tile, and of a tile that is not claimed (R333, R334, R338 to R340). -/
theorem test_tile_commands : queuedM (.mldt 6 1 2) 0x21000 0x100000010 = some [some (.mldt 6 0x21000 0x100000010)]
    ∧ queuedM (.mtrn 6 1 2) 0x21000 0x100000010 = some [some (.mtrn 6 0x21000 0x100000010)]
    ∧ queuedM (.mrd 1 1 2) 0x21000 0x40 = some [some (.mrd 1 0x21000 0x40 0x10000000 0)]
    ∧ queuedM (.mma 0 1 0 2 ) 0 0 = some [some (.mma 0 (some 1) 0 2 0x10000000 0x10000000 0 0)]
    ∧ queuedM (.mmaz 1 4 6) 0 0 = some [some (.mma 1 none 4 6 0x10000000 0x10000000 0 0)]
    ∧ queuedM (.mzero 1) 0 0 = some [some (.mzero 1)]
    ∧ claimed ((claimed8.head?.map (·.2)).getD Core.reset).tclaims 7 [3] = false
    ∧ ((afterT (.mzero 3) { put (th []) x0 with cores := matrix }).map (fun t => t.tcause) = some 0x1A) := by and_intros <;> decide +kernel

/-- Each of the six commands of one tile traps where a slot or its tile is not claimed (MATRIX_CLAIM). -/
theorem test_matrix_claim : ∀ e ∈ ([(.mldt 8 1 2, 0x100000010), (.mtrn 8 1 2, 0x100000010), (.mrd 2 1 2, 0x40), (.mma 2 1 0 2, 0), (.mmaz 0 4 8, 0),
      (.mzero 3, 0)] : List (Instr × Word)),
    (afterT e.1 { put (th [(1, 0x21000), (2, e.2)]) x0 with cores := matrix }).map (fun t => t.tcause) = some 0x1A := by decide +kernel

/-- The macro-operations: both give 0; a tile that is not claimed, and overlapping operands (R314, R342). -/
theorem test_macro_commands : queuedM (.mcvt 3 1 2 0) 0x21000 0 = some [some (.mcvt 0x21000 0x10000000 0)]
    ∧ queuedM (.mgemm 3 1 2 0) 0x21000 0x100 = some [some (.mgemm 0x21000 0 0 2 0x10000000 0x10000000 0x10000000 0 0 0)]
    ∧ with3 (.mgemm 3 1 2 0) 0x21000 0x100 matrix [] = some 0 ∧ with3 (.mgemm 3 1 2 0) 0x21000 0x400 matrix [] = some 0x7F
    ∧ with3 (.mgemm 3 1 2 0) 0x21000 0 matrix [] = some 0x7E := by and_intros <;> decide +kernel

/-! ## Queues, heaps, launches -/

/-- The requests that a form sends. -/
def asked (i : Instr) (a b : Word) (x : Ctx) : Option (List (Body × Nat)) :=
  (after i (put ((th [(1, a), (2, b)]).start [(1, a), (2, b)] [(2, 0x3F800000)]) x)).map (fun s => s.packets.map (fun k => (k.body, k.ctx.id)))

/-- The queue forms that ask a controller (R304 to R308). -/
theorem test_queue_forms : asked (.qmake 3 1 2 0) 0xFFFFFFFFFFFE0000 0x500000010 x0 = some [(.queue 0 0xFFFFFFFFFFFE0000 0x500000010 ⟨0, 0⟩, 1)]
    ∧ asked (.qenq 3 1 2 0) 5 6 x0 = some [(.queue 1 5 6 ⟨0, 0⟩, 1)]
    ∧ asked (.qdeq 3 1 2 0) 5 0x21000 x0 = some [(.queue 2 5 0x21000 ⟨0, 0⟩, 1)] ∧ asked (.qsteal 3 1 2 0) 5 0x21010 x0 = some [(.queue 3 5 0x21010 ⟨0, 0⟩, 1)]
    ∧ asked (.qdest 3 1 0) 5 0 x0 = some [(.queue 5 5 0 ⟨0, 0⟩, 1)] ∧ asked (.govset 3 1 2 0) 0 9 x0 = some [(.queue 7 0 9 ⟨0, 0⟩, 1)]
    ∧ traps (.qdeq 3 1 2 0) (put (th [(1, 5), (2, 0x21008)]) x0) = some (0x08, 0x21008, 0x10000) := by and_intros <;> decide +kernel

/-- A kernel with a heap in district 0, whose queue holds key 5 with gain 1.0. -/
def heap : Kernel := { Kernel.ofHeader [] 0 0 with num := 4, mask := 1, table := [0x10100], bound := [(0, 1)], entries := [⟨5, 0x3F800000, 0, .stored, false⟩] }

def x1 : Ctx := { x0 with kernels := [heap] }

/-- The heap forms of kernel 4: those that ask its summary heap, and the reads (R349, R375 to R379). -/
theorem test_heap_forms : asked (.hmerge 3 1 2 0) 0x40000000005 0 x1 = some [(.heap 0 0x40000000005 0x3F800000 4, 1)]
    ∧ asked (.hadd 3 1 2 0) 0x40000000005 0 x1 = some [(.heap 1 0x40000000005 0x3F800000 4, 1)]
    ∧ asked (.hclose 3 1 0) 0x40000000000 0 x1 = some [(.heap 3 0x40000000000 0 4, 1)]
    ∧ asked (.hdrain 3 1 2 0) 0x40000000002 0x21000 x1 = some [(.heap 4 0x40000000002 0x21000 4, 1)]
    ∧ asked (.hqry 3 1 2 0) 0x40000000000 3 x1 = some [(.heap 2 0x40000000000 3 4, 1)]
    ∧ asked (.srrd 3 1 2 0) 0x40000000000 2 x1 = some [] ∧ (afterT (.srrd 3 1 2 0) (put (th [(1, 0x40000000000), (2, 2)]) x1)).bind (fun t => t.i[3]?) = some 0
    ∧ asked (.htop 3 1 0) 0x40000000000 0 x1 = some [(.heap 6 0x40000000000 0 4, 1)]
    ∧ heapItem heap 5 0 = withBit63 0x3F800000 ∧ heapItem heap 0 3 = withBit63 1 ∧ srrItem heap 2 = 0
    ∧ heap.topReady.isSome = true
    ∧ badOperand 2 0x40000000005 0 = false ∧ badOperand 5 0x40000000000 2 = false ∧ badOperand 6 0x40000000000 0 = false
    ∧ heap.closed = false ∧ heap.closing = false := by and_intros <;> decide +kernel

/-- A launch block of two items on one field of one bit: the entry at text, the join counter at 0x21000 (R18, R347). -/
def block : List Byte := leBytes 8 0x10100 ++ [1, 0, 0, 0, 0, 0, 0, 0] ++ leBytes 4 2 ++ List.replicate 52 0 ++ leBytes 8 0 ++ leBytes 8 0x21000
  ++ List.replicate 40 0

/-- LAUNCH gives the kernel's number and sets its counter; a SPAWN asks, and an odd entry traps; WNEXT outside an item (R372 to R374). -/
theorem test_launch : ∀ s, s = { put (th [(1, 0x20400)]) x0 with mem := memWrites [] 1024 block } → block.length = 128 →
    (afterT (.launch 3 1 0) s).bind (fun t => t.i[3]?) = some (withBit63 1)
    ∧ (after (.launch 3 1 0) s).map (fun z => leNat (memReads z.mem 4096 8)) = some 2
    ∧ asked (.spawn 3 1 2 0) 0 0x10100 x0 = some [(.spawn 0 0x10100 [0, 0, 0, 0] 0 0, 1)]
    ∧ traps (.spawn 3 1 2 0) (put (th [(2, 0x10102)]) x0) = some (0x08, 0x10102, 0x10000)
    ∧ with3 (.wnext 3 0) 0 0 [] [] = some 0x8A := by
  rintro s rfl -
  and_intros <;> decide +kernel

theorem test_launch_block : block.length = 128 := by decide +kernel

/-- WNEXT of a thread that holds an item, with no item left of its kernel (R373). -/
theorem test_wnext : ∀ t, t = { th [] with role := .item 4 true 0 } →
    (tryCommit (finishItem (put t x1) p0 t) p0 t false 0 (t.pc + 4)).isSome = true
    ∧ (afterT (.wnext 3 0) (put t x1)).bind (fun u => u.i[3]?) = some 0x89 := by
  rintro t rfl
  and_intros <;> decide +kernel

/-! ## Warrants, time, events, records -/

/-- A state of a device whose time is known within 50 ns, and a thread with an event and a completion record. -/
def timed (t : Thread) : State := { put t x0 with devs := [(0, { Device.reset with timeA := some 50, timeT := 1000 })] }

/-- Forms that read at issue (R160, R172, R174, R179, R180). -/
theorem test_reads : (afterT (.dtime 3 1 0) (timed (th [(1, 50)]))).bind (fun t => t.i[3]?) = some 1000
    ∧ (afterT (.dtime 3 1 0) (timed (th [(1, 49)]))).bind (fun t => t.i[3]?) = some 0xFFFFFFFFFFFFFFFF
    ∧ (afterT (.dtime 3 1 0) (put (th [(1, 50)]) x0)).bind (fun t => t.i[3]?) = some 0xFFFFFFFFFFFFFFFF
    ∧ (with3 (.wqry 3 1 2 0) 9 0 [] []) = some 0xFFFFFFFFFFFFFFFF ∧ (with3 (.rlimq 3 1 0) 8 0 [] []) = some 0xFFFFFFFFFFFFFFFF
    ∧ (afterT (.evpost 1 2) (put (th [(1, 5), (2, 6)]) x0)).map (fun t => t.region.items) = some [.post (.evpost 5 6) 0] := by and_intros <;> decide +kernel

/-- Forms that write a record behind their commit (R173, R175, R177, R303): the capability header, an event, a completion record, no record,
a wait, and an area that is not aligned. -/
theorem test_records : ∀ t, t = { th [(1, 0x21000), (2, 1)] with events := [⟨1, 1, 7, 50⟩, ⟨0x60, 1, 1, 51⟩], records := [⟨0x10040, 0, 9, 52⟩] } →
    ((after (.caprd 3 1 2 0) (put { th [(1, 0x21000)] with i := (th [(1, 0x21000), (2, 0x8000000000000000)]).i } x0)).map (fun s => decide (s.mem.length ≠ 0)) = some true)
    ∧ ((afterT (.evwait 3 1 2 0) (put t x0)).map (fun u => (u.i[3]?, u.events.map (fun e => e.code))) = some (some 1, [0x60]))
    ∧ ((after (.evwait 3 1 2 0) (put t x0)).map (fun s => leNat (memReads s.mem 4096 2)) = some 1)
    ∧ ((after (.evrd 3 1 0) (put t x0)).map (fun s => leNat (memReads s.mem 4096 8)) = some 0x10040)
    ∧ ((afterT (.evrd 3 1 0) (put t x0)).map (fun u => u.records.length) = some 0)
    ∧ ((afterT (.evrd 3 1 0) (put (th [(1, 0x21000)]) x0)).bind (fun u => u.i[3]?) = some 0xFFFFFFFFFFFFFFFF)
    ∧ ((afterT (.evwait 3 1 2 0) (put (th [(1, 0x21000), (2, 1)]) x0)).map (fun u => u.wait) = some (.event 0x21000 1 (ri 3) 0))
    ∧ traps (.evrd 3 1 0) (put (th [(1, 0x21008)]) x0) = some (0x08, 0x21008, 0x10000) := by
  rintro t rfl
  and_intros <;> decide +kernel

/-- CKPT into an area that is too short (R303): nothing is written, and SHORT is the result. -/
theorem test_checkpoint : (after (.ckpt 3 1 2 0) (put (th [(1, 0x21000), (2, 64)]) x0)).map (fun s => s.mem) = some []
    ∧ (afterT (.ckpt 3 1 2 0) (put (th [(1, 0x21000), (2, 64)]) x0)).bind (fun u => u.i[3]?) = some 0x56
    ∧ checkVa (put (th [(1, 0x21000)]) x0) p0 (th [(1, 0x21000)]) 0x21000 4096 needW = none := by
  and_intros <;> decide +kernel

/-- A record of no kind is refused at PRESENT, and the device that is not READY says so first (R118, R161). -/
theorem test_present : (afterT (.present 3 1 2 0) (put (th [(1, 0x21000)]) x0)).bind (fun t => t.i[3]?) ≠ none
    ∧ recKind (List.replicate 64 0) ≠ some .warrant ∧ (tryCommit (put (th [(1, 0x21000)]) x0) p0 (th [(1, 0x21000)]) false 0 0x10004).isSome = true := by
  and_intros <;> decide +kernel

/-- A queue of generation 0 that exists, and its handle with all rights: its tag verifies whatever the tag function is (R283). -/
def queue0 : Queue := ⟨0, true, 0, [mkSa 0 3 0], 16, 0, 1, 1, true, 0⟩
def s2 : State := put (th []) { x0 with queues := [(0, queue0)] }

theorem test_hyp_handle : handleCheck s2 0 (mkHandle s2 0 0 0 7 1) = none ∧ hasRights (mkHandle s2 0 0 0 7 1) 7 = true
    ∧ hCtx (mkHandle s2 0 0 0 7 1) = 1 ∧ isRole (mkHandle s2 0 0 0 7 1) = false ∧ queueOf s2 0 (mkHandle s2 0 0 0 7 1) = some queue0
    ∧ queue0.count = 1 ∧ queue0.live = true := by
  have ht : (Config.queueTag 0 (s2.dev 0).epoch (BitVec.ofNat 41 114689)).toNat < 2 ^ 23 := BitVec.isLt _
  generalize hq : (Config.queueTag 0 (s2.dev 0).epoch (BitVec.ofNat 41 114689)).toNat = q at ht
  have hb : handleBits 0 0 7 1 = 114689 := by decide
  have hv : (mkHandle s2 0 0 0 7 1).toNat = 114689 * 2 ^ 23 + q := by
    unfold mkHandle
    simp only [hb, hq, BitVec.toNat_ofNat]
    exact Nat.mod_eq_of_lt (by omega)
  generalize mkHandle s2 0 0 0 7 1 = h at hv
  have hi : hQid h = 0 := by simp only [hQid, wbits, hv]; omega
  have hg : hGen h = 0 := by simp only [hGen, wbits, hv]; omega
  have hc : hCtx h = 1 := by simp only [hCtx, wbits, hv]; omega
  have hr : hRights h = 7 := by simp only [hRights, wbits, hv]; omega
  have hw : wbits h 23 41 = 114689 := by simp only [wbits, hv]; omega
  have hl : wbits h 0 23 = q := by simp only [wbits, hv]; omega
  have hk : tagOk s2 0 h = true := by simp only [tagOk, hw, hq, hl, beq_self_eq_true]
  have ho : queueOf s2 0 h = some queue0 := by
    simp only [queueOf, hc, hi, hg]
    decide +kernel
  refine ⟨?_, ?_, hc, ?_, ho, by decide, by decide⟩
  · simp [handleCheck, hk, isRole, hi, ho]
  · simp [hasRights, hr]
  · simp [isRole, hi]

/-- A FRACTIONAL context of two slots that may be split once, and a child block of one slot at VA 0x21000. -/
def halves : Block := { Block.zero with slots := 2, hbm := 16384, memRate := 1, depth := 1 }
def x3 : Ctx := { x0 with flags := 5, cores := [], slots := [(0, 0), (0, 1)], spans := [], block := halves, granted := halves, serial := 77 }
def one (slots depth : Nat) : List Host.Cell := memWrites [] 4096 (leBytes 4 slots ++ List.replicate 72 0 ++ leBytes 4 depth ++ List.replicate 48 0)

/-- WSPLIT gives the child's serial; an entry outside the text; a block as deep as the holder's (R163 to R167). -/
theorem test_wsplit :
    ((afterT (.wsplit 3 1 2 0) { put (th [(1, 0x21000), (2, 0x10100)]) x3 with mem := one 1 0 }).bind (fun t => t.i[3]?) = some 0x800000010000004D)
    ∧ ((after (.wsplit 3 1 2 0) { put (th [(1, 0x21000), (2, 0x10100)]) x3 with mem := one 1 0 }).bind (fun s => (s.ctx c0).map (fun x =>
        (x.slots, x.children.map (fun ch => (ch.slots, ch.entryPC))))) = some ([(0, 0)], [([(0, 1)], 0x10100)]))
    ∧ ((afterT (.wsplit 3 1 2 0) { put (th [(1, 0x21000), (2, 0x40000)]) x3 with mem := one 1 0 }).bind (fun t => t.i[3]?) = some 0x55)
    ∧ ((afterT (.wsplit 3 1 2 0) { put (th [(1, 0x21000), (2, 0x10100)]) x3 with mem := one 1 1 }).bind (fun t => t.i[3]?) = some 0x50) := by
  and_intros <;> decide +kernel

/-- WSURR of one slot, and of the whole context (R168, R170). -/
theorem test_wsurr :
    ((afterT (.wsurr 3 1 2 0) { put (th [(1, 0x21000)]) x3 with mem := one 1 0 }).bind (fun t => t.i[3]?) = some 0)
    ∧ ((after (.wsurr 3 1 2 0) { put (th [(1, 0x21000)]) x3 with mem := one 1 0 }).bind (fun s => (s.ctx c0).map (fun x => x.block.slots - x.owed.slots)) = some 1)
    ∧ ((after (.wsurr 3 1 2 0) (put (th [(1, 0), (2, 9)]) x3)).map (fun s => (s.ctx c0).isNone) = some true) := by
  and_intros <;> decide +kernel

/-- PRESENT of a record that is no slip, WACCEPT of it, WAMEND of no amendment, WDELEG of a child that is not there: each completes with its
status (R161, R166, R169, R171). -/
theorem test_statuses : ∀ i ∈ ([.present 3 1 2 0, .waccept 3 1 2 0, .wamend 3 1 2 0, .wdeleg 3 1 2 0] : List Instr),
    ((afterT i (put (th [(1, 0x21000)]) x3)).bind (fun t => t.i[3]?)).isSome = true
      ∧ ((afterT i (put (th [(1, 0x21000)]) x3)).bind (fun t => t.i[3]?)) ≠ some 0 := by decide +kernel

/-- TNONCE writes 16 bytes behind its commit and gives 0 (R175). -/
theorem test_hyp_tnonce : checkVa (put (th [(1, 0x21000)]) x0) p0 (th [(1, 0x21000)]) 0x21000 16 needW = none
    ∧ (tryCommit (put (th [(1, 0x21000)]) x0) p0 (th [(1, 0x21000)]) false 0 0x10004).isSome = true := by
  and_intros <;> decide +kernel

/-! ## Steps beside the issue of a slot -/

/-- COMMIT_REGION at a CMT; TOKEN_STEP of a region that waits to be pinned or exclusive; PIN_BUDGET of a context without a budget
(R62, R214, R216, R217). -/
theorem test_region_steps : ∀ s, s = { put writer x0 with mem := memWrites [] 0 (leBytes 4 0x80000001) } →
    atCommitPoint s p0 writer = true ∧ canCommit s p0 writer = true ∧ writer.pend = [] ∧ (s.threads.map (·.1)).Nodup
    ∧ ((after (.commitRegion p0) s).map (fun z => (leNat (memReads z.mem 4096 8), (z.thread p0).map (fun t => (t.region.items, t.region.rstart, t.pc))))
        = some (5, some ([], 0x10000, 0x10000)))
    ∧ ((after (.tokenStep p0) (put { writer with region := { writer.region with want := true } } x0)).map (fun z =>
        ((z.thread p0).map (fun t => (t.region.pinned, t.region.exclusive, t.region.want)), (z.ctx c0).map (fun x => x.token_)))
        = some (some (true, false, false), some (some 7)))
    ∧ ((after (.tokenStep p0) (put { writer with region := { writer.region with wantExcl := true } } x0)).bind (fun z =>
        (z.thread p0).map (fun t => (t.region.pinned, t.region.exclusive))) = some (false, true)) := by
  rintro s rfl
  and_intros <;> decide +kernel

/-- A pinned region whose token came at cycle 0, on a core at cycle 9, with a budget of 8 cycles. -/
def overdue : State := { put { th [] with region := { (th []).region with pinned := true, token := some 0 } } { x0 with pinb := 8 } with
  cores := [(⟨0, 0⟩, { Core.reset with cycle := 9 })] }

theorem test_pin_budget : (overdue.thread p0).map (fun t => pinOut overdue p0 t) = some true
    ∧ ((after (.pinBudget p0) overdue).bind (fun s => (s.ctx c0).map (fun x => (x.state, x.cause, x.fault)))
        = some (.stopping, some 2, some ⟨7, 0x10000, 0x12, 9, 0⟩)) := by and_intros <;> decide +kernel

/-- A packet of the thread for a line at 4096, under a stream. -/
def pk (b : Body) (ph : Phase) : Packet := { (mkPacket (put (th []) x0) p0 (th []) 4096 b false 8).2 with
  stream := some ⟨false, 0, 0, 0, 1⟩, num := 1, path := [], phase := ph }
def with_ (k : Packet) : State := { put (th []) x0 with packets := [k], mem := memWrites [] 4096 (leBytes 8 40) }

/-- What is answered and what memory then holds. -/
def answered (i : Instr) (k : Packet) : Option (List (Bool × List Word) × Nat) :=
  (after i (with_ k)).map (fun s => (s.packets.map (fun q => (q.phase == .reply, q.result)), leNat (memReads s.mem 4096 8)))

/-- A store, a load and an atomic at their home (R182, R212, R245). -/
theorem test_packets_perform : resolve (with_ (pk .jdec .arrived)) c0 4096 = some (4096, true)
    ∧ streamLets (with_ (pk (.store (leBytes 8 9)) .arrived)) (pk (.store (leBytes 8 9)) .arrived) = true
    ∧ blocked (with_ (pk .jdec .arrived)) none (linesOf 4096 8) = false
    ∧ (∀ k ∈ [pk (.store (leBytes 8 9)) .arrived, pk (.read 8 (.sx 64)) .arrived, pk (.ratomic .add false 2 0) .arrived],
        handlerLets (with_ k) k 4096 = true ∧ cqLets (with_ k) k 4096 = true)
    ∧ answered (.performPacket 100) (pk (.store (leBytes 8 9)) .arrived) = some ([(true, [])], 9)
    ∧ answered (.performPacket 100) (pk (.release (leBytes 4 9)) .arrived) = some ([(true, [])], 9)
    ∧ answered (.remotePerform 100) (pk (.read 8 (.sx 64)) .arrived) = some ([(true, [40])], 40)
    ∧ answered (.remotePerform 100) (pk (.ratomic .add false 2 0) .arrived) = some ([(true, [40])], 42) := by and_intros <;> decide +kernel

/-- A result at the end of its window, an acknowledgement, a lost one on the fabric, a second sending after 8 µs, and the arrival that
flips a barrier (R57, R182, R183, R257). -/
theorem test_packets_reply :
    ((after (.resultArrival 100) { put { th [] with pend := [⟨100, [ri 3], 0, none, [], false, none⟩] } x0 with
        packets := [{ pk (.read 8 (.zx 64)) .reply with result := [5] }] }).bind (fun s => s.thread p0)).map (fun t => (t.pend, t.i[3])) = some ([], 5)
    ∧ ((after (.acknowledgement 100 false) (with_ (pk (.store [1]) .reply))).map (fun s => s.packets.length) = some 0)
    ∧ ((after (.acknowledgement 100 true) (with_ { pk (.store [1]) .reply with stream := some ⟨true, 0, 0, 1, 1⟩ })).map (fun s => s.packets.map (fun q => q.phase))
        = some [.lost])
    ∧ ((after (.retransmit 100) { with_ { pk (.store [1]) .lost with stream := some ⟨true, 0, 0, 1, 1⟩, sentAt := some 0 } with now := 15200 }).map (fun s => s.packets.map (fun q => (q.phase, q.sentAt)))
        = some [(.request, some 15200)])
    ∧ ((after (.retransmit 100) { with_ { pk (.store [1]) .lost with stream := some ⟨true, 0, 0, 1, 1⟩, sentAt := some 0 } with now := 15199 }).map (fun s => s.packets.map (fun q => q.phase))
        = some [.lost])
    ∧ ((after (.barrierArrival 100) { put (th []) { x0 with barriers := [(3, { Barrier.reset with e := 3, count := 2 })] } with packets := [pk (.arrival 3 5) .arrived] }).bind
        (fun s => (s.ctx c0).map (fun x => x.barriers.map (fun b => (b.2.count, b.2.flips, b.2.phase)))) = some [(1, 2, false)]) := by and_intros <;> decide +kernel

/-- log2 1.5 is 0.58496…, in FP32 0x3F15C01A toward zero; 1 ulp above it is within the bound (R296). -/
theorem test_special_bound : log2In fp32 3 (-1) 1 = 0x3F15C01A ∧ log2In fp32 3 (-1) 2 = 0x3F15C01B := by and_intros <;> decide +kernel

/-- A packet of slack 0 before a crossing. -/
def hurried : Packet := { pk (.store [1]) .request with slack := 0, path := [.crossing 0 1, .crossing 0 2] }
/-- It, and `n` others of slack 0 in its next queue. -/
def crowded (n : Nat) : State :=
  { put (th []) x0 with packets := hurried :: List.replicate n { hurried with id := 101, path := [.crossing 0 2] } }

/-- A packet of slack 0 waits before a queue that holds 64 of slack 0 (R233). -/
theorem test_packet_crowd : nextTakes (crowded 63) hurried = true ∧ nextTakes (crowded 64) hurried = false := by and_intros <;> decide +kernel

/-- Queues, slack, the limiter, a transmitter, the link, HOLD (R209, R230 to R235). -/
theorem test_packet_queues :
    ((after (.queueService (.crossing 0 1)) (with_ { pk (.store [1]) .request with path := [.crossing 0 1] })).map (fun s => s.packets.map (fun q => (q.path, q.phase)))
      = some [([], .arrived)])
    ∧ ((after (.slackDecrement 100) { with_ { pk (.store [1]) .request with path := [.crossing 0 1], slack := 1 } with now := 32 }).map (fun s => s.packets.map (fun q => (q.slack, q.late)))
      = some [(0, true)])
    ∧ ((after (.slackDecrement 100) { with_ { pk (.store [1]) .request with path := [.crossing 0 1], slack := 1 } with now := 31 }).map (fun s => s.packets.map (fun q => q.slack))
      = some [1])
    ∧ ((after (.limiterAdmit 100) (with_ { pk (.store [1]) .request with path := [.shaping 0 1 0] })).map (fun s => s.packets.map (fun q => q.path)) = some [[]])
    ∧ ((after (.transmit 0 1 0) { with_ { pk (.store [1]) .request with path := [.fabTx 0 1, .fabRx 3 1] } with devs := [(0, { Device.reset with peersUp := [3] })] }).map
        (fun s => (s.packets.map (fun q => q.path), mget (s.dev 0).tuned (1, 0))) = some ([[.fabRx 3 1]], some 3))
    ∧ ((after (.linkReplay 5) (with_ (pk .jdec .request))) = some (with_ (pk .jdec .request)))
    ∧ ((after (.holdReleaseSignal 0 1 3 true) State.reset).map (fun s => (s.dev 0).holds) = some [(1, 3)])
    ∧ ((after (.holdReleaseSignal 0 1 3 false) { State.reset with devs := [(0, { Device.reset with holds := [(1, 3)] })] }).map (fun s => (s.dev 0).holds) = some []) := by
  and_intros <;> decide +kernel

/-- A copy of 64 bytes from the start of the own scratch slice to its byte 0x40. -/
def copy : Cmd := { (mkCmd (put (th []) x0) p0 (th []) 1 0 (.cpy 0xFFFFFFFFFFFE0040 0xFFFFFFFFFFFE0000 64)).2 with entered := true }
def holding (q : Cmd) : State := { put (th []) x0 with cores := [(⟨0, 0⟩, { Core.reset with cmds := [q] })], mem := memWrites [] (scratchSa 0 0 0) (leBytes 8 40) }

/-- The life of a command: it starts, an engine takes it, bytes are read and written, its record comes (R225, R268, R274, R277, R278). -/
theorem test_command_life : mayStart (holding copy) copy = true
    ∧ ((after (.commandStart 100) (holding copy)).map (fun s => (s.core ⟨0, 0⟩).cmds.map (fun q => q.started)) = some [true])
    ∧ ((after (.engineSelect 0 0 0 0) (holding { copy with started := true })).map (fun s => (s.core ⟨0, 0⟩).cmds.map (fun q => q.budget)) = some [65536])
    ∧ ((after (.commandRead 100 0) (holding { copy with started := true, budget := 65536 })).map (fun s => (s.core ⟨0, 0⟩).cmds.map (fun q =>
        (q.prog, q.writes.map (fun w => (w.va, leNat (w.data.take 8)))))) = some [(32, [(0xFFFFFFFFFFFE0040, 40)])])
    ∧ ((after (.externalWrite (.command 100 0)) (holding { copy with started := true, prog := 64, writes := [⟨0xFFFFFFFFFFFE0040, [7], none⟩] })).map (fun s =>
        ((s.core ⟨0, 0⟩).cmds.map (fun q => (q.writes.length, q.count)), memRead s.mem (scratchSa 0 0 0x40))) = some ([(0, 1)], 7))
    ∧ ((after (.commandComplete 100) (holding { copy with started := true, prog := 64, count := 64 })).map (fun s =>
        ((s.core ⟨0, 0⟩).cmds.length, (s.thread p0).map (fun t => t.records))) = some (0, some [⟨0x10000, 0, 64, 100⟩]))
    ∧ ((after (.queueEntry ⟨0, 0⟩) (holding { copy with entered := false })).map (fun s => (s.core ⟨0, 0⟩).cmds.map (fun q => q.entered)) = some [true]) := by
  and_intros <;> decide +kernel

/-- Writes of the host, a copy of a layout record, an event into the store (R177, R220, R227). -/
theorem test_outside_writes :
    ((after (.externalWrite (.host 4096 [1, 2])) (put { reader with uid := 7 } x0)).map (fun s =>
        (leNat (memReads s.mem 4096 2), (s.thread p0).map (fun t => t.pc))) = some (513, some 0x10020))
    ∧ ((after (.lpCopy c0 4096) { put (th []) x0 with mem := [(4096, 6)] }).bind (fun s => (s.ctx c0).map (fun x => x.lp.map (fun e => (e.1, leNat (e.2.take 8), e.2.length))))
        = some [(4096, 6, 256)])
    ∧ ((after (.eventStoreEntry c0) (put (th []) { x0 with held := [⟨none, .inl ⟨1, 1, 2, 50⟩, false, none, none⟩] })).bind (fun s => (s.ctx c0).map (fun x => (x.held.length, x.store.length)))
        = some (0, 1)) := by and_intros <;> decide +kernel

/-! ## Units, slots, pages -/

/-- A vector command of one slice at the head of queue 4. -/
def slice : Cmd := { (mkCmd (put (th []) x0) p0 (th []) 4 0 (.vector 0 (some ⟨some 7, 0, 7, false, some 0, 0x21000, [5], [8], 0, false, []⟩) none none 0 0 0 0)).2 with
  entered := true, started := true }

/-- A product of 32 × 32 × 32, with all three arrays at the start of the scratch aperture. -/
def gemm : Cmd := { (mkCmd (put (th []) x0) p0 (th []) 5 0 (.mgemm 0x21000 0 0 2 0x10000000 0x10000000 0x10000000 0 0 0)).2 with
  entered := true, started := true
  record := [32, 0, 32, 0, 32, 0, 0, 0] ++ leBytes 8 0xFFFFFFFFFFFE0000 ++ leBytes 8 0xFFFFFFFFFFFE0000 ++ leBytes 8 0xFFFFFFFFFFFE0000 ++ leBytes 4 64 ++ leBytes 4 64
    ++ leBytes 4 64 ++ [0, 0, 0, 0] }

/-- A copy under way, and one whose destination lies in another district. -/
def run1 : Cmd := { copy with started := true, budget := 65536 }
def away (q : Cmd) : State := { holding q with ctxs := [(c0, { x0 with rtbase := 4096 })], mem := cellsAt 4096 (table 0x23000 0x3000) }

/-- What the statement of command steps asks: a read that answers, a write's place here and elsewhere, an end whose record fits, a copy that an
engine may take, a slice that a lane group may take, room in the queue. -/
theorem test_hyp_commands : (holding run1).findCmd 100 = some run1
    ∧ (match cmdGet (holding run1) run1 0xFFFFFFFFFFFE0000 32 1 with
      | .ok bs => leNat (bs.take 8)
      | _ => 0) = 40
    ∧ (match cmdPlace (holding run1) run1 0xFFFFFFFFFFFE0040 1 1 needW with
      | .ok l => (localSa 0 l, blocked (holding run1) none (linesOf (scratchSa 0 0 0x40) 1))
      | _ => (none, true)) = (some (scratchSa 0 0 0x40), false)
    ∧ (match cmdPlace (away run1) run1 0x23000 1 1 needW with
      | .ok l => localSa 0 l
      | _ => some 0) = none
    ∧ writesOpen run1 = true ∧ mayWrite (holding run1) { run1 with writes := [⟨0xFFFFFFFFFFFE0040, [7], none⟩] } 0 = true
    ∧ (∀ q, q = { copy with started := true, prog := 64 } → cmdDone (holding q) q = true ∧ recordHeld (holding q) q = false)
    ∧ (holding run1).findThread 7 = some (p0, th []) ∧ ((th []).take (.inr ⟨0, 0, 64, 50⟩)).isSome = true
    ∧ cmdDone (holding { slice with prog := 1 }) { slice with prog := 1 } = true
    ∧ lanesBusy (holding slice) ((groupCores 0 0 0).map (fun n => (⟨0, n⟩ : CoreId))) = 0
    ∧ (groupCores 0 0 0).filter (fun n => (eligible (holding slice) ⟨0, n⟩).isSome) = [0]
    ∧ (gemmNeeds gemm).length = 2048
    ∧ ((quarterCmds (holding { copy with started := true }) 0 0 0).filter (fun d => d.work.engine == some 0)).filter Cmd.offers = [{ copy with started := true }]
    ∧ ((holding copy).core ⟨0, 0⟩).inQueue 1 < queueCap 1 := by
  refine ⟨?_, ?_, ?_, ?_, ?_, ?_, ?_, ?_, ?_, ?_, ?_, ?_, ?_, ?_, ?_⟩
  case refine_7 => rintro q rfl; decide +kernel
  all_goals decide +kernel

/-- A slice is taken; a burst ends, and its ramp-down (R276, R345). -/
theorem test_unit_steps : (eligible (holding slice) ⟨0, 0⟩).isSome = true
    ∧ ((after (.sliceSelect 0 0 0 0) (holding slice)).map (fun s => ((s.core ⟨0, 0⟩).cmds.map (fun q => (q.prog, q.runs)), (s.core ⟨0, 0⟩).credit)) = some ([(1, [⟨0, 0, none⟩])], 0))
    ∧ (∀ e ∈ ([(4095, 3, none), (4096, 0, some 4096)] : List (Nat × Nat × Option Nat)), (after (.burstExpiry ⟨0, 0⟩) { State.reset with
        cores := [(⟨0, 0⟩, { Core.reset with cycle := e.1, burst := 3 })] }).map (fun s => ((s.core ⟨0, 0⟩).burst, (s.core ⟨0, 0⟩).rampAt)) = some e.2)
    ∧ (∀ e ∈ ([(31, some 0, false), (32, none, false), (256, none, true)] : List (Nat × Option Nat × Bool)), (after (.rampDownEnd ⟨0, 0⟩) { State.reset with
        cores := [(⟨0, 0⟩, { Core.reset with cycle := e.1, mmaAt := some 0, rampAt := some 0 })] }).map
        (fun s => ((s.core ⟨0, 0⟩).rampAt, (s.core ⟨0, 0⟩).cold)) = some e.2) := by and_intros <;> decide +kernel

/-- The sequencer's one step, and its drain (R315, R342). -/
theorem test_sequencer : (runningGemm (holding gemm) ⟨0, 0⟩).isSome = true ∧ gemmTotal gemm.record = 1
    ∧ ((after (.commandRead 100 3) (holding gemm)).map (fun s => (s.core ⟨0, 0⟩).cmds.map (fun q => q.got.length)) = some [3])
    ∧ ((after (.mgemmStep ⟨0, 0⟩) (holding { gemm with got := List.replicate 2048 [0] })).map (fun s => ((s.core ⟨0, 0⟩).cmds.map (fun q => (q.prog, q.budget, q.ended)), (s.core ⟨0, 0⟩).mseq)) = some ([(1, 1, none)], 0x300000001))
    ∧ ((after (.mgemmDrain ⟨0, 0⟩) (holding { gemm with prog := 1, budget := 1 })).map (fun s => (s.core ⟨0, 0⟩).cmds.map (fun q => (q.writes.length, q.budget, q.ended))) = some [(1024, 0, some 0)])
    := by and_intros <;> decide +kernel

/-- A frame, and a thread whose area holds none of its two frames. -/
def frame1 (ret : Word) : Frame := { ret := ret, win := Vector.replicate 16 9, inArea := false }
def two : Thread := { tw [] with wdep := 2, frames := [frame1 0x10008, frame1 0x10004] }

/-- The lowest frame is written where WSP points (R64), and read back. -/
theorem test_window_steps : two.unspilled.map (·.1) = [1, 2] ∧ (framePieces (put two x0) p0 two needW 1).isSome = true
    ∧ ((after (.windowSpill p0) (put two x0)).map (fun s => ((s.thread p0).map (fun t => t.unspilled.map (·.1)), leNat (memReads s.mem (scratchSa 0 0 0) 8),
        leNat (memReads s.mem (scratchSa 0 0 128) 8))) = some (some [2], 0x10004, 9))
    ∧ (framePieces (put { two with frames := [] } x0) p0 { two with frames := [] } needR 2).isSome = true
    ∧ ((after (.windowFill p0) { put { two with frames := [] } x0 with mem := memWrites [] (scratchSa 0 0 136) (leBytes 8 0x10040) }).bind (fun s => s.thread p0)).map
        (fun t => t.frames.map (fun f => (f.ret, f.inArea))) = some [(0x10040, true)] := by and_intros <;> decide +kernel

/-- A handler of slot 15, sent by the thread of slot 0, that has issued its 64 instructions. -/
def p15 : Place := ⟨0, 0, 15⟩
def spent : Thread := { Thread.new 9 1 0x10100 p15 with role := .handler 7 0 64 }

/-- A walk's range is cached; a message starts its handler; the 65th instruction ends it with an event for its sender (R191, R202, R253, R254). -/
theorem test_slot_steps :
    ((after (.walkComplete p0 0x40008) { put { th [] with locks := [] } { x0 with rtbase := 4096 } with mem := cellsAt 4096 (table 0x40000 4096) }).map (fun s => (s.core ⟨0, 0⟩).tlb.map (fun e => e.range.base)) = some [0x40000])
    ∧ ((after (.activeMessage ⟨0, 0⟩) { put (th []) x0 with cores := [(⟨0, 0⟩, { Core.reset with hq := [.code ⟨c0, 7, 0, 0x10100, 0x40, [1, 2, 3], 5⟩] })] }).bind
        (fun s => s.thread p15)).map (fun t => (t.pc, t.isHandler, t.i[8], t.i[9], t.i[11], t.slk)) = some (0x10100, true, 0x40, 1, 3, 5)
    ∧ spent.settled = true
    ∧ (∀ s ∈ ([{ put (th []) x0 with cores := [(⟨0, 0⟩, { Core.reset with hq := [.code ⟨c0, 7, 0, 0x10100, 0x40, [1, 2, 3], 5⟩] })] }] : List State),
        hqHeld s ⟨0, 0⟩ = false ∧ (hqItems s ⟨0, 0⟩).length = 1)
    ∧ ((after (.handlerInstructionLimit ⟨0, 0⟩) { put (th []) x0 with threads := [(p0, th []), (p15, spent)] }).map (fun s =>
        (s.threads.length, (s.thread p0).map (fun t => t.events))) = some (1, some [⟨0x64, 1, 0x100, 100⟩])) := by and_intros <;> decide +kernel

/-- A context with its last page in tier-2 and one in host memory, and a slot that waits for each. -/
def x4 : Ctx := { x0 with hbm := [⟨0, .hbm, 0⟩, ⟨4096, .hbm, 0⟩, ⟨hostAt 0 0 0, .host, 0⟩, ⟨tier2At 0 5, .tier2, 0⟩], requests := [(2, 0)] }
def parked (n : Nat) : State := { put { th [] with wait := .page 0 n } x4 with mem := memWrites [] (tier2At 0 5) [8] }

/-- Pages come from tier-2 and from the host; a response of another generation; a page above the cap (R135, R152, R158, R204). -/
theorem test_pages : Memory.wf (parked 3).mem = true ∧ (gainPlace (parked 3) c0 x4).map (·.2) = some (hbmAt 0 2)
    ∧ ((after (.pageArrival c0 3) (parked 3)).map (fun s => (s.ctx c0).bind (fun x => x.hbm[3]?.map (fun g => (g.sa, g.where_))))
        = some (some (hbmAt 0 2, .hbm)))
    ∧ ((after (.pageArrival c0 3) (parked 3)).map (fun s => (s.thread p0).map (fun t => t.wait)) = some (some .none))
    ∧ ((after (.pageResponse c0 0 1 2 [7]) (parked 2)).map (fun s => (s.dev 0).pridrop) = some 1) := by and_intros <;> decide +kernel

theorem test_page_response : ((after (.pageResponse c0 0 0 2 [7]) (parked 2)).map (fun s => ((s.ctx c0).map (fun x => x.requests), (s.ctx c0).bind (fun x => x.hbm[2]?.map (fun g => (g.sa, g.where_)))))
      = some (some [], some (hbmAt 0 2, .hbm)))
    ∧ ((after (.pageMoveComplete c0 0) (put (th []) { x0 with cap := 1 })).bind (fun s => (s.ctx c0).bind (fun x => x.hbm[0]?.map (fun g => (g.sa, g.where_)))) = some (tier2At 0 0, .tier2))
    := by and_intros <;> decide +kernel

/-- A thread on its way to slot 14 of a core of district 1, with no access, with a load, and displaced. -/
def going (a : Option (Word × Body × List Dst)) (shown : Bool) : Mig := ⟨50, { th [(4, 6)] with locks := [⟨⟨0x20000, 0x1000, 0, 7⟩, false⟩] }, p0, ⟨0, 1024, 14⟩, shown, a, false, 8, false, 0x3000, 0⟩
def moving (m : Mig) : State := { put (th []) { x0 with rtbase := 4096 } with
  threads := [], migs := [m]
  mem := memWrites (cellsAt 4096 (table 0x23000 0x3000)) (2 ^ 39) (leBytes 8 40) }

/-- A thread leaves its slot, arrives, is displaced from a hot island and arrives there (R145, R195 to R197, R369). -/
theorem test_movers :
    ((after (.migrationDepart p0) { put writer x0 with migs := [{ going none false with thread := writer }] }).map (fun s => (s.threads.length, leNat (memReads s.mem 4096 8))) = some (0, 5))
    ∧ ((after (.migrationArrival 50) (moving (going none false))).bind (fun s => s.thread ⟨0, 1024, 14⟩)).map (fun t => (t.pc, t.i[4], t.apCore, t.region.rstart))
        = some (0x10000, 6, 1024, 0x10000)
    ∧ ((after (.migrationArrival 50) (moving { going (some (0x23000, .read 8 (.zx 64), [ri 5])) false with
        thread := { th [] with pend := [⟨50, [ri 5], 1, none, [], false, none⟩] } })).bind (fun s => s.thread ⟨0, 1024, 14⟩)).map (fun t => t.i[5]) = some 40
    ∧ ((after (.thermalDisplacement 0 0) { put (th []) { x0 with slots := [(0, 0), (4, 0)] } with
        devs := [(0, { Device.reset with islands := [(0, { Island.reset with hot := true })] })] }).map (fun s => (s.threads.length, s.migs.map (fun m => (m.displaced, m.dst))))
        = some (0, [(true, ⟨0, 4, 0⟩)]))
    ∧ (∀ e ∈ ([(18999, 1), (19000, 0)] : List (Nat × Nat)), ((after (.thermalDisplacement 0 0) { put (th []) { x0 with slots := [(0, 0), (4, 0)] } with
        now := e.1, devs := [(0, { Device.reset with islands := [(0, { Island.reset with hot := true, shedAt := some 0 })] })] }).map (fun s => s.threads.length)
        = some e.2))
    ∧ ((after (.displacementArrival 50) (moving (going none true))).bind (fun s => s.thread ⟨0, 1024, 14⟩)).map (fun t => (t.pc, t.i[4], t.apCore, t.locks.length))
        = some (0x10000, 6, 0, 1) := by and_intros <;> decide +kernel

/-! ## Kernels, queues, stops -/

/-- A kernel of two items of one team each, and the same with a team in district 0. -/
def grid : Kernel := { Kernel.ofHeader block 7 0 with num := 5, level := 0 }
def placed_ : Kernel := { grid with teams := [⟨0, 0, 0⟩], nextTeam := 1, rr := 1 }
def owning (k : Kernel) : State := put (th []) { x0 with kernels := [k] }
def sent (q : Packet) (x : Ctx) : State := { put (th []) x with threads := [], packets := [q] }

/-- Teams, items, tasks and spawned children are placed; a donated slot goes back (R23, R24, R28, R332, R351, R358, R361). -/
theorem test_kernel_steps : placed_.nextFrom 0 none = some ⟨0, 0, 0⟩ ∧ itemSlot (owning placed_) c0 0 = some (0, 1)
    ∧ ((after (.teamPlacement c0 5) (owning grid)).bind (fun s => (s.ctx c0).map (fun x => x.kernels.map (fun k => (k.teams, k.nextTeam, k.rr)))) = some [([⟨0, 0, 0⟩], 1, 1)])
    ∧ ((after (.teamPlacement c0 5) (owning { grid with map := some (0x23000, 64, 64) })).bind (fun s => (s.ctx c0).map (fun x => x.kernels.map (fun k => k.nextTeam))) = some [1])
    ∧ ((after (.teamPlacement c0 5) (owning { grid with map := some (0x21000, 64, 64) })).bind (fun s => (s.ctx c0).map (fun x => x.kernels.map (fun k => k.teams))) = some [[⟨0, 0, 0⟩]])
    ∧ ((after (.itemDistribution c0 5 0) (owning placed_)).bind (fun s => s.thread ⟨0, 0, 1⟩)).map (fun t => (t.pc, t.i[8], t.i[9], t.role)) = some (0x10100, 0, 5, .item 5 true 0)
    ∧ freeBound (owning heap) c0 heap = some (0, 1) ∧ (topOf (heap.ready 0)).isSome = true
    ∧ ((after (.dispatch c0 4) (owning heap)).bind (fun s => s.thread ⟨0, 0, 1⟩)).map (fun t => (t.pc, t.i[8], t.role)) = some (0x10100, 5, .task 4 5 0x3F800000)
    := by and_intros <;> decide +kernel

theorem test_spawn_steps :
    ((after (.donorResume p0) { put (th []) x0 with threads := [], donors := [(p0, [{ th [(3, 6)] with wait := .donating 0x21000 }])] }).map (fun s =>
        ((s.thread p0).map (fun t => (t.wait, t.i[3])), mgetD s.donors p0 [])) = some (some (.ended, 6), []))
    ∧ ((after (.heapUpdate 100) (sent (pk (.heap 0 0x40000000006 0x3F800000 4) .arrived) x1)).map (fun s => (s.packets.map (fun q => q.result), (s.ctx c0).map (fun x =>
        x.kernels.map (fun k => k.entries.length)))) = some ([[0]], some [2]))
    ∧ ((after (.spawnAccept 100) (sent (pk (.spawn 0 0x10200 [1, 2, 3, 4] 0 5) .arrived) x0)).bind (fun s => s.thread ⟨0, 0, 0⟩)).map (fun t => (t.pc, t.i[8], t.i[11], t.role))
        = some (0x10200, 1, 4, .child)
    ∧ ((after (.spawnAccept 100) (sent (pk (.spawn 4 0x10200 [1, 2, 3, 4] 0 5) .arrived) x0)).map (fun s => s.packets.map (fun q => (q.phase, q.result))) = some [(.reply, [0x86])]) := by
  and_intros <;> decide +kernel

/-- The statistics of a barrier are written with the counters of the context, which restart; then it flips (R371). -/
theorem test_statistics :
    ((after (.statisticsGather c0 0) { put { th [] with lateq := 3 } { x0 with rtbase := 4096, barb := 0x200000, barriers := [(0, { Barrier.reset with e := 2, count := 2, stat := true })] } with
        mem := cellsAt 4096 (table 0x200000 0x1000) }).map (fun s =>
        ((s.ctx c0).map (fun x => x.barriers.map (fun b => (b.2.count, b.2.gathered, b.2.flips))), (leNat (memReads s.mem 4096 8)))) = some (some [(0, true, 0)], 0))
    ∧ ((after (.statisticsFlip c0 0) { put (th []) { x0 with rtbase := 4096, barb := 0x200000, barriers := [(0, { Barrier.reset with e := 2, gathered := true, record := some (leBytes 8 77) })] } with
        mem := cellsAt 4096 (table 0x200000 0x1000) }).map (fun s => (leNat (memReads s.mem 4096 8))) = some 77)
    ∧ ((after (.statisticsFlip c0 0) (put (th []) { x0 with barriers := [(0, { Barrier.reset with e := 2, gathered := true })] })).map (fun s =>
        ((s.ctx c0).map (fun x => x.barriers.map (fun b => (b.2.phase, b.2.gathered, b.2.flips))))) = some (some [(true, false, 1)])) := by and_intros <;> decide +kernel

/-- The state of test_hyp_handle with a request of the queue that its thread has left. -/
def asking (fn : Nat) (b : Word) : State :=
  { s2 with threads := [], packets := [pk (.queue fn (mkHandle s2 0 0 0 7 1) b ⟨0, 0⟩) .arrived] }

/-- The handle verifies there too, the record's place is free, and a dequeued one has room in the data page (R283 to R285). -/
theorem test_hyp_queue_operation : handleCheck (asking 1 9) 0 (mkHandle s2 0 0 0 7 1) = none
    ∧ queueOf (asking 1 9) 0 (mkHandle s2 0 0 0 7 1) = some queue0
    ∧ handleCheck (asking 2 0x21000) 0 (mkHandle s2 0 0 0 7 1) = none
    ∧ findPacket (asking 1 9) 100 = some (pk (.queue 1 (mkHandle s2 0 0 0 7 1) 9 ⟨0, 0⟩) .arrived)
    ∧ queue0.count < queue0.cap ∧ queue0.count ≠ 0
    ∧ spansCover x0.spans (scratchCore (saOff (queue0.ring queue0.tail))) (saOff (queue0.ring queue0.tail) % 2 ^ 17) 16 = true
    ∧ blocked (asking 1 9) none (linesOf (queue0.ring queue0.tail) 16) = false ∧ (asking 2 0x21000).findThread 7 = none :=
  ⟨test_hyp_handle.1, test_hyp_handle.2.2.2.2.1, test_hyp_handle.1, rfl, by decide, by decide, by decide, rfl, rfl⟩

/-- A queue that is not live, with 5 as head and 7 as tail of 16, is read in from its header (R285). -/
theorem test_queue_swap :
    ((after (.queueSwapIn c0 0) { put (th []) { x0 with queues := [(0, { queue0 with live := false })] } with
        mem := memWrites [] (mkSa 0 3 0) (leBytes 4 5 ++ leBytes 4 7 ++ leBytes 4 16) }).bind (fun s => (s.ctx c0).map (fun x => x.queues.map (fun q => (q.2.head, q.2.tail, q.2.live))))
      = some [(5, 7, true)]) := by decide +kernel

/-- A pipeline of two stages: the queue of the first holds one record, and group 3 serves the second, with group 2. -/
def pipe : Pipe := ⟨1, [0xE000800000, 0x1000E000800000], [1, 9], [0, 0], [2, 3], [(2, 1), (3, 1)], [(2, 1), (3, 1)], [], none⟩
def governed (g : Pipe) (tail : Nat) : State := { put (th []) { x0 with queues := [(0, { queue0 with tail := tail })] } with devs := [(0, { Device.reset with pipes := [(1, g)] })] }

/-- A group is lent to the stage at its high mark, and goes home from one at its low mark (R306). -/
theorem test_governor : highActs (governed pipe 1) 0 pipe 0 = true ∧ donorOf (governed pipe 1) 0 pipe 0 = some 1 ∧ (pipe.serving 1).getLast? = some 3
    ∧ ((after (.governorLend 0 0 1 0) (governed pipe 1)).map (fun s => (mget (s.dev 0).pipes 1).map (fun g => (g.serves, g.lent, g.lastAct))) = some (some ([(2, 1), (3, 0)], [(3, 0)], some 0)))
    ∧ ((after (.governorReturn 0 0 1 0) (governed { pipe with serves := [(2, 1), (3, 0)], lent := [(3, 0)] } 0)).map (fun s =>
        (mget (s.dev 0).pipes 1).map (fun g => (g.serves, g.lent))) = some (some ([(2, 1), (3, 1)], []))) := by and_intros <;> decide +kernel

/-! ## Stops -/

/-- What a step makes of the context: its state and its cause. -/
def state_ (i : Instr) (s : State) : Option (Option (CtxState × Option Nat)) := (after i s).map (fun z => (z.ctx c0).map (fun x => (x.state, x.cause)))

/-- A context without a core, scratch and pages. -/
def bare : Ctx := { x0 with spans := [], hbm := [], cores := [], barb := 0 }

/-- Host commands, expiry, the orphan's timeout, and errors stop a context (R135, R140, R154, R157, R158). -/
theorem test_stops : ((after (.hostPark c0) (put (th []) bare)).map (fun s => ((s.ctx c0).map (fun x => (x.state, x.cause)), s.threads.length))
      = some (some (.parked, some 7), 0))
    ∧ state_ (.hostSurrender c0) (put (th []) bare) = some none
    ∧ state_ (.contextExpiry c0) { put (th []) { bare with notAfter := 5 } with devs := [(0, { Device.reset with timeT := 6, timeA := some 0 })] } = some none
    ∧ state_ (.contextExpiry c0) { put (th []) { bare with notAfter := 5 } with devs := [(0, { Device.reset with timeT := 5, timeA := some 0 })] } = some (some (.live, none))
    ∧ state_ (.orphanTimeout c0) { put (th []) { bare with state := .orphaned } with devs := [(0, { Device.reset with ohold := 0 })], now := 19 } = some none
    ∧ state_ (.eccError (.line 64)) (put (th []) x0) = some (some (.stopping, some 3))
    ∧ ((after (.eccError (.corrected 0)) State.reset).map (fun s => (s.dev 0).corrected) = some 1)
    ∧ ((after (.eccError (.slot p0)) (put { reader with uid := 7 } x0)).bind (fun s => s.thread p0)).map (fun t => (t.pc, t.region.reads)) = some (0x10020, []) := by
  and_intros <;> decide +kernel

/-- The stop of a context that parks: its thread is an image, it holds no slot; its resumption; a surrender (R140 to R144, R150, R154). -/
theorem test_stop_ends :
    ((after (.stopComplete c0) (put (th []) { bare with state := .stopping, cause := some 7 })).map (fun s => (s.ctx c0).map (fun x => (x.state, x.slots)))
      = some (some (.parked, [])))
    ∧ ((after (.stopComplete c0) (put (th []) { bare with state := .stopping, cause := some 5 })).map (fun s => ((s.ctx c0).isNone, s.threads.length)) = some (true, 0))
    ∧ state_ (.hostResume c0) { put (th []) { bare with state := .parked, slots := [] } with threads := [] } = some (some (.live, none))
    ∧ ((after (.slotReturn c0) { put (th []) { bare with images := [⟨{ th [(3, 6)] with pc := 0x10020 }, 0, 0, .none, 0, false, [], none, [], [], [], [], [], []⟩] } with threads := [] }).bind
        (fun s => s.thread p0)).map (fun t => (t.pc, t.i[3], t.wait)) = some (0x10020, 6, .none) := by and_intros <;> decide +kernel

/-- A context that may go to device 1, which is up and READY (R149). -/
def roaming (x : Ctx) : State := { put (th []) x with
  devs := [(0, { Device.reset with peersUp := [1] }), (1, { Device.reset with stage := 3, ready := true, peersUp := [0] })] }
def x5 : Ctx := { bare with flags := 32, state := .parked, liveTo := some 1, slots := [], images := [] }

/-- A whole-context image of kind 2 without records (R147), at 8192. -/
def sealed : List Byte :=
  leBytes 2 0x5A58 ++ leBytes 2 0x8001 ++ leBytes 4 (2 ^ 28 + 1) ++ List.replicate 24 0 ++ sha256 (record 0xFFFF [] ++ List.replicate 184 0)
    ++ record 0xFFFF [] ++ List.replicate 184 0

theorem test_live_migration : migratable (roaming x5) c0 x5 1 = true
    ∧ ((after (.hostLiveMigrate c0 1) (roaming { x5 with liveTo := none })).map (fun s => (s.ctx c0).map (fun x => (x.state, x.liveTo))) = some (some (.parked, some 1)))
    ∧ state_ (.hostLiveMigrate c0 1) (roaming { bare with flags := 32 }) = some (some (.parked, some 8))
    ∧ ((after (.liveMigrationImage c0 1) { roaming { x5 with whole := some [8192] } with threads := [], mem := memWrites [] 8192 sealed }).map (fun s => ((s.ctx c0).map (fun x => (x.state, x.liveAs.isSome)), s.ctxs.length,
        s.ctxs.map (fun e => (e.1.peer, e.2.state == .live))))
        = some (some (.parked, true), 2, [(0, false), (1, true)]))
    ∧ ((after (.liveMigrationRelease c0) { roaming { x5 with liveAs := some 3 } with threads := [] }).map (fun s => s.ctxs.length) = some 0) := by and_intros <;> decide +kernel

/-- What the statement of queue steps asks of the order: the request is the first of its queue. -/
theorem test_hyp_queue_turn : queueTurn (asking 1 9) (pk (.queue 1 (mkHandle s2 0 0 0 7 1) 9 ⟨0, 0⟩) .arrived) = true := by
  simp [queueTurn, asking]

/-- What the statements of moves, kernels and stops ask: a region that commits and frames that are written, packets that have all come,
a member here, the highest thread of a core and a place for it, stores that are performed, an event that can be counted, an image that
has room, a tree that is gone. -/
theorem test_hyp_moves_and_stops : framesWritable (put writer x0) p0 writer = true
    ∧ (match tryCommit (put writer x0) p0 writer false 0 writer.pc with
      | some s => (match flushFrames s p0 with
        | .ok _ => true
        | _ => false)
      | none => false) = true
    ∧ carried (moving (going none false)) 50 = true ∧ member (moving (going none false)) ⟨0, 1⟩ 0 = some c0
    ∧ (∀ s, s = put (th []) { x0 with slots := [(0, 0), (4, 0)] } →
        (generalThreads s ⟨0, 0⟩).map (·.1) = [p0] ∧ (displace s p0 (th [])).isSome = true)
    ∧ storesOpen (owning placed_) 7 0 = false
    ∧ (match heapStep (sent (pk (.heap 0 0x40000000006 0x3F800000 4) .arrived) x1) c0 4 0 0 [] 0x40000000006 0x3F800000 with
      | .ok r => r.2 == 0
      | _ => false) = true
    ∧ (∀ e ∈ ([(2, 0x40000000005, 0, withBit63 0x3F800000), (6, 0x40000000000, 0, withBit63 5)] : List (Nat × Word × Word × Word)),
        (after (.heapUpdate (pk .jdec .arrived).id) (sent (pk (.heap e.1 e.2.1 e.2.2.1 4) .arrived) x1)).map (fun s => s.packets.map (fun k => k.result))
          = some [[e.2.2.2]])
    ∧ (∀ s, s = put (th []) { bare with state := .stopping, cause := some 7 } →
        ((unloadAll s c0).bind (fun z => (z.ctx c0).bind (fun y => writeWhole z c0 y 7))).isSome = true)
    ∧ (restTree (put (th []) { bare with state := .stopping, cause := some 5 }) c0 9).2 = true
    ∧ (∀ x, x = { x5 with liveAs := some 3 } → (restTree ((roaming x).setCtx c0 (x.stopFor 5 0)) c0 9).2 = true)
    ∧ pagesLoad (put (th []) bare) [] = true := by
  refine ⟨by decide +kernel, by decide +kernel, by decide +kernel, by decide +kernel, ?_, by decide +kernel, by decide +kernel,
    by decide +kernel, ?_, by decide +kernel, ?_, by decide +kernel⟩
  all_goals rintro _ rfl; decide +kernel

/-- Two FRACTIONAL contexts on core 0, of which the second has a thread and no slot: it takes the idle slot of the first (R135). -/
def short : Ctx := { x3 with
  slots := [], block := { halves with slots := 1 }, granted := { halves with slots := 1 }
  images := [⟨{ th [] with uid := 8, ctx := 2 }, 0, 0, .none, 0, false, [], none, [], [], [], [], [], []⟩] }
def full : Ctx := { x3 with cls := 2, slots := (List.range 14).map (fun n => (0, n)), block := { halves with slots := 14 } }
theorem test_reclaim :
    ((after (.slotReclaim c0) { put (th []) full with ctxs := [(c0, full), (⟨0, 2⟩, short)] }).map (fun s =>
        (s.ctxs.map (fun e => (e.2.slots.length, e.2.slots.contains (0, 13))))) = some [(13, false), (1, true)]) := by decide +kernel

/-! ## Presentation, doorway, devices -/

/-- Doorway 0 with rings of 16, and an entry in its presentation and its launch ring. -/
def ringed : Door := { Door.reset 0 with prsize := 16, prtail := 1, lrsize := 16, lrtail := 1, erbase := 0x1000, ersize := 16 }

/-- SHA-256 of "abc" (FIPS 180-4) and HMAC-SHA-256, case 1 of RFC 4231 (R116, R165). -/
theorem test_sha : sha256 [0x61, 0x62, 0x63] = (leBytes 32 0xba7816bf8f01cfea414140de5dae2223b00361a396177a9cb410ff61f20015ad).reverse
    ∧ hmac256 (List.replicate 20 0x0B) [0x48, 0x69, 0x20, 0x54, 0x68, 0x65, 0x72, 0x65]
      = (leBytes 32 0xb0344c61d8db38535ca8afceaf0bf12b881dc200c9833da726e9376c2e32cff7).reverse := by and_intros <;> decide +kernel

/-- A warrant for key slot 2, domain 9, serial 77, one slot and one page, signed with RSA-3072 and PSS by a key made for this test with a
tool outside this package, and its image. -/
def modulus : Nat := 0xbcc19303f77bbaccc5f6b198f3e6cdc4b28f0758c8408b66c8e88b7b330a8b0e5152826de6990811cd9bc52dc1c15c85e6c5e6a5007964d3dc18ccf416f220acde819224a3af6975316427f1e7206b12cf19d750f4e785377a96ffdde8544de5ba032e2ef9ffa46d5378dd5e06194dd4b4a9c44a6ef57e3d16cd0566b7d03ce26a5bb3151b4e7d08cbadf6606cc1fe88ac6d93907e2486a30195b8fed62c9ac71bb2777de7bd54be5f8dd756996243426aff61b098374a07bafc1ab0c7053e95d67ed8e1df5d8bac02440abd5f159ef3e1fcfc934597bbadcfebb8c21f051b836056b66af170f744561d5691c3a0fa55c14bfe9587206c23d288c5e8c17230779fec99e1edfd22736428da1bbd64b7342cf651a7fd7252c645fb5b8df8882ef65406f87582b392a55598fcbe206c1475ee5bbe85fd6765e4de0f26f627070650c80390be6a86afea2e0b3103ad99844d669e5c33637541b8f9da608ea75ca1e5d5180509e2316300ebae905af985c19b945a547d96ec401171f7da1b5341f873
def warrantBytes : List Byte := leBytes 256 0xc5e20ea5b35a8a9987aeb75df39b3de3ed8c922c0e4fc1435d2bcba93393795b0000000000000000000000000000000000000000000000000000000000000000000000000000000000000000000000000000000100000002000000000000000000000000000000640000000000000000000000000000000000000000000000000000000000000000000000000000100000000000000010000000000000000001000000000000000000000000000000010000000000000009000000000000000000000000000000000000000000000002000000000000004d000501005a574131 ++ leBytes 384 0x814792db3782f9abeb4c3d64df9f16851a820e525b6d9115d33c7338fbc4ed083ba3ac4246840241ae06ef6560eb8209b36597da3d34319acbc78f4688e8de9468b5a8a197742aac120ff416aebe11ef9940ee98d07a5601335097da976f9c1270fd398c1d33d3990b4988384e5a3997cea314bbc36ba6bba3e2b506724625162ef2854744d4303649419a06cd8a7e76af149bb8c66e6f711c6c29791dee168867b7010e0307f9838dfb41b4abf7ea519dd03b645fe215a0cfa1302ffe55d8e2c33825c874afaa096e277fa002a3da78e78e814371f01889e8d96e21104532334ef1c510a1f1c994c245c206b1d6c09f975cd5c69c7ef246e30a550f6a4eb9af76a6bba31651a1096e84c0a23b131222b9ddb3a041654f13f502854c6d7da10c63a5f63ae4121d973782b503fca5f916990783b9ac78d84edaab0e242007297a6ba9124e6a1637b4936620a5094e602fe32b10947cb03786b72692ea125df24ba16556bd4a91400f099a49e75765a51420eb251741130ad153659f267bc89a5e
def imageBytes : List Byte := leBytes 80 0x820000003e0000000000000000000000000000000000000000000000000000000000000000000000000000000000000000000000000000080000000000010000000001005a494d31
def ready : State := { State.reset with devs := [(0, { Device.reset with stage := 3, ready := true, keys := [(2, ⟨modulus, 9⟩)], doors := [(0, ringed)] })] }

/-- What the doorway's event ring holds in its first entry: kind, status and tag; and the contexts that there are. -/
def rung (i : Instr) (s : State) : Option (Nat × Nat × Nat × List (CtxId × Nat)) :=
  (after i s).map (fun z => let e := memReads z.mem (hostAt 0 0 0x1000) 32
    (leAt e 0 2, leAt e 4 2, leAt e 16 8, z.ctxs.map (fun c => (c.1, c.2.serial))))

/-- Host memory with a ring entry at IOVA 0, a record or header at 0x2000, an image at 0x4000. -/
def hosted (entry record image : List Byte) : List Host.Cell :=
  cellsAt (hostAt 0 0 0) entry ++ cellsAt (hostAt 0 0 0x2000) record ++ cellsAt (hostAt 0 0 0x4000) image

/-- A device that is ready, with an entry of the presentation ring that names a record and an image. -/
def offered (record image : List Byte) (tag : Nat) : State := { ready with
  mem := hosted (leBytes 8 0x2000 ++ leBytes 8 (if image.isEmpty then 0 else 0x4000) ++ leBytes 8 image.length ++ leBytes 8 tag) record image }

/-- What the entry leads to is the warrant and its image, and the warrant builds a context of its serial (R119, R120, R153). -/
theorem test_warrant : presEntryOk (presEntry (offered warrantBytes imageBytes 5) 0 0) = true
    ∧ hostRecord (offered warrantBytes imageBytes 5) 0 0 0x2000 = warrantBytes ∧ hostBytes (offered warrantBytes imageBytes 5) 0 0 0x4000 80 = imageBytes
    ∧ (match admitWarrant ready 0 warrantBytes imageBytes 0 0 with
      | .built id s => (id, s.ctxs.map (fun c => (c.1, c.2.serial)))
      | _ => (9, [])) = (0, [(⟨0, 0⟩, 77)]) := by and_intros <;> decide +kernel

/-- Entries that name no record, or a record of a bad layout, are each answered by their event (R119, R153). -/
theorem test_ring_entries : (∀ e ∈ ([(.warrant 0 0 0x2000 0 6, 0x5A574132), (.delegationSlip 0 0 0x2000 6, 2 ^ 512 - 1), (.timeCertificate 0 0 0x2000 6, 0x5A544331),
      (.capacityDeclaration 0 0 0x2000 6, 0x5A574344), (.enrolment 0 0 0x2000 6, 0x5A454E31), (.revocation 0 0 0x2000 6, 0x5A455631)] : List (Instr × Nat)),
      rung e.1 (offered (leBytes 64 e.2) [] 6) = some (0x100, 0x30, 6, []))
    ∧ presTakes ready 0 0 = true ∧ launchTakes ready 0 0 = true := by and_intros <;> decide +kernel

/-- A launch through the doorway: of no context, of one that has stopped, and one that is made (R152, R153). -/
def launched (s : State) : State := { s with
  mem := cellsAt 4096 (table 0x21000 0)
    ++ hosted (leBytes 8 1 ++ leBytes 8 0x2000 ++ leBytes 8 0 ++ leBytes 8 6) block [] }
def doored (x : Ctx) : State := { put (th []) { x with doorFn := 0, rtbase := 4096 } with
  devs := [(0, { Device.reset with stage := 3, ready := true, doors := [(0, ringed)] })] }
theorem test_doorway_launch : (rung (.doorwayLaunch 0 0 1 0x2000 6) (launched ready)).map (fun r => (r.1, r.2.1)) = some (0x101, 0x34)
    ∧ (rung (.doorwayLaunch 0 0 1 0x2000 6) (launched (doored { x0 with state := .faulted }))).map (fun r => r.1) = some 0x101
    ∧ launchEntryOk (launchEntry (launched (doored x0)) 0 0) = true
    ∧ ((after (.doorwayLaunch 0 0 1 0x2000 6) (launched (doored x0))).bind (fun s => (s.ctx c0).map (fun x => x.kernels.map (fun k => (k.num, k.entry))))) = some [(1, 0x10100)] := by
  and_intros <;> decide +kernel

/-- Devices 0 and 1, each up for the other; device 1 keeps the key of slot 2. -/
def linked (w : Window) (k : MsgKind) : State := { State.reset with
  msgs := [⟨60, 0, 1, 2, 0, 9, k, 8⟩]
  packets := [pk (.redeem 60) .arrived]
  devs := [(0, { Device.reset with peersUp := [1] }), (1, { Device.reset with peersUp := [0], keys := [(2, ⟨15, 9⟩)], windows := [(2, w)] })] }
def home (i : Instr) (s : State) : Option (List MsgKind × List Nat × List (Nat × Bool)) :=
  (after i s).map (fun z => (z.msgs.map (fun m => m.kind), ((z.dev 1).window 2).redeemed, ((z.dev 1).window 2).reserved.map (fun r => (r.1, r.2.2.2))))

/-- The home reserves a serial once, commits it, gives a cancelled one back, and commits what a lost device has reserved (R128, R129). -/
theorem test_redemption : (findMsg (linked Window.reset (.request 5 false 1 15)) 60).map (·.id) = some 60
    ∧ { Window.reset with reserved := [(5, 0, 9, false)] }.held 0 9 = some (5, 0, 9, false)
    ∧ home (.redeemRequest 60) (linked Window.reset (.request 5 false 1 15)) = some ([.grant], [], [(5, false)])
    ∧ home (.redeemRequest 60) (linked { Window.reset with redeemed := [5] } (.request 5 false 1 15)) = some ([.deny 0x35], [5], [])
    ∧ home (.redemptionCommit 60) (linked { Window.reset with reserved := [(5, 0, 9, false)] } (.commit 5)) = some ([], [5], [])
    ∧ home (.redemptionCancel 60) (linked { Window.reset with reserved := [(5, 0, 9, false)] } (.cancel 5)) = some ([], [], [])
    ∧ home (.reservationHoldExpiry 1 2 5 0) { State.reset with
        now := 19000000000, devs := [(1, { Device.reset with lostAt := [(0, 0)], windows := [(2, { Window.reset with reserved := [(5, 0, 9, false)] })] })] } = some ([], [5], []) := by
  and_intros <;> decide +kernel

/-- A grant for a presentation that is gone is cancelled; a denied one, and one that has waited a millisecond, are answered (R128). -/
def asked_ (k : MsgKind) (ps : List Pres) : State := { State.reset with
  msgs := [⟨60, 1, 0, 2, 0, 9, k, 8⟩], now := 1901900, packets := [pk (.redeem 60) .arrived]
  devs := [(0, { Device.reset with peersUp := [1], press := ps, doors := [(0, ringed)], stage := 3, ready := true }), (1, { Device.reset with peersUp := [0] })] }
theorem test_redeem_reply : ((after (.redeemReply 60) (asked_ .grant [])).map (fun s => s.msgs.map (fun m => m.kind)) = some [.cancel 0])
    ∧ ((rung (.redeemReply 60) (asked_ (.deny 0x35) [⟨9, some 0, 6, none, 0, [], [], 1901000, 8⟩])).map (fun r => (r.1, r.2.1, r.2.2.1)) = some (0x100, 0x35, 6))
    ∧ ((rung (.redeemTimeout 0 9) (asked_ .grant [⟨9, some 0, 6, none, 0, [], [], 0, 8⟩])).map (fun r => (r.1, r.2.1, r.2.2.1)) = some (0x100, 0x36, 6)) := by and_intros <;> decide +kernel

/-- A write to a doorway register, and the doorway after it. -/
def door_ (i : Instr) (d : Door) (f : Door → Nat) : Option Nat :=
  (after i { State.reset with devs := [(0, { Device.reset with doors := [(0, d)] })] }).map (fun s => f (s.door 0 0))

/-- Ring registers while their ring is empty and while it is not; PRTAIL, LRTAIL, ATOKEN, ERHEAD; NONCEREQ (R152, R154). -/
theorem test_doors : door_ (.ringRegisterWrite 0 0 0x000 0x1000) (Door.reset 0) (fun d => d.prbase.toNat) = some 0x1000
    ∧ door_ (.ringRegisterWrite 0 0 0x008 64) (Door.reset 0) (fun d => d.prsize.toNat) = some 64
    ∧ door_ (.ringRegisterWrite 0 0 0x008 48) (Door.reset 0) (fun d => if d.ringErr then 1 else 0) = some 1
    ∧ door_ (.ringRegisterWrite 0 0 0x000 0x1000) ringed (fun d => d.prbase.toNat + if d.ringErr then 1 else 0) = some 1
    ∧ door_ (.ringRegisterWrite 0 0 0x020 0x1000) (Door.reset 0) (fun d => d.lrbase.toNat) = some 0x1000
    ∧ door_ (.ringRegisterWrite 0 0 0x040 0x1000) (Door.reset 0) (fun d => d.erbase.toNat) = some 0x1000
    ∧ door_ (.registerWrite 0 0 0x010 7) (Door.reset 0) (fun d => d.prtail.toNat) = some 7
    ∧ door_ (.registerWrite 0 0 0x030 8) (Door.reset 0) (fun d => d.lrtail.toNat) = some 8
    ∧ door_ (.registerWrite 0 0 0x060 9) (Door.reset 0) (fun d => d.atoken.toNat) = some 9
    ∧ door_ (.erheadWrite 0 0 3) (Door.reset 0) (fun d => d.erhead.toNat) = some 3
    ∧ ((after (.noncereq 0 1) State.reset).map (fun s => ((s.dev 0).nonce, (s.dev 0).nonceCount)) = some (some (0, 0), 1)) := by
  and_intros <;> decide +kernel

/-- Functions go down and come up; the orphan that comes back (R154 to R157). -/
def down (x : Ctx) : State := { put (th []) x with
  devs := [(0, { Device.reset with doors := [(3, { Door.reset 3 with atoken := 5 })] })] }
theorem test_functions : ((after (.functionLevelReset 0 3) { State.reset with devs := [(0, { Device.reset with doors := [(3, { Door.reset 3 with enabled := true })] })] }).map
      (fun s => (s.door 0 3).enabled) = some false)
    ∧ ((after (.vfEnableClear 0) { State.reset with devs := [(0, { Device.reset with doors := [(3, { Door.reset 3 with enabled := true })] })] }).map
      (fun s => ((s.door 0 3).enabled, (s.door 0 0).enabled)) = some (false, true))
    ∧ ((after (.vfEnable 0 3) State.reset).map (fun s => (s.door 0 3).enabled) = some true)
    ∧ ((after (.vfEnable 0 3) (down { x0 with state := .orphaned, token := 5, doorFn := 1 })).map (fun s => (s.ctx c0).map (fun x => (x.state, x.doorFn))) = some (some (.live, 3))) := by
  and_intros <;> decide +kernel

/-- Reset, the self-test, peers, and the time of a peer (R123, R125, R128, R159). -/
def aged : State := { put (th []) x0 with devs := [(0, { Device.reset with stage := 3, ready := true, keys := [(2, ⟨15, 9⟩)], peersUp := [1], timeA := some 5 })] }
def agreed : State := { State.reset with
  now := 2 ^ 33
  devs := [(0, { Device.reset with adopt := true, keys := [(0, ⟨15, 9⟩)], peersUp := [1] }), (1, { Device.reset with keys := [(0, ⟨15, 9⟩)], timeT := 1000, timeA := some 50, timeAt := 2 ^ 33 })] }
theorem test_devices : ((after (.deviceReset 0) aged).map (fun s => ((s.dev 0).stage, (s.dev 0).ready, (s.dev 0).timeA.isSome, (s.dev 0).keys.length, s.ctxs.length)) = some (1, false, false, 1, 0))
    ∧ ((after (.selfTestComplete 0 []) State.reset).map (fun s => ((s.dev 0).stage, (s.dev 0).ready)) = some (2, false))
    ∧ ((after (.selfTestComplete 0 []) { State.reset with devs := [(0, { Device.reset with keys := [(0, ⟨15, 9⟩)] })] }).map (fun s => ((s.dev 0).stage, (s.dev 0).ready)) = some (3, true))
    ∧ ((after (.selfTestComplete 0 [7]) State.reset).map (fun s => ((s.dev 0).stage, (s.dev 0).failed)) = some (1, [7]))
    ∧ ((after (.peerUp 0 1) { State.reset with devs := [(0, { Device.reset with ready := true })] }).map (fun s => (s.dev 0).peersUp) = some [1])
    ∧ ((after (.linkLoss 0 1) aged).map (fun s => ((s.dev 0).peersUp, (s.dev 0).lostAt)) = some ([], [(1, 0)]))
    ∧ mayAsk agreed 0 1 = true ∧ betterTime agreed 0 1 20 = true
    ∧ (∀ i ∈ ([.timeAdoption 0 1 20, .timeExchange 0 1 20] : List Instr), (after i agreed).map (fun s => (s.dtime 0, (s.dev 0).timeA)) = some (1010, some 70)) := by
  and_intros <;> decide +kernel

/-- Members, temperatures and frequencies (R16, R53, R201, R207, R366, R367). -/
theorem test_islands :
    ((after (.memberExtentUpdate c0 1) { put (th []) x0 with ctxs := [(c0, x0), (⟨1, 4⟩, x0)] }).map (fun s => (s.ctx c0).map (fun x => x.extents.map (fun e => (e.1, e.2.1))))
      = some (some [(1, 16384)]))
    ∧ ((after (.thermalSample 0 [⟨5, 1680⟩]) State.reset).map (fun s => (((s.dev 0).island 5).temp, ((s.dev 0).island 5).slow, ((s.dev 0).island 5).hot, ((s.dev 0).island 6).slow))
      = some (1680, true, true, false))
    ∧ ((after (.frequencyStep 0 5) { State.reset with devs := [(0, { Device.reset with islands := [(5, { Island.reset with temp := 1473 })] })] }).map (fun s => ((s.dev 0).island 5).freq) = some 75)
    ∧ ((after (.frequencyStep 0 5) { State.reset with devs := [(0, { Device.reset with islands := [(5, { Island.reset with temp := 1472, freq := 50 })] })] }).map (fun s => ((s.dev 0).island 5).freq) = some 50)
    ∧ (∀ e ∈ ([(18999, 76), (19000, 75)] : List (Nat × Nat)), ((after (.frequencyStep 0 5) { State.reset with now := e.1, devs := [(0, { Device.reset with
        islands := [(5, { Island.reset with temp := 1473, stepAt := some 0 })] })] }).map (fun s => ((s.dev 0).island 5).freq) = some e.2))
    ∧ ((after (.modulePowerStep 0 3800001) State.reset).map (fun s => ((s.dev 0).island 5).freq) = some 75)
    ∧ ((after (.modulePowerStep 0 3800000) State.reset).map (fun s => ((s.dev 0).island 5).freq) = some 76)
    ∧ ((after (.droop 0 5 3) State.reset).map (fun s => ((s.dev 0).island 5).stretch) = some 8) := by and_intros <;> decide +kernel

/-! ## The whole machine -/

/-- ADDI i1, i0, 5 as the first instruction; a word that is none; the slot is ready for both (R41, R54). -/
theorem test_first_step : (match step (State.reset.withFetchWord 32 0x1002000A) with
      | .next _ => true
      | _ => false) = true
    ∧ (∀ w ∈ ([0x1002000A, 0] : List Nat), let s := State.reset.withFetchWord 32 w
        s.agenda = [] ∧ s.stalled = false ∧ (s.thread s.turn).map (fun t => (slotReady (atTurn s) s.turn t, nextWord (atTurn s) s.turn t)) = some (true, .inl w)) := by
  and_intros <;> decide +kernel

/-- The invariants in a state with memory and a thread that waits on a counter that is not 0, which steps. -/
def waiting : State := { put { th [] with wait := .join 0x21000 } x0 with mem := memWrites [] 4096 [1, 0, 2] }
theorem test_invariants : Memory.wf [(5, 1), (5, 2)] = false ∧ Memory.wf [(5, 0)] = false ∧ Inv waiting ∧ JoinsAwake waiting ∧ ∃ s', step waiting = .next s' := by
  refine ⟨by decide, by decide, (by decide +kernel : Memory.wf waiting.mem = true), ?_, ?_⟩
  · intro e he va hw
    simp only [waiting, put, List.mem_singleton] at he
    subst he
    cases hw
    decide +kernel
  · have h : (match step waiting with | .next _ => true | _ => false) = true := by decide +kernel
    revert h
    cases step waiting <;> simp

/-- A pending result at the end of its window, in a slot that has the shape the statement asks. -/
theorem test_result_window :
    ((retire (put { th [] with pend := [⟨9, [ri 3], 1, some [8], [], false, none⟩] } x0) p0 false).thread p0).map (fun t => (t.pend, t.i[3])) = some ([], 8)
    ∧ ((retire (put { th [] with pend := [⟨9, [ri 3], 2, some [8], [], false, none⟩] } x0) p0 false).thread p0).map (fun t => (t.pend.map (fun q => q.left), t.i[3])) = some ([1], 0)
    ∧ slotReady (put { th [] with pend := [⟨9, [ri 3], 0, none, [], false, none⟩] } x0) p0 { th [] with pend := [⟨9, [ri 3], 0, none, [], false, none⟩] } = false
    ∧ ((arriveValue (put { th [] with pend := [⟨9, [ri 3], 0, none, [], false, none⟩] } x0) p0 9 [6]).thread p0).map (fun t => (t.pend, t.i[3])) = some ([], 6) := by
  and_intros <;> decide +kernel

end Sys2Proof.Tests
end

/-! ## Reading M (R2, R210): the laws of the canonical list, and O22 -/

namespace Sys2Proof.Machine

/-! ### A read, by the shape of the list -/

@[simp] theorem memRead_nil (a : Nat) : memRead [] a = 0 := rfl

@[simp] theorem memRead_cons_self (a : Nat) (b : Byte) (m : List Host.Cell) : memRead ((a, b) :: m) a = b := by
  simp [memRead]

theorem memRead_cons_of_lt {a c : Nat} (h : c < a) (b : Byte) (m : List Host.Cell) : memRead ((a, b) :: m) c = 0 := by
  simp [memRead, h, Nat.ne_of_gt h]

theorem memRead_cons_of_gt {a c : Nat} (h : a < c) (b : Byte) (m : List Host.Cell) :
    memRead ((a, b) :: m) c = memRead m c := by
  simp [memRead, Nat.ne_of_lt h, Nat.lt_asymm h]

theorem memAbove_cons {lo a : Nat} {b : Byte} {m : List Host.Cell} :
    memAbove lo ((a, b) :: m) = true ↔ lo ≤ a ∧ b ≠ 0 ∧ memAbove (a + 1) m = true := by
  simp [memAbove, and_assoc]

/-! ### Bytes read after a run of writes -/

/-- The later bytes of the run go to higher addresses, so the first one stays; the rest is the run from the next address. -/
theorem memRead_writes_inside : ∀ (bs : List Byte) {m : List Host.Cell}, Memory.wf m = true → ∀ a j, j < bs.length →
    memRead (memWrites m a bs) (a + j) = bs[j]?.getD 0
  | b :: bs, m, h, a, 0, _ => by
    have rest : memRead (memWrites (memWrite m a b) (a + 1) bs) a = memRead (memWrite m a b) a :=
      memRead_writes_outside bs (memWrite_wf h a b) (a + 1) a (.inl (Nat.lt_succ_self a))
    simp [memWrites, rest, memRead_write h]
  | b :: bs, m, h, a, j + 1, hj => by
    have ih := memRead_writes_inside bs (memWrite_wf h a b) (a + 1) j (Nat.lt_of_succ_lt_succ hj)
    simpa [memWrites, Nat.add_assoc, Nat.add_comm 1 j] using ih

/-! ### The canonical list is determined by what it reads -/

/-- The first address of one list cannot lie below the first of the other: there one reads its byte, which is not 0, the other 0. -/
theorem head_le_of_reads {a a' : Nat} {b b' : Byte} {m m' : List Host.Cell} (hb : b ≠ 0)
    (h : memRead ((a, b) :: m) a = memRead ((a', b') :: m') a) : a' ≤ a := by
  by_contra hlt
  rw [memRead_cons_self, memRead_cons_of_lt (Nat.lt_of_not_le hlt)] at h
  exact hb h

/-- Two lists behind one and the same first entry read alike when the whole lists do. -/
theorem tail_reads_eq {a : Nat} {b : Byte} {m m' : List Host.Cell} (hm : memAbove (a + 1) m = true)
    (hm' : memAbove (a + 1) m' = true) (h : ∀ c, memRead ((a, b) :: m) c = memRead ((a, b) :: m') c) (c : Nat) :
    memRead m c = memRead m' c := by
  rcases Nat.lt_or_ge a c with hc | hc
  · simpa only [memRead_cons_of_gt hc] using h c
  · rw [memRead_below m hm (Nat.lt_succ_of_le hc), memRead_below m' hm' (Nat.lt_succ_of_le hc)]

theorem memAbove_ext : ∀ {m m' : List Host.Cell} {lo lo' : Nat}, memAbove lo m = true → memAbove lo' m' = true →
    (∀ c, memRead m c = memRead m' c) → m = m'
  | [], [], _, _, _, _, _ => rfl
  | [], (a', b') :: m', _, _, _, h', heq => by
    obtain ⟨_, hb', _⟩ := memAbove_cons.mp h'
    exact absurd (by simpa using (heq a').symm) hb'
  | (a, b) :: m, [], _, _, h, _, heq => by
    obtain ⟨_, hb, _⟩ := memAbove_cons.mp h
    exact absurd (by simpa using heq a) hb
  | (a, b) :: m, (a', b') :: m', _, _, h, h', heq => by
    obtain ⟨_, hb, hm⟩ := memAbove_cons.mp h
    obtain ⟨_, hb', hm'⟩ := memAbove_cons.mp h'
    obtain rfl : a = a' := Nat.le_antisymm (head_le_of_reads hb' (heq a').symm) (head_le_of_reads hb (heq a))
    obtain rfl : b = b' := by simpa using heq a
    rw [memAbove_ext hm hm' (tail_reads_eq hm hm' heq)]

/-- Settles O22, from the laws of one write and the canonical form's extensionality. -/
theorem memoryWrites : Obligations.MemoryWrites := by
  unfold Obligations.MemoryWrites
  intro m a bs h
  exact ⟨memWrites_wf bs h a, memRead_writes_inside bs h a, memRead_writes_outside bs h a, fun _ h' => memAbove_ext h h'⟩

end Sys2Proof.Machine

/-! ## Device steps: reset, peers, time, islands (R16, R53, R123 to R128, R159, R201, R207, R366, R367), and O50 -/

namespace Sys2Proof.Machine

/-! ### Keyed maps and lists -/

/-- A map whose values are changed key by key. -/
theorem mget_map {κ α β : Type} [DecidableEq κ] (f : κ → α → β) (m : Map κ α) (k : κ) :
    mget (m.map (fun e => (e.1, f e.1 e.2))) k = (mget m k).map (f k) := by
  induction m with
  | nil => rfl
  | cons e m ih =>
    obtain ⟨j, v⟩ := e
    by_cases h : j = k
    · subst h; simp [mget]
    · simpa [mget, h] using ih

/-- A map that lists some keys, each with its own value. -/
theorem mget_graph {κ α : Type} [DecidableEq κ] (f : κ → α) {l : List κ} {k : κ} (h : k ∈ l) :
    mget (l.map (fun j => (j, f j))) k = some (f k) := by
  induction l with
  | nil => cases h
  | cons j l ih =>
    by_cases hj : j = k
    · subst hj; simp [mget]
    · simpa [mget, hj] using ih ((List.mem_cons.mp h).resolve_left (Ne.symm hj))

theorem nodup_eraseDups {α : Type} [BEq α] [LawfulBEq α] : ∀ l : List α, l.eraseDups.Nodup
  | [] => by simp
  | a :: l => by
    have : (l.filter (fun b => !b == a)).length < l.length + 1 := Nat.lt_succ_of_le (List.length_filter_le _ l)
    rw [List.eraseDups_cons, List.nodup_cons, List.mem_eraseDups]
    exact ⟨by simp, nodup_eraseDups _⟩
termination_by l => l.length

/-! ### Devices -/

@[simp] theorem State.dev_setDev_other (s : State) {n m : Nat} (d : Device) (h : m ≠ n) : (s.setDev n d).dev m = s.dev m := by
  simp [State.dev, mgetD, h]

/-- A device that has lost a peer does not see it up. -/
theorem Device.lose_peersUp (d : Device) (other now : Nat) : (d.lose other now).peersUp.contains other = false := by
  unfold Device.lose
  split
  · simp
  · exact Bool.eq_false_of_not_eq_true ‹_›

/-- Every other device sees the peer of a reset leave peer up (R128). -/
theorem wipe_peersUp (s : State) {peer other : Nat} (h : other ≠ peer) :
    ((wipe s peer).dev other).peersUp.contains peer = false := by
  have hm : mget (wipe s peer).devs other = (mget s.devs other).map (fun d => d.lose peer s.now) := by
    simpa [wipe, h] using mget_map (fun n d => if n = peer then d else d.lose peer s.now) s.devs other
  unfold State.dev mgetD
  rw [hm]
  cases mget s.devs other with
  | none => rfl
  | some d => exact d.lose_peersUp peer s.now

theorem deviceReset_does (s : State) (peer other : Nat) :
    ∃ s', Does (.deviceReset peer) s s' ∧ (s'.dev peer).stage = 1 ∧ (s'.dev peer).ready = false ∧ (s'.dev peer).timeA = none
      ∧ (s'.dev peer).keys = (s.dev peer).keys ∧ (s'.dev peer).windows = (s.dev peer).windows ∧ (s'.dev peer).peersUp = []
      ∧ (∀ e ∈ s'.ctxs, e.1.peer ≠ peer) ∧ (∀ e ∈ s'.threads, e.1.peer ≠ peer)
      ∧ (other ≠ peer → (s'.dev other).peersUp.contains peer = false) ∧ s'.mem = s.mem := by
  refine ⟨(wipe s peer).setDev peer ((s.dev peer).afterReset s.now), rfl, ?_⟩
  simp only [State.dev_setDev]
  refine ⟨rfl, rfl, rfl, rfl, rfl, rfl, ?_, ?_, fun h => ?_, rfl⟩
  · simp [wipe]
  · simp [wipe]
  · rw [State.dev_setDev_other _ _ h, wipe_peersUp s h]

/-! ### The self-test (R159) -/

/-- A self-test that finds no failed block ends stage 1, and stage 2 too where slot 0 is filled. -/
theorem selfTest_passed {s : State} {peer : Nat} (hs : (s.dev peer).stage = 1) (hf : (s.dev peer).failed = []) :
    Does (.selfTestComplete peer []) s (endStage2 (s.setDev peer { s.dev peer with stage := 2 }) peer) := by
  show Host.Outcome.next _ = .next _
  simp [hs, hf]

theorem selfTest_failed {s : State} {peer : Nat} (hs : (s.dev peer).stage = 1) (hf : (s.dev peer).failed = []) (n : Nat)
    (ns : List Nat) : Does (.selfTestComplete peer (n :: ns)) s
      ((n :: ns).foldl (fun z m => errorReport z peer m 1) (s.setDev peer { s.dev peer with failed := n :: ns })) := by
  show Host.Outcome.next _ = .next _
  simp [hs, hf]

theorem endStage2_waits {s : State} {peer : Nat} (h : mget (s.dev peer).keys 0 = none) : endStage2 s peer = s := by
  simp [endStage2, h]

theorem endStage2_ready {s : State} {peer : Nat} (hs : (s.dev peer).stage = 2) (h : (mget (s.dev peer).keys 0).isSome = true) :
    ((endStage2 s peer).dev peer).stage = 3 ∧ ((endStage2 s peer).dev peer).ready = true := by
  simp [endStage2, hs, h, State.capUpdate]

/-! ### Peers, time and extents (R125, R128, R201, R207) -/

theorem peerUp_does {s : State} {peer other : Nat} (hr : (s.dev peer).ready = true) (ho : other ≠ peer) (hl : other < 128)
    (hu : (s.dev peer).peersUp.contains other = false) :
    ∃ s', Does (.peerUp peer other) s s' ∧ (s'.dev peer).peersUp = (s.dev peer).peersUp ++ [other] := by
  refine ⟨_, congrArg Host.Outcome.next (if_pos ⟨hr, ho, hl, by rw [hu]; rfl⟩), ?_⟩
  rw [State.dev_setDev]

theorem linkLoss_does {s : State} {peer other : Nat} (hu : (s.dev peer).peersUp.contains other = true) :
    ∃ s', Does (.linkLoss peer other) s s' ∧ (s'.dev peer).peersUp.contains other = false
      ∧ mget (s'.dev peer).lostAt other = some s.now := by
  refine ⟨s.setDev peer ((s.dev peer).lose other s.now), rfl, ?_⟩
  rw [State.dev_setDev]
  refine ⟨Device.lose_peersUp _ other s.now, ?_⟩
  simp only [Device.lose, hu, if_true, mget_mset_same]

/-- An attempt that finds a better time sets it (R125). -/
theorem attempt_adopts {s : State} {peer other rt : Nat} (ha : mayAsk s peer other = true)
    (hb : betterTime s peer other rt = true) :
    (attempt s peer other rt).dtime peer = s.dtime other + rt / 2
      ∧ ((attempt s peer other rt).dev peer).timeA = some (s.dunc other + rt)
      ∧ ((attempt s peer other rt).dev peer).askedAt = s.now := by
  have h : attempt s peer other rt = (keepExpiries s peer).setDev peer
      (({ s.dev peer with askedAt := s.now } : Device).setTime s.now (s.dtime other + rt / 2) (s.dunc other + rt)) := by
    simp only [attempt, ha, hb, if_true]
  rw [h, State.dtime, State.dev_setDev]
  refine ⟨?_, rfl, rfl⟩
  simp [Device.setTime, keepExpiries, nsOf]

theorem timeAdoption_does {s : State} {peer other rt : Nat} (ha : mayAsk s peer other = true)
    (hb : betterTime s peer other rt = true) (i : Instr) (hi : i = .timeAdoption peer other rt ∨ i = .timeExchange peer other rt) :
    ∃ s', Does i s s' ∧ s'.dtime peer = s.dtime other + rt / 2 ∧ (s'.dev peer).timeA = some (s.dunc other + rt)
      ∧ (s'.dev peer).askedAt = s.now := by
  refine ⟨attempt s peer other rt, ?_, attempt_adopts ha hb⟩
  rcases hi with rfl | rfl <;> rfl

theorem State.updCtx_some {s : State} {c : CtxId} {x : Ctx} (h : s.ctx c = some x) (f : Ctx → Ctx) :
    s.updCtx c f = s.setCtx c (f x) := by
  simp only [State.updCtx, h]

theorem memberExtentUpdate_does {s : State} {c : CtxId} {x y : Ctx} {m : CtxId} {other : Nat} (hx : s.ctx c = some x)
    (ho : other ≠ c.peer) (hm : member s c other = some m) (hy : s.ctx m = some y) :
    Does (.memberExtentUpdate c other) s (s.setCtx c { x with
      extents := mset x.extents other (4096 * (y.hbm.length + y.tier2.length), y.spans) }) := by
  show Host.Outcome.next _ = .next _
  simp only [ho, if_false, State.updCtx_some hx, hm, Option.bind_some, hy]
  rfl

/-! ### Islands (R366, R367) -/

theorem Device.island_setIsland (d : Device) (n m : Nat) (i : Island) :
    (d.setIsland n i).island m = if m = n then i else d.island m := by
  by_cases h : m = n
  · subst h; simp [Device.island, Device.setIsland, mgetD]
  · simp [Device.island, Device.setIsland, mgetD, h]

/-- A run over islands, each changed once by a step that changes no other. -/
theorem island_foldl {f : Device → Nat → Device} {g : Nat → Island → Island}
    (hf : ∀ d n m, (f d n).island m = if m = n then g n (d.island n) else d.island m) :
    ∀ (l : List Nat), l.Nodup → ∀ d m, (l.foldl f d).island m = if m ∈ l then g m (d.island m) else d.island m
  | [], _, d, m => by simp
  | n :: l, hl, d, m => by
    obtain ⟨hn, hl⟩ := List.nodup_cons.mp hl
    rw [List.foldl_cons, island_foldl hf l hl, hf]
    by_cases h : m = n
    · subst h; simp [hn]
    · simp [h]

theorem isIsland_iff (n : Nat) : isIsland n = true ↔ ((n < 2048 ∧ n % 64 < 48) ∨ (2048 ≤ n ∧ n < 2112)) := by
  have hu : n ∈ uncoreNumbers ↔ 2048 ≤ n ∧ n < 2112 := by
    simp only [uncoreNumbers, List.mem_map, List.mem_range]
    exact ⟨fun ⟨a, _, _⟩ => by omega, fun _ => ⟨n - 2048, by omega, by omega⟩⟩
  simp [isIsland, hu]

/-- An island with a reading is one of those sampled. -/
theorem mem_readings_of_hottest {rs : List Reading} {n : Nat} {t : Int} (h : hottest rs n = some t) : n ∈ rs.map (·.island) := by
  by_contra hn
  have : rs.filter (fun r => r.island == n) = [] :=
    List.filter_eq_nil_iff.mpr (fun r hr hrn => hn (List.mem_map.mpr ⟨r, hr, by simpa using hrn⟩))
  simp [hottest, this] at h

/-- An island behind a sample. -/
def Island.sampledBy (rs : List Reading) (n : Nat) (i : Island) : Island := ((hottest rs n).map i.sampled).getD i

/-- A device behind a sample, its ranking registers apart. -/
def Device.sampledBy (d : Device) (rs : List Reading) : Device :=
  ((rs.map (·.island)).eraseDups.filter isIsland).foldl (fun d n => match hottest rs n with
    | some t => d.setIsland n ((d.island n).sampled t)
    | none => d) d

theorem Device.island_sampledBy (d : Device) (rs : List Reading) (m : Nat) :
    (d.sampledBy rs).island m = if isIsland m = true then (d.island m).sampledBy rs m else d.island m := by
  unfold Device.sampledBy
  rw [island_foldl (g := Island.sampledBy rs) _ _ ((nodup_eraseDups _).filter _)]
  · simp only [List.mem_filter, List.mem_eraseDups]
    cases h : hottest rs m with
    | none => simp [Island.sampledBy, h]
    | some t => simp only [mem_readings_of_hottest h, true_and]
  · intro d n m
    cases h : hottest rs n with
    | some t => simp [Device.island_setIsland, Island.sampledBy, h]
    | none => by_cases hm : m = n <;> simp [hm, Island.sampledBy, h]

/-- The ranking registers themselves are no part of what a quarter is ranked by. -/
theorem rankQuarter_setDev_ranks (s : State) (peer q : Nat) (d : Device) (rs : Map Nat (List Rank)) :
    rankQuarter ((s.setDev peer d).setDev peer { d with ranks := rs }) peer q = rankQuarter (s.setDev peer d) peer q := by
  simp only [rankQuarter, State.dev_setDev]
  rfl

theorem thermalSample_does (s : State) (peer : Nat) (rs : List Reading) : ∃ s', Does (.thermalSample peer rs) s s'
    ∧ (∀ n, (hottest rs n = none ∨ isIsland n = false) → (s'.dev peer).island n = (s.dev peer).island n)
    ∧ (∀ n t, isIsland n = true → hottest rs n = some t → (s'.dev peer).island n = ((s.dev peer).island n).sampled t)
    ∧ (∀ q, q < 32 → mget (s'.dev peer).ranks q = some (rankQuarter s' peer q)) := by
  let d := (s.dev peer).sampledBy rs
  let s₁ := s.setDev peer d
  refine ⟨s₁.setDev peer { d with ranks := (List.range 32).map (fun q => (q, rankQuarter s₁ peer q)) }, rfl, ?_⟩
  have hi (n : Nat) : ({ d with ranks := (List.range 32).map (fun q => (q, rankQuarter s₁ peer q)) } : Device).island n
      = d.island n := rfl
  rw [State.dev_setDev]
  refine ⟨fun n h => ?_, fun n t hn ht => ?_, fun q hq => ?_⟩
  · rw [hi, Device.island_sampledBy]
    rcases h with h | h <;> simp [Island.sampledBy, h]
  · rw [hi, Device.island_sampledBy, if_pos hn, Island.sampledBy, ht]
    rfl
  · rw [rankQuarter_setDev_ranks]
    exact mget_graph (rankQuarter s₁ peer) (List.mem_range.mpr hq)

theorem tenMicros_iff (last : Option Nat) (now : Nat) :
    tenMicros last now = true ↔ last = none ∨ ∃ at_, last = some at_ ∧ at_ + 19000 ≤ now := by
  cases last <;> simp [tenMicros]

theorem Island.step_freq (i : Island) (now : Nat) : (i.step now).freq = i.wants := by
  unfold Island.step
  split
  · exact Eq.symm ‹_›
  · rfl

theorem frequencyStep_does {s : State} {peer n : Nat} (hn : isIsland n = true)
    (ht : tenMicros ((s.dev peer).island n).stepAt s.now = true) :
    ∃ s', Does (.frequencyStep peer n) s s' ∧ ((s'.dev peer).island n).freq = ((s.dev peer).island n).wants := by
  refine ⟨s.setDev peer ((s.dev peer).setIsland n (((s.dev peer).island n).step s.now)), ?_, ?_⟩
  · show Host.Outcome.next _ = .next _
    simp [hn, ht]
  · rw [State.dev_setDev, Device.island_setIsland, if_pos rfl, Island.step_freq]

theorem frequencyStep_early {s : State} {peer n last : Nat} (hl : ((s.dev peer).island n).stepAt = some last)
    (ht : s.now < last + 19000) : Does (.frequencyStep peer n) s s := by
  have : tenMicros ((s.dev peer).island n).stepAt s.now = false := by simpa [tenMicros, hl] using ht
  show Host.Outcome.next _ = .next _
  simp [this]

theorem islandNumbers_nodup : islandNumbers.Nodup := by
  have quarter (d q : Nat) : ((List.range 48).map (fun g => d * 256 + q * 64 + g)).Nodup :=
    List.nodup_range.map (fun a b h => by simpa using h)
  have district (d : Nat) :
      ((List.range 4).flatMap (fun q => (List.range 48).map (fun g => d * 256 + q * 64 + g))).Nodup := by
    refine List.nodup_flatMap.mpr ⟨fun q _ => quarter d q, List.nodup_range.imp fun {q r} hqr => ?_⟩
    simp only [Function.onFun, List.disjoint_left, List.mem_map, List.mem_range]
    rintro _ ⟨g, hg, rfl⟩ ⟨h, hh, _⟩
    omega
  refine List.nodup_flatMap.mpr ⟨fun d _ => district d, List.nodup_range.imp fun {d e} hde => ?_⟩
  simp only [Function.onFun, List.disjoint_left, List.mem_flatMap, List.mem_map, List.mem_range]
  rintro _ ⟨q, hq, g, hg, rfl⟩ ⟨r, hr, h, hh, _⟩
  omega

theorem modulePowerStep_within {s : State} {peer mw : Nat} (h : mw ≤ 3800000) : Does (.modulePowerStep peer mw) s s := by
  show Host.Outcome.next _ = .next _
  rw [if_pos h]

theorem modulePowerStep_above {s : State} {peer mw : Nat} (h : 3800000 < mw) : ∃ s', Does (.modulePowerStep peer mw) s s' ∧ ∀ n,
    ((s'.dev peer).island n).freq = (if n ∈ islandNumbers then max 40 (((s.dev peer).island n).freq - 1)
      else ((s.dev peer).island n).freq) := by
  refine ⟨_, congrArg Host.Outcome.next (if_neg (Nat.not_le_of_lt h)), fun n => ?_⟩
  rw [State.dev_setDev, island_foldl (g := fun _ i => ({ i with freq := max 40 (i.freq - 1) } : Island).heated) _ _
    islandNumbers_nodup]
  · split <;> rfl
  · intro d n m
    exact Device.island_setIsland d n m _

theorem droop_does (s : State) (peer cycles : Nat) {n : Nat} (hn : isIsland n = true) :
    ∃ s', Does (.droop peer n cycles) s s' ∧ ((s'.dev peer).island n).stretch = max 8 cycles := by
  refine ⟨_, congrArg Host.Outcome.next (if_pos hn), ?_⟩
  rw [State.dev_setDev, Device.island_setIsland, if_pos rfl]

/-- Settles O50, from what each step of a device comes to. -/
theorem deviceSteps : Obligations.DeviceSteps := by
  unfold Obligations.DeviceSteps
  intro s peer other
  refine ⟨deviceReset_does s peer other, fun hs hf => ⟨fun hk => ?_, fun hk => ⟨_, selfTest_passed hs hf, ?_⟩,
    selfTest_failed hs hf⟩, peerUp_does, linkLoss_does, fun rt => timeAdoption_does,
    fun c x y m hx => memberExtentUpdate_does hx, fun rs => ?_, fun n hn ht => frequencyStep_does hn ((tenMicros_iff _ _).mpr ht),
    fun n last => frequencyStep_early, fun mw => ⟨modulePowerStep_within, modulePowerStep_above⟩, isIsland_iff,
    fun n cycles => droop_does s peer cycles⟩
  · have hw := endStage2_waits (s := s.setDev peer { s.dev peer with stage := 2 }) (peer := peer)
      (by rw [State.dev_setDev]; exact hk)
    simpa only [hw] using selfTest_passed hs hf
  · exact endStage2_ready (by rw [State.dev_setDev]) (by rw [State.dev_setDev]; exact hk)
  · obtain ⟨s', hd, hsame, hnew, hranks⟩ := thermalSample_does s peer rs
    refine ⟨s', hd, hsame, fun n t hn ht => ?_, hranks⟩
    rw [hnew n t hn ht]
    exact ⟨rfl, rfl, rfl, rfl⟩

end Sys2Proof.Machine

/-! ## Heap forms, LAUNCH, WNEXT and SPAWN (R25, R349 to R353, R358, R372 to R379), and O35 -/

namespace Sys2Proof.Machine

/-! ### What leaves every slot as it is -/

@[simp] theorem nextPlane_threads (s : State) (peer dist : Nat) (num : Option Nat) :
    (nextPlane s peer dist num).1.threads = s.threads := by
  cases num <;> rfl

@[simp] theorem atQueue_threads (s : State) (k : Packet) (peer dist : Nat) : (atQueue s k peer dist).1.threads = s.threads := by
  unfold atQueue
  dsimp only [State.fresh]
  split <;> rfl

@[simp] theorem mkRequestTo_threads (s : State) (p : Place) (t : Thread) (body : Body) (path : List XQ) (slack : Nat) :
    (mkRequestTo s p t body path slack).1.threads = s.threads := by
  unfold mkRequestTo
  exact atQueue_threads _ _ _ _

theorem pinnedAt_congr {s s' : State} (h : s'.threads = s.threads) (p : Place) : s'.pinnedAt p = s.pinnedAt p := by
  unfold State.pinnedAt State.thread
  rw [h]

/-- A result that is to come leaves the region of the slot. -/
theorem pendLater_pinnedAt (s : State) (p : Place) (ds : List Dst) (la : Nat) (acq : Bool) (id : Nat) :
    (pendLater s p ds la acq id).pinnedAt p = s.pinnedAt p :=
  updThread_pinnedAt s p _ (fun t => discards_region ds t)

/-- A request to a unit leaves the region of the slot that asks. -/
theorem askUnit_pinnedAt (s : State) (p : Place) (t : Thread) (c : CtxId) (qtr : Nat) (body : Body) (d : Dst) (la : Nat) :
    (askUnit s p t c qtr body d la).pinnedAt p = s.pinnedAt p := by
  have hz : (if c.peer = p.peer then (s, 0) else nextPlane s p.peer (coreDist p.core) none).1.threads = s.threads := by
    by_cases h : c.peer = p.peer <;> simp [h]
  unfold askUnit
  dsimp only
  generalize (if c.peer = p.peer then (s, 0) else nextPlane s p.peer (coreDist p.core) none) = r at hz
  refine (pendLater_pinnedAt _ p [d] la false _).trans (pinnedAt_congr ?_ p)
  exact (mkRequestTo_threads _ _ _ _ _ _).trans hz

/-! ### The heap forms behind their checks -/

theorem heapAsk_heap {s z : State} {p : Place} {t : Thread} {ck : CtxId × Nat} {k : Kernel} (hk : z.heapOf ck.1 ck.2 = some k)
    (fn : Nat) (a b : Word) (d : Dst) (la : Nat) :
    heapAsk p t s z ck fn a b d la = .done (askUnit z p t ck.1 k.summary (.heap fn a b ck.2) d la) := by
  simp only [heapAsk, hk]

theorem heapForm_asks {s z : State} {p : Place} {t : Thread} {a : Word} {k : Kernel}
    (hc : tryCommit s p t false 0 (t.pc + 4) = some z)
    (hk : z.heapOf (heapKernel s p t a).1 (heapKernel s p t a).2 = some k) (fn : Nat) (b : Word) (d : Dst) (la : Nat) :
    heapForm p t s fn a b d la
      = .done (askUnit z p t (heapKernel s p t a).1 k.summary (.heap fn a b (heapKernel s p t a).2) d la) := by
  simp only [heapForm, hc]
  exact heapAsk_heap hk fn a b d la

/-- An operand field that names no stream is read as a register. -/
theorem operands_register {s : State} {p : Place} {t : Thread} {b : Dst} (ht : s.thread p = some t)
    (hb : (s.core (coreOf p)).mapped t.uid b = none) (word : Word) :
    operands s p t word [b] none = .ok [readReg (s.core (coreOf p)) t b] s := by
  simp [operands, popAll, ht, hb]

theorem heapFormF_asks {s z : State} {p : Place} {t : Thread} {a : Word} {b : Dst} {k : Kernel} (ht : s.thread p = some t)
    (hb : (s.core (coreOf p)).mapped t.uid b = none) (hc : tryCommit s p t false 0 (t.pc + 4) = some z)
    (hk : z.heapOf (heapKernel s p t a).1 (heapKernel s p t a).2 = some k) (word : Word) (fn : Nat) (d : Dst) (la : Nat) :
    heapFormF p t s word fn a b d la = .done (askUnit z p t (heapKernel s p t a).1 k.summary
      (.heap fn a (readReg (s.core (coreOf p)) t b) (heapKernel s p t a).2) d la) := by
  simp only [heapFormF, operands_register ht hb, ht, hc, List.headD_cons]
  exact heapAsk_heap hk fn a _ d la

@[simp] theorem heapKernel_region (s : State) (p : Place) (t : Thread) (r : Region) (a : Word) :
    heapKernel s p { t with region := r } a = heapKernel s p t a := rfl

/-- A step of the summary heap that only reads it changes nothing, and is never held. -/
theorem heapStep_reads (s : State) (c : CtxId) (num : Nat) {fn : Nat} (hf : fn = 2 ∨ fn = 5 ∨ fn = 6) (ap : Nat) (locks : List Lock)
    (a b : Word) : ∃ v, heapStep s c num fn ap locks a b = .ok (s, v) := by
  unfold heapStep
  split
  · exact ⟨_, rfl⟩
  · split
    · exact ⟨_, rfl⟩
    · split
      · exact ⟨_, rfl⟩
      · rcases hf with rfl | rfl | rfl <;> exact ⟨_, rfl⟩

/-- HQRY and HTOP have their effect in the step of their issue. -/
theorem heapRead_done (p : Place) (t : Thread) (s : State) {fn : Nat} (hf : fn = 2 ∨ fn = 6) (a item : Word) (d : Dst) (la : Nat) :
    ∃ w, heapRead p t s fn a item d la = .done w := by
  unfold heapRead heapAsk
  split
  · exact ⟨_, rfl⟩
  · obtain ⟨v, hv⟩ := heapStep_reads s (heapKernel s p t a).1 (heapKernel s p t a).2 (fn := fn) (by omega) t.apCore t.locks a item
    rw [hv]
    exact ⟨_, rfl⟩

theorem heapStep_srrItem {s : State} {c : CtxId} {num : Nat} {k : Kernel} {a b : Word} (hk : s.heapOf c num = some k)
    (hb : badOperand 5 a b = false) (ap : Nat) (locks : List Lock) :
    heapStep s c num 5 ap locks a b = .ok (s, srrItem k b.toNat) := by
  obtain ⟨x, hx, hk⟩ := Option.bind_eq_some_iff.mp hk
  simp [heapStep, hb, hx, hk]

/-- The token step changes no context's text. -/
theorem giveToken_text (s : State) (p : Place) (e : Bool) (c : CtxId) :
    ((giveToken s p e).ctx c).map (·.text) = (s.ctx c).map (·.text) := by
  unfold giveToken
  split
  · rfl
  · rename_i t _
    rw [State.ctx_setThread]
    unfold State.updCtx
    split
    · rename_i x hx
      by_cases hc : c = t.ctxId p
      · subst hc
        rw [State.ctx_setCtx, hx]
        rfl
      · simp [State.ctx, hc]
    · rfl

theorem Ctx.isCode_congr {x y : Ctx} (h : y.text = x.text) (va : Word) : y.isCode va = x.isCode va := by
  unfold Ctx.isCode
  rw [h]

end Sys2Proof.Machine

namespace Sys2Proof

open Machine

/-! ### Instructions that may take the token with their issue (R62) -/

theorem CanGive.mono {s : State} {t : Thread} {uses uses' : List Dst} {d : Reg} (h : CanGive s t uses d) (hu : uses' ⊆ uses) :
    CanGive s t uses' d := by
  obtain ⟨hc, hw⟩ := h
  refine ⟨⟨hc.here, hc.plain, fun ho => hc.owns ?_⟩, hw⟩
  obtain ⟨x, hx, hsx⟩ := List.any_eq_true.mp ho
  refine List.any_eq_true.mpr ⟨x, ?_, hsx⟩
  rcases List.mem_append.mp hx with hx | hx
  · exact List.mem_append_left _ (hu hx)
  · exact List.mem_append_right _ hx

/-- A state in which an instruction of the slot is made, with its thread: that of the issue, or the one with the token. -/
structure MadeIn (s : State) (t : Thread) (d : Reg) (s₁ : State) (t₁ : Thread) : Prop where
  state : s₁ = s ∨ s₁ = pinFor s t (ri d)
  here : s₁.thread s.turn = some t₁

section MadeIn

variable {s s₁ : State} {t t₁ : Thread} {d : Reg}

/-- The state is that of the issue, or comes from it by the token step. -/
theorem MadeIn.cases (hm : MadeIn s t d s₁ t₁) : s₁ = s ∨ s₁ = giveToken s s.turn false := by
  rcases hm.state with h | h
  · exact .inl h
  · unfold pinFor at h
    split at h
    · exact .inr h
    · exact .inl h

theorem MadeIn.core (hm : MadeIn s t d s₁ t₁) (c : CoreId) : s₁.core c = s.core c := by
  rcases hm.cases with rfl | rfl
  · rfl
  · exact giveToken_core s s.turn false c

theorem MadeIn.region (hm : MadeIn s t d s₁ t₁) (ht : s.thread s.turn = some t) : ∃ r, t₁ = { t with region := r } := by
  have here := hm.here
  rcases hm.cases with rfl | rfl
  · exact ⟨t.region, Option.some.inj (here.symm.trans ht)⟩
  · obtain ⟨r, hr, _⟩ := giveToken_thread s s.turn t ht false
    exact ⟨r, Option.some.inj (here.symm.trans hr)⟩

theorem MadeIn.isCode (hm : MadeIn s t d s₁ t₁) {c : CtxId} {x : Ctx} (hx : s.ctx c = some x) (va : Word) :
    ((s₁.ctx c).getD Ctx.new).isCode va = x.isCode va := by
  have ht : (s₁.ctx c).map (·.text) = some x.text := by
    rcases hm.cases with rfl | rfl
    · rw [hx]; rfl
    · rw [giveToken_text, hx]; rfl
  obtain ⟨y, hy, hxy⟩ := Option.map_eq_some_iff.mp ht
  rw [hy]
  exact Ctx.isCode_congr hxy va

end MadeIn

theorem madeIn_issue {s : State} {t : Thread} (d : Reg) (ht : s.thread s.turn = some t) : MadeIn s t d s t := ⟨.inl rfl, ht⟩

/-- The thread of the slot once its shared destination may be written. -/
theorem pinFor_madeIn {s : State} {t : Thread} (d : Reg) (ht : s.thread s.turn = some t) :
    ∃ t₁, MadeIn s t d (pinFor s t (ri d)) t₁ := by
  unfold pinFor
  split
  · obtain ⟨r, hr, _⟩ := giveToken_thread s s.turn t ht false
    exact ⟨_, .inr (by simp [pinFor, *]), hr⟩
  · exact ⟨t, .inl rfl, ht⟩

theorem pinFor_pinnedAt {s : State} {t : Thread} {d : Reg} (ht : s.thread s.turn = some t) (hd : isShared d = true) :
    (pinFor s t (ri d)).pinnedAt s.turn = true := by
  by_cases hp : t.region.pinned = true
  · simp [pinFor, hp, State.pinnedAt, ht]
  · simp only [pinFor, ri, hd, hp, Bool.not_false, Bool.and_self, if_true, giveToken_pinned s s.turn t ht]

/-- An instruction that is made at the issue, and with the token where its destination is shared: the region in which its effect is
made is pinned then (R62). -/
theorem issue_made {word : Word} {uses : List Dst} {d : Reg} {body : Place → Thread → Core → State → Res} {s s₁ w : State}
    {t t₁ : Thread} (h : CanGive s t uses d) (hs : s₁ = pinFor s t (ri d)) (ht : s₁.thread s.turn = some t₁)
    (h₀ : ∃ w₀, body s.turn t (coreNow s) s = .done w₀) (h₁ : body s.turn t₁ (coreNow s) s₁ = .done w) :
    issue word (uses ++ [ri d]) (isShared d) body s = .next (retire
      (if isShared d = true ∧ w.pinnedAt s.turn = false then giveToken w s.turn false else w) s.turn false) := by
  obtain ⟨hc, hw⟩ := h
  obtain ⟨w₀, h₀⟩ := h₀
  subst hs
  by_cases hd : isShared d = true
  · rw [hd, issue_pinned hc]
    have opened : finish s s.turn false (pinOpened s.turn (.done w)) = .next (retire
        (if True ∧ w.pinnedAt s.turn = false then giveToken w s.turn false else w) s.turn false) := by
      cases hp : w.pinnedAt s.turn <;> simp [pinOpened, hp, finish]
    unfold issuePinned
    rw [show s.core (coreOf s.turn) = coreNow s from rfl, h₀]
    by_cases hp : t.region.pinned = true
    · have hq : pinFor s t (ri d) = s := by simp [pinFor, hp]
      rw [hq] at ht h₁
      obtain rfl : t = t₁ := Option.some.inj (hc.here.symm.trans ht)
      obtain rfl : w₀ = w := Res.done.inj (h₀.symm.trans h₁)
      simpa only [hp, if_true] using opened
    · have hq : pinFor s t (ri d) = giveToken s s.turn false := by simp [pinFor, hp, ri, hd]
      rw [hq] at ht h₁
      have hcore : (giveToken s s.turn false).core (coreOf s.turn) = coreNow s := giveToken_core s s.turn false _
      simp only [hp, (hw hd).resolve_left hp, ht, hcore, h₁, if_true, if_false, Bool.false_eq_true]
      exact opened
  · have hq : pinFor s t (ri d) = s := by simp [pinFor, ri, hd]
    rw [hq] at ht h₁
    obtain rfl : t = t₁ := Option.some.inj (hc.here.symm.trans ht)
    simp only [Bool.not_eq_true] at hd
    rw [hd, issue_next hc, h₁]
    rfl

/-- An instruction that leaves the region of the slot: it needs no token but that of its shared destination. -/
theorem issue_made_unpinned {word : Word} {uses : List Dst} {d : Reg} {body : Place → Thread → Core → State → Res} {s w : State}
    {t t₁ : Thread} (h : CanGive s t uses d) (ht : (pinFor s t (ri d)).thread s.turn = some t₁)
    (h₀ : ∃ w₀, body s.turn t (coreNow s) s = .done w₀) (h₁ : body s.turn t₁ (coreNow s) (pinFor s t (ri d)) = .done w)
    (hw : w.pinnedAt s.turn = (pinFor s t (ri d)).pinnedAt s.turn) :
    issue word (uses ++ [ri d]) (isShared d) body s = .next (retire w s.turn false) := by
  rw [issue_made h rfl ht h₀ h₁, if_neg]
  rintro ⟨hd, hp⟩
  rw [hw, pinFor_pinnedAt h.1.here hd] at hp
  exact Bool.noConfusion hp

/-- A trap of the body comes before the token (R62). -/
theorem issue_trap {word : Word} {uses : List Dst} {d : Reg} {body : Place → Thread → Core → State → Res} {s : State} {t : Thread}
    {c : Trap} (h : CanGive s t uses d) (hb : body s.turn t (coreNow s) s = .trap c) :
    issue word (uses ++ [ri d]) (isShared d) body s = .next (raise s s.turn c) := by
  cases hd : isShared d
  · rw [issue_next h.1, hb]
    rfl
  · rw [issue_pinned h.1]
    unfold issuePinned
    rw [show s.core (coreOf s.turn) = coreNow s from rfl, hb]
    rfl

/-- A form that commits and then acts, from what its body does in each state in which it is made. -/
theorem actsBehind_of_body {i : Instr} {word : Word} {uses : List Dst} {d : Reg} {body : Place → Thread → Core → State → Res}
    {s : State} {t : Thread} {pre : State → Thread → Prop} {act : State → Thread → Thread → State → Prop}
    (h : CanGive s t uses d) (hi : exec i s = issue word (uses ++ [ri d]) (isShared d) body s)
    (hb : ∀ s₁ t₁ z u w, MadeIn s t d s₁ t₁ → pre s₁ t₁ → tryCommit s₁ s.turn t₁ false 0 (t₁.pc + 4) = some z →
      z.thread s.turn = some u → act z t₁ u w → body s.turn t₁ (coreNow s) s₁ = .done w) : ActsBehind i s t d pre act := by
  intro s₁ z₀ z w₀ w t₁ u₀ u hs ht hpre hpre₁ hc₀ hu₀ hact₀ hc hu hact
  have hm : MadeIn s t d s₁ t₁ := ⟨.inr hs, ht⟩
  obtain ⟨r, rfl⟩ := hm.region h.1.here
  exact hi.trans (issue_made h hs ht ⟨w₀, hb s t z₀ u₀ w₀ (madeIn_issue d h.1.here) hpre hc₀ hu₀ hact₀⟩
    (hb s₁ _ z u w hm hpre₁ hc hu hact))

/-! ### The heap forms -/

/-- A heap form that commits: `v` is its second operand, `pre` its checks before the commit. -/
theorem heapForm_actsBehind {i : Instr} {word : Word} {uses : List Dst} {d a : Reg} {la fn : Nat} {v : Word}
    {body : Place → Thread → Core → State → Res} {s : State} {t : Thread} {pre : State → Thread → Prop} (h : CanGive s t uses d)
    (hi : exec i s = issue word (uses ++ [ri d]) (isShared d) body s)
    (hb : ∀ s₁ t₁ z k, MadeIn s t d s₁ t₁ → pre s₁ t₁ → tryCommit s₁ s.turn t₁ false 0 (t₁.pc + 4) = some z →
      let ck := heapKernel s₁ s.turn t₁ (readI (coreNow s) t a)
      z.heapOf ck.1 ck.2 = some k → body s.turn t₁ (coreNow s) s₁
        = .done (askUnit z s.turn t₁ ck.1 k.summary (.heap fn (readI (coreNow s) t a) v ck.2) (ri d) la)) :
    let ck := heapKernel s s.turn t (readI (coreNow s) t a)
    ActsBehind i s t d pre (fun z t₁ _ w => ∃ k, ck = heapKernel (pinFor s t (ri d)) s.turn t (readI (coreNow s) t a)
      ∧ z.heapOf ck.1 ck.2 = some k
      ∧ w = askUnit z s.turn t₁ ck.1 k.summary (.heap fn (readI (coreNow s) t a) v ck.2) (ri d) la) := by
  refine actsBehind_of_body h hi ?_
  rintro s₁ t₁ z u _ hm hpre hc _ ⟨k, hck, hk, rfl⟩
  have same : heapKernel s₁ s.turn t₁ (readI (coreNow s) t a) = heapKernel s s.turn t (readI (coreNow s) t a) := by
    obtain ⟨r, rfl⟩ := hm.region h.1.here
    rcases hm.state with rfl | rfl
    · rfl
    · exact hck.symm
  have := hb s₁ t₁ z k hm hpre hc
  rw [same] at this
  exact this hk

/-- HQRY and HTOP: the request leaves with the issue. -/
theorem heapRead_runs {i : Instr} {word : Word} {uses : List Dst} {d a : Reg} {la fn : Nat} {v : Word}
    {body : Place → Thread → Core → State → Res} {s : State} {t t₁ : Thread} {k : Kernel} (hf : fn = 2 ∨ fn = 6)
    (h : CanGive s t uses d) (hi : exec i s = issue word (uses ++ [ri d]) (isShared d) body s)
    (hb : ∀ z r, body s.turn { t with region := r } (coreNow s) z
      = heapRead s.turn { t with region := r } z fn (readI (coreNow s) t a) v (ri d) la)
    (hk : (pinFor s t (ri d)).heapOf (heapKernel (pinFor s t (ri d)) s.turn t (readI (coreNow s) t a)).1
      (heapKernel (pinFor s t (ri d)) s.turn t (readI (coreNow s) t a)).2 = some k)
    (ht : (pinFor s t (ri d)).thread s.turn = some t₁) :
    Runs i s (askUnit (pinFor s t (ri d)) s.turn t₁ (heapKernel (pinFor s t (ri d)) s.turn t (readI (coreNow s) t a)).1 k.summary
      (.heap fn (readI (coreNow s) t a) v (heapKernel (pinFor s t (ri d)) s.turn t (readI (coreNow s) t a)).2) (ri d) la) := by
  obtain ⟨r, rfl⟩ := MadeIn.region ⟨.inr rfl, ht⟩ h.1.here
  obtain ⟨w₀, hw₀⟩ := heapRead_done s.turn t s hf (readI (coreNow s) t a) v (ri d) la
  exact hi.trans (issue_made_unpinned h ht ⟨w₀, (hb s t.region).trans hw₀⟩ ((hb _ r).trans (heapAsk_heap hk fn _ _ _ _))
    (askUnit_pinnedAt _ _ _ _ _ _ _ _))

/-- An instruction whose result is known at the issue, from what its body does in each state in which it is made. -/
theorem gives_of_body {i : Instr} {word : Word} {uses : List Dst} {d : Reg} {la : BitVec 4} {v : Word}
    {body : Place → Thread → Core → State → Res} {s : State} {t : Thread} (h : CanGive s t uses d)
    (hi : exec i s = issue word (uses ++ [ri d]) (isShared d) body s)
    (h₀ : ∃ w, body s.turn t (coreNow s) s = .done w)
    (hb : ∀ t₁, MadeIn s t d (pinFor s t (ri d)) t₁ → body s.turn t₁ (coreNow s) (pinFor s t (ri d))
      = .done (pendNow (pinFor s t (ri d)) s.turn [ri d] la.toNat false [v])) : Gives i s t d la.toNat id v := by
  obtain ⟨t₁, hm⟩ := pinFor_madeIn d h.1.here
  exact hi.trans (issue_made_unpinned h hm.here h₀ (hb t₁ hm) (pendNow_pinnedAt _ _ _ _ _ _))

section HeapForms

variable {s : State} {t : Thread} {d a b : Reg} {la : BitVec 4}

/-- HMERGE and HADD: b names no stream. -/
theorem heapFormF_actsBehind {i : Instr} {word : Word} {fn : Nat} (h : CanGive s t [ri a, rf b, ri b] d)
    (hi : exec i s = issue word ([ri a, rf b] ++ [ri d]) (isShared d)
      (fun p t k s => heapFormF p t s word fn (readI k t a) (rf b) (ri d) la.toNat) s) :
    let ck := heapKernel s s.turn t (readI (coreNow s) t a)
    ActsBehind i s t d (fun z u => (z.core (coreOf s.turn)).mapped u.uid (rf b) = none)
      (fun z t₁ _ w => ∃ k, ck = heapKernel (pinFor s t (ri d)) s.turn t (readI (coreNow s) t a) ∧ z.heapOf ck.1 ck.2 = some k
        ∧ w = askUnit z s.turn t₁ ck.1 k.summary (.heap fn (readI (coreNow s) t a) (readF (coreNow s) t b) ck.2) (ri d)
          la.toNat) := by
  refine heapForm_actsBehind (h.mono (by simp)) hi ?_
  intro s₁ t₁ z k hm hpre hc ck hk
  obtain ⟨r, rfl⟩ := hm.region h.1.here
  refine (heapFormF_asks hm.here hpre hc hk word fn _ _).trans ?_
  rw [hm.core]
  rfl

theorem hclose_actsBehind (h : CanGive s t [ri a, rf b, ri b] d) :
    let ck := heapKernel s s.turn t (readI (coreNow s) t a)
    ActsBehind (.hclose d a la) s t d (fun _ _ => True)
      (fun z t₁ _ w => ∃ k, ck = heapKernel (pinFor s t (ri d)) s.turn t (readI (coreNow s) t a) ∧ z.heapOf ck.1 ck.2 = some k
        ∧ w = askUnit z s.turn t₁ ck.1 k.summary (.heap 3 (readI (coreNow s) t a) 0 ck.2) (ri d) la.toNat) := by
  refine heapForm_actsBehind (uses := [ri a]) (h.mono (by simp)) rfl ?_
  intro s₁ t₁ z k hm _ hc ck hk
  obtain ⟨r, rfl⟩ := hm.region h.1.here
  exact heapForm_asks hc hk 3 0 _ _

theorem hdrain_actsBehind (h : CanGive s t [ri a, rf b, ri b] d) :
    let ck := heapKernel s s.turn t (readI (coreNow s) t a)
    ActsBehind (.hdrain d a b la) s t d
      (fun z u => (readI (coreNow s) t b).toNat % 8 = 0 ∧ lookSpan z (u.ctxId s.turn) u.apCore u.locks needW
        (8 * wbits (readI (coreNow s) t a) 0 32 / 8 + 2) (readI (coreNow s) t b) (8 * wbits (readI (coreNow s) t a) 0 32) = none)
      (fun z t₁ _ w => ∃ k, ck = heapKernel (pinFor s t (ri d)) s.turn t (readI (coreNow s) t a) ∧ z.heapOf ck.1 ck.2 = some k
        ∧ w = askUnit z s.turn t₁ ck.1 k.summary (.heap 4 (readI (coreNow s) t a) (readI (coreNow s) t b) ck.2) (ri d)
          la.toNat) := by
  refine heapForm_actsBehind (uses := [ri a, ri b]) (h.mono (by simp)) rfl ?_
  rintro s₁ t₁ z k hm ⟨haligned, hspan⟩ hc ck hk
  obtain ⟨r, rfl⟩ := hm.region h.1.here
  simp only [readI_region, haligned, bne_self_eq_false, Bool.and_false, Bool.false_eq_true, if_false, hspan]
  exact heapForm_asks hc hk 4 _ _ _

theorem srrd_gives {k : Kernel} (h : CanGive s t [ri a, rf b, ri b] d)
    (hck : heapKernel s s.turn t (readI (coreNow s) t a) = heapKernel (pinFor s t (ri d)) s.turn t (readI (coreNow s) t a))
    (hk : (pinFor s t (ri d)).heapOf (heapKernel s s.turn t (readI (coreNow s) t a)).1
      (heapKernel s s.turn t (readI (coreNow s) t a)).2 = some k)
    (hb : badOperand 5 (readI (coreNow s) t a) (readI (coreNow s) t b) = false) :
    Gives (.srrd d a b la) s t d la.toNat id (srrItem k (readI (coreNow s) t b).toNat) := by
  refine gives_of_body (uses := [ri a, ri b]) (h.mono (by simp)) rfl ?_ ?_
  · obtain ⟨v, hv⟩ := heapStep_reads s (heapKernel s s.turn t (readI (coreNow s) t a)).1
      (heapKernel s s.turn t (readI (coreNow s) t a)).2 (.inr (.inl rfl)) t.apCore t.locks (readI (coreNow s) t a)
      (readI (coreNow s) t b)
    simp only [hv]
    exact ⟨_, rfl⟩
  · intro t₁ hm
    obtain ⟨r, rfl⟩ := hm.region h.1.here
    rw [hck] at hk
    have hv := heapStep_srrItem hk hb t.apCore t.locks
    simp only [readI_region, heapKernel_region, hv]

end HeapForms

/-! ### LAUNCH, WNEXT and SPAWN -/

section Launches

variable {s : State} {t : Thread} {d a b : Reg} {la : BitVec 4}

theorem launch_actsBehind (h : CanGive s t [ri a, ri b] d) :
    let va := readI (coreNow s) t a
    ActsBehind (.launch d a la) s t d (fun z u => ∃ bs z', readRecord z s.turn u va 128 64 = .ok bs z')
      (fun z t₁ u w => ∃ h z' z'' num, readRecord z s.turn u va 128 64 = .ok h z'
        ∧ launchWith z' (t₁.ctxId s.turn) t₁.apCore t₁.locks t₁.uid t₁.slk.toNat (s.turn.core / 256) h = .ok z'' num
        ∧ w = pendNow z'' s.turn [ri d] la.toNat false [withBit63 num]) := by
  refine actsBehind_of_body (uses := [ri a]) (h.mono (by simp)) rfl ?_
  rintro s₁ t₁ z u _ hm ⟨bs, z₁, hread⟩ hc hu ⟨header, z', z'', num, hread', hl, rfl⟩
  obtain ⟨r, rfl⟩ := hm.region h.1.here
  simp only [readI_region, hread, hc, hu, hread', hl]

theorem spawn_misaligned (h : CanGive s t [ri a, ri b] d) (he : (readI (coreNow s) t b).toNat % 4 ≠ 0) :
    Traps (.spawn d a b la) s 0x08 (readI (coreNow s) t b) := by
  refine issue_trap (uses := [ri a, ri b]) (h.mono (by simp)) ?_
  exact if_pos he

theorem spawn_actsBehind {x : Ctx} (h : CanGive s t [ri a, ri b] d) (hx : s.ctx (t.ctxId s.turn) = some x)
    (ha : (readI (coreNow s) t b).toNat % 4 = 0) (ht : (readI (coreNow s) t a).toNat < 2 ^ 13)
    (hk : coreOk (readI (coreNow s) t a).toNat = true) (hc : x.isCode (readI (coreNow s) t b) = true) :
    ActsBehind (.spawn d a b la) s t d (fun _ _ => True) (fun z t₁ _ w => w = askUnit z s.turn t₁ (t₁.ctxId s.turn)
      ((readI (coreNow s) t a).toNat / 256) (.spawn (readI (coreNow s) t a).toNat (readI (coreNow s) t b)
        [readI (coreNow s) t 8, readI (coreNow s) t 9, readI (coreNow s) t 10, readI (coreNow s) t 11] t.wid t.slk.toNat)
      (ri d) la.toNat) := by
  refine actsBehind_of_body (uses := [ri a, ri b]) (h.mono (by simp)) rfl ?_
  rintro s₁ t₁ z u _ hm - hz - rfl
  have hcode := (hm.isCode hx (readI (coreNow s) t b)).trans hc
  have hrest : wbits (readI (coreNow s) t a) 13 51 = 0 := by unfold wbits; rw [Nat.div_eq_of_lt ht, Nat.zero_mod]
  obtain ⟨r, rfl⟩ := hm.region h.1.here
  simp only [readI_region, Thread.ctxId] at hcode ⊢
  simp only [ha, hrest, hk, hcode, hz, ne_eq, not_true_eq_false, Bool.not_true, Bool.false_eq_true, or_self, if_false]

theorem wnext_runs {num team : Nat} {s₁ z₀ z : State} {t₁ u₀ t₀ : Thread} (h : CanGive s t [ri a, ri b] d)
    (hr : t.role = .item num true team) (hroom : itemRoom s s.turn t = true) (hs : s₁ = pinFor s t (ri d))
    (ht : s₁.thread s.turn = some t₁) (hroom₁ : itemRoom s₁ s.turn t₁ = true)
    (hu₀ : (finishItem s s.turn t).thread s.turn = some u₀)
    (hc₀ : tryCommit (finishItem s s.turn t) s.turn u₀ false 0 (t.pc + 4) = some z₀)
    (ht₀ : (finishItem s₁ s.turn t₁).thread s.turn = some t₀)
    (hc : tryCommit (finishItem s₁ s.turn t₁) s.turn t₀ false 0 (t.pc + 4) = some z) :
    let st := statusWord (claimItem z s.turn num team t.wid).2
    let w := pendNow (checkpointed (claimItem z s.turn num team t.wid).1 s.turn d st) s.turn [ri d] la.toNat false [st]
    Runs (.wnext d la) s (if isShared d = true ∧ w.pinnedAt s.turn = false then giveToken w s.turn false else w) := by
  intro st w
  obtain ⟨hrole, hwid, hpc⟩ : t₁.role = t.role ∧ t₁.wid = t.wid ∧ t₁.pc = t.pc := by
    obtain ⟨r, rfl⟩ := MadeIn.region ⟨.inr hs, ht⟩ h.1.here
    exact ⟨rfl, rfl, rfl⟩
  refine issue_made (uses := []) (h.mono (by simp)) hs ht ?_ ?_
  · simp only [hr, hroom, hu₀, hc₀, Bool.not_true, Bool.false_eq_true, if_false]
    exact ⟨_, rfl⟩
  · simp only [hrole, hwid, hpc, hr, hroom₁, ht₀, hc, Bool.not_true, Bool.false_eq_true, if_false]
    rfl

theorem wnext_notItem (h : CanGive s t [ri a, ri b] d) (hr : ∀ num team, t.role ≠ .item num true team) :
    Gives (.wnext d la) s t d la.toNat id (statusWord stNotItem) := by
  refine gives_of_body (uses := []) (h.mono (by simp)) rfl ?_ ?_
  · split
    · exact absurd ‹_› (hr _ _)
    · exact ⟨_, rfl⟩
  · intro t₁ hm
    obtain ⟨r, rfl⟩ := hm.region h.1.here
    split
    · exact absurd ‹_› (hr _ _)
    · rfl

end Launches

/-- Settles O35: every form is made at its issue, and with the token where its destination is shared. -/
theorem heapsAndLaunches : Obligations.HeapsAndLaunches := by
  unfold Obligations.HeapsAndLaunches
  refine ⟨fun d a b la s t h => ⟨heapFormF_actsBehind h rfl, heapFormF_actsBehind h rfl, hclose_actsBehind h, hdrain_actsBehind h,
    fun k hk t₁ ht => ⟨?_, ?_⟩, fun k hck hk hb => srrd_gives h hck hk hb⟩,
    fun d a b la s t x h hx => ⟨launch_actsBehind h, spawn_misaligned h, fun ha ht hk hc => spawn_actsBehind h hx ha ht hk hc,
      fun num team s₁ t₁ u₀ z₀ t₀ z => wnext_runs h, wnext_notItem h⟩⟩
  · exact heapRead_runs (uses := [ri a, ri b]) (.inl rfl) (h.mono (by simp)) rfl (fun _ _ => rfl) hk ht
  · exact heapRead_runs (uses := [ri a]) (.inr rfl) (h.mono (by simp)) rfl (fun _ _ => rfl) hk ht

end Sys2Proof

/-! ## Kernels: teams, items, tasks, donors, children, heap answers and statistics (R23 to R28, R332, R350 to R378), and O45 -/

namespace Sys2Proof.Machine

/-! ### A key that is no longer listed -/

theorem mget_mdel_same {κ α : Type} [DecidableEq κ] (m : Map κ α) (k : κ) : mget (mdel m k) k = none := by
  induction m with
  | nil => rfl
  | cons e m ih =>
    by_cases h : e.1 = k
    · simpa [mdel, h] using ih
    · simpa [mdel, mget, h] using ih

/-! ### A thread in its slot, whatever is delivered to it (R177) -/

/-- Two threads that differ in their queues of events and records alone. -/
def SameButQueues (t u : Thread) : Prop := ∃ es rs, u = { t with events := es, records := rs }

theorem SameButQueues.refl (t : Thread) : SameButQueues t t := ⟨t.events, t.records, rfl⟩

theorem SameButQueues.trans {t u v : Thread} (h : SameButQueues t u) (h' : SameButQueues u v) : SameButQueues t v := by
  obtain ⟨_, _, rfl⟩ := h
  obtain ⟨es, rs, rfl⟩ := h'
  exact ⟨es, rs, rfl⟩

theorem take_sameButQueues {t u : Thread} {i : Event ⊕ Rec} (h : t.take i = some u) : SameButQueues t u := by
  unfold Thread.take at h
  split at h <;> split at h
  · exact ⟨_, t.records, (Option.some.inj h).symm⟩
  · cases h
  · exact ⟨t.events, _, (Option.some.inj h).symm⟩
  · cases h

/-- What is stored changes the context alone. -/
theorem storeItem_cases (s : State) (c : CtxId) (uid : Option Nat) (item : Event ⊕ Rec) (k : StoreClass) :
    storeItem s c uid item k = s ∨ ∃ x, storeItem s c uid item k = s.setCtx c x := by
  unfold storeItem
  split
  · exact .inl rfl
  · right
    cases k <;> dsimp only <;> repeat' split
    all_goals exact ⟨_, rfl⟩

@[simp] theorem storeItem_threads (s : State) (c : CtxId) (uid : Option Nat) (item : Event ⊕ Rec) (k : StoreClass) :
    (storeItem s c uid item k).threads = s.threads := by
  rcases storeItem_cases s c uid item k with h | ⟨x, h⟩ <;> rw [h]
  rfl

@[simp] theorem storeItem_donors (s : State) (c : CtxId) (uid : Option Nat) (item : Event ⊕ Rec) (k : StoreClass) :
    (storeItem s c uid item k).donors = s.donors := by
  rcases storeItem_cases s c uid item k with h | ⟨x, h⟩ <;> rw [h]
  rfl

/-- A thread that takes an item, in its slot or another. -/
theorem setThread_takes {s : State} {p q : Place} {t v v' : Thread} {i : Event ⊕ Rec} (ht : s.thread p = some t)
    (hv : q ≠ p ∨ v = t) (hi : v.take i = some v') : ∃ u, (s.setThread q v').thread p = some u ∧ SameButQueues t u := by
  by_cases hq : q = p
  · subst hq
    obtain rfl := hv.resolve_left (fun h => h rfl)
    exact ⟨v', State.thread_setThread s q v', take_sameButQueues hi⟩
  · exact ⟨t, (State.thread_setThread_other s v' (Ne.symm hq)).trans ht, .refl t⟩

theorem noteRecords_thread {s : State} {p : Place} {t : Thread} (ht : s.thread p = some t) (c : CtxId) (q : Place) :
    ∃ u, (noteRecords s c q).thread p = some u ∧ SameButQueues t u := by
  unfold noteRecords
  split
  · rename_i v x hv _
    dsimp only
    have hvt : q ≠ p ∨ v = t := by
      by_cases hq : q = p
      · exact .inr (Option.some.inj ((hq ▸ hv).symm.trans ht))
      · exact .inl hq
    split
    · exact ⟨t, ht, .refl t⟩
    · split
      · rename_i v' htake
        split at htake
        · exact setThread_takes ht hvt htake
        · cases htake
      · exact ⟨t, by unfold State.thread; rw [storeItem_threads]; exact ht, .refl t⟩
  · exact ⟨t, ht, .refl t⟩

theorem noteRecords_donors (s : State) (c : CtxId) (q : Place) : (noteRecords s c q).donors = s.donors := by
  unfold noteRecords
  split
  · dsimp only
    split
    · rfl
    · split
      · rfl
      · exact storeItem_donors _ _ _ _ _
  · rfl

/-- The thread that is found under a name is the one of a slot that bears it, or in another slot. -/
theorem find?_other_or_same {f : Place × Thread → Bool} {p q : Place} {t v : Thread} {m : Map Place Thread} (hp : mget m p = some t)
    (hf : f (p, t) = true) (hq : m.find? f = some (q, v)) : q ≠ p ∨ v = t := by
  induction m with
  | nil => cases hp
  | cons e m ih =>
    obtain ⟨j, w⟩ := e
    by_cases hj : j = p
    · subst hj
      obtain rfl : w = t := by simpa [mget] using hp
      simp only [List.find?_cons, hf, Option.some.injEq, Prod.mk.injEq] at hq
      exact .inr hq.2.symm
    · simp only [mget, hj, if_false] at hp
      rw [List.find?_cons] at hq
      split at hq
      · simp only [Option.some.injEq, Prod.mk.injEq] at hq
        exact .inl (hq.1 ▸ hj)
      · exact ih hp hq

theorem drainStore_thread {p : Place} (c : CtxId) (uid : Nat) : ∀ (n : Nat) {s : State} {t : Thread}, s.thread p = some t →
    t.uid = uid → ∃ u, (drainStore s c uid n).thread p = some u ∧ SameButQueues t u
  | 0, s, t, ht, _ => ⟨t, ht, .refl t⟩
  | n + 1, s, t, ht, hu => by
    unfold drainStore
    split
    · rename_i x q v _ hv
      have hvt : q ≠ p ∨ v = t := find?_other_or_same ht (by simpa using hu) hv
      split
      · exact noteRecords_thread ht c q
      · split
        · exact ⟨t, ht, .refl t⟩
        · rename_i v' htake
          obtain ⟨e, _, htake⟩ := Option.bind_eq_some_iff.mp htake
          obtain ⟨u, hu', hsame⟩ := setThread_takes ht hvt htake
          have huid : u.uid = uid := by
            obtain ⟨_, _, rfl⟩ := hsame
            exact hu
          obtain ⟨w, hw, hsame'⟩ := drainStore_thread c uid n (State.thread_setCtx _ c _ p |>.trans hu') huid
          exact ⟨w, hw, hsame.trans hsame'⟩
    · exact ⟨t, ht, .refl t⟩

theorem drainStore_donors (c : CtxId) (uid : Nat) : ∀ (n : Nat) (s : State), (drainStore s c uid n).donors = s.donors
  | 0, _ => rfl
  | n + 1, s => by
    unfold drainStore
    split
    · split
      · exact noteRecords_donors _ _ _
      · split
        · rfl
        · exact drainStore_donors c uid n _
    · rfl

/-- A thread that is placed stands in its slot, with what the store holds for it in its queues. -/
theorem placeThread_thread (s : State) (p : Place) (t : Thread) :
    ∃ u, (placeThread s p t).thread p = some u ∧ SameButQueues t u :=
  drainStore_thread _ _ 300 (State.thread_setThread s p t) rfl

@[simp] theorem placeThread_donors (s : State) (p : Place) (t : Thread) : (placeThread s p t).donors = s.donors :=
  drainStore_donors _ _ 300 _

/-- A created thread (R371): its context, entry, role and the registers that its creator sets. -/
theorem createThread_thread (s : State) (c : CtxId) (p : Place) (pc : Word) (role : Role) (slk : Nat) (wid wsp : Word)
    (regs fregs : List (Nat × Word)) (bar : Option Nat) :
    ∃ u, (createThread s c p pc role slk wid wsp regs fregs bar).thread p = some u ∧ u.ctx = c.id ∧ u.pc = pc ∧ u.role = role
      ∧ u.i = regs.foldl (fun v e => v.setIfInBounds e.1 e.2) (Vector.replicate 32 0) := by
  unfold createThread
  dsimp only
  obtain ⟨u, hu, _, _, rfl⟩ := placeThread_thread s.fresh.2 p
    { (Thread.new s.fresh.1 c.id pc p).start regs fregs with
      role := role
      slk := BitVec.ofNat 12 slk
      slkdef := BitVec.ofNat 12 slk
      wid := wid
      wsp := wsp
      seen := match s.fresh.2.ctx c with
        | some x => x.text.version
        | none => 0
      bars := bar.toList.map (fun n => (n, false, [])) }
  exact ⟨_, hu, rfl, rfl, rfl, rfl⟩

/-- The registers of an item or task: three that the creator sets, and the next reads 0. -/
theorem creatorRegs_getElem? (v8 v9 v10 : Word) : ∀ e ∈ [(8, v8), (9, v9), (10, v10), (11, 0)],
    ([(8, v8), (9, v9), (10, v10)].foldl (fun v e => v.setIfInBounds e.1 e.2)
      (Vector.replicate 32 (0 : Word)))[e.1]? = some e.2 := by
  simp

/-- The registers of a spawned child. -/
theorem childRegs_getElem? (v8 v9 v10 v11 : Word) : ∀ e ∈ [(8, v8), (9, v9), (10, v10), (11, v11)],
    ([(8, v8), (9, v9), (10, v10), (11, v11)].foldl (fun v e => v.setIfInBounds e.1 e.2)
      (Vector.replicate 32 (0 : Word)))[e.1]? = some e.2 := by
  simp

/-! ### Teams, items and tasks (R20 to R24, R351, R361, R371) -/

theorem teamPlacement_rotates {s : State} {c : CtxId} {x : Ctx} {k : Kernel} {n d : Nat} (hx : s.ctx c = some x)
    (hk : x.kernel n = some k) (hm : k.map = none) (hn : k.nextTeam < k.teamCount)
    (hd : x.districts[k.rr % x.districts.length]? = some d) :
    Does (.teamPlacement c n) s (s.setKernel c
      { k with teams := k.teams ++ [⟨k.nextTeam, d, 0⟩], nextTeam := k.nextTeam + 1, rr := k.rr + 1 }) := by
  have hne : x.districts.isEmpty = false := List.isEmpty_eq_false_iff.mpr (List.ne_nil_of_mem (List.mem_of_getElem? hd))
  show Host.Outcome.next _ = .next _
  simp [hx, hk, placeTeam, hm, hd, hne, Nat.not_le_of_lt hn]

theorem teamPlacement_byMap {s : State} {c : CtxId} {x : Ctx} {k : Kernel} {n d : Nat} {base stride len : Word}
    (hx : s.ctx c = some x) (hk : x.kernel n = some k) (hm : k.map = some (base, stride, len)) (hn : k.nextTeam < k.teamCount)
    (hd : d ∈ x.districts)
    (hb : mostBytes (residentBytes s c ((base + BitVec.ofNat 64 (k.teamIndex k.nextTeam) * stride).toNat) len.toNat) = some d) :
    Does (.teamPlacement c n) s (s.setKernel c
      { k with teams := k.teams ++ [⟨k.nextTeam, d, 0⟩], nextTeam := k.nextTeam + 1 }) := by
  have hne : x.districts.isEmpty = false := List.isEmpty_eq_false_iff.mpr (List.ne_nil_of_mem hd)
  show Host.Outcome.next _ = .next _
  simp only [hx, hk, placeTeam, hm, hb, hne, Nat.not_le_of_lt hn, Bool.false_eq_true, or_self, if_false]
  simp [Option.filter, hd]

/-- A thread starts in a slot, with some of its registers set. -/
def Starts (s : State) (i : Instr) (c : CtxId) (core slot : Nat) (pc : Word) (role : Role) (regs : List (Nat × Word)) : Prop :=
  ∃ s' u, Does i s s' ∧ s'.thread ⟨c.peer, core, slot⟩ = some u ∧ u.ctx = c.id ∧ u.pc = pc ∧ u.role = role
    ∧ ∀ e ∈ regs, u.i[e.1]? = some e.2

/-- An item or task starts, by a step that creates its thread. -/
theorem starts_of_createThread {s z : State} {i : Instr} {c : CtxId} {core slot slk : Nat} {pc v8 v9 v10 wid wsp : Word}
    {role : Role} {fregs : List (Nat × Word)} {bar : Option Nat}
    (h : Does i s (createThread z c ⟨c.peer, core, slot⟩ pc role slk wid wsp [(8, v8), (9, v9), (10, v10)] fregs bar)) :
    Starts s i c core slot pc role [(8, v8), (9, v9), (10, v10), (11, 0)] := by
  obtain ⟨u, hu, hctx, hpc, hrole, hi⟩ := createThread_thread z c ⟨c.peer, core, slot⟩ pc role slk wid wsp
    [(8, v8), (9, v9), (10, v10)] fregs bar
  exact ⟨_, u, h, hu, hctx, hpc, hrole, hi ▸ creatorRegs_getElem? v8 v9 v10⟩

theorem itemDistribution_starts {s : State} {c : CtxId} {x : Ctx} {k : Kernel} {n dist core slot : Nat} {team : Team}
    (hx : s.ctx c = some x) (hk : x.kernel n = some k) (hl : x.state = .live) (hs : storesOpen s k.uid k.born = false)
    (hslot : itemSlot s c dist = some (core, slot)) (hteam : k.nextFrom dist none = some team) :
    Starts s (.itemDistribution c n dist) c core slot k.entry (.item k.num true team.index)
      [(8, BitVec.ofNat 64 (k.wid team.index team.given)), (9, BitVec.ofNat 64 k.num), (10, k.arg), (11, 0)] := by
  have hd : Does (.itemDistribution c n dist) s (startItem s c k ⟨c.peer, core, slot⟩ team) := by
    show Host.Outcome.next _ = .next _
    simp only [hx, hk, hl, if_true, distribute, hs, Bool.false_eq_true, if_false, hslot, hteam]
  exact starts_of_createThread hd

theorem heapOf_of_kernel {x : Ctx} {k : Kernel} {n : Nat} (hk : x.kernel n = some k) (hm : k.mask ≠ 0) : x.heapOf n = some k := by
  simp [Ctx.heapOf, hk, Option.filter, hm]

theorem dispatch_starts {s s₁ : State} {c : CtxId} {x : Ctx} {k : Kernel} {n core slot heap : Nat} {e : HEntry}
    (hx : s.ctx c = some x) (hk : x.kernel n = some k) (hm : k.mask ≠ 0) (hclosed : k.closed = false) (hclosing : k.closing = false)
    (hl : x.state = .live) (hw : taskWaits x n = false) (hb : k.bound.all (fun e => x.slots.contains e) = true)
    (hslot : freeBound s c k = some (core, slot)) (hheap : k.source (core / 256) = some heap) (he : topOf (k.ready heap) = some e)
    (hput : putKernel s c k (takeEntry s c x k heap e) = .ok s₁) (hs : storesOpen s k.uid k.born = false) :
    Starts s (.dispatch c n) c core slot (k.table[e.sel]?.getD 0) (.task k.num e.key e.gain)
      [(8, e.key.setWidth 64), (9, BitVec.ofNat 64 (core / 256)), (10, k.arg), (11, 0)] := by
  have hd : Does (.dispatch c n) s (createThread s₁ c ⟨c.peer, core, slot⟩ (k.table[e.sel]?.getD 0) (.task k.num e.key e.gain) k.slk
      (zx e.key) 0 [(8, zx e.key), (9, BitVec.ofNat 64 (core / 256)), (10, k.arg)] [(8, zx e.gain)] none) := by
    show Host.Outcome.next _ = .next _
    simp only [hx, heapOf_of_kernel hk hm, hclosed, hclosing, hs, hl, hw, hb, bne_self_eq_false, Bool.not_true, Bool.or_self,
      Bool.false_eq_true, if_false, hslot, dispatchTo, hheap, he, hput]
  exact starts_of_createThread hd

/-! ### Donors (R28) -/

theorem donorResume_returns {s : State} {c : CtxId} {x : Ctx} {p : Place} {t : Thread} {rest : List Thread} {va : Word}
    (hx : s.ctx c = some x) (hd : mgetD s.donors p [] = t :: rest) (hw : t.wait = .donating va) (hc : t.ctxId p = c)
    (hl : x.state = .live) (hfree : s.thread p = none) (hm : ∀ m ∈ s.migs, m.dst ≠ p) (hhit : counterHit s c t va = false)
    (hzero : counterAt s c t va = some 0) :
    ∃ s' u, Does (.donorResume p) s s' ∧ s'.thread p = some u ∧ u.wait = .ended ∧ u.pc = t.pc ∧ u.i = t.i ∧ u.f = t.f
      ∧ mgetD s'.donors p [] = rest := by
  have hmigs : s.migs.any (fun m => m.dst == p) = false := by simpa using hm
  obtain ⟨u, hu, _, _, rfl⟩ := placeThread_thread
    { s with donors := if rest.isEmpty then mdel s.donors p else mset s.donors p rest } p { t with wait := .ended }
  refine ⟨placeThread { s with donors := if rest.isEmpty then mdel s.donors p else mset s.donors p rest } p
    { t with wait := .ended }, _, ?_, hu, rfl, rfl, rfl, rfl, ?_⟩
  · show Host.Outcome.next _ = .next _
    simp [hd, hw, hc, hx, hl, hfree, hmigs, hhit, hzero]
  · rw [placeThread_donors]
    cases rest with
    | nil => simp [mgetD, mget_mdel_same]
    | cons r rs => simp [mgetD]

/-! ### Requests at their units (R355, R358, R374, R377, R378) -/

@[simp] theorem setPacket_threads (s : State) (k : Packet) : (setPacket s k).threads = s.threads := rfl

/-- A unit's answer leaves every slot as it is. -/
theorem answerUnit_threads (s : State) (k : Packet) (qtr : Nat) (vs : List Word) : (answerUnit s k qtr vs).threads = s.threads := by
  have hz : (if k.ctx.peer = k.place.peer then (s, 0) else nextPlane s k.ctx.peer (qtr / 4) none).1.threads = s.threads := by
    by_cases h : k.ctx.peer = k.place.peer <;> simp [h]
  unfold answerUnit
  dsimp only
  generalize (if k.ctx.peer = k.place.peer then (s, 0) else nextPlane s k.ctx.peer (qtr / 4) none) = r at hz
  exact (atQueue_threads _ _ _ _).trans hz

/-- A heap request at its summary heap, by what its step there gives. -/
theorem heapUpdate_answers {s s₁ : State} {q : Packet} {fn n : Nat} {a b v : Word} {k : Kernel} (hq : findPacket s q.id = some q)
    (hp : q.phase = .arrived) (hb : q.body = .heap fn a b n) (hk : s.heapOf q.ctx n = some k)
    (hstep : heapStep s q.ctx n fn (((s.findThread q.uid).map (·.2.apCore)).getD 0)
      (((s.findThread q.uid).map (·.2.locks)).getD []) a b = .ok (s₁, v)) :
    Does (.heapUpdate q.id) s (answerUnit s₁ (q.aged s.now) k.summary [v]) := by
  show Host.Outcome.next _ = .next _
  simp only [hq, hb, hp, hk, Option.map_map, Option.map_some, Option.getD_some]
  simp only [Function.comp_def, hstep]

theorem State.heapOf_of_ctx {s : State} {c : CtxId} {x : Ctx} {k : Kernel} {n : Nat} (hx : s.ctx c = some x)
    (hk : x.heapOf n = some k) : s.heapOf c n = some k := by
  simp [State.heapOf, hx, hk]

theorem heapStep_heapItem {s : State} {c : CtxId} {n : Nat} {k : Kernel} {a b : Word} (hk : s.heapOf c n = some k)
    (hb : badOperand 2 a b = false) (ap : Nat) (locks : List Lock) :
    heapStep s c n 2 ap locks a b = .ok (s, heapItem k (opKey a) b.toNat) := by
  obtain ⟨x, hx, hk⟩ := Option.bind_eq_some_iff.mp hk
  simp [heapStep, hb, hx, hk]

theorem heapStep_top {s : State} {c : CtxId} {n : Nat} {k : Kernel} {a b : Word} {e : HEntry} (hk : s.heapOf c n = some k)
    (hb : badOperand 6 a b = false) (hclosed : k.closed = false) (hclosing : k.closing = false) (he : k.topReady = some e)
    (ap : Nat) (locks : List Lock) : heapStep s c n 6 ap locks a b = .ok (s, withBit63 (2 ^ 32 * k.home e.key + e.key.toNat)) := by
  obtain ⟨x, hx, hk⟩ := Option.bind_eq_some_iff.mp hk
  simp [heapStep, hb, hx, hk, Kernel.topWord, hclosed, hclosing, he]

theorem spawnAccept_starts {s : State} {q : Packet} {core slot slk : Nat} {entry a0 a1 a2 a3 wid : Word}
    (hq : findPacket s q.id = some q) (hp : q.phase = .arrived) (hb : q.body = .spawn core entry [a0, a1, a2, a3] wid slk)
    (hs : storesOpen s q.uid q.id = false) (ht : spawnTurn s q = true)
    (hslot : lowest ((s.freeSlots q.ctx).filter (fun e => e.1 == core)) = some (core, slot))
    (hroom : storeUsed s q.ctx.peer (core / 256) < 256) :
    Starts s (.spawnAccept q.id) q.ctx core slot entry .child [(8, a0), (9, a1), (10, a2), (11, a3)] := by
  have hd : Does (.spawnAccept q.id) s
      (answerUnit (startChild s q.ctx core slot (core / 256) entry [a0, a1, a2, a3] wid slk) q (core / 256) [0]) := by
    show Host.Outcome.next _ = .next _
    simp only [hq, hb, hp, hs, ht, Bool.not_true, Bool.or_self, Bool.false_eq_true, if_false, hslot, Nat.not_le_of_lt hroom]
  obtain ⟨u, hu, hctx, hpc, hrole, hi⟩ := createThread_thread s q.ctx ⟨q.ctx.peer, core, slot⟩ entry .child slk wid (a3 &&& ~~~7)
    [(8, a0), (9, a1), (10, a2), (11, a3)] [] none
  refine ⟨_, u, hd, ?_, hctx, hpc, hrole, hi ▸ childRegs_getElem? a0 a1 a2 a3⟩
  unfold State.thread
  rw [answerUnit_threads]
  exact hu

theorem spawnAccept_refuses {s : State} {q : Packet} {core slk : Nat} {entry wid : Word} {args : List Word}
    (hq : findPacket s q.id = some q) (hp : q.phase = .arrived) (hb : q.body = .spawn core entry args wid slk)
    (hs : storesOpen s q.uid q.id = false) (ht : spawnTurn s q = true)
    (hfree : (s.freeSlots q.ctx).filter (fun e => e.1 == core) = []) :
    Does (.spawnAccept q.id) s (answerUnit s q (core / 256) [statusWord stNoSlot]) := by
  show Host.Outcome.next _ = .next _
  simp only [hq, hb, hp, hs, ht, Bool.not_true, Bool.or_self, Bool.false_eq_true, if_false, hfree]
  rfl

/-! ### What a write of the device leaves: the contexts (R220, R332) -/

theorem foldl_ctxs {β : Type} {f : State → β → State} (hf : ∀ s b, (f s b).ctxs = s.ctxs) :
    ∀ (l : List β) (s : State), (l.foldl f s).ctxs = s.ctxs
  | [], _ => rfl
  | b :: l, s => (foldl_ctxs hf l (f s b)).trans (hf s b)

theorem abortPlace_ctxs (s : State) (p : Place) (counts : Bool) : (abortPlace s p counts).ctxs = s.ctxs := by
  unfold abortPlace
  split <;> rfl

theorem repairLine_ctxs (s : State) (sa n l : Nat) : (repairLine s sa n l).ctxs = s.ctxs := by
  unfold repairLine
  dsimp only
  split <;> rfl

theorem extWrite_ctxs (s : State) (skip : Option Nat) (sa : Nat) (data : List Byte) : (extWrite s skip sa data).ctxs = s.ctxs := by
  unfold extWrite extWriteBy
  split
  · rfl
  · exact (foldl_ctxs (fun s (e : Place × Thread) => abortPlace_ctxs s e.1 true) _ _).trans
      (foldl_ctxs (fun s l => repairLine_ctxs s sa data.length l) _ (s.writes sa data))

theorem touch_isSome {s : State} {c : CtxId} (h : (s.ctx c).isSome = true) (sa : Nat) : ((touch s c sa).ctx c).isSome = true := by
  obtain ⟨x, hx⟩ := Option.isSome_iff_exists.mp h
  rw [touch, State.updCtx_some hx, State.ctx_setCtx]
  rfl

theorem deviceWrite_isSome {c : CtxId} {ap : Nat} {locks : List Lock} {s₁ : State} : ∀ (fuel : Nat) {s : State} {va : Word}
    {bs : List Byte}, (s.ctx c).isSome = true → deviceWrite s c ap locks fuel va bs = .ok s₁ → (s₁.ctx c).isSome = true
  | 0, s, va, bs, h, hw => by
    cases hw
    exact h
  | fuel + 1, s, va, bs, h, hw => by
    unfold deviceWrite at hw
    split at hw
    · cases hw
      exact h
    · dsimp only at hw
      split at hw
      · split at hw
        · split at hw
          · cases hw
          · refine deviceWrite_isSome fuel ?_ hw
            unfold State.ctx
            rw [extWrite_ctxs]
            exact touch_isSome h _
        · exact deviceWrite_isSome fuel h hw
      · cases hw
      · exact deviceWrite_isSome fuel h hw

theorem writeStat_isSome {s s₁ : State} {c : CtxId} {x : Ctx} {bar : Nat} {bs : List Byte} (h : (s.ctx c).isSome = true)
    (hw : writeStat s c x bar bs = .ok s₁) : (s₁.ctx c).isSome = true := by
  unfold writeStat at hw
  split at hw
  · exact deviceWrite_isSome 3 h hw
  · cases hw
  · cases hw
    exact h

/-! ### A barrier's statistics (R332) -/

theorem statisticsGather_does {s : State} {c : CtxId} {x : Ctx} {bar : Nat} {b : Barrier} (hx : s.ctx c = some x)
    (hb : mgetD x.barriers bar Barrier.reset = b) (hstat : b.stat = true) (harea : x.barb.toNat / 2 ^ 21 ≠ 0)
    (hg : b.gathered = false) (he : b.e ≠ 0) (hc : b.e ≤ b.count) :
    Does (.statisticsGather c bar) s (zeroCounters (setBarrier s c bar
      { b with count := b.count - b.e, gathered := true, record := some (statRecord s c x bar b) }) c x) := by
  subst hb
  show Host.Outcome.next _ = .next _
  simp only [hx, hstat, harea, hg, he, Nat.not_lt_of_le hc, decide_false, Bool.not_true, Bool.or_self, Bool.false_eq_true, if_false]

theorem statisticsFlip_flips {s s₁ : State} {c : CtxId} {x : Ctx} {bar : Nat} {b : Barrier} (hx : s.ctx c = some x)
    (hb : mgetD x.barriers bar Barrier.reset = b) (hg : b.gathered = true)
    (hw : writeStat s c x bar (b.record.getD []) = .ok s₁) :
    ∃ s' y, Does (.statisticsFlip c bar) s s' ∧ s'.mem = s₁.mem ∧ s'.ctx c = some y
      ∧ mgetD y.barriers bar Barrier.reset
        = { b with gathered := false, record := none, phase := !b.phase, flips := b.flips + 1 } := by
  subst hb
  obtain ⟨x₁, hx₁⟩ := Option.isSome_iff_exists.mp (writeStat_isSome (by rw [hx]; rfl) hw)
  let b' : Barrier := { mgetD x.barriers bar Barrier.reset with
    gathered := false, record := none, phase := !(mgetD x.barriers bar Barrier.reset).phase,
    flips := (mgetD x.barriers bar Barrier.reset).flips + 1 }
  refine ⟨wakeBarrier (setBarrier s₁ c bar b') c bar, { x₁ with barriers := mset x₁.barriers bar b' }, ?_, ?_, ?_, ?_⟩
  · show Host.Outcome.next _ = .next _
    simp only [hx, hg, hw, Put.orWait, if_true]
    rfl
  · exact State.mem_updCtx _ _ _
  · show (setBarrier s₁ c bar b').ctx c = _
    rw [setBarrier, State.updCtx_some hx₁, State.ctx_setCtx]
  · simp [mgetD, b']

theorem statisticsFlip_waits {s : State} {c : CtxId} {x : Ctx} {bar : Nat} {b : Barrier} (hx : s.ctx c = some x)
    (hb : mgetD x.barriers bar Barrier.reset = b) (hg : b.gathered = true)
    (hw : writeStat s c x bar (b.record.getD []) = .held) : Does (.statisticsFlip c bar) s s := by
  subst hb
  show Host.Outcome.next _ = .next _
  simp only [hx, hg, hw, Put.orWait, if_true]

/-- Settles O45, from what each step of a kernel comes to. -/
theorem kernelSteps : Obligations.KernelSteps := by
  unfold Obligations.KernelSteps
  intro s c x k n hx hk
  refine ⟨fun d => teamPlacement_rotates hx hk, fun base stride len d => teamPlacement_byMap hx hk,
    fun dist core slot team => itemDistribution_starts hx hk, fun core slot heap e s₁ => dispatch_starts hx hk,
    fun p t rest va => donorResume_returns hx, ?_, ?_, ?_, fun bar => ⟨statisticsGather_does hx rfl,
      fun s₁ => statisticsFlip_flips hx rfl, statisticsFlip_waits hx rfl⟩⟩
  · rintro q fn a b s₁ v hq hp hb rfl hu hh hstep
    exact heapUpdate_answers hq hp hb (State.heapOf_of_ctx hx hh) (by rw [hu]; exact hstep)
  · rintro q a b v hq hp rfl hh h
    have hs := State.heapOf_of_ctx hx hh
    rcases h with ⟨hb, hok, rfl⟩ | ⟨hb, hok, hclosed, hclosing, e, he, rfl⟩
    · exact heapUpdate_answers hq hp hb hs (heapStep_heapItem hs hok _ _)
    · exact heapUpdate_answers hq hp hb hs (heapStep_top hs hok hclosed hclosing he _ _)
  · rintro q core entry a0 a1 a2 a3 wid slk slot hq hp hb rfl hs ht
    exact ⟨spawnAccept_starts hq hp hb hs ht, spawnAccept_refuses hq hp hb hs ht⟩

end Sys2Proof.Machine

/-! ## A slot's thread, operation by operation (R33, R57, R58, R67, R70, R71, R76) -/

namespace Sys2Proof.Machine

/-! ### A thread that is put back, and put twice -/

theorem mset_self {κ α : Type} [DecidableEq κ] {m : Map κ α} {k : κ} {v : α} (h : mget m k = some v) : mset m k v = m := by
  induction m with
  | nil => cases h
  | cons e m ih =>
    obtain ⟨j, w⟩ := e
    by_cases hj : j = k
    · subst hj
      obtain rfl : w = v := by simpa [mget] using h
      simp [mset]
    · simp only [mget, hj, if_false] at h
      simp [mset, hj, ih h]

theorem mset_mset {κ α : Type} [DecidableEq κ] (m : Map κ α) (k : κ) (v w : α) : mset (mset m k v) k w = mset m k w := by
  induction m with
  | nil => simp [mset]
  | cons e m ih =>
    obtain ⟨j, x⟩ := e
    by_cases hj : j = k <;> simp [mset, hj, ih]

theorem State.setThread_self {s : State} {p : Place} {t : Thread} (h : s.thread p = some t) : s.setThread p t = s := by
  unfold State.setThread
  rw [mset_self h]

@[simp] theorem State.setThread_setThread (s : State) (p : Place) (t u : Thread) :
    (s.setThread p t).setThread p u = s.setThread p u := by
  simp [State.setThread, mset_mset]

theorem State.updThread_some {s : State} {p : Place} {t : Thread} (h : s.thread p = some t) (f : Thread → Thread) :
    s.updThread p f = s.setThread p (f t) := by
  simp only [State.updThread, h]

/-! ### TSTAT (R76): each field of a status word that is made of its fields -/

section StatusWord

variable (depth ne pne frm fi fk fc : Nat)

@[simp] theorem tsDepth_tsMake : tsDepth (tsMake depth ne pne frm fi fk fc) = depth % 4 := by
  unfold tsDepth wbits tsMake
  rw [BitVec.toNat_ofNat]
  omega

@[simp] theorem tsNE_tsMake : tsNE (tsMake depth ne pne frm fi fk fc) = ne % 2 := by
  unfold tsNE wbits tsMake
  rw [BitVec.toNat_ofNat]
  omega

@[simp] theorem tsPNE_tsMake : tsPNE (tsMake depth ne pne frm fi fk fc) = pne % 2 := by
  unfold tsPNE wbits tsMake
  rw [BitVec.toNat_ofNat]
  omega

@[simp] theorem tsFRM_tsMake : tsFRM (tsMake depth ne pne frm fi fk fc) = frm % 2 := by
  unfold tsFRM wbits tsMake
  rw [BitVec.toNat_ofNat]
  omega

@[simp] theorem tsFI_tsMake : tsFI (tsMake depth ne pne frm fi fk fc) = fi % 32 := by
  unfold tsFI wbits tsMake
  rw [BitVec.toNat_ofNat]
  omega

@[simp] theorem tsFK_tsMake : tsFK (tsMake depth ne pne frm fi fk fc) = fk % 65536 := by
  unfold tsFK wbits tsMake
  rw [BitVec.toNat_ofNat]
  omega

@[simp] theorem tsFC_tsMake : tsFC (tsMake depth ne pne frm fi fk fc) = fc % 65536 := by
  unfold tsFC wbits tsMake
  rw [BitVec.toNat_ofNat]
  omega

end StatusWord

theorem tsDepth_lt (x : Word) : tsDepth x < 4 := Nat.mod_lt _ (by decide)
theorem tsNE_lt (x : Word) : tsNE x < 2 := Nat.mod_lt _ (by decide)
theorem tsPNE_lt (x : Word) : tsPNE x < 2 := Nat.mod_lt _ (by decide)
theorem tsFI_lt (x : Word) : tsFI x < 32 := Nat.mod_lt _ (by decide)
theorem tsFK_lt (x : Word) : tsFK x < 65536 := Nat.mod_lt _ (by decide)
theorem tsFC_lt (x : Word) : tsFC x < 65536 := Nat.mod_lt _ (by decide)

/-! ### Taking a trap (R71) -/

theorem drain_quiet {s : State} {p : Place} {t : Thread} (ht : s.thread p = some t) (hp : t.pend = []) : drain s p = s := by
  have hsame : ({ t with pend := [] } : Thread) = t := by rw [← hp]
  simp only [drain, ht, hp, List.foldl_nil, State.updThread_some ht, hsame]
  exact State.setThread_self ht

/-- A handled trap of a slot with no result under way is entered at once. -/
theorem raise_enters {s : State} {p : Place} {t : Thread} {c : Trap} (ht : s.thread p = some t) (hh : t.isHandler = false)
    (hp : t.pend = []) (hu : unhandled t.tstat c.code = false) :
    raise s p c = { s with stalled := false }.setThread p (t.enterTrap c) := by
  have hs : t.settled = true := by simp [Thread.settled, hp]
  have ht' : ({ s with stalled := false } : State).thread p = some t := ht
  unfold raise
  simp only [ht, hs, Bool.not_true, Bool.false_eq_true, if_false, drain_quiet ht hp, ht', hu]
  cases hr : t.role <;> simp_all [Thread.isHandler]

/-- Settles O10, from what a handled trap's entry writes. -/
theorem trapEntry : Obligations.TrapEntry := by
  unfold Obligations.TrapEntry
  refine ⟨fun s t code v ht hh hp hr hu => ?_, fun s t r code v ht hh hp hr hu hi hk hc => ?_⟩
  · rw [raise_enters ht hh hp hu]
    refine ⟨_, State.thread_setThread _ _ _, ?_⟩
    simp [Thread.enterTrap, hr, Nat.mod_eq_of_lt (tsNE_lt t.tstat)]
  · rw [raise_enters ht hh hp hu]
    refine ⟨_, State.thread_setThread _ _ _, ?_⟩
    have hi' : r.i < 32 := by omega
    simp [Thread.enterTrap, hr, Nat.mod_eq_of_lt, hi', hk, hc]

end Sys2Proof.Machine


namespace Sys2Proof

open Machine

/-! ## What an issue comes to, by what its body answers (R41, R60) -/

section Bodies

variable {i : Instr} {word : Word} {uses : List Dst} {body : Place → Thread → Core → State → Res} {s s' : State} {t : Thread}

theorem exec_of_body {r : Res} (h : CanIssue s t uses) (hi : exec i s = issue word uses false body s)
    (hb : body s.turn t (coreNow s) s = r) : exec i s = finish s s.turn false r := by
  rw [hi, issue_next h, hb]

theorem jumps_of_body {pc : Word} (h : CanIssue s t uses) (hi : exec i s = issue word uses false body s)
    (hb : body s.turn t (coreNow s) s = .jump s' pc) : Jumps i s s' pc :=
  exec_of_body h hi hb

theorem traps_of_body {code : Nat} {v : Word} (h : CanIssue s t uses) (hi : exec i s = issue word uses false body s)
    (hb : body s.turn t (coreNow s) s = .trap ⟨code, v⟩) : Traps i s code v :=
  exec_of_body h hi hb

end Bodies

/-! ## ERET (R73), and O12 -/

section ReturnFromTrap

variable {s : State} {t : Thread}

theorem eret_traps (h : CanIssue s t []) (hd : tsDepth t.tstat = 0) : Traps .eret s 0x01 0x3E000001 :=
  traps_of_body h rfl (if_pos hd)

theorem eret_leaves (h : CanIssue s t []) (hd : tsDepth t.tstat ≠ 0) (hf : tsFRM t.tstat = 0) :
    Jumps .eret s (s.setThread s.turn t.leaveTrap) t.tpc := by
  refine jumps_of_body h rfl ?_
  simp only [hd, hf, if_false, Nat.zero_ne_one]

/-- What a fetch asks of a thread is the same behind its trap. The new TSTAT is named first: comparing it with the old one would be
to compute both. -/
theorem leaveTrap_fetches (t : Thread) : t.leaveTrap.ctx = t.ctx ∧ t.leaveTrap.locks = t.locks ∧ t.leaveTrap.seen = t.seen
    ∧ t.leaveTrap.loops = t.shadow := by
  unfold Thread.leaveTrap
  generalize tsMake _ _ _ _ _ _ _ = x
  exact ⟨rfl, rfl, rfl, rfl⟩

/-- The recapture looks at what the thread keeps in common with the one that has left its trap. -/
theorem capture_congr {t u : Thread} (hc : u.ctx = t.ctx) (hk : u.locks = t.locks) (hs : u.seen = t.seen) (hl : u.loops = t.loops)
    (s : State) (p : Place) : ∀ (n : Nat) (va : Word), capture s p u n va = capture s p t n va
  | 0, _ => rfl
  | n + 1, va => by
    unfold capture
    simp only [Thread.ctxId, hc, hk, hs, hl, capture_congr hc hk hs hl s p n]

theorem recapture_ok {p : Place} {u : Thread} {fb : Word} {w : Nat} {ws : List Nat}
    (hw : fetch s (u.ctxId p) u.locks u.seen fb = .inl w) (hop : w / 2 ^ 25 = 0x1A) (hz : w % 128 = 0)
    (hc : capture s p u (w / 2 ^ 21 % 16 + 1) (fb + 4) = .ok ws) :
    recapture s p u fb = .ok ws (BitVec.ofNat 3 (w / 2 ^ 18)) (w / 2 ^ 13 % 32) := by
  have h1 : fld w 25 7 = 0x1A := by rw [fld, hop]; norm_num
  have h0 : fld w 0 7 = 0 := by rw [fld, Nat.pow_zero, Nat.div_one]; norm_num [hz]
  have hl : fld w 21 4 = w / 2 ^ 21 % 16 := by rw [fld]; norm_num
  have hs : fld w 13 5 = w / 2 ^ 13 % 32 := by rw [fld]; norm_num
  unfold recapture
  simp only [hw, h1, h0, hl, hs, hc, ne_eq, not_true_eq_false, or_self, if_false, bits]

/-- ERET of a trap taken inside a replay, once the frame is captured again: the replay is started from the state behind the trap. -/
theorem eret_replays {w : Nat} {ws : List Nat} (h : CanIssue s t []) (hd : tsDepth t.tstat ≠ 0) (hf : tsFRM t.tstat = 1)
    (hw : fetch s (t.ctxId s.turn) t.locks t.seen (t.tpc - 4 * BitVec.ofNat 64 (tsFI t.tstat + 1)) = .inl w)
    (hop : w / 2 ^ 25 = 0x1A) (hz : w % 128 = 0)
    (hc : capture s s.turn { t with loops := t.shadow } (w / 2 ^ 21 % 16 + 1)
      (t.tpc - 4 * BitVec.ofNat 64 (tsFI t.tstat + 1) + 4) = .ok ws) :
    exec .eret s = finish s s.turn false (startReplay (s.setThread s.turn (t.leaveTrap.resumed ws.length)) s.turn
      (t.tpc - 4 * BitVec.ofNat 64 (tsFI t.tstat + 1)) ws (BitVec.ofNat 3 (w / 2 ^ 18)) (w / 2 ^ 13 % 32) (tsFC t.tstat)
      (tsFK t.tstat) (tsFI t.tstat)) := by
  obtain ⟨hctx, hlocks, hseen, hloops⟩ := leaveTrap_fetches t
  have hw' : fetch s (t.leaveTrap.ctxId s.turn) t.leaveTrap.locks t.leaveTrap.seen
      (t.tpc - 4 * BitVec.ofNat 64 (tsFI t.tstat + 1)) = .inl w := by
    simpa only [Thread.ctxId, hctx, hlocks, hseen] using hw
  have hr := recapture_ok hw' hop hz
    ((capture_congr (t := { t with loops := t.shadow }) hctx hlocks hseen hloops s s.turn _ _).trans hc)
  refine exec_of_body h rfl ?_
  simp only [hd, hf, hr, if_false, if_true]

/-- A replay that is started within its frame. -/
theorem startReplay_goes {p : Place} {u : Thread} (hu : s.thread p = some u) {fb : Word} {ws : List Nat} {mask : BitVec 3}
    {stp count k i i' k' : Nat} (hi : i' = if ws.length ≤ i then 0 else i)
    (hk : k' = if ws.length ≤ i then (k + 1) % 65536 else k) :
    (k' ≠ count → startReplay s p fb ws mask stp count k i
      = .jump (s.setThread p { u with replay := some ⟨fb, ws, mask, stp, count, k', i'⟩ }) (fb + 4 * BitVec.ofNat 64 (i' + 1)))
    ∧ (k' = count → startReplay s p fb ws mask stp count k i
      = .jump (s.setThread p { u with replay := none }) (fb + 4 * BitVec.ofNat 64 (ws.length + 1))) := by
  subst hi hk
  refine ⟨fun h => ?_, fun h => ?_⟩ <;> simp only [startReplay, h, if_true, if_false, State.updThread_some hu]

theorem leaveTrap_tstat (t : Thread) : t.leaveTrap.tstat = tsMake (tsDepth t.tstat - 1) (tsPNE t.tstat) (tsPNE t.tstat)
    (tsFRM t.tstat) (tsFI t.tstat) (tsFK t.tstat) (tsFC t.tstat) := rfl

theorem resumed_tstat (t : Thread) (len : Nat) : (t.resumed len).tstat = tsMake (tsDepth t.tstat) (tsNE t.tstat) (tsPNE t.tstat) 0
    (if decide (len ≤ tsFI t.tstat) then 0 else tsFI t.tstat)
    (if decide (len ≤ tsFI t.tstat) then (tsFK t.tstat + 1) % 65536 else tsFK t.tstat) (tsFC t.tstat) := rfl

theorem resumed_loops (t : Thread) (len : Nat) : (t.leaveTrap.resumed len).loops = t.shadow := by
  obtain ⟨_, _, _, hloops⟩ := leaveTrap_fetches t
  unfold Thread.resumed
  generalize tsMake _ _ _ _ _ _ _ = x
  exact hloops

/-- The fields of TSTAT behind the recapture of a frame of `len` words. -/
theorem resumed_fields (t : Thread) (len : Nat) :
    tsFRM (t.leaveTrap.resumed len).tstat = 0
      ∧ tsDepth (t.leaveTrap.resumed len).tstat = tsDepth t.tstat - 1
      ∧ tsFI (t.leaveTrap.resumed len).tstat = (if len ≤ tsFI t.tstat then 0 else tsFI t.tstat)
      ∧ tsFK (t.leaveTrap.resumed len).tstat = (if len ≤ tsFI t.tstat then (tsFK t.tstat + 1) % 65536 else tsFK t.tstat)
      ∧ tsFC (t.leaveTrap.resumed len).tstat = tsFC t.tstat := by
  have hdepth : tsDepth t.tstat - 1 < 4 := by have := tsDepth_lt t.tstat; omega
  have hfi := Nat.mod_eq_of_lt (tsFI_lt t.tstat)
  have hfk := Nat.mod_eq_of_lt (tsFK_lt t.tstat)
  have hfc := Nat.mod_eq_of_lt (tsFC_lt t.tstat)
  by_cases h : len ≤ tsFI t.tstat <;>
    simp [resumed_tstat, leaveTrap_tstat, Nat.mod_eq_of_lt hdepth, hfi, hfk, hfc, h]

/-- Settles O12: outside a replay the return is one jump; inside one it is the start of the replay that was left. -/
theorem trapReturn : Obligations.TrapReturn := by
  unfold Obligations.TrapReturn
  refine ⟨fun s t h => ⟨eret_traps h, fun hd hf => ⟨t.leaveTrap, eret_leaves h hd hf, ?_⟩⟩, ?_⟩
  · have hdepth : tsDepth t.tstat - 1 < 4 := by have := tsDepth_lt t.tstat; omega
    simp [Thread.leaveTrap, Nat.mod_eq_of_lt hdepth, Nat.mod_eq_of_lt (tsPNE_lt t.tstat), hf]
  · intro s t w ws h hd hf fi fk fc fb n runs past _ hw hop hz hc hn
    have hx := eret_replays h hd hf hw hop hz hc
    obtain ⟨hfrm, hdepth, hfi, hfk, hfc⟩ := resumed_fields t ws.length
    have hloops := resumed_loops t ws.length
    have resumes : ∀ i k, (if ws.length ≤ fi then 0 else fi) = i → (if ws.length ≤ fi then (fk + 1) % 65536 else fk) = k →
        (k ≠ fc → runs i k) ∧ (k = fc → past i k) := by
      rintro i k hi hk
      obtain ⟨replays, ends⟩ := startReplay_goes (State.thread_setThread s s.turn (t.leaveTrap.resumed ws.length)) (fb := fb)
        (ws := ws) (mask := BitVec.ofNat 3 (w / 2 ^ 18)) (stp := w / 2 ^ 13 % 32) (count := fc) hi.symm hk.symm
      rw [State.setThread_setThread] at replays ends
      refine ⟨fun hne => ⟨_, hx.trans (congrArg _ (replays hne)), ?_⟩, fun he =>
        ⟨{ t.leaveTrap.resumed ws.length with replay := none }, ?_, ?_⟩⟩
      · exact ⟨rfl, hloops, hfrm, hdepth, hfi.trans hi, hfk.trans hk, hfc⟩
      · rw [← hn]
        exact hx.trans (congrArg _ (ends he))
      · exact ⟨rfl, hloops, hfrm, hdepth, hfi.trans hi, hfk.trans hk, hfc⟩
    have within (hlt : fi < n) := resumes fi fk (if_neg (by omega)) (if_neg (by omega))
    have behind (he : fi = n) (hk : fk + 1 < 65536) :=
      resumes 0 (fk + 1) (if_pos (by omega)) ((if_pos (by omega)).trans (Nat.mod_eq_of_lt hk))
    exact ⟨fun hlt => (within hlt).1, fun hlt => (within hlt).2, fun he hk => (behind he hk).1, fun he hk => (behind he hk).2⟩

end ReturnFromTrap
end Sys2Proof


/-! ## Retirement (R57, R58, R66 to R70, R219), and O60 -/

namespace Sys2Proof.Machine

section Retirement

variable {s : State} {p : Place} {t : Thread}

/-- The thread of an instruction that has issued and transfers no control, before its results are looked at. -/
def Thread.retired (t : Thread) (keepOnce : Bool) : Thread := (t.issued keepOnce).age.advance

theorem advance_eq (t : Thread) : ∃ q l pc, t.advance = { t with replay := q, loops := l, pc := pc } := by
  unfold Thread.advance
  split
  · exact ⟨_, t.loops, _, rfl⟩
  · exact ⟨t.replay, _, _, rfl⟩

/-- A retirement leaves the registers and the region of the thread, and ages its pending results. -/
theorem retired_keeps (t : Thread) (keepOnce : Bool) : (t.retired keepOnce).i = t.i ∧ (t.retired keepOnce).f = t.f
    ∧ (t.retired keepOnce).region = t.region
    ∧ (t.retired keepOnce).pend = t.pend.map (fun q => { q with left := q.left - 1 }) := by
  obtain ⟨q, l, pc, h⟩ := advance_eq (t.issued keepOnce).age
  unfold Thread.retired
  rw [h]
  exact ⟨rfl, rfl, rfl, rfl⟩

/-- Outside a replay the levels step (R67). -/
theorem retired_loops (hr : t.replay = none) (keepOnce : Bool) :
    (t.retired keepOnce).loops = (t.loops.step t.pc).1 ∧ (t.retired keepOnce).pc = (t.loops.step t.pc).2 := by
  have h : (t.issued keepOnce).age.replay = none := hr
  unfold Thread.retired Thread.advance
  rw [h]
  exact ⟨rfl, rfl⟩

/-! ### Pending results (R57, R58) -/

theorem flush_nothing (ht : s.thread p = some t) (hq : ∀ q ∈ t.pend, q.ready = false) : flush s p = s := by
  have hf : t.pend.filter (fun q => !q.ready) = t.pend := List.filter_eq_self.mpr (fun q h => by simp [hq q h])
  have hfold : t.pend.foldl (fun s q => if q.ready then writePend s p q else s) s = s := by
    refine List.foldlRecOn (motive := fun z => z = s) t.pend _ rfl (fun z hz q h => ?_)
    simp [hq q h, hz]
  have hsame : ({ t with pend := t.pend.filter (fun q => !q.ready) } : Thread) = t := by rw [hf]
  simp only [flush, ht, hfold, State.updThread_some ht, hsame]
  exact State.setThread_self ht

/-- The one pending result of a thread is due: it is written, and nothing is pending. -/
theorem flush_one {q : Pend} (ht : s.thread p = some t) (hp : t.pend = [q]) (hq : q.ready = true) :
    flush s p = (writePend s p q).updThread p (fun u => { u with pend := u.pend.filter (fun q => !q.ready) }) := by
  simp [flush, ht, hp, hq]

/-- A register of the slot is written at once. -/
theorem putReg_own {d : Dst} (hd : isShared d.reg = false) (ht : s.thread p = some t) (v : Word) (at_ : Nat) :
    s.putReg p d v at_ = s.setThread p (t.setReg d v) := by
  simp [State.putReg, hd, State.updThread_some ht]

/-- A register of the slot is written by an ordinary instruction, and what was pending for it is discarded (R58). -/
theorem writeReg_own {d : Dst} (hd : isShared d.reg = false) (ht : s.thread p = some t) (v : Word) :
    s.writeReg p d v = s.setThread p ((t.discard d).setReg d v) := by
  unfold State.writeReg
  rw [State.updThread_some ht, putReg_own hd (State.thread_setThread _ _ _), State.setThread_setThread]

theorem setReg_pend (t : Thread) (d : Dst) (v : Word) : (t.setReg d v).pend = t.pend := by
  unfold Thread.setReg
  split
  · rfl
  · split <;> rfl

theorem setReg_withPend (t : Thread) (qs : List Pend) (d : Dst) (v : Word) :
    { Thread.setReg { t with pend := qs } d v with pend := [] } = { t.setReg d v with pend := [] } := by
  unfold Thread.setReg
  split
  · rfl
  · split <;> rfl

/-- A due result of an integer register of the slot that no later write has discarded. -/
theorem flush_writes {k left : Nat} {r : Reg} {v : Word} (ht : s.thread p = some t) (hr : isShared r = false)
    (hp : t.pend = [⟨k, [ri r], left, some [v], [], false, none⟩]) (hl : left = 0) :
    flush s p = s.setThread p { t.setReg (ri r) v with pend := [] } := by
  subst hl
  rw [flush_one ht hp rfl]
  have hw : writePend s p ⟨k, [ri r], 0, some [v], [], false, none⟩ = s.setThread p (t.setReg (ri r) v) := by
    simpa [writePend] using putReg_own (d := ri r) hr ht v _
  rw [hw, State.updThread_some (State.thread_setThread _ _ _), State.setThread_setThread, setReg_pend, hp]
  rfl

/-- A due result that a later write has discarded is gone. -/
theorem flush_discards {k left : Nat} {r : Reg} {v : Word} (ht : s.thread p = some t)
    (hp : t.pend = [⟨k, [ri r], left, some [v], [ri r], false, none⟩]) (hl : left = 0) :
    flush s p = s.setThread p { t with pend := [] } := by
  subst hl
  rw [flush_one ht hp rfl]
  have hw : writePend s p ⟨k, [ri r], 0, some [v], [ri r], false, none⟩ = s := by simp [writePend]
  rw [hw, State.updThread_some ht, hp]
  rfl

/-! ### What a retirement comes to -/

theorem autoCommit_few (ht : s.thread p = some t) (hl : t.region.lines < 48) : autoCommit s p = s := by
  simp [autoCommit, ht, Nat.not_le_of_lt hl]

/-- The slot's thread behind a retirement, in a region that keeps room: what the results that are due have made of it. -/
theorem retire_thread {keepOnce : Bool} {u : Thread} (ht : s.thread p = some t)
    (hz : flush (s.setThread p (t.retired keepOnce)) p = s.setThread p u) (hl : u.region.lines < 48) :
    (retire s p keepOnce).thread p = some u := by
  have hu := State.thread_setThread s p u
  unfold Thread.retired at hz
  unfold retire
  rw [State.updThread_some ht]
  simp only [hz, autoCommit_few hu hl]
  exact hu

theorem retire_nothing_due {keepOnce : Bool} (ht : s.thread p = some t) (hl : t.region.lines < 48)
    (hq : ∀ q ∈ (t.retired keepOnce).pend, q.ready = false) : (retire s p keepOnce).thread p = some (t.retired keepOnce) := by
  obtain ⟨_, _, hreg, _⟩ := retired_keeps t keepOnce
  exact retire_thread ht (flush_nothing (State.thread_setThread _ _ _) hq) (by rw [hreg]; exact hl)

theorem retire_quiet {keepOnce : Bool} (ht : s.thread p = some t) (hq : Quiet t) :
    (retire s p keepOnce).thread p = some (t.retired keepOnce) := by
  obtain ⟨_, _, _, hpend⟩ := retired_keeps t keepOnce
  exact retire_nothing_due ht (Nat.lt_succ_of_lt hq.room) (by simp [hpend, hq.pend])

/-- The last instruction of a result's window retires. -/
theorem retire_writes {keepOnce : Bool} {k : Nat} {r : Reg} {v : Word} (ht : s.thread p = some t) (hl : t.region.lines < 48)
    (hr : isShared r = false) (hp : t.pend = [⟨k, [ri r], 1, some [v], [], false, none⟩]) :
    (retire s p keepOnce).thread p = some { (t.retired keepOnce).setReg (ri r) v with pend := [] } := by
  obtain ⟨_, _, hreg, hpend⟩ := retired_keeps t keepOnce
  rw [hp] at hpend
  refine retire_thread ht ?_ ?_
  · rw [flush_writes (State.thread_setThread _ _ _) hr hpend rfl, State.setThread_setThread]
  · rw [show _ = (t.retired keepOnce).region from setReg_region _ _ _, hreg]
    exact hl

/-- It retires, and a later write has discarded the result. -/
theorem retire_discards {keepOnce : Bool} {k : Nat} {r : Reg} {v : Word} (ht : s.thread p = some t) (hl : t.region.lines < 48)
    (hp : t.pend = [⟨k, [ri r], 1, some [v], [ri r], false, none⟩]) :
    (retire s p keepOnce).thread p = some { t.retired keepOnce with pend := [] } := by
  obtain ⟨_, _, hreg, hpend⟩ := retired_keeps t keepOnce
  rw [hp] at hpend
  refine retire_thread ht ?_ ?_
  · rw [flush_discards (State.thread_setThread _ _ _) hpend rfl, State.setThread_setThread]
  · rw [show _ = (t.retired keepOnce).region from rfl, hreg]
    exact hl

end Retirement

/-! ### Reading registers back -/

theorem isShared_eq_false {r : Reg} : isShared r = false ↔ r.toNat < 32 := by simp [isShared]

/-- An integer register of the slot reads what was written; i0 reads 0. -/
theorem readI_setReg_same (k : Core) (t : Thread) {r : Reg} (hr : isShared r = false) (v : Word) :
    readI k (t.setReg (ri r) v) r = if r = 0 then 0 else v := by
  have hlt := isShared_eq_false.mp hr
  by_cases h0 : r = 0
  · subst h0; rfl
  · have hn : r.toNat ≠ 0 := fun h => h0 (BitVec.eq_of_toNat_eq h)
    rw [if_neg h0]
    simp [readI, Thread.setReg, ri, hn, hlt]

theorem readI_setReg_other (k : Core) (t : Thread) {q r : Reg} (hq : isShared q = false) (h : q ≠ r) (v : Word) :
    readI k (t.setReg (ri r) v) q = readI k t q := by
  have hlt := isShared_eq_false.mp hq
  have hne : r.toNat ≠ q.toNat := fun e => h (BitVec.eq_of_toNat_eq e.symm)
  by_cases h0 : r.toNat = 0
  · simp [Thread.setReg, ri, h0]
  · simp [readI, Thread.setReg, ri, h0, hlt, hne]

/-- A register of the slot is read in the thread alone. -/
theorem readI_own {k k' : Core} {t u : Thread} {r : Reg} (hr : isShared r = false) (h : u.i = t.i) :
    readI k u r = readI k' t r := by
  simp only [readI, h, isShared_eq_false.mp hr, if_true]

/-- A write of a register between a result's issue and the end of its window keeps its value (R58). -/
theorem retire_twice_discards {s : State} {p : Place} {t : Thread} {k : Nat} {r : Reg} {v w : Word} (ht : s.thread p = some t)
    (hl : t.region.lines < 48) (hr : isShared r = false) (hp : t.pend = [⟨k, [ri r], 2, some [v], [], false, none⟩])
    (core : Core) :
    ∃ u, (retire (retire (s.writeReg p (ri r) w) p false) p false).thread p = some u ∧ u.pend = []
      ∧ readI core u r = if r = 0 then 0 else w := by
  have hw := State.thread_setThread s p ((t.discard (ri r)).setReg (ri r) w)
  rw [← writeReg_own hr ht] at hw
  have hreg : ((t.discard (ri r)).setReg (ri r) w).region = t.region := setReg_region _ _ _
  have hpend : ((t.discard (ri r)).setReg (ri r) w).pend = [⟨k, [ri r], 2, some [v], [ri r], false, none⟩] := by
    rw [setReg_pend]
    simp [Thread.discard, hp]
  have hread := readI_setReg_same core (t.discard (ri r)) hr w
  generalize (t.discard (ri r)).setReg (ri r) w = t₀ at hw hreg hpend hread
  obtain ⟨hi₁, _, hreg₁, hpend₁⟩ := retired_keeps t₀ false
  rw [hpend] at hpend₁
  have h₁ := retire_nothing_due (keepOnce := false) hw (by rw [hreg]; exact hl) (by simp [hpend₁, Pend.ready])
  have h₂ := retire_discards h₁ (keepOnce := false) (by rw [hreg₁, hreg]; exact hl) hpend₁
  obtain ⟨hi₂, _⟩ := retired_keeps (t₀.retired false) false
  exact ⟨_, h₂, rfl, (readI_own hr (hi₂.trans hi₁)).trans hread⟩

/-- A result that arrives when its window has closed is written at once. -/
theorem arriveValue_writes {s : State} {p : Place} {t : Thread} {k : Nat} {r : Reg} {v : Word} (ht : s.thread p = some t)
    (hr : isShared r = false) (hp : t.pend = [⟨k, [ri r], 0, none, [], false, none⟩]) :
    arriveValue s p k [v] = s.setThread p { t.setReg (ri r) v with pend := [] } := by
  have harrived : s.updThread p
      (fun t => { t with pend := t.pend.map (fun q => if q.id = k then { q with value := some [v] } else q) })
      = s.setThread p { t with pend := [⟨k, [ri r], 0, some [v], [], false, none⟩] } := by
    rw [State.updThread_some ht, hp]
    simp
  unfold arriveValue
  rw [harrived, flush_writes (State.thread_setThread _ _ _) hr rfl rfl, State.setThread_setThread, setReg_withPend]

/-- Settles O60, from what a retirement and an arrival make of one pending result. -/
theorem resultWindow : Obligations.ResultWindow := by
  unfold Obligations.ResultWindow
  intro s p t r k n ht hr hroom pending
  obtain ⟨hi, hf, hreg, hpend⟩ := retired_keeps t false
  refine ⟨fun v hp => ?_, fun v hp => ?_, fun hp => ?_, fun v hp => ?_, fun v w hp => ?_⟩
  · refine ⟨_, retire_writes ht hroom hr hp, rfl, readI_setReg_same _ (t.retired false) hr v, fun q hq hne => ?_⟩
    exact (readI_setReg_other _ (t.retired false) hq hne v).trans (readI_own hq hi)
  · rw [hp] at hpend
    exact ⟨_, retire_nothing_due ht hroom (by simp [hpend, pending, Pend.ready]), hpend, hi, hf⟩
  · have hw : t.windowWaits = true := by simp [Thread.windowWaits, hp, pending]
    simp [slotReady, hw]
  · rw [arriveValue_writes ht hr hp]
    exact ⟨_, State.thread_setThread _ _ _, rfl, readI_setReg_same _ t hr v⟩
  · exact retire_twice_discards ht hroom hr hp _

end Sys2Proof.Machine

/-! ## The loop levels (R66 to R68), and O8 -/

namespace Sys2Proof.Machine

section Levels

variable {s : State} {t : Thread}

/-- LOOP and LOOPI: the level's registers, and the jump behind the end for a count of 0. -/
theorem setLoop_jumps (ht : s.thread s.turn = some t) (lvl : Bool) (n : Word) (off : BitVec 18) :
    setLoop s s.turn t lvl n off = .jump (s.setThread s.turn { t with loops :=
      if lvl then { t.loops with ls1 := t.pc + 4, le1 := t.pc + 4 * zx off, lc1 := n }
      else { t.loops with ls0 := t.pc + 4, le0 := t.pc + 4 * zx off, lc0 := n } })
      (if n = 0 then t.pc + 4 * zx off + 4 else t.pc + 4) := by
  simp only [setLoop, State.updThread_some ht]

theorem loop_jumps {a : Reg} (h : CanIssue s t [ri a]) (lvl : Bool) (off : BitVec 18) :
    Jumps (.loop lvl a off) s (s.setThread s.turn { t with loops :=
      if lvl then { t.loops with ls1 := t.pc + 4, le1 := t.pc + 4 * zx off, lc1 := readI (coreNow s) t a }
      else { t.loops with ls0 := t.pc + 4, le0 := t.pc + 4 * zx off, lc0 := readI (coreNow s) t a } })
      (if readI (coreNow s) t a = 0 then t.pc + 4 * zx off + 4 else t.pc + 4) :=
  jumps_of_body h rfl (setLoop_jumps h.here lvl _ off)

theorem loopi_jumps (h : CanIssue s t []) (lvl : Bool) (n : BitVec 6) (off : BitVec 18) :
    Jumps (.loopi lvl n off) s (s.setThread s.turn { t with loops :=
      if lvl then { t.loops with ls1 := t.pc + 4, le1 := t.pc + 4 * zx off, lc1 := zx n }
      else { t.loops with ls0 := t.pc + 4, le0 := t.pc + 4 * zx off, lc0 := zx n } })
      (if zx n = (0 : Word) then t.pc + 4 * zx off + 4 else t.pc + 4) :=
  jumps_of_body h rfl (setLoop_jumps h.here lvl _ off)

theorem lbrk_jumps (h : CanIssue s t []) (lvl : Bool) :
    Jumps (.lbrk lvl) s (s.setThread s.turn { t with loops :=
      if lvl then { t.loops with ls1 := 0, le1 := 0, lc1 := 0 } else { t.loops with ls0 := 0, le0 := 0, lc0 := 0 } }) (t.pc + 4) :=
  jumps_of_body h rfl (by simp only [State.updThread_some h.here])

theorem nop_runs (h : CanIssue s t []) : exec .nop s = .next (retire s s.turn false) :=
  exec_of_body (r := .done s) h rfl rfl

end Levels

/-! ### One step of the levels (R67) -/

section Step

variable {l : Loops} {pc : Word}

theorem count_above_one {c : Word} (h : 2 ≤ c.toNat) : c ≠ 0 ∧ c ≠ 1 := by
  constructor <;> rintro rfl <;> exact absurd h (by decide)

/-- Level 1 goes back while its count is above 1. -/
theorem step_level1 (hpc : pc = l.le1) (h : 2 ≤ l.lc1.toNat) : l.step pc = ({ l with lc1 := l.lc1 - 1 }, l.ls1) :=
  if_pos ⟨hpc, count_above_one h⟩

/-- Level 1 ends, and level 0 is looked at next. -/
theorem step_level1_ends (hpc : pc = l.le1) (h : l.lc1 = 1) : l.step pc = ({ l with lc1 := 0 } : Loops).step pc := by
  simp [Loops.step, hpc, h]

/-- Level 1 does not end here: level 0 alone decides. -/
theorem step_without_level1 (h1 : pc ≠ l.le1 ∨ l.lc1 = 0) : l.step pc =
    if pc = l.le0 ∧ l.lc0 ≠ 0 then
      if l.lc0 = 1 then ({ l with lc0 := 0 }, pc + 4) else ({ l with lc0 := l.lc0 - 1 }, l.ls0)
    else (l, pc + 4) := by
  have live : ¬(pc = l.le1 ∧ l.lc1 ≠ 0 ∧ l.lc1 ≠ 1) := fun ⟨hpc, h0, _⟩ => h1.elim (· hpc) h0
  have last : ¬(pc = l.le1 ∧ l.lc1 = 1) := by
    rintro ⟨hpc, h⟩
    exact h1.elim (· hpc) fun h0 => absurd (h0.symm.trans h) (by decide)
  unfold Loops.step
  simp only [if_neg live, if_neg last]

theorem step_level0 (h1 : pc ≠ l.le1 ∨ l.lc1 = 0) (hpc : pc = l.le0) (h : 2 ≤ l.lc0.toNat) :
    l.step pc = ({ l with lc0 := l.lc0 - 1 }, l.ls0) := by
  obtain ⟨h0, hne⟩ := count_above_one h
  rw [step_without_level1 h1, if_pos ⟨hpc, h0⟩, if_neg hne]

theorem step_level0_ends (h1 : pc ≠ l.le1 ∨ l.lc1 = 0) (hpc : pc = l.le0) (h : l.lc0 = 1) :
    l.step pc = ({ l with lc0 := 0 }, pc + 4) := by
  rw [step_without_level1 h1, if_pos ⟨hpc, by rw [h]; decide⟩, if_pos h]

theorem step_no_level (h1 : pc ≠ l.le1 ∨ l.lc1 = 0) (h0 : pc ≠ l.le0 ∨ l.lc0 = 0) : l.step pc = (l, pc + 4) := by
  rw [step_without_level1 h1, if_neg fun ⟨hpc, h⟩ => h0.elim (· hpc) h]

end Step

/-- NOP steps the levels at its PC. -/
theorem nop_steps_levels {s : State} {t : Thread} (h : CanIssue s t []) (hq : Quiet t) (hr : t.replay = none) {m : Loops} {pc : Word}
    (hm : t.loops.step t.pc = (m, pc)) :
    ∃ s' u, exec .nop s = .next s' ∧ s'.thread s.turn = some u ∧ u.loops = m ∧ u.pc = pc := by
  obtain ⟨hl, hp⟩ := retired_loops hr false
  rw [hm] at hl hp
  exact ⟨_, _, nop_runs h, retire_quiet h.here hq, hl, hp⟩

/-- Settles O8, by the two loop levels. -/
theorem hardwareLoops : Obligations.HardwareLoops := by
  unfold Obligations.HardwareLoops
  refine ⟨fun a n off s t h _ => ?_, fun s t h hq hr => ?_⟩
  · have h' : CanIssue s t [] := ⟨h.here, h.plain, by simp⟩
    exact ⟨loop_jumps h false off, loop_jumps h true off, loopi_jumps h' false n off, loopi_jumps h' true n off,
      lbrk_jumps h' false, lbrk_jumps h' true⟩
  · refine ⟨fun h1 hc => nop_steps_levels h hq hr (step_level1 h1 hc),
      fun h1 hc h0 => nop_steps_levels h hq hr ((step_level1_ends h1 hc).trans (step_no_level (.inr rfl) h0)),
      fun h1 hc h0 hn => nop_steps_levels h hq hr ((step_level1_ends h1 hc).trans (step_level0 (.inr rfl) h0 hn)),
      fun h1 h0 hn => nop_steps_levels h hq hr (step_level0 h1 h0 hn),
      fun h1 h0 hc => nop_steps_levels h hq hr (step_level0_ends h1 h0 hc),
      fun h1 h0 => nop_steps_levels h hq hr (step_no_level h1 h0)⟩

end Sys2Proof.Machine

/-! ## Replays (R70): O9 fails on a stagger of LI -/

namespace Sys2Proof.Machine

/-- LI of register 3 and the constant 5, and the word that the second replay of it issues under the mask 2. -/
def staggeredLi : Nat := 0x0B * 2 ^ 25 + 3 * 2 ^ 19 + 5

/-- The middle field of the word's form lies in the constant: a mask of 2 staggers its bits 13 to 18. -/
theorem decodeWord_staggeredLi : decodeWord staggeredLi = .ok (.li 3 5)
    ∧ decodeWord (staggeredLi + 2 ^ 13) = .ok (.li 3 (5 + 2 ^ 13)) := by
  constructor <;> rfl

/-- Refutes O9: its clause on LI asks the constant back under every mask, and a mask of 2 staggers bits 13 to 18 of it. (RPT would not
capture this word, whose major a frame may not hold; the clause speaks of every replay, whatever words stand in it.) -/
theorem not_repeatFrames : ¬ Obligations.RepeatFrames := by
  unfold Obligations.RepeatFrames
  rintro ⟨-, -, h⟩
  obtain ⟨v, hv, -, -, -, -, hli⟩ := h State.reset ⟨0, 0, 0⟩
    { Thread.new 0 0 0 ⟨0, 0, 0⟩ with replay := some ⟨0, [staggeredLi], 2, 1, 2, 1, 0⟩ } _ staggeredLi rfl rfl (by decide)
  have hv' : Sum.inl v = Sum.inl (staggeredLi + 2 ^ 13) := hv.symm.trans rfl
  obtain ⟨old, new⟩ := decodeWord_staggeredLi
  have := (hli 3 5 old).symm.trans ((Sum.inl.inj hv').symm ▸ new)
  exact absurd this (by decide)

end Sys2Proof.Machine

/-! ## Spills (R64): O43 fails where a place is listed twice -/

namespace Sys2Proof.Machine

/-- Slot 0 of core 0. -/
def spillPlace : Place := ⟨0, 0, 0⟩

/-- A context with the scratch slice of core 0. -/
def spillCtx : Ctx := { Ctx.new with spans := [⟨0, 0, 131072⟩] }

/-- A thread with one frame, not in its window area, which starts at the slice. Its region has opened before the CALL. -/
def spillThread : Thread :=
  { Thread.new 7 1 0x10000 spillPlace with wsp := 0xFFFFFFFFFFFE0000, wdep := 1, frames := [⟨0, Vector.replicate 16 0, false⟩] }

/-- A thread of the same place whose region has read the area's first line. -/
def spillReader : Thread :=
  { spillThread with uid := 8, region := { spillThread.region with reads := [lineOf (scratchSa 0 0 0)] } }

/-- A state that lists the place twice. The second entry is never found by its place; the abort of readers looks at every entry. -/
def spillTwice : State :=
  { State.reset with threads := [(spillPlace, spillThread), (spillPlace, spillReader)], ctxs := [(⟨0, 1⟩, spillCtx)] }

def spillPieces : List Nat := (List.range 17).map (fun j => scratchSa 0 0 (8 * j))

theorem spillTwice_framePieces : framePieces spillTwice spillPlace spillThread needW 1 = some spillPieces := by decide +kernel

theorem spillTwice_lets : piecesBlocked spillTwice spillThread.uid spillPieces = false
    ∧ piecesAway spillTwice spillPlace spillPieces = false := by decide +kernel

/-- WDEP of the thread found in the place, behind a step. -/
def wdepBehind : Host.Outcome State Fault Refusal → Option (BitVec 16)
  | .next s => (s.thread spillPlace).map (·.wdep)
  | _ => none

/-- The spill aborts the reader, and with its place the thread that spills: WDEP is its region's again. -/
theorem spillTwice_aborts (s' : State) (h : Does (.windowSpill spillPlace) spillTwice s') :
    (s'.thread spillPlace).map (·.wdep) = some 0 := by
  have run : wdepBehind (exec (.windowSpill spillPlace) spillTwice) = some 0 := by decide +kernel
  rwa [show exec (.windowSpill spillPlace) spillTwice = .next s' from h] at run

/-- Refutes O43: nothing in it says that a place is listed once, and where it is listed twice a spill may abort its own thread. -/
theorem not_slotSteps : ¬ Obligations.SlotSteps := by
  unfold Obligations.SlotSteps
  rintro ⟨-, h⟩
  obtain ⟨spill, -⟩ := h spillTwice spillPlace spillThread spillCtx
  obtain ⟨unblocked, notAway⟩ := spillTwice_lets
  obtain ⟨s', u, does, hu, -, -, hdep, -⟩ := spill 1 ⟨0, Vector.replicate 16 0, false⟩ [] spillPieces rfl (by decide +kernel)
    (by decide) spillTwice_framePieces unblocked notAway
  have := spillTwice_aborts s' does
  rw [hu] at this
  exact absurd (hdep.symm.trans (Option.some.inj this)) (by decide)

end Sys2Proof.Machine

/-! ## Shared registers (R60, R61), and O15 -/

namespace Sys2Proof.Machine

section Denied

variable {s : State} {t : Thread}

/-- A field that names the shared bank, where the context does not own the core: the trap comes before the form's own checks. -/
theorem traps_denied (ht : s.thread s.turn = some t) (hh : t.isHandler = false) (ho : s.ownsCore s.turn t = false) {i : Instr}
    (uses : List Dst) {pins : Bool} {body : Place → Thread → Core → State → Res}
    (hi : exec i s = issue (wordOf i) uses pins body s) (hu : uses.any (fun d => isShared d.reg) = true) :
    Traps i s 0x10 (wordOf i) := by
  have denied : (uses.any (fun d => isShared d.reg) && !s.ownsCore s.turn t) = true := by rw [hu, ho]; rfl
  unfold Traps
  rw [hi]
  simp only [issue, issueWith, ht, denied]
  cases hr : t.role <;> simp_all [Thread.isHandler, finish, cShared]

end Denied

/-! ### The writes under way take effect (R61) -/

section Settle

variable {k : Core} {t : Thread} {r : Reg}

theorem setCsr_j (k : Core) (ctx csr : Nat) (v : Word) : (k.setCsr ctx csr v).j = k.j := by
  unfold Core.setCsr
  split <;> rfl

theorem foldl_setCsr_j (ws : List LateCsr) (k : Core) : (ws.foldl (fun k w => k.setCsr w.ctx w.csr w.value) k).j = k.j := by
  induction ws generalizing k with
  | nil => rfl
  | cons w ws ih => rw [List.foldl_cons, ih, setCsr_j]

theorem readI_setReg_shared (hr : isShared r = true) (k : Core) (t : Thread) (v : Word) : readI (k.setReg (ri r) v) t r = v := by
  have h32 : 32 ≤ r.toNat := by simpa [isShared] using hr
  have hlt : r.toNat - 32 < 32 := by have := r.isLt; omega
  simp [readI, Core.setReg, ri, hlt, show r.toNat ≠ 0 by omega, show ¬ r.toNat < 32 by omega]

theorem readI_core (k k' : Core) (h : k'.j = k.j) : readI k' t r = readI k t r := by simp only [readI, h]

theorem readI_settle : readI k.settle t r = readI
    ((inOrder (fun a b => decide (a.cycle < b.cycle ∨ a.cycle = b.cycle ∧ a.slot ≤ b.slot))
      (k.late.filter (fun w => decide (w.cycle < k.cycle)))).foldl (fun k w => k.setReg w.dst w.value) k) t r :=
  readI_core _ _ (foldl_setCsr_j _ _)

/-- One write under way takes effect in the cycles behind its own. -/
theorem readI_settle_one (hr : isShared r = true) {v : Word} {c slot : Nat} (hk : k.late = [⟨ri r, v, c, slot⟩]) :
    readI k.settle t r = if c < k.cycle then v else readI k t r := by
  rw [readI_settle, hk]
  by_cases h : c < k.cycle
  · simp [h, inOrder, inOrder.place, readI_setReg_shared hr]
  · simp [h, inOrder]

/-- Of two that are due the later one stands, and of one cycle the higher slot's. -/
theorem readI_settle_two (hr : isShared r = true) {v v' : Word} {c c' slot slot' : Nat}
    (hk : k.late = [⟨ri r, v, c, slot⟩, ⟨ri r, v', c', slot'⟩]) (hc : c < k.cycle) (hc' : c' < k.cycle)
    (hne : c ≠ c' ∨ slot ≠ slot') :
    readI k.settle t r = if c < c' ∨ (c = c' ∧ slot < slot') then v' else v := by
  have due : k.late.filter (fun w => decide (w.cycle < k.cycle)) = k.late := by simp [hk, hc, hc']
  rw [readI_settle, due, hk]
  by_cases h : c < c' ∨ c = c' ∧ slot < slot'
  · have le : c < c' ∨ c = c' ∧ slot ≤ slot' := by omega
    simp [h, le, inOrder, inOrder.place, readI_setReg_shared hr]
  · have le : ¬(c < c' ∨ c = c' ∧ slot ≤ slot') := by omega
    simp [h, le, inOrder, inOrder.place, readI_setReg_shared hr]

end Settle

theorem writeReg_shared {s : State} {p : Place} {t : Thread} {r : Reg} (ht : s.thread p = some t) (hr : isShared r = true) (v : Word) :
    ((s.writeReg p (ri r) v).core (coreOf p)).late
      = (s.core (coreOf p)).late ++ [⟨ri r, v, (s.core (coreOf p)).cycle + 12, p.slot⟩] := by
  have hr' : isShared (ri r).reg = true := hr
  unfold State.writeReg State.putReg
  simp [hr', State.updThread_some ht, State.updCore]

/-- Settles O15, from the issue's check of the register fields and from what settles in a core. -/
theorem sharedRegisters : Obligations.SharedRegisters := by
  unfold Obligations.SharedRegisters
  refine ⟨fun w p d a b off la s t ht hh ho hs => ?_, fun k t r v v' c c' slot slot' hr =>
    ⟨readI_settle_one hr, readI_settle_two hr, fun s p ht _ => writeReg_shared ht hr v⟩⟩
  have named (f : Bool) : [⟨f, a⟩, ⟨f, b⟩, (⟨f, d⟩ : Dst)].any (fun d => isShared d.reg) = true := by
    simp only [Bool.or_eq_true] at hs
    simp
    tauto
  have denied {i : Instr} {pins : Bool} {body : Place → Thread → Core → State → Res} (f : Bool)
      (hi : exec i s = issue (wordOf i) [⟨f, a⟩, ⟨f, b⟩, ⟨f, d⟩] pins body s) : Traps i s 0x10 (wordOf i) :=
    traps_denied ht hh ho _ hi (named f)
  exact ⟨denied false rfl, denied false rfl, denied true rfl, denied false rfl, denied false rfl, denied false rfl,
    fun hab => traps_denied ht hh ho [ri a, ri b] rfl (by simpa [ri] using hab)⟩

end Sys2Proof.Machine

/-! ## What memory writes and aborts leave unchanged (R151, R214, R215, R220) -/

namespace Sys2Proof.Machine

theorem foldl_keeps {β γ : Type} {g : State → γ} {f : State → β → State} (hf : ∀ s b, g (f s b) = g s) :
    ∀ (l : List β) (s : State), g (l.foldl f s) = g s
  | [], _ => rfl
  | b :: l, s => (foldl_keeps hf l (f s b)).trans (hf s b)

theorem repairLine_keeps (s : State) (sa n l : Nat) : (repairLine s sa n l).mem = s.mem ∧ (repairLine s sa n l).threads = s.threads
    ∧ (repairLine s sa n l).packets = s.packets := by
  unfold repairLine
  dsimp only
  split <;> exact ⟨rfl, rfl, rfl⟩

@[simp] theorem unpoison_mem (s : State) (sa n : Nat) : (unpoison s sa n).mem = s.mem :=
  foldl_keeps (g := State.mem) (fun s l => (repairLine_keeps s sa n l).1) _ s

@[simp] theorem unpoison_threads (s : State) (sa n : Nat) : (unpoison s sa n).threads = s.threads :=
  foldl_keeps (g := State.threads) (fun s l => (repairLine_keeps s sa n l).2.1) _ s

@[simp] theorem unpoison_packets (s : State) (sa n : Nat) : (unpoison s sa n).packets = s.packets :=
  foldl_keeps (g := State.packets) (fun s l => (repairLine_keeps s sa n l).2.2) _ s

@[simp] theorem State.threads_updCtx (s : State) (c : CtxId) (f : Ctx → Ctx) : (s.updCtx c f).threads = s.threads := by
  unfold State.updCtx
  split <;> rfl

@[simp] theorem touch_mem (s : State) (c : CtxId) (sa : Nat) : (touch s c sa).mem = s.mem := State.mem_updCtx _ _ _

@[simp] theorem touch_threads (s : State) (c : CtxId) (sa : Nat) : (touch s c sa).threads = s.threads := State.threads_updCtx _ _ _

theorem touchLines_keeps (s : State) (c : CtxId) (ls : List Nat) :
    (ls.foldl (fun s l => touch s c (64 * l)) s).mem = s.mem ∧ (ls.foldl (fun s l => touch s c (64 * l)) s).threads = s.threads :=
  ⟨foldl_keeps (g := State.mem) (fun s l => touch_mem s c (64 * l)) ls s,
    foldl_keeps (g := State.threads) (fun s l => touch_threads s c (64 * l)) ls s⟩

theorem abortPlace_mem (s : State) (p : Place) (counts : Bool) : (abortPlace s p counts).mem = s.mem := by
  unfold abortPlace
  split <;> rfl

theorem abortPlace_thread_other (s : State) {p q : Place} (h : q ≠ p) (counts : Bool) :
    (abortPlace s p counts).thread q = s.thread q := by
  unfold abortPlace
  split
  · rfl
  · rw [State.thread_setThread_other _ _ h]
    rfl

@[simp] theorem abortReaders_mem (s : State) (skip : Option Nat) (lines : List Nat) : (abortReaders s skip lines).mem = s.mem :=
  foldl_keeps (g := State.mem) (fun s (e : Place × Thread) => abortPlace_mem s e.1 true) _ s

theorem mget_unique {κ α : Type} [DecidableEq κ] {m : Map κ α} {k : κ} {v w : α} (hm : (m.map (·.1)).Nodup)
    (hv : mget m k = some v) (hw : (k, w) ∈ m) : w = v := by
  induction m with
  | nil => cases hw
  | cons e m ih =>
    obtain ⟨j, x⟩ := e
    obtain ⟨hj, hm⟩ := List.nodup_cons.mp hm
    by_cases h : j = k
    · subst h
      have hv : x = v := by simpa [mget] using hv
      rcases List.mem_cons.mp hw with he | hw
      · rw [(Prod.mk.inj he).2, hv]
      · exact absurd (List.mem_map_of_mem (f := (·.1)) hw) hj
    · rcases List.mem_cons.mp hw with he | hw
      · exact absurd (Prod.mk.inj he).1.symm h
      · exact ih hm (by simpa [mget, h] using hv) hw

theorem foldl_abortPlace_thread {p : Place} : ∀ (l : List (Place × Thread)) (s : State), (∀ e ∈ l, p ≠ e.1) →
    (l.foldl (fun s e => abortPlace s e.1 true) s).thread p = s.thread p
  | [], _, _ => rfl
  | e :: l, s, h => (foldl_abortPlace_thread l _ fun d hd => h d (List.mem_cons_of_mem _ hd)).trans
      (abortPlace_thread_other s (h e List.mem_cons_self) true)

/-- The abort of the readers passes over the thread it skips. -/
theorem abortReaders_thread {s : State} {p : Place} {t : Thread} (ht : s.thread p = some t) (hs : (s.threads.map (·.1)).Nodup)
    (lines : List Nat) : (abortReaders s (some t.uid) lines).thread p = some t := by
  refine (foldl_abortPlace_thread _ s ?_).trans ht
  rintro ⟨q, u⟩ he rfl
  obtain ⟨hmem, hcond⟩ := List.mem_filter.mp he
  obtain rfl := mget_unique hs ht hmem
  simp at hcond

end Sys2Proof.Machine

/-! ## The steps of a region (R62, R214, R216, R217), and O38 -/

namespace Sys2Proof.Machine

/-! ### COMMIT_REGION of a region that holds stores alone -/

/-- Each item is a store of a local line. -/
def StoresOnly (items : List Item) : Prop := ∀ i ∈ items, ∃ sa data, i = .store sa data

theorem foldl_stores {f : State → Item → State} (hf : ∀ s sa data, f s (.store sa data) = s) :
    ∀ (items : List Item) (s : State), StoresOnly items → items.foldl f s = s
  | [], _, _ => rfl
  | i :: items, s, h => by
    obtain ⟨sa, data, rfl⟩ := h i List.mem_cons_self
    rw [List.foldl_cons, hf]
    exact foldl_stores hf items s fun j hj => h j (List.mem_cons_of_mem _ hj)

theorem foldl_perform_stores : ∀ (items : List Item) (s : State), StoresOnly items →
    (items.foldl Item.perform s).mem = items.foldl Item.apply s.mem ∧ (items.foldl Item.perform s).threads = s.threads
  | [], _, _ => ⟨rfl, rfl⟩
  | i :: items, s, h => by
    obtain ⟨sa, data, rfl⟩ := h i List.mem_cons_self
    obtain ⟨hm, ht⟩ := foldl_perform_stores items (Item.perform s (.store sa data)) fun j hj => h j (List.mem_cons_of_mem _ hj)
    exact ⟨hm.trans (by rw [Item.perform, unpoison_mem]; rfl), ht.trans (by rw [Item.perform, unpoison_threads]; rfl)⟩

/-- The commit of stores: they are in memory, and the thread goes on, while the readers of their lines are aborted. -/
theorem emit_stores {s : State} {p : Place} {t : Thread} {items : List Item} (ht : s.thread p = some t)
    (hs : (s.threads.map (·.1)).Nodup) (hi : StoresOnly items) :
    (emit s p t items).mem = items.foldl Item.apply s.mem ∧ (emit s p t items).thread p = some t := by
  have skips {f : State → Item → State} (hf : ∀ s sa data, f s (.store sa data) = s) (z : State) : items.foldl f z = z :=
    foldl_stores hf items z hi
  obtain ⟨hm, hth⟩ := foldl_perform_stores items s hi
  obtain ⟨hm', hth'⟩ := touchLines_keeps (items.foldl Item.perform s) (t.ctxId p) (items.flatMap Item.lines).eraseDups
  unfold emit
  simp only [skips (f := Item.note _) (fun _ _ _ => rfl), skips (f := Item.send p t) (fun _ _ _ => rfl),
    skips (f := Item.enter p t) (fun _ _ _ => rfl), skips (f := Item.postItem p t) (fun _ _ _ => rfl)]
  generalize List.foldl _ (items.foldl Item.perform s) _ = w at hm' hth' ⊢
  have hw : w.threads = s.threads := hth'.trans hth
  have kept : (abortReaders w (some t.uid) (items.flatMap Item.lines).eraseDups).thread p = some t :=
    abortReaders_thread (by rw [State.thread, hw]; exact ht) (by rw [hw]; exact hs) _
  have written := (abortReaders_mem w (some t.uid) (items.flatMap Item.lines).eraseDups).trans (hm'.trans hm)
  split <;> exact ⟨written, kept⟩

theorem openRegion_opens {s : State} {p : Place} {t : Thread} (ht : s.thread p = some t) (explicit : Bool)
    (ts : BitVec 32) (rstart : Word) : ∃ streams rts,
    openRegion s p explicit ts rstart = s.setThread p { t with region := t.newRegion streams explicit rts rstart } := by
  unfold openRegion
  rw [ht]
  exact ⟨_, _, rfl⟩

/-- The commit of the region: its stores are in memory, and an empty region is open. -/
theorem commitTo_stores {s : State} {p : Place} {t : Thread} (ht : s.thread p = some t) (hp : t.pend = [])
    (hs : (s.threads.map (·.1)).Nodup) (hi : StoresOnly t.region.items) (rstart : Word) :
    ∃ streams rts, (commitTo s p false 0 rstart).mem = t.region.items.foldl Item.apply s.mem
      ∧ (commitTo s p false 0 rstart).thread p = some { t with region := t.newRegion streams false rts rstart } := by
  obtain ⟨hm, hth⟩ := emit_stores ht hs hi
  unfold commitTo
  rw [drain_quiet ht hp]
  simp only [ht]
  generalize hw : ((emit s p t t.region.items).updCtx _ _).updCore _ _ = w
  have hwt : w.thread p = some t := by
    rw [← hw, State.thread, State.updCore, State.setCore, State.threads_updCtx]
    exact hth
  obtain ⟨streams, rts, ho⟩ := openRegion_opens hwt false 0 rstart
  refine ⟨streams, rts, ?_, ?_⟩
  · rw [ho, ← hm, State.setThread, ← hw, State.mem_updCore, State.mem_updCtx]
  · rw [ho, State.thread_setThread]

theorem tryCommit_commits {s : State} {p : Place} {t : Thread} (ht : s.thread p = some t) (hp : t.pend = [])
    (hc : canCommit s p t = true) (explicit : Bool) (ts : BitVec 32) (rstart : Word) :
    tryCommit s p t explicit ts rstart = some (commitTo s p explicit ts rstart) := by
  have hs : t.settled = true := by simp [Thread.settled, hp]
  simp [tryCommit, hs, drain_quiet ht hp, ht, hc]

theorem commitRegion_commits {s : State} {p : Place} {t : Thread} (ht : s.thread p = some t) (hh : t.isHandler = false)
    (hw : t.wait = .none) (hat : atCommitPoint s p t = true) (hb : pinOut s p t = false) (hp : t.pend = [])
    (hc : canCommit s p t = true) : Does (.commitRegion p) s (commitTo s p false 0 t.pc) := by
  have hgo : (t.isHandler || t.wait != .none || pinOut s p t || !atCommitPoint s p t) = false := by simp [hh, hw, hat, hb]
  show execCommitRegion p s = _
  simp only [execCommitRegion, ht, hgo, tryCommit_commits ht hp hc, Option.getD_some, Bool.false_eq_true, if_false]

/-! ### TOKEN_STEP -/

theorem toNat_raised (c r : BitVec 32) : (if c.toNat < r.toNat then r else c).toNat = max c.toNat r.toNat := by
  split <;> omega

/-- The token step of a region that is not exclusive yet nor pinned. -/
theorem giveToken_gives {s : State} {p : Place} {t : Thread} {x : Ctx} (ht : s.thread p = some t) (hx : s.ctx (t.ctxId p) = some x)
    (hf : t.region.fixed = false) (e : Bool) : ∃ u y, (giveToken s p e).thread p = some u
      ∧ (giveToken s p e).ctx (t.ctxId p) = some y
      ∧ u.region.exclusive = e ∧ u.region.pinned = !e ∧ u.region.want = false ∧ u.region.items = t.region.items
      ∧ y.token_ = some t.uid ∧ y.cmark.toNat = max x.cmark.toNat t.region.rts.toNat := by
  obtain ⟨hpin, hexcl⟩ : t.region.pinned = false ∧ t.region.exclusive = false := by simpa [Region.fixed] using hf
  unfold giveToken
  simp only [ht, State.updCtx_some hx]
  refine ⟨_, _, State.thread_setThread _ _ _, State.ctx_setCtx _ _ _, ?_, ?_, rfl, rfl, rfl, toNat_raised _ _⟩
  · simp [hexcl]
  · simp [hpin]

theorem tokenStep_gives {s : State} {p : Place} {t : Thread} (ht : s.thread p = some t) (hf : t.region.fixed = false)
    (hc : canToken s p t = true) (hw : t.region.wantExcl = true ∨ t.region.want = true) :
    Does (.tokenStep p) s (giveToken s p t.region.wantExcl) := by
  show execTokenStep p s = _
  cases he : t.region.wantExcl <;> simp_all [execTokenStep]

/-! ### PIN_BUDGET -/

/-- What the write of a result leaves of a slot: its contexts, and of its thread all that a stop records. -/
def RecordKept (s s' : State) (p : Place) (t : Thread) : Prop :=
  s'.ctxs = s.ctxs ∧ ∃ u, s'.thread p = some u ∧ u.uid = t.uid ∧ u.ctx = t.ctx ∧ u.pc = t.pc ∧ u.tstat = t.tstat

theorem RecordKept.refl {s : State} {p : Place} {t : Thread} (ht : s.thread p = some t) : RecordKept s s p t :=
  ⟨rfl, t, ht, rfl, rfl, rfl, rfl⟩

theorem RecordKept.updThread {s s' : State} {p : Place} {t : Thread} (h : RecordKept s s' p t) {f : Thread → Thread}
    (hf : ∀ u, (f u).uid = u.uid ∧ (f u).ctx = u.ctx ∧ (f u).pc = u.pc ∧ (f u).tstat = u.tstat) :
    RecordKept s (s'.updThread p f) p t := by
  obtain ⟨hx, u, hu, h1, h2, h3, h4⟩ := h
  obtain ⟨f1, f2, f3, f4⟩ := hf u
  rw [State.updThread_some hu]
  exact ⟨hx, _, State.thread_setThread _ _ _, f1.trans h1, f2.trans h2, f3.trans h3, f4.trans h4⟩

theorem setReg_record (u : Thread) (d : Dst) (v : Word) : (u.setReg d v).uid = u.uid ∧ (u.setReg d v).ctx = u.ctx
    ∧ (u.setReg d v).pc = u.pc ∧ (u.setReg d v).tstat = u.tstat := by
  unfold Thread.setReg
  split
  · exact ⟨rfl, rfl, rfl, rfl⟩
  · split <;> exact ⟨rfl, rfl, rfl, rfl⟩

theorem RecordKept.putReg {s s' : State} {p : Place} {t : Thread} (h : RecordKept s s' p t) (d : Dst) (v : Word) (at_ : Nat) :
    RecordKept s (s'.putReg p d v at_) p t := by
  unfold State.putReg
  split
  · exact h
  · exact h.updThread fun u => setReg_record u d v

theorem RecordKept.writePend {s s' : State} {p : Place} {t : Thread} (h : RecordKept s s' p t) {q : Pend} (hq : q.push = none) :
    RecordKept s (writePend s' p q) p t := by
  unfold Machine.writePend
  rw [hq]
  cases q.value with
  | none => exact h
  | some vs =>
    show RecordKept s ((q.dsts.zip vs).foldl _ s') p t
    induction q.dsts.zip vs generalizing s' with
    | nil => exact h
    | cons e l ih =>
      refine ih ?_
      dsimp only
      split
      · exact h
      · exact h.putReg _ _ _

theorem RecordKept.drain {s s' : State} {p : Place} {t u : Thread} (h : RecordKept s s' p t) (hu : s'.thread p = some u)
    (hq : ∀ q ∈ u.pend, q.push = none) : RecordKept s (drain s' p) p t := by
  have written : RecordKept s (u.pend.foldl (fun s q => Machine.writePend s p q) s') p t := by
    clear hu
    revert hq
    induction u.pend generalizing s' with
    | nil => exact fun _ => h
    | cons q l ih => exact fun hq => ih (h.writePend (hq q List.mem_cons_self)) fun r hr => hq r (List.mem_cons_of_mem _ hr)
  unfold Machine.drain
  rw [hu]
  exact written.updThread fun _ => ⟨rfl, rfl, rfl, rfl⟩

/-- A fatal fault of a running context: it stops, and keeps the first record. -/
theorem parkFault_stops {s : State} {p : Place} {u : Thread} {x : Ctx} (hx : s.ctx (u.ctxId p) = some x)
    (hl : x.state = .live) (c : Trap) : ∃ y, (parkFault s p u c).ctx (u.ctxId p) = some y ∧ y.state = .stopping
      ∧ y.cause = some 2 ∧ u.uid ∈ y.faulted ∧ (x.fault = none → y.fault = some ⟨u.uid, u.pc, c.code, c.value, u.tstat⟩) := by
  unfold parkFault
  rw [State.updCtx_some hx]
  refine ⟨_, State.ctx_setCtx _ _ _, ?_, ?_, List.mem_cons_self, fun hn => by simp [hn]⟩ <;> simp [Ctx.stop, hl]

/-- The budget is overrun: the context is told to stop, behind the results of the slot. -/
theorem pinBudget_stops {s : State} {p : Place} {t : Thread} {x : Ctx} (ht : s.thread p = some t) (hx : s.ctx (t.ctxId p) = some x)
    (hout : pinOut s p t = true) (hq : ∀ q ∈ t.pend, q.value.isSome = true ∧ q.push = none) : ∃ w u, RecordKept s w p t
      ∧ w.thread p = some u ∧ Does (.pinBudget p) s (parkFault w p u ⟨0x12, BitVec.ofNat 64 (x.pinb.toNat + 1)⟩) := by
  have hland : ∀ q ∈ t.landing s, q.value.isSome = true ∧ q.push = none := fun q h => hq q (List.mem_filter.mp h).1
  have hall : (pinOut s p t && (t.landing s).all (fun q => q.value.isSome)) = true := by
    simpa [hout, List.all_eq_true] using fun q h => (hland q h).1
  have start : RecordKept s (cancelMigs (s.setThread p { t with pend := t.landing s }) t.uid) p t :=
    ⟨rfl, _, State.thread_setThread _ _ _, rfl, rfl, rfl, rfl⟩
  have kept := start.drain (State.thread_setThread _ _ _) fun q h => (hland q h).2
  generalize hw : drain _ p = w at kept
  obtain ⟨u, hu, -⟩ := kept.2
  have hxw : w.ctx (t.ctxId p) = some x := by rw [State.ctx, kept.1]; exact hx
  refine ⟨w, u, kept, hu, ?_⟩
  show execPinBudget p s = _
  simp only [execPinBudget, ht, hall, if_true, hw, hu, Option.elim, pinBudgetOf, hxw]

/-- Settles O38, by the three steps. -/
theorem regionSteps : Obligations.RegionSteps := by
  unfold Obligations.RegionSteps
  intro p s t x ht hx
  refine ⟨fun hh hw hat hb hp hc hs hi => ?_, fun e hf hc hw he => ?_, fun hout hl hq => ?_⟩
  · obtain ⟨streams, rts, hm, hu⟩ := commitTo_stores ht hp hs hi t.pc
    exact ⟨_, _, commitRegion_commits ht hh hw hat hb hp hc, hu, hm, rfl, rfl, rfl, rfl, rfl, rfl⟩
  · obtain ⟨u, y, hu, hy, h1, h2, h3, h4, h5, h6⟩ := giveToken_gives ht hx hf e
    exact ⟨_, u, y, he ▸ tokenStep_gives ht hf hc hw, hu, hy, h1, h2, h3, h4, h5, h6, giveToken_mem s p e⟩
  · obtain ⟨w, u, ⟨hctxs, u', hu', huid, hctx, hpc, htstat⟩, hu, does⟩ := pinBudget_stops ht hx hout hq
    obtain rfl : u' = u := Option.some.inj (hu'.symm.trans hu)
    have hid : u'.ctxId p = t.ctxId p := by rw [Thread.ctxId, hctx]; rfl
    have hxw : w.ctx (u'.ctxId p) = some x := by rw [hid, State.ctx, hctxs]; exact hx
    obtain ⟨y, hy, hstate, hcause, hfaulted, hfault⟩ := parkFault_stops hxw hl ⟨0x12, BitVec.ofNat 64 (x.pinb.toNat + 1)⟩
    rw [hid] at hy
    rw [huid] at hfaulted
    rw [huid, hpc, htstat] at hfault
    exact ⟨_, y, does, hy, hstate, hcause, hfaulted, hfault⟩

end Sys2Proof.Machine

/-! ## Packets (R182, R183, R220, R245, R257), and O39 -/

namespace Sys2Proof.Machine

/-! ### A packet that is found, and one that is put back -/

theorem find?_filter_kept {α : Type} {p q : α → Bool} {a : α} : ∀ {l : List α}, l.find? q = some a → p a = true →
    (l.filter p).find? q = some a
  | [], h, _ => by cases h
  | x :: l, h, ha => by
    by_cases hx : q x = true
    · obtain rfl : x = a := by simpa [hx] using h
      simp [ha, hx]
    · have ih := find?_filter_kept (l := l) (by simpa [hx] using h) ha
      by_cases hp : p x = true <;> simp [hp, hx, ih]

theorem findPacket_mem {s : State} {id : Nat} {k : Packet} (h : findPacket s id = some k) : k ∈ s.packets ∧ k.id = id :=
  ⟨List.mem_of_find?_eq_some h, by simpa using List.find?_some h⟩

theorem findPacket_congr {s s' : State} (h : s'.packets = s.packets) (id : Nat) : findPacket s' id = findPacket s id := by
  simp only [findPacket, h]

theorem findPacket_setPacket {s : State} {k q : Packet} (h : findPacket s k.id = some q) :
    findPacket (setPacket s k) k.id = some k := by
  obtain ⟨hq, hid⟩ := findPacket_mem h
  unfold findPacket setPacket
  revert hq
  dsimp only
  generalize s.packets = l
  intro hq
  induction l with
  | nil => cases hq
  | cons x l ih =>
    by_cases hx : x.id = k.id
    · simp [hx]
    · have hq : q ∈ l := (List.mem_cons.mp hq).resolve_left (fun e => hx (e ▸ hid))
      simpa [hx] using ih hq

theorem findPacket_settled (s : State) (k : Packet) : findPacket (settlePacket s k) k.id = none := by
  simp only [findPacket, settlePacket, List.find?_eq_none, List.mem_filter]
  rintro q ⟨-, hq⟩ hid
  simp [Packet.same, beq_iff_eq.mp hid] at hq

/-! ### The queues leave memory, the threads and the packets (R208, R230) -/

/-- The memory, the threads and the packets are as they were. -/
def SameMachine (s s' : State) : Prop := s'.mem = s.mem ∧ s'.threads = s.threads ∧ s'.packets = s.packets

theorem SameMachine.trans {s s' s'' : State} (h : SameMachine s s') (h' : SameMachine s' s'') : SameMachine s s'' :=
  ⟨h'.1.trans h.1, h'.2.1.trans h.2.1, h'.2.2.trans h.2.2⟩

theorem nextPlane_same (s : State) (peer dist : Nat) (num : Option Nat) : SameMachine s (nextPlane s peer dist num).1 := by
  cases num <;> exact ⟨rfl, rfl, rfl⟩

/-- A plane is taken, or none where the packet stays on its device. -/
theorem planeOr_same (s : State) (own : Prop) [Decidable own] (plane peer dist : Nat) (num : Option Nat) :
    SameMachine s (if own then (s, plane) else nextPlane s peer dist num).1 := by
  split
  · exact ⟨rfl, rfl, rfl⟩
  · exact nextPlane_same s peer dist num

theorem atQueue_same (s : State) (k : Packet) (peer dist : Nat) : SameMachine s (atQueue s k peer dist).1 := by
  unfold atQueue
  dsimp only [State.fresh]
  split <;> exact ⟨rfl, rfl, rfl⟩

/-- The packet at its queue is the same but for its path and its place in the queue. -/
theorem atQueue_packet (s : State) (k : Packet) (peer dist : Nat) : ∃ path ord entered,
    (atQueue s k peer dist).2 = { k with path := path, ord := ord, entered := entered } := by
  unfold atQueue
  dsimp only [State.fresh]
  split
  · split <;> exact ⟨_, _, _, rfl⟩
  · exact ⟨k.path, _, _, rfl⟩

theorem routed_same (s : State) (k : Packet) :
    SameMachine s (routed s k).1 ∧ ∃ path, (routed s k).2 = { k with path := path } := by
  have plane := planeOr_same s (saPeer k.ca = k.ctx.peer) (2 * coreDist k.place.core) k.ctx.peer (coreDist k.place.core)
    (if k.num = 0 then none else some k.num)
  unfold routed
  dsimp only
  generalize (if saPeer k.ca = k.ctx.peer then _ else _ : State × Nat) = r at plane ⊢
  split <;> exact ⟨plane, _, rfl⟩

/-- The packet is answered, with the memory as given. -/
def Replied (s : State) (k : Packet) (m : List Host.Cell) (res : List Word) : Prop :=
  s.mem = m ∧ ∃ k', findPacket s k.id = some k' ∧ k'.phase = .reply ∧ k'.result = res ∧ k'.body = k.body

theorem Replied.does {s s' : State} {i : Instr} {k : Packet} {m : List Host.Cell} {res : List Word} (h : Replied s' k m res)
    (hd : Does i s s') : ∃ s' k', Does i s s' ∧ s'.mem = m ∧ findPacket s' k.id = some k' ∧ k'.phase = .reply
      ∧ k'.result = res ∧ k'.body = k.body :=
  let ⟨hm, k', hk'⟩ := h
  ⟨s', k', hd, hm, hk'⟩

/-- A packet enters its queue as the reply of one that is found. -/
theorem enter_replies {s w : State} {k j q : Packet} (h : findPacket s k.id = some q) (hw : SameMachine s w) (hid : j.id = k.id)
    (hb : j.body = k.body) (peer dist : Nat) :
    Replied (setPacket (atQueue w j peer dist).1 { (atQueue w j peer dist).2 with phase := .reply }) k s.mem j.result := by
  obtain ⟨hm, -, hp⟩ := hw.trans (atQueue_same w j peer dist)
  obtain ⟨path, ord, entered, hk⟩ := atQueue_packet w j peer dist
  rw [hk]
  refine ⟨hm, { j with path := path, ord := ord, entered := entered, phase := .reply }, ?_, rfl, rfl, hb⟩
  rw [← hid]
  exact findPacket_setPacket ((findPacket_congr hp _).trans (hid ▸ h))

/-- A reply leaves its home (R232): nothing is written, and the packet is on its way with the result. -/
theorem reply_replies {s : State} {k q : Packet} (h : findPacket s k.id = some q) (res : List Word) :
    Replied (reply s k res) k s.mem res :=
  enter_replies (j := { k with path := _, result := res, slack := _, late := _ }) h
    (planeOr_same s (saPeer k.ca = k.place.peer) 0 _ _ _) rfl rfl _ _

/-! ### A packet is performed at its home (R182, R220) -/

section Home

variable {s : State} {k q : Packet} {id : Nat}

@[simp] theorem State.packets_updCtx (s : State) (c : CtxId) (f : Ctx → Ctx) : (s.updCtx c f).packets = s.packets := by
  unfold State.updCtx
  split <;> rfl

@[simp] theorem State.packets_updThread (s : State) (p : Place) (f : Thread → Thread) :
    (s.updThread p f).packets = s.packets := by
  unfold State.updThread
  split <;> rfl

/-- The page that an access of the packet's member touches is noted. -/
theorem touchMember_same (s : State) (m : Option CtxId) (sa : Nat) : SameMachine s (m.elim s (fun m => touch s m sa)) := by
  cases m with
  | none => exact ⟨rfl, rfl, rfl⟩
  | some m => exact ⟨touch_mem s m sa, touch_threads s m sa, State.packets_updCtx s m _⟩

/-- An abort drops what engines fetch ahead, and no other packet. -/
theorem findPacket_abortPlace (h : findPacket s id = some q) (hb : ∀ e i n, q.body ≠ .fetch e i n) (p : Place) (counts : Bool) :
    findPacket (abortPlace s p counts) id = some q := by
  unfold abortPlace
  split
  · exact h
  · refine find?_filter_kept h ?_
    cases hq : q.body <;> simp_all

theorem findPacket_abortReaders (h : findPacket s id = some q) (hb : ∀ e i n, q.body ≠ .fetch e i n) (skip : Option Nat)
    (lines : List Nat) : findPacket (abortReaders s skip lines) id = some q := by
  unfold abortReaders
  generalize s.threads.filter _ = l
  induction l generalizing s with
  | nil => exact h
  | cons e l ih => exact ih (findPacket_abortPlace h hb e.1 true)

theorem extWriteBy_writes (owner : Bool) (h : findPacket s id = some q) (hb : ∀ e i n, q.body ≠ .fetch e i n) (skip : Option Nat)
    (sa : Nat) (data : List Byte) : (extWriteBy owner s skip sa data).mem = memWrites s.mem sa data
      ∧ findPacket (extWriteBy owner s skip sa data) id = some q := by
  unfold extWriteBy
  split
  next he =>
    rw [List.isEmpty_iff.mp he]
    exact ⟨rfl, h⟩
  next =>
    have hw : (if owner then unpoison (s.writes sa data) sa data.length else s.writes sa data).mem = memWrites s.mem sa data
        ∧ (if owner then unpoison (s.writes sa data) sa data.length else s.writes sa data).packets = s.packets := by
      cases owner
      · exact ⟨rfl, rfl⟩
      · exact ⟨unpoison_mem _ _ _, unpoison_packets _ _ _⟩
    exact ⟨(abortReaders_mem _ _ _).trans hw.1, findPacket_abortReaders ((findPacket_congr hw.2 _).trans h) hb _ _⟩

/-- What a packet's home does: its bytes are written, and it is answered. -/
theorem performed_replies (h : findPacket s k.id = some q) (hb : ∀ e i n, q.body ≠ .fetch e i n) (sa : Nat) (res : List Word) :
    Replied (performed s k (some sa) res) k (memWrites s.mem sa (k.body.bytes s.mem sa)) res := by
  obtain ⟨hm, -, hp⟩ := touchMember_same s (k.memberOf s) sa
  obtain ⟨hmem, hfind⟩ := extWriteBy_writes (saPeer k.ca == k.ctx.peer) ((findPacket_congr hp _).trans h) hb none sa
    (k.body.bytes ((k.memberOf s).elim s (fun m => touch s m sa)).mem sa)
  unfold performed
  dsimp only
  rw [hm] at hmem hfind ⊢
  generalize extWriteBy _ _ _ _ _ = w at hmem hfind ⊢
  rw [← hmem]
  split
  · exact reply_replies hfind res
  · exact reply_replies (s := { w with streams := mset w.streams _ _ }) hfind res

/-- The read's home notes the line for the reader's region where it is local, and the page; nothing is written. -/
theorem answerRead_replies (h : findPacket s k.id = some q) (sa n : Nat) (res : List Word) :
    Replied (answerRead (joinHome s k sa n) k sa n res) k s.mem res := by
  have joined : (joinHome s k sa n).mem = s.mem ∧ (joinHome s k sa n).packets = s.packets := by
    unfold joinHome
    split
    · split
      · exact ⟨State.mem_updThread _ _ _, State.packets_updThread _ _ _⟩
      · exact ⟨rfl, rfl⟩
    · exact ⟨rfl, rfl⟩
  obtain ⟨hm, -, hp⟩ := touchMember_same (joinHome s k sa n) (k.memberOf (joinHome s k sa n)) sa
  have hfind := (findPacket_congr (hp.trans joined.2) k.id).trans h
  have hmem := hm.trans joined.1
  unfold answerRead
  dsimp only
  generalize Option.elim _ _ _ = w at hmem hfind ⊢
  rw [← hmem]
  split
  · exact reply_replies (s := { w with draws := w.draws + 2 }) hfind res
  · exact reply_replies hfind res

/-- A packet of a stream has its turn at its home (R182, R201, R220): it has arrived, its page is resident, the stream has not
performed it, and neither the stream nor the home's queues hold it. -/
structure HasTurn (s : State) (k : Packet) (key : StreamKey) (sa : Nat) : Prop where
  found : findPacket s k.id = some k
  arrived : k.phase = .arrived
  resident : placeOf s k = some (sa, true)
  stream : k.stream = some key
  first : (mgetD s.streams key StreamSt.reset).done.contains k.num = false
  lets : streamLets s (k.aged s.now) = true ∧ handlerLets s (k.aged s.now) sa = true ∧ cqLets s (k.aged s.now) sa = true

section Turn

variable {key : StreamKey} {sa : Nat} (ht : HasTurn s k key sa)

include ht

/-- The stream has no cached reply of it (R183). -/
theorem HasTurn.not_cached : cached s (k.aged s.now) = none := by
  have hk : (k.aged s.now).stream = some key := ht.stream
  have hn : (mgetD s.streams key StreamSt.reset).done.contains (k.aged s.now).num = false := ht.first
  simp only [cached, hk, Option.bind_some, hn, Bool.false_eq_true, if_false]

theorem performPacket_performs {d : List Byte} (hd : k.body = .store d ∨ k.body = .release d)
    (hb : blocked s none (linesOf sa (max 1 d.length)) = false) :
    Does (.performPacket k.id) s (performed (countWrite s (k.aged s.now)) (k.aged s.now) (some sa) []) := by
  obtain ⟨hs, hh, hc⟩ := ht.lets
  have ha : (k.aged s.now).phase = .arrived := ht.arrived
  have hp : placeOf s (k.aged s.now) = some (sa, true) := ht.resident
  have hd' : (k.aged s.now).body = .store d ∨ (k.aged s.now).body = .release d := hd
  show execPerformPacket k.id s = _
  rcases hd' with hd' | hd' <;>
    simp [execPerformPacket, ht.found, ha, hd', Body.plain, ht.not_cached, hs, hp, hh, hc, hb, Body.bytes]

theorem performPacket_replies {d : List Byte} (hd : k.body = .store d ∨ k.body = .release d) :
    Replied (performed (countWrite s (k.aged s.now)) (k.aged s.now) (some sa) []) k (memWrites s.mem sa d) [] := by
  have hb : k.body.bytes s.mem sa = d := by rcases hd with hd | hd <;> simp only [hd, Body.bytes]
  exact hb ▸ performed_replies (s := countWrite s (k.aged s.now)) (k := k.aged s.now) ht.found
    (by rcases hd with hd | hd <;> simp [hd]) sa []

variable {op : AtomOp} {w : Bool} {v c : Word} (hd : k.body = .ratomic op w v c)

include hd

theorem remotePerform_performs (hi : poisonHit s sa (if w then 4 else 8) = false) (hb : blocked s none (linesOf sa 8) = false) :
    Does (.remotePerform k.id) s
      (performed s (k.aged s.now) (some sa) [(atomConv op w).apply (atomBytes s.mem sa op w v c).1]) := by
  obtain ⟨hs, hh, hc⟩ := ht.lets
  show execRemotePerform k.id s = _
  simp [execRemotePerform, ht.found, ht.arrived, hd, ht.resident, ht.not_cached, hs, hh, hc, hi, hb]

theorem remotePerform_replies (res : List Word) :
    Replied (performed s (k.aged s.now) (some sa) res) k (memWrites s.mem sa (atomBytes s.mem sa op w v c).2) res := by
  have hb : k.body.bytes s.mem sa = (atomBytes s.mem sa op w v c).2 := by simp only [hd, Body.bytes]
  exact hb ▸ performed_replies (k := k.aged s.now) ht.found (by simp [hd]) sa res

end Turn

/-- The home answers a read with the bytes that the reader sees. -/
theorem remotePerform_reads {sa n : Nat} {conv : Conv} (hf : findPacket s k.id = some k) (ha : k.phase = .arrived)
    (hp : placeOf s k = some (sa, true)) (hk : k.body = .read n conv) (hs : saKind sa ≠ 6) (hh : handlerLets s k sa = true)
    (hi : poisonHit s sa n = false) : Does (.remotePerform k.id) s
      (answerRead (joinHome s k sa n) k sa n (readWords n conv (memReads (viewFor s k) sa n))) := by
  show execRemotePerform k.id s = _
  simp [execRemotePerform, hf, ha, hk, hp, hh, homeBytes, hi, hs]

end Home

/-! ### Replies and acknowledgements (R57, R182, R183) -/

section Replies

variable {s : State} {k : Packet}

theorem enterStream_threads (s : State) (k : Packet) : (enterStream s k).1.threads = s.threads := by
  unfold enterStream
  split <;> rfl

theorem launchPacket_threads (s : State) (k : Packet) : (launchPacket s k).threads = s.threads := by
  have entered := (routed_same (enterStream s k).1 (enterStream s k).2).1
  exact ((entered.trans (atQueue_same _ _ _ _)).2.1).trans (enterStream_threads s k)

theorem releaseHeld_threads (uid : Nat) : ∀ (fuel : Nat) (s : State), (releaseHeld s uid fuel).threads = s.threads
  | 0, _ => rfl
  | fuel + 1, s => by
    unfold releaseHeld
    split
    · rfl
    · dsimp only
      split
      · rfl
      · exact (releaseHeld_threads uid fuel _).trans (launchPacket_threads _ _)

/-- A result of the register bank arrives: it is in its register, and the packet is gone. -/
theorem resultArrival_writes {p : Place} {t : Thread} {d : Reg} {v : Word} (hf : findPacket s k.id = some k) (ha : k.phase = .reply)
    (hp : k.path = []) (hb : (∃ n conv, k.body = .read n conv) ∨ ∃ op w x c, k.body = .ratomic op w x c)
    (ho : originalOf s k = k.id) (hl : k.late = false) (hv : k.result = [v]) (hu : s.findThread k.uid = some (p, t))
    (ht : s.thread p = some t) (hd : isShared d = false) (hq : t.pend = [⟨k.id, [ri d], 0, none, [], false, none⟩]) :
    Does (.resultArrival k.id) s (releaseHeld ((settlePacket s k).setThread p { t.setReg (ri d) v with pend := [] }) k.uid 64) := by
  have settled : (settlePacket s k).thread p = some t := ht
  have arrives : arriveAt s p t k = (settlePacket s k).setThread p { t.setReg (ri d) v with pend := [] } := by
    rw [← arriveValue_writes settled hd hq, ← hv]
    rcases hb with ⟨n, conv, hb⟩ | ⟨op, w, x, c, hb⟩ <;> simp [arriveAt, ho, hl, hb]
  rw [← arrives]
  show execResultArrival k.id s = _
  rcases hb with ⟨n, conv, hb⟩ | ⟨op, w, x, c, hb⟩ <;> simp [execResultArrival, hf, ha, hp, hb, Body.returns, hu]

theorem acknowledgement_ends (hf : findPacket s k.id = some k) (ha : k.phase = .reply) (hp : k.path = [])
    (hb : k.body.returns = false) (hl : k.late = false) :
    Does (.acknowledgement k.id false) s (releaseHeld (settlePacket s k) k.uid 64) := by
  show execAcknowledgement k.id false s = _
  simp [execAcknowledgement, hf, ha, hp, hb, hl]

section Fabric

variable {key : StreamKey} (hk : k.stream = some key) (hfab : key.fabric = true) (hn : k.num ≠ 0)

include hk hfab hn

theorem onFabric_of_stream : k.onFabric = true := by simp [Packet.onFabric, hk, hfab, hn]

/-- An acknowledgement is lost on the fabric (R183): the packet stays, unanswered. -/
theorem acknowledgement_lost (hf : findPacket s k.id = some k) (ha : k.phase = .reply) (hd : k.dup = false) :
    Does (.acknowledgement k.id true) s (setPacket s { k with phase := .lost, path := [] }) := by
  show execAcknowledgement k.id true s = _
  simp [execAcknowledgement, hf, ha, hd, onFabric_of_stream hk hfab hn]

/-- A packet as it is sent again: with its number and its first slack, unanswered. -/
def Packet.resent (k : Packet) (now : Nat) : Packet :=
  { k with phase := .request, slack := k.slack0, late := false, kept := false, sentAt := some now, result := [] }

/-- The packet `again` is sent in the place of `k` if that is lost, and beside it as a copy if it is still on its way. -/
def sendAgain (s : State) (k again : Packet) : State :=
  if k.phase = .lost then
    let r := atQueue s again k.place.peer (coreDist k.place.core)
    setPacket r.1 r.2
  else
    let f := (setPacket s { k with sentAt := some s.now }).fresh
    let r := atQueue f.2 { again with id := f.1, dup := true } k.place.peer (coreDist k.place.core)
    { r.1 with packets := r.1.packets ++ [r.2] }

theorem retransmit_sends (hf : findPacket s k.id = some k) (hd : k.dup = false) {sent : Nat} (hs : k.sentAt = some sent)
    (h8 : sent + 15200 ≤ s.now) : ∃ w path, SameMachine s w
      ∧ Does (.retransmit k.id) s (sendAgain w k { k.resent s.now with path := path }) := by
  obtain ⟨hsame, path, hr⟩ := routed_same s (k.resent s.now)
  have due : (!k.onFabric || k.dup || !k.sentAt.any (fun t => decide (t + resendTime ≤ s.now))) = false := by
    simp [onFabric_of_stream hk hfab hn, hd, hs, resendTime, h8]
  refine ⟨_, path.filter (fun q => match q with
    | .window _ => false
    | _ => true), hsame, ?_⟩
  show execRetransmit k.id s = _
  unfold execRetransmit
  simp only [hf, due, Bool.false_eq_true, if_false]
  rw [← Packet.resent, show routed s (k.resent s.now) = ((routed s (k.resent s.now)).1, { k.resent s.now with path := path }) from
    Prod.ext rfl hr]
  rfl

end Fabric

/-- The packet that is sent again is among the packets. -/
theorem sendAgain_sends {w : State} {again : Packet} (hf : findPacket s k.id = some k) (hw : SameMachine s w) (hid : again.id = k.id) :
    ∃ k' ∈ (sendAgain w k again).packets, ∃ id path ord entered dup,
      k' = { again with id := id, path := path, ord := ord, entered := entered, dup := dup }
        ∧ (k.phase = .lost → id = k.id) ∧ (k.phase ≠ .lost → dup = true) := by
  unfold sendAgain
  split
  next lost =>
    obtain ⟨path, ord, entered, hk⟩ := atQueue_packet w again k.place.peer (coreDist k.place.core)
    obtain ⟨-, -, hp⟩ := hw.trans (atQueue_same w again k.place.peer (coreDist k.place.core))
    refine ⟨_, ?_, again.id, path, ord, entered, again.dup, hk, fun _ => hid, fun h => absurd lost h⟩
    refine List.mem_of_find?_eq_some (findPacket_setPacket (q := k) ((findPacket_congr hp _).trans ?_))
    rw [hk]
    exact hid ▸ hf
  next alive =>
    dsimp only
    generalize (setPacket w { k with sentAt := some w.now }).fresh = f
    obtain ⟨path, ord, entered, hk⟩ :=
      atQueue_packet f.2 { again with id := f.1, dup := true } k.place.peer (coreDist k.place.core)
    exact ⟨_, List.mem_append_right _ List.mem_cons_self, f.1, path, ord, entered, true, hk, fun h => absurd h alive, fun _ => rfl⟩

end Replies

/-! ### Barrier arrivals (R257) -/

/-- The barrier that arrivals make of one whose members do not wait for a gathering: it flips each time that its count is full. -/
theorem barrierCount_counts {s : State} {c : CtxId} {x : Ctx} {bar : Nat} {b : Barrier} (hx : s.ctx c = some x)
    (hb : mgetD x.barriers bar Barrier.reset = b) (he : b.e ≠ 0) (hs : b.stat = false) (n : Nat) : ∃ y b',
      (barrierCount s c bar n).ctx c = some y ∧ mgetD y.barriers bar Barrier.reset = b' ∧ b'.count = (b.count + n) % b.e
        ∧ b'.flips = b.flips + (b.count + n) / b.e ∧ (b'.phase != b.phase) = decide ((b.count + n) / b.e % 2 = 1) := by
  unfold barrierCount
  simp only [hx, hb, he, hs, false_or, Bool.false_eq_true, false_and, or_false]
  by_cases hn : b.count + n < b.e
  · rw [if_pos hn]
    refine ⟨_, { b with count := b.count + n }, State.ctx_setCtx _ _ _, by simp [mgetD, hs], ?_, ?_, ?_⟩
    · exact (Nat.mod_eq_of_lt hn).symm
    · simp [Nat.div_eq_of_lt hn]
    · simp [Nat.div_eq_of_lt hn]
  · rw [if_neg hn]
    refine ⟨_, { b with
        count := (b.count + n) % b.e
        phase := b.phase != ((b.count + n) / b.e % 2 == 1)
        flips := b.flips + (b.count + n) / b.e }, State.ctx_setCtx _ _ _, by simp [mgetD, hs], rfl, rfl, ?_⟩
    cases b.phase <;> simp <;> rfl

theorem barrierArrival_counts {s : State} {k : Packet} (hf : findPacket s k.id = some k) (ha : k.phase = .arrived) {bar n : Nat}
    (hb : k.body = .arrival bar n) : Does (.barrierArrival k.id) s (barrierCount (dropPacket s k.id) k.ctx bar n) := by
  show execBarrierArrival k.id s = _
  simp only [execBarrierArrival, hf, ha, hb]

end Sys2Proof.Machine

namespace Sys2Proof

open Machine

/-- Settles O39: each step is what its own lemma says of a packet that is found. -/
theorem packetSteps : Obligations.PacketSteps := by
  unfold Obligations.PacketSteps
  refine ⟨fun s k sa hf ha hp => ⟨fun key d hk hd hn lets hb => ?_, fun n conv hk hs hh hi => ?_,
    fun key op w v c hk hd hn lets hi hb => ?_⟩, fun s k hf => ⟨fun p t d v ha hp hb ho hl hv hu ht hd hq => ?_,
    fun ha hp hb hl => ⟨acknowledgement_ends hf ha hp hb hl, findPacket_settled s k⟩, fun key hk hfab hn hd =>
      ⟨fun ha => acknowledgement_lost hk hfab hn hf ha hd, fun sent hs h8 => ?_⟩, fun bar n x ha hb hx he hs => ?_⟩⟩
  · have turn : HasTurn s k key sa := ⟨hf, ha, hp, hk, hn, lets⟩
    exact (performPacket_replies turn hd).does (performPacket_performs turn hd hb)
  · exact (answerRead_replies hf sa n _).does (remotePerform_reads hf ha hp hk hs hh hi)
  · have turn : HasTurn s k key sa := ⟨hf, ha, hp, hk, hn, lets⟩
    exact (remotePerform_replies turn hd _).does (remotePerform_performs turn hd hi hb)
  · have original : originalOf s k = k.id := by
      obtain ⟨o, ho', hid⟩ := Option.map_eq_some_iff.mp ho
      rw [originalOf, ho', Option.getD_some, hid]
    refine ⟨_, { t.setReg (ri d) v with pend := [] }, resultArrival_writes hf ha hp hb original hl hv hu ht hd hq, ?_, rfl, ?_⟩
    · rw [State.thread, releaseHeld_threads]
      exact State.thread_setThread _ _ _
    · exact readI_setReg_same _ t hd v
  · obtain ⟨w, path, hw, does⟩ := retransmit_sends hk hfab hn hf hd hs h8
    obtain ⟨k', hk', id, path', ord, entered, dup, rfl, hlost, hcopy⟩ :=
      sendAgain_sends hf hw (again := { k.resent s.now with path := path }) rfl
    exact ⟨_, _, does, hk', rfl, rfl, rfl, rfl, rfl, hlost, hcopy⟩
  · obtain ⟨y, b', hy, hb', hcount, hflips, hphase⟩ := barrierCount_counts (s := dropPacket s k.id) hx rfl he hs n
    exact ⟨_, y, b', barrierArrival_counts hf ha hb, hy, hb', hcount, hflips, hphase⟩

end Sys2Proof


/-! ## Integer arithmetic and logic on the bits of a width (R79 to R82), and O1 -/

namespace Sys2Proof.Machine

/-! ### The operands of a width (R79) -/

/-- The operand of the width, as bits. -/
def operand (w : Bool) (x : Word) : BitVec (width w) := x.setWidth (width w)

theorem width_pos (w : Bool) : 0 < width w := by cases w <;> decide

theorem opd_eq (w : Bool) (x : Word) : opd w x = (operand w x).toNat := (BitVec.toNat_setWidth _ _).symm

theorem opS_eq (w : Bool) (x : Word) : opS w x = (operand w x).toInt := by
  unfold opS
  rw [opd_eq, BitVec.toInt_eq_toNat_cond]
  split <;> split
  · omega
  · push_cast; rfl
  · rfl
  · omega

theorem sextW_eq (n v : Nat) : sextW n v = (BitVec.ofNat n v).signExtend 64 := by
  rw [BitVec.signExtend, BitVec.toInt_eq_toNat_cond, BitVec.toNat_ofNat]
  unfold sextW
  dsimp only
  split <;> split
  · omega
  · push_cast; rfl
  · rw [BitVec.ofInt_natCast]
  · omega

theorem res_eq (w : Bool) (v : Nat) : res w v = (BitVec.ofNat (width w) v).signExtend 64 := sextW_eq _ v

theorem resI_eq (w : Bool) (v : Int) : resI w v = (BitVec.ofInt (width w) v).signExtend 64 := by
  rw [resI, res_eq]
  congr 1
  apply BitVec.eq_of_toInt_eq
  have : ((v % 2 ^ width w).toNat : Int) = v % 2 ^ width w := Int.toNat_of_nonneg (Int.emod_nonneg v (by positivity))
  rw [← BitVec.ofInt_natCast, this, BitVec.toInt_ofInt, BitVec.toInt_ofInt]
  exact_mod_cast Int.emod_bmod _ _

section Widths

variable (w : Bool)

theorem at1_eq (f : ∀ n, BitVec n → BitVec n) (a : Word) : at1 w f a = (f (width w) (operand w a)).signExtend 64 := by
  cases w
  · simp [at1, operand, width]
  · rfl

theorem at2_eq (f : ∀ n, BitVec n → BitVec n → BitVec n) (a b : Word) :
    at2 w f a b = (f (width w) (operand w a) (operand w b)).signExtend 64 := by
  cases w
  · simp [at2, operand, width]
  · rfl

theorem at3_eq (f : ∀ n, BitVec n → BitVec n → BitVec n → BitVec n) (d a b : Word) :
    at3 w f d a b = (f (width w) (operand w d) (operand w a) (operand w b)).signExtend 64 := by
  cases w
  · simp [at3, operand, width]
  · rfl

theorem count1_eq (f : ∀ n, BitVec n → Nat) (a : Word) : count1 w f a = BitVec.ofNat 64 (f (width w) (operand w a)) := by
  cases w
  · simp [count1, operand, width]
  · rfl

theorem test2_eq (f : ∀ n, BitVec n → BitVec n → Bool) (a b : Word) :
    test2 w f a b = ofCond (f (width w) (operand w a) (operand w b)) := by
  cases w
  · simp [test2, operand, width, ofCond]
  · rfl

end Widths

/-! ### Arithmetic and logic (R80) -/

section Arithmetic

variable (w : Bool) (d a b : Word)

/-- A difference of unsigned operands is their difference as bits. -/
theorem ofInt_sub_toNat {n : Nat} (x y : BitVec n) : BitVec.ofInt n ((x.toNat : Int) - y.toNat) = x - y := by
  rw [Int.sub_eq_add_neg, BitVec.ofInt_add, BitVec.ofInt_neg, BitVec.ofInt_natCast, BitVec.ofInt_natCast]
  simp [BitVec.sub_eq_add_neg]

theorem aluAdd_eq : aluAdd w a b = at2 w (fun _ x y => x + y) a b := by
  simp [aluAdd, res_eq, opd_eq, at2_eq, BitVec.ofNat_add]

theorem aluSub_eq : aluSub w a b = at2 w (fun _ x y => x - y) a b := by
  simp only [aluSub, resI_eq, opd_eq, at2_eq, ofInt_sub_toNat]

theorem aluMul_eq : aluMul w a b = at2 w (fun _ x y => x * y) a b := by
  simp [aluMul, res_eq, opd_eq, at2_eq, BitVec.ofNat_mul]

theorem aluMulh_eq : aluMulh w a b = at2 w (fun n x y => BitVec.ofInt n (x.toInt * y.toInt / 2 ^ n)) a b := by
  simp only [aluMulh, resI_eq, opS_eq, at2_eq]

theorem aluMulhu_eq : aluMulhu w a b = at2 w (fun n x y => BitVec.ofNat n (x.toNat * y.toNat / 2 ^ n)) a b := by
  simp only [aluMulhu, res_eq, opd_eq, at2_eq]

theorem aluMadd_eq : aluMadd w d a b = at3 w (fun _ z x y => z + x * y) d a b := by
  simp [aluMadd, res_eq, opd_eq, at3_eq, BitVec.ofNat_add, BitVec.ofNat_mul]

theorem aluAbs_eq : aluAbs w a = at1 w (fun _ x => if x.toInt < 0 then -x else x) a := by
  simp only [aluAbs, resI_eq, opS_eq, at1_eq]
  split
  · rw [BitVec.ofInt_neg, BitVec.ofInt_toInt]
  · rw [BitVec.ofInt_toInt]

theorem aluMin_eq : aluMin w a b = at2 w (fun _ x y => if x.toInt ≤ y.toInt then x else y) a b := by
  simp only [aluMin, resI_eq, opS_eq, at2_eq, ← not_lt, ite_not]
  split <;> rw [BitVec.ofInt_toInt]

theorem aluMax_eq : aluMax w a b = at2 w (fun _ x y => if x.toInt ≤ y.toInt then y else x) a b := by
  simp only [aluMax, resI_eq, opS_eq, at2_eq]
  split <;> split
  · rw [BitVec.ofInt_toInt]
  · omega
  · rw [BitVec.ofInt_toInt, BitVec.eq_of_toInt_eq (x := operand w a) (y := operand w b) (by omega)]
  · rw [BitVec.ofInt_toInt]

theorem aluMinu_eq : aluMinu w a b = at2 w (fun _ x y => if x.toNat ≤ y.toNat then x else y) a b := by
  simp only [aluMinu, res_eq, opd_eq, at2_eq, ← not_lt, ite_not]
  split <;> simp

theorem aluMaxu_eq : aluMaxu w a b = at2 w (fun _ x y => if x.toNat ≤ y.toNat then y else x) a b := by
  simp only [aluMaxu, res_eq, opd_eq, at2_eq]
  split <;> split
  · simp
  · omega
  · rw [BitVec.eq_of_toNat_eq (x := operand w a) (y := operand w b) (by omega)]; simp
  · simp

theorem aluAnd_eq : aluAnd w a b = at2 w (fun _ x y => x &&& y) a b := by
  simp [aluAnd, res_eq, opd_eq, at2_eq, BitVec.ofNat_and]

theorem aluOr_eq : aluOr w a b = at2 w (fun _ x y => x ||| y) a b := by
  simp [aluOr, res_eq, opd_eq, at2_eq, BitVec.ofNat_or]

theorem aluXor_eq : aluXor w a b = at2 w (fun _ x y => x ^^^ y) a b := by
  simp [aluXor, res_eq, opd_eq, at2_eq, BitVec.ofNat_xor]

theorem aluAndn_eq : aluAndn w a b = at2 w (fun _ x y => x &&& ~~~y) a b := by
  simp only [aluAndn, res_eq, opd_eq, at2_eq, BitVec.ofNat_and, ← BitVec.toNat_not, BitVec.ofNat_toNat, BitVec.setWidth_eq]

end Arithmetic

end Sys2Proof.Machine

namespace Sys2Proof
open Machine

/-! ### Register instructions of one result -/

section Forms

variable {i : Instr} {d a b : Reg}

/-- A register instruction of one value, which is of the core and the thread without its region. -/
theorem writes_of_compute {word : Word} {uses : List Dst} {e : Dst} {f g : Core → Thread → Word}
    (hi : exec i = compute word uses e (fun _ t k _ => .ok (g k t))) (hr : ∀ k t r, g k { t with region := r } = g k t)
    (hg : ∀ k t, g k t = f k t) : Writes i uses e f := by
  intro s t h hw
  rw [Runs, hi, ← hg]
  exact compute_next h hw rfl (fun r => congrArg _ (hr _ _ r))

theorem binary_of_alu {f g : Word → Word → Word} (hg : ∀ x y, g x y = f x y) (hi : exec i = rrr (wordOf i) d a b g) :
    Binary i d a b f :=
  writes_of_compute hi (fun _ _ _ => rfl) (fun _ _ => hg _ _)

theorem ternary_of_alu {f g : Word → Word → Word → Word} (hg : ∀ z x y, g z x y = f z x y)
    (hi : exec i = rrrd (wordOf i) d a b g) : Ternary i d a b f :=
  writes_of_compute hi (fun _ _ _ => rfl) (fun _ _ => hg _ _ _)

theorem unary_of_alu {f g : Word → Word} (hg : ∀ x, g x = f x) (hi : exec i = rr (wordOf i) d a g) : Unary i d a f :=
  writes_of_compute hi (fun _ _ _ => rfl) (fun _ _ => hg _)

end Forms

/-- Settles O1: each operation of the ALU is one on the bits of the operands. -/
theorem integerArithmetic : Obligations.IntegerArithmetic := by
  unfold Obligations.IntegerArithmetic
  intro w d a b
  exact ⟨binary_of_alu (aluAdd_eq w) rfl, binary_of_alu (aluSub_eq w) rfl, binary_of_alu (aluMul_eq w) rfl,
    binary_of_alu (aluMulh_eq w) rfl, binary_of_alu (aluMulhu_eq w) rfl, ternary_of_alu (aluMadd_eq w) rfl,
    unary_of_alu (aluAbs_eq w) rfl, binary_of_alu (aluMin_eq w) rfl, binary_of_alu (aluMax_eq w) rfl,
    binary_of_alu (aluMinu_eq w) rfl, binary_of_alu (aluMaxu_eq w) rfl, binary_of_alu (aluAnd_eq w) rfl,
    binary_of_alu (aluOr_eq w) rfl, binary_of_alu (aluXor_eq w) rfl, binary_of_alu (aluAndn_eq w) rfl⟩

end Sys2Proof


/-! ## Checked arithmetic and division (R81, R82), and O2 -/

namespace Sys2Proof.Machine

theorem width_ite (w : Bool) : (if w = true then 32 else 64) = width w := rfl

theorem minS_eq (w : Bool) : minS w = -2 ^ (width w - 1) := rfl

theorem inRange_iff (w : Bool) (v : Int) : inRange w v = true ↔ -2 ^ (width w - 1) ≤ v ∧ v < 2 ^ (width w - 1) := by
  rw [inRange, minS_eq, Bool.and_eq_true, decide_eq_true_eq, decide_eq_true_eq]

theorem aluChecked_in {w : Bool} {v : Int} (h : inRange w v = true) : aluChecked w v = .ok (resI w v) := if_pos h

theorem aluChecked_out {w : Bool} {v : Int} (h : ¬inRange w v = true) : aluChecked w v = .error ⟨cOverflow, resI w v⟩ := if_neg h

section Division

variable (w : Bool) (a b : Word)

theorem resI_add_eq : resI w (opS w a + opS w b) = at2 w (fun _ x y => x + y) a b := by
  simp only [resI_eq, opS_eq, at2_eq, BitVec.ofInt_add, BitVec.ofInt_toInt]

theorem resI_sub_eq : resI w (opS w a - opS w b) = at2 w (fun _ x y => x - y) a b := by
  simp only [resI_eq, opS_eq, at2_eq, Int.sub_eq_add_neg, BitVec.ofInt_add, BitVec.ofInt_neg, BitVec.ofInt_toInt,
    BitVec.sub_eq_add_neg]

theorem opd_eq_zero_iff : opd w a = 0 ↔ operand w a = 0 := by
  simp [opd_eq, ← BitVec.toNat_inj]

theorem res_allOnes : res w (2 ^ width w - 1) = (BitVec.allOnes (width w)).signExtend 64 := by
  rw [res_eq, ← BitVec.toNat_allOnes, BitVec.ofNat_toNat, BitVec.setWidth_eq]

theorem res_opd : res w (opd w a) = at1 w (fun _ x => x) a := by
  simp [res_eq, opd_eq, at1_eq]

/-- The quotient of two numbers, truncated, is the quotient of their bits. -/
theorem ofInt_tdiv {n : Nat} (x y : BitVec n) : BitVec.ofInt n (x.toInt.tdiv y.toInt) = x.sdiv y := by
  apply BitVec.eq_of_toInt_eq
  rw [BitVec.toInt_ofInt, BitVec.toInt_sdiv]

theorem ofInt_tmod {n : Nat} (x y : BitVec n) : BitVec.ofInt n (x.toInt - y.toInt * x.toInt.tdiv y.toInt) = x.srem y := by
  rw [← Int.tmod_def, ← BitVec.toInt_srem, BitVec.ofInt_toInt]

theorem aluDiv_eq : aluDiv w a b = at2 w (fun n x y => if y = 0 then BitVec.allOnes n else x.sdiv y) a b := by
  simp only [aluDiv, opd_eq_zero_iff, res_allOnes, resI_eq, opS_eq, at2_eq, ofInt_tdiv]
  split <;> rfl

theorem aluDivu_eq : aluDivu w a b = at2 w (fun n x y => if y = 0 then BitVec.allOnes n else x / y) a b := by
  simp only [aluDivu, opd_eq_zero_iff, res_allOnes, at2_eq]
  split
  · rfl
  · rw [res_eq, opd_eq, opd_eq, ← BitVec.toNat_udiv, BitVec.ofNat_toNat, BitVec.setWidth_eq]

theorem aluRem_eq : aluRem w a b = at2 w (fun _ x y => if y = 0 then x else x.srem y) a b := by
  simp only [aluRem, opd_eq_zero_iff, res_opd, at1_eq, resI_eq, opS_eq, at2_eq, ofInt_tmod]
  split <;> rfl

theorem aluRemu_eq : aluRemu w a b = at2 w (fun _ x y => if y = 0 then x else x % y) a b := by
  simp only [aluRemu, opd_eq_zero_iff, res_opd, at1_eq, at2_eq]
  split
  · rfl
  · rw [res_eq, opd_eq, opd_eq, ← BitVec.toNat_umod, BitVec.ofNat_toNat, BitVec.setWidth_eq]

end Division

/-! ### DIVV (R82) -/

section Divv

variable {w : Bool} {a b : Word}

theorem minS_eq_intMin : minS w = (BitVec.intMin (width w)).toInt := by cases w <;> rfl

theorem minusOne_eq_allOnes : -1 = (BitVec.allOnes (width w)).toInt := by cases w <;> rfl

theorem aluDivv_zero (h : operand w b = 0) : aluDivv w a b = .error ⟨cDivzero, at1 w (fun _ x => x) a⟩ := by
  rw [aluDivv, if_pos ((opd_eq_zero_iff w b).mpr h), res_opd]

theorem opS_corner_iff : (opS w a = minS w ∧ opS w b = -1)
    ↔ operand w a = BitVec.intMin (width w) ∧ operand w b = BitVec.allOnes (width w) := by
  rw [opS_eq, opS_eq, minS_eq_intMin, minusOne_eq_allOnes (w := w), BitVec.toInt_inj, BitVec.toInt_inj]

theorem allOnes_ne_zero : BitVec.allOnes (width w) ≠ 0 := by cases w <;> decide

theorem aluDivv_corner (ha : operand w a = BitVec.intMin (width w)) (hb : operand w b = BitVec.allOnes (width w)) :
    aluDivv w a b = .error ⟨cOverflow, at1 w (fun n _ => BitVec.intMin n) a⟩ := by
  rw [aluDivv, if_neg (mt (opd_eq_zero_iff w b).mp (hb ▸ allOnes_ne_zero)), if_pos (opS_corner_iff.mpr ⟨ha, hb⟩), resI_eq,
    minS_eq_intMin, BitVec.ofInt_toInt, at1_eq]

theorem aluDivv_ok (h0 : operand w b ≠ 0) (hc : ¬(operand w a = BitVec.intMin (width w) ∧ operand w b = BitVec.allOnes (width w))) :
    aluDivv w a b = .ok (at2 w (fun _ x y => x.sdiv y) a b) := by
  rw [aluDivv, if_neg (mt (opd_eq_zero_iff w b).mp h0), if_neg (mt opS_corner_iff.mp hc), aluDiv_eq, at2_eq, at2_eq, if_neg h0]

end Divv

end Sys2Proof.Machine

namespace Sys2Proof
open Machine

/-! ### Register instructions that may trap -/

/-- A register instruction that traps does so without the token of its destination. -/
theorem compute_trap {word : Word} {uses : List Dst} {d : Dst} {f : Place → Thread → Core → State → Except Trap Word} {s : State}
    {t : Thread} {c : Trap} (h : CanIssue s t (uses ++ [d])) (hv : f s.turn t (coreNow s) s = .error c) :
    compute word uses d f s = .next (raise s s.turn c) := by
  have hv' : f s.turn t (s.core (coreOf s.turn)) s = .error c := hv
  unfold compute
  cases isShared d.reg
  · rw [issue_next h, hv]
    rfl
  · rw [issue_pinned h]
    simp only [issuePinned, hv', finish]

section Forms

variable {i : Instr} {d a b : Reg} {s : State} {t : Thread} {f : Word → Word → Except Trap Word}
  (h : CanIssue s t [ri a, ri b, ri d]) (hi : exec i = rrrT (wordOf i) d a b f)

include h hi

theorem runs_of_checked {v : Word} (hw : MayWrite s t (ri d)) (hv : f (readI (coreNow s) t a) (readI (coreNow s) t b) = .ok v) :
    Runs i s ((pinFor s t (ri d)).writeReg s.turn (ri d) v) := by
  rw [Runs, hi]
  exact compute_next (uses := [ri a, ri b]) h hw hv (fun _ => hv)

theorem traps_of_checked {code : Nat} {v : Word}
    (hv : f (readI (coreNow s) t a) (readI (coreNow s) t b) = .error ⟨code, v⟩) : Traps i s code v := by
  rw [Traps, hi]
  exact compute_trap (uses := [ri a, ri b]) h hv

end Forms

theorem toInt_operand (w : Bool) (x : Word) : (if w then (low x).toInt else x.toInt) = opS w x := by
  rw [opS_eq]
  cases w
  · simp [operand, width]
  · rfl

theorem operand_false (x : Word) : operand false x = x := BitVec.setWidth_eq x

theorem zero_iff (w : Bool) (x : Word) : (if w then low x = 0 else x = 0) ↔ operand w x = 0 := by
  cases w
  · exact iff_of_eq (congrArg (· = 0) (operand_false x).symm)
  · rfl

theorem corner_iff (w : Bool) (x y : Word) :
    (if w then low x = BitVec.intMin 32 ∧ low y = BitVec.allOnes 32 else x = BitVec.intMin 64 ∧ y = BitVec.allOnes 64)
      ↔ operand w x = BitVec.intMin (width w) ∧ operand w y = BitVec.allOnes (width w) := by
  cases w
  · rw [operand_false, operand_false]; rfl
  · rfl

/-- ADDV and SUBV: an exact result in the range of the width is written; another traps with the wrapped one. -/
theorem checked_runs_or_traps {i : Instr} {w : Bool} {d a b : Reg} {s : State} {t : Thread} {v : Word → Word → Int} {r : Word}
    (h : CanIssue s t [ri a, ri b, ri d]) (hi : exec i = rrrT (wordOf i) d a b (fun x y => aluChecked w (v x y)))
    (hr : resI w (v (readI (coreNow s) t a) (readI (coreNow s) t b)) = r) :
    if -2 ^ (width w - 1) ≤ v (readI (coreNow s) t a) (readI (coreNow s) t b)
        ∧ v (readI (coreNow s) t a) (readI (coreNow s) t b) < 2 ^ (width w - 1)
      then MayWrite s t (ri d) → Runs i s ((pinFor s t (ri d)).writeReg s.turn (ri d) r)
      else Traps i s 0x20 r := by
  subst hr
  split
  next hin => exact fun hw => runs_of_checked h hi hw (aluChecked_in ((inRange_iff _ _).mpr hin))
  next hout => exact traps_of_checked h hi (aluChecked_out (mt (inRange_iff _ _).mp hout))

/-- Settles O2: the checked forms by the range of the exact result, the divisions on the bits of the operands. -/
theorem checkedAndDivision : Obligations.CheckedAndDivision := by
  unfold Obligations.CheckedAndDivision
  refine ⟨fun w d a b s t h => ?_, fun w d a b => ⟨binary_of_alu (aluDiv_eq w) rfl, binary_of_alu (aluDivu_eq w) rfl,
    binary_of_alu (aluRem_eq w) rfl, binary_of_alu (aluRemu_eq w) rfl, fun s t h => ?_⟩⟩
  · simp only [toInt_operand, width_ite]
    exact ⟨checked_runs_or_traps (v := fun x y => opS w x + opS w y) h rfl (resI_add_eq w _ _),
      checked_runs_or_traps (v := fun x y => opS w x - opS w y) h rfl (resI_sub_eq w _ _)⟩
  · simp only [zero_iff, corner_iff]
    exact ⟨fun h0 => traps_of_checked h rfl (aluDivv_zero h0), fun ⟨ha, hb⟩ => traps_of_checked h rfl (aluDivv_corner ha hb),
      fun h0 hc hw => runs_of_checked h rfl hw (aluDivv_ok h0 hc)⟩

end Sys2Proof


/-! ## Shifts, counts, compares and SEL (R83, R84), and O3 -/

namespace Sys2Proof.Machine

section Shifts

variable (w : Bool) (a b : Word)

theorem shiftBy_eq : shiftBy w b = (operand w b).toNat % width w := by
  have : width w ∣ 2 ^ width w := by cases w <;> decide
  rw [shiftBy, operand, BitVec.toNat_setWidth, Nat.mod_mod_of_dvd _ this]

theorem ofNat_mul_two_pow {n : Nat} (x : BitVec n) (k : Nat) : BitVec.ofNat n (x.toNat * 2 ^ k) = x <<< k := by
  apply BitVec.eq_of_toNat_eq
  rw [BitVec.toNat_ofNat, BitVec.toNat_shiftLeft, Nat.shiftLeft_eq]

theorem ofNat_div_two_pow {n : Nat} (x : BitVec n) (k : Nat) : BitVec.ofNat n (x.toNat / 2 ^ k) = x >>> k := by
  rw [← Nat.shiftRight_eq_div_pow, ← BitVec.toNat_ushiftRight, BitVec.ofNat_toNat, BitVec.setWidth_eq]

theorem ofInt_div_two_pow {n : Nat} (x : BitVec n) (k : Nat) : BitVec.ofInt n (x.toInt / 2 ^ k) = x.sshiftRight k := by
  rw [← BitVec.ofInt_toInt (x := x.sshiftRight k), BitVec.toInt_sshiftRight, Int.shiftRight_eq_div_pow]
  norm_cast

/-- The bits that leave at the top come back at the bottom. -/
theorem ofNat_rotate {n : Nat} (x : BitVec n) {k : Nat} (hk : k < n) :
    BitVec.ofNat n (x.toNat * 2 ^ k + x.toNat / 2 ^ (n - k)) = x.rotateLeft k := by
  have back : x.toNat / 2 ^ (n - k) < 2 ^ k := by
    rw [Nat.div_lt_iff_lt_mul (by positivity), ← pow_add]
    exact lt_of_lt_of_eq x.isLt (by congr 1; omega)
  rw [← Nat.shiftLeft_eq, Nat.shiftLeft_add_eq_or_of_lt back, BitVec.ofNat_or, Nat.shiftLeft_eq, ofNat_mul_two_pow,
    ofNat_div_two_pow, BitVec.rotateLeft_def, Nat.mod_eq_of_lt hk]

theorem aluShl_eq (k : Nat) : aluShl w a k = at1 w (fun _ x => x <<< k) a := by
  rw [aluShl, res_eq, opd_eq, at1_eq, ofNat_mul_two_pow]

theorem aluShr_eq (k : Nat) : aluShr w a k = at1 w (fun _ x => x >>> k) a := by
  rw [aluShr, res_eq, opd_eq, at1_eq, ofNat_div_two_pow]

theorem aluSra_eq (k : Nat) : aluSra w a k = at1 w (fun _ x => x.sshiftRight k) a := by
  rw [aluSra, resI_eq, opS_eq, at1_eq, ofInt_div_two_pow]

theorem shl_eq : aluShl w a (shiftBy w b) = at2 w (fun n x y => x <<< (y.toNat % n)) a b := by
  rw [aluShl_eq, at1_eq, at2_eq, shiftBy_eq]

theorem shr_eq : aluShr w a (shiftBy w b) = at2 w (fun n x y => x >>> (y.toNat % n)) a b := by
  rw [aluShr_eq, at1_eq, at2_eq, shiftBy_eq]

theorem sra_eq : aluSra w a (shiftBy w b) = at2 w (fun n x y => x.sshiftRight (y.toNat % n)) a b := by
  rw [aluSra_eq, at1_eq, at2_eq, shiftBy_eq]

theorem rol_eq : aluRol w a (shiftBy w b) = at2 w (fun n x y => x.rotateLeft (y.toNat % n)) a b := by
  rw [aluRol, res_eq, opd_eq, at2_eq, shiftBy_eq, ofNat_rotate _ (Nat.mod_lt _ (width_pos w))]

end Shifts

/-! ### Counts (R83) -/

/-- The places up to which every entry fails are as many as the entries before the first that holds. -/
theorem countP_prefix_eq (q : Nat → Bool) : ∀ n : Nat, (List.range n).countP (fun j => decide (∀ i ≤ j, q i = false))
    = (((List.range n).map q).takeWhile (· == false)).length
  | 0 => rfl
  | n + 1 => by
    rw [List.range_succ_eq_map]
    by_cases h : q 0 = true
    · have : ∀ j, decide (∀ i ≤ j, q i = false) = false := fun j =>
        decide_eq_false fun hj => Bool.false_ne_true ((hj 0 (Nat.zero_le j)).symm.trans h)
      simp [h, this]
    · have ih := countP_prefix_eq (fun i => q (i + 1)) n
      have shift : ∀ j, decide (∀ i ≤ j + 1, q i = false) = decide (∀ i ≤ j, q (i + 1) = false) := fun j =>
        decide_eq_decide.mpr ⟨fun hj i hi => hj (i + 1) (Nat.succ_le_succ hi), fun hj i hi => by
          cases i with
          | zero => simpa using h
          | succ i => exact hj i (Nat.le_of_succ_le_succ hi)⟩
      simp only [Bool.not_eq_true] at h
      simp [h, List.countP_map, Function.comp_def, shift, ih]

/-- A number is a multiple of a power of two where its lower bits are clear. -/
theorem mod_two_pow_eq_zero_iff (x j : Nat) : x % 2 ^ (j + 1) = 0 ↔ ∀ i ≤ j, x.testBit i = false := by
  constructor
  · intro h i hi
    have := Nat.testBit_mod_two_pow x (j + 1) i
    rw [h, Nat.zero_testBit] at this
    simpa [Nat.lt_succ_of_le hi] using this.symm
  · intro h
    apply Nat.eq_of_testBit_eq
    intro i
    rw [Nat.testBit_mod_two_pow, Nat.zero_testBit]
    by_cases hi : i < j + 1
    · simp [h i (Nat.le_of_lt_succ hi)]
    · simp [hi]

/-- A number of `n` bits is below a power of two where its upper bits are clear. -/
theorem lt_two_pow_iff {n x j : Nat} (hx : x < 2 ^ n) (hj : j < n) :
    x < 2 ^ (n - 1 - j) ↔ ∀ i ≤ j, x.testBit (n - 1 - i) = false := by
  constructor
  · intro h i hi
    exact Nat.testBit_lt_two_pow (lt_of_lt_of_le h (Nat.pow_le_pow_right (by decide) (by omega)))
  · intro h
    refine Nat.lt_pow_two_of_testBit x fun i hi => ?_
    by_cases hin : i < n
    · have := h (n - 1 - i) (by omega)
      rwa [show n - 1 - (n - 1 - i) = i by omega] at this
    · exact Nat.testBit_lt_two_pow (lt_of_lt_of_le hx (Nat.pow_le_pow_right (by decide) (by omega)))

/-- The places of a range from the other end. -/
theorem countP_range_flip (p : Nat → Bool) (n : Nat) :
    (List.range n).countP p = (List.range n).countP (fun j => p (n - 1 - j)) := by
  rw [← List.countP_reverse, List.range_eq_range', List.reverse_range', List.countP_map, ← List.range_eq_range']
  exact List.countP_congr fun j _ => by simp

theorem clz_count {n : Nat} (x : BitVec n) : (List.range n).countP (fun j => decide (x.toNat < 2 ^ j))
    = ((bitsDown x).takeWhile (· == false)).length := by
  rw [bitsDown, ← countP_prefix_eq (fun j => x.getLsbD (n - 1 - j)), countP_range_flip]
  refine List.countP_congr fun j hj => ?_
  rw [List.mem_range] at hj
  simpa [BitVec.getLsbD] using lt_two_pow_iff x.isLt hj

theorem ctz_count {n : Nat} (x : BitVec n) : (List.range n).countP (fun j => x.toNat % 2 ^ (j + 1) == 0)
    = ((bitsUp x).takeWhile (· == false)).length := by
  rw [bitsUp, ← countP_prefix_eq (fun j => x.getLsbD j)]
  refine List.countP_congr fun j _ => ?_
  simpa [BitVec.getLsbD] using mod_two_pow_eq_zero_iff x.toNat j

theorem popc_count {n : Nat} (x : BitVec n) : (List.range n).countP (fun j => x.toNat / 2 ^ j % 2 == 1)
    = (bitsUp x).count true := by
  rw [bitsUp, List.count, List.countP_map]
  refine List.countP_congr fun j _ => ?_
  simp [BitVec.getLsbD, Nat.testBit_eq_decide_div_mod_eq]

/-- The bits of a number that is built from the lowest bit of another up. -/
theorem testBit_reversed (x i : Nat) : ∀ m : Nat,
    ((List.range m).foldl (fun v j => 2 * v + x / 2 ^ j % 2) 0).testBit i = (decide (i < m) && x.testBit (m - 1 - i))
  | 0 => by simp
  | m + 1 => by
    have ih := fun i => testBit_reversed x i m
    rw [List.range_succ, List.foldl_append, List.foldl_cons, List.foldl_nil]
    generalize (List.range m).foldl (fun v j => 2 * v + x / 2 ^ j % 2) 0 = v at ih
    cases i with
    | zero => simp [Nat.testBit_eq_decide_div_mod_eq]
    | succ i =>
      have : (2 * v + x / 2 ^ m % 2) / 2 = v := by omega
      rw [Nat.testBit_succ, this, ih]
      simp [Nat.sub_sub, Nat.add_comm]

theorem ofNat_reversed {n : Nat} (x : BitVec n) :
    BitVec.ofNat n ((List.range n).foldl (fun v j => 2 * v + x.toNat / 2 ^ j % 2) 0) = x.reverse := by
  apply BitVec.eq_of_getLsbD_eq
  intro i hi
  rw [BitVec.getLsbD_ofNat, testBit_reversed, BitVec.getLsbD_reverse, BitVec.getMsbD]
  simp [hi, BitVec.getLsbD]

section Counts

variable (w : Bool) (d a b : Word)

theorem aluClz_eq : aluClz w a = count1 w (fun _ x => ((bitsDown x).takeWhile (· == false)).length) a := by
  simp only [aluClz, count1_eq, opd_eq, clz_count]

theorem aluCtz_eq : aluCtz w a = count1 w (fun _ x => ((bitsUp x).takeWhile (· == false)).length) a := by
  simp only [aluCtz, count1_eq, opd_eq, ctz_count]

theorem aluPopc_eq : aluPopc w a = count1 w (fun _ x => (bitsUp x).count true) a := by
  simp only [aluPopc, count1_eq, opd_eq, popc_count]

theorem aluBrev_eq : aluBrev w a = at1 w (fun _ x => x.reverse) a := by
  simp only [aluBrev, res_eq, at1_eq, opd_eq, ofNat_reversed]

/-! ### Compares and the select (R84) -/

theorem seq_eq : ofCond (Cond.eq.holds w a b) = test2 w (fun _ x y => decide (x = y)) a b := by
  rw [test2_eq, Cond.holds, opd_eq, opd_eq, Bool.beq_eq_decide_eq]
  simp only [BitVec.toNat_inj]

theorem sne_eq : ofCond (Cond.ne.holds w a b) = test2 w (fun _ x y => decide (x ≠ y)) a b := by
  simp only [test2_eq, Cond.holds, opd_eq, bne, Bool.beq_eq_decide_eq, BitVec.toNat_inj, decide_not, ne_eq]

theorem slt_eq : ofCond (Cond.lt.holds w a b) = test2 w (fun _ x y => decide (x.toInt < y.toInt)) a b := by
  rw [test2_eq, Cond.holds, opS_eq, opS_eq]

theorem sltu_eq : ofCond (Cond.ltu.holds w a b) = test2 w (fun _ x y => decide (x.toNat < y.toNat)) a b := by
  rw [test2_eq, Cond.holds, opd_eq, opd_eq]

theorem aluSel_eq : aluSel w d a b = at3 w (fun _ z x y => if z = 0 then y else x) d a b := by
  simp only [aluSel, ne_eq, opd_eq_zero_iff, ite_not, at3_eq, apply_ite (res w), res_opd, at1_eq]
  split <;> rfl

end Counts

end Sys2Proof.Machine

namespace Sys2Proof
open Machine

/-- Settles O3: each operation is one on the bits of the operands. -/
theorem shiftsComparesSelect : Obligations.ShiftsComparesSelect := by
  unfold Obligations.ShiftsComparesSelect
  exact ⟨fun w d a b => ⟨binary_of_alu (shl_eq w) rfl, binary_of_alu (shr_eq w) rfl, binary_of_alu (sra_eq w) rfl,
      binary_of_alu (rol_eq w) rfl, unary_of_alu (aluClz_eq w) rfl, unary_of_alu (aluCtz_eq w) rfl,
      unary_of_alu (aluPopc_eq w) rfl, unary_of_alu (aluBrev_eq w) rfl⟩,
    fun w d a b => ⟨binary_of_alu (seq_eq w) rfl, binary_of_alu (sne_eq w) rfl, binary_of_alu (slt_eq w) rfl,
      binary_of_alu (sltu_eq w) rfl, ternary_of_alu (aluSel_eq w) rfl⟩⟩

end Sys2Proof


/-! ## Immediates, fields, constants and the pool load (R46, R85 to R88): O4 fails on a poisoned line -/

namespace Sys2Proof.Machine

/-- Slot 0 of core 0. -/
def poolPlace : Place := ⟨0, 0, 0⟩

/-- A context whose text has two words at 0x10000, both of its pool, in a page at address 0. -/
def poolCtx : Ctx := { Ctx.new with text := ⟨0, 0x10000, 2, [3], [0]⟩ }

/-- A thread at the text's first word. -/
def poolThread : Thread := Thread.new 7 1 0x10000 poolPlace

/-- A state in which the line of the two words is poisoned. -/
def poolPoisoned : State :=
  { State.reset with threads := [(poolPlace, poolThread)], ctxs := [(⟨0, 1⟩, poolCtx)], poisoned := [0] }

theorem poolPoisoned_canIssue (d : Reg) (hd : isShared d = false) : CanIssue poolPoisoned poolThread [ri d] :=
  ⟨rfl, rfl, by simp [ri, hd]⟩

/-- The program counter of the thread found in the place, behind a step. -/
def pcBehind : Host.Outcome State Fault Refusal → Option Word
  | .next s => (s.thread poolPlace).map (·.pc)
  | _ => none

/-- The pool load traps (POISON, R151): control is at TVEC, which is 0. -/
theorem ldl_poisoned : pcBehind (exec (.ldl 1 0) poolPoisoned) = some 0 := by decide +kernel

/-- Refutes O4: LDL of a pool word whose line is poisoned takes the trap POISON (R46, R151), and no hypothesis of the statement's last
clause rules such a line out. -/
theorem not_constantsAndFields : ¬ Obligations.ConstantsAndFields := by
  unfold Obligations.ConstantsAndFields
  rintro ⟨-, h⟩
  obtain ⟨-, loads⟩ := h 1 0 poolPoisoned poolThread poolCtx (poolPoisoned_canIssue 1 rfl) rfl
  have run := loads 0 0 rfl (fun hs => absurd hs (by decide)) rfl rfl rfl rfl rfl rfl
  have written : pcBehind (.next (retire ((pinFor poolPoisoned poolThread (ri 1)).writeReg poolPlace (ri 1)
      (BitVec.ofNat 64 (0 + 2 ^ 32 * 0))) poolPlace false)) = some 0x10004 := by decide +kernel
  have := ldl_poisoned
  rw [show exec (.ldl 1 0) poolPoisoned = _ from run] at this
  exact absurd (this.symm.trans written) (by decide)

end Sys2Proof.Machine


/-! ## Branches and jumps (R89, R90), and O6 -/

namespace Sys2Proof
open Machine

/-- An instruction that may issue with some registers may issue with fewer. -/
theorem CanIssue.mono {s : State} {t : Thread} {uses uses' : List Dst} (h : CanIssue s t uses) (hu : uses' ⊆ uses) :
    CanIssue s t uses' := by
  refine ⟨h.here, h.plain, fun ho => h.owns ?_⟩
  obtain ⟨x, hx, hs⟩ := List.any_eq_true.mp ho
  exact List.any_eq_true.mpr ⟨x, hu hx, hs⟩

section Bodies

variable {i : Instr} {word : Word} {uses : List Dst} {body : Place → Thread → Core → State → Res} {s s' : State} {t : Thread}

theorem runs_of_body (h : CanIssue s t uses) (hi : exec i s = issue word uses false body s)
    (hb : body s.turn t (coreNow s) s = .done s') : Runs i s s' :=
  exec_of_body h hi hb

end Bodies

section Branches

variable {a b : Reg} {off : BitVec 13} {s : State} {t : Thread}

/-- A branch goes to its target where its condition holds, and on where it does not. -/
theorem branch_goes {i : Instr} {c : Cond} {p : Prop} (h : CanIssue s t [ri a, ri b])
    (hi : exec i s = branch (wordOf i) a b off c s) (hc : c.holds false (readI (coreNow s) t a) (readI (coreNow s) t b) = true ↔ p) :
    (p → Jumps i s s (t.pc + 4 * off.signExtend 64)) ∧ (¬p → Runs i s s) := by
  refine ⟨fun hp => jumps_of_body h hi ?_, fun hp => runs_of_body h hi ?_⟩
  · exact if_pos (hc.mpr hp)
  · exact if_neg (mt hc.mp hp)

end Branches

/-! ### The conditions at .d (R79, R89) -/

theorem opd_false (x : Word) : opd false x = x.toNat := by rw [opd_eq, operand_false]; rfl

theorem opS_false (x : Word) : opS false x = x.toInt := by rw [opS_eq, operand_false]; rfl

/-- Settles O6: a branch by its condition, J and JR by their bodies. -/
theorem branchesAndJumps : Obligations.BranchesAndJumps := by
  unfold Obligations.BranchesAndJumps
  refine ⟨fun a b off s t h => ⟨branch_goes h rfl ?_, branch_goes h rfl ?_, branch_goes h rfl ?_, branch_goes h rfl ?_,
    branch_goes h rfl ?_, branch_goes h rfl ?_⟩, fun off a s t h => ⟨?_, fun ha => ?_, fun ha => ?_⟩⟩
  · simp [Cond.holds, opd_false, BitVec.toNat_inj]
  · simp [Cond.holds, opd_false, BitVec.toNat_inj]
  · simp [Cond.holds, opS_false]
  · simp [Cond.holds, opS_false]
  · simp [Cond.holds, opd_false]
  · simp [Cond.holds, opd_false]
  · exact jumps_of_body (h.mono (by simp)) rfl rfl
  · exact jumps_of_body h rfl (if_neg (not_not.mpr ha))
  · exact traps_of_body h rfl (if_pos ha)

end Sys2Proof


/-! ## CALL, CALLR and RET (R63, R91, R92), and O7 -/

namespace Sys2Proof.Machine

/-! ### A window that is replaced (R58, R63) -/

/-- Results that are discarded change the pending ones of the thread alone. -/
theorem discards_eq (ds : List Dst) : ∀ t : Thread, ∃ qs, ds.foldl Thread.discard t = { t with pend := qs } := by
  induction ds with
  | nil => exact fun t => ⟨t.pend, rfl⟩
  | cons d ds ih =>
    intro t
    obtain ⟨qs, h⟩ := ih (t.discard d)
    exact ⟨qs, h⟩

/-- The integer registers of a slot, its window replaced. -/
def withWindow (i : Vector Word 32) (w : Vector Word 16) : Vector Word 32 :=
  Vector.ofFn fun (j : Fin 32) => if j.val < 16 then i[j.val]?.getD 0 else w[j.val - 16]?.getD 0

theorem setWindow_eq (t : Thread) (w : Vector Word 16) : ∃ qs, t.setWindow w = { t with pend := qs, i := withWindow t.i w } := by
  obtain ⟨qs, h⟩ := discards_eq ((List.range 16).map fun j => ri (BitVec.ofNat 6 (16 + j))) t
  rw [List.foldl_map] at h
  refine ⟨qs, ?_⟩
  unfold Thread.setWindow
  rw [h]
  rfl

/-- The special registers are not those of the windows. -/
theorem specials_windows (t : Thread) (fs : List Frame) (n : BitVec 16) (qs : List Pend) (i : Vector Word 32) :
    Thread.specials { ({ t with frames := fs, wdep := n, pend := qs, i := i } : Thread) with wdep := t.wdep } = Thread.specials t :=
  rfl

section Window

variable {k : Core} {t u : Thread} {w : Vector Word 16} {r : Reg} (hu : u.i = withWindow t.i w)

include hu

/-- The registers below the window stay. -/
theorem readI_withWindow_below (hr : r.toNat < 16) : readI k u r = readI k t r := by
  have h32 : r.toNat < 32 := by omega
  simp [readI, hu, withWindow, hr, h32]

/-- The registers of the window are its words. -/
theorem readI_withWindow (hr : 16 ≤ r.toNat) (h32 : r.toNat < 32) : readI k u r = w[r.toNat - 16]?.getD 0 := by
  have h0 : r.toNat ≠ 0 := by omega
  simp [readI, hu, withWindow, h0, h32, Nat.not_lt.mpr hr]

theorem readI_withWindow_word (j : Fin 16) : readI k u (BitVec.ofNat 6 (16 + j)) = w[j] := by
  have hj : (BitVec.ofNat 6 (16 + j)).toNat = 16 + j := by
    rw [BitVec.toNat_ofNat, Nat.mod_eq_of_lt (by omega)]
  rw [readI_withWindow hu (by omega) (by omega), hj]
  simp

end Window

/-! ### The push (R91) -/

section Push

variable {s : State} {p : Place} {t : Thread} {pc : Word}

theorem callTo_pushes (ht : s.thread p = some t) (hd : t.wdep ≠ 65535)
    (ha : (scratchPieces s p t needW 17 (t.wsp + BitVec.ofNat 64 (136 * t.wdep.toNat))).isSome = true)
    (hf : ∀ f, t.frames[2]? = some f → f.inArea = true) :
    callTo s p t pc = .jump (s.setThread p (callTo.push t)) pc := by
  have hn : (scratchPieces s p t needW 17 (t.wsp + BitVec.ofNat 64 (136 * t.wdep.toNat))).isNone = false := by
    rw [← Option.not_isSome, ha]; rfl
  unfold callTo
  simp only [hd, hn, if_false, Bool.false_eq_true, State.updThread_some ht]
  split
  next f hf' => rw [if_pos (hf f hf')]
  next => rfl

theorem callTo_full (hd : t.wdep = 65535) : callTo s p t pc = .trap ⟨cWstack, 0xFFFF⟩ := if_pos hd

theorem push_eq (t : Thread) : ∃ qs, callTo.push t = { t with
    frames := ⟨t.pc + 4, t.window, false⟩ :: t.frames.take 2, wdep := t.wdep + 1, pend := qs,
    i := withWindow t.i (Vector.replicate 16 0) } :=
  setWindow_eq _ _

end Push

/-! ### The pop (R91, R92) -/

/-- The thread behind the pop of its top frame. -/
def Thread.popped (t : Thread) (f : Frame) (rest : List Frame) : Thread :=
  { t.setWindow f.win with frames := rest, wdep := t.wdep - 1 }

theorem popped_eq (t : Thread) (f : Frame) (rest : List Frame) : ∃ qs, t.popped f rest = { t with
    frames := rest, wdep := t.wdep - 1, pend := qs, i := withWindow t.i f.win } := by
  obtain ⟨qs, h⟩ := setWindow_eq t f.win
  refine ⟨qs, ?_⟩
  unfold Thread.popped
  rw [h]

section Pop

variable {s : State} {p : Place} {t : Thread} {f : Frame} {rest : List Frame}

theorem returnFrom_empty (hd : t.wdep = 0) : returnFrom s p t = .trap ⟨cWstack, 0⟩ := if_pos hd

/-- The depth behind a pop. -/
theorem toNat_wdep_pred (hd : t.wdep ≠ 0) : (t.wdep - 1).toNat = t.wdep.toNat - 1 := by
  have : t.wdep.toNat ≠ 0 := fun h => hd (BitVec.eq_of_toNat_eq h)
  bv_omega

section Resident

variable (ht : s.thread p = some t) (hd : t.wdep ≠ 0) (hf : t.frames = f :: rest)

include ht hd hf

theorem returnFrom_pops (ho : t.region.odep.toNat ≤ t.wdep.toNat - 1) :
    returnFrom s p t = .jump (s.setThread p (t.popped f rest)) f.ret := by
  rw [← toNat_wdep_pred hd] at ho
  unfold returnFrom
  simp only [hd, hf, Nat.not_lt.mpr ho, if_false, State.updThread_some ht]
  rfl

theorem returnFrom_commits (ho : t.wdep.toNat - 1 < t.region.odep.toNat) {z : State}
    (hz : tryCommit (s.setThread p (t.popped f rest)) p (t.popped f rest) false 0 f.ret = some z) :
    returnFrom s p t = .jump z f.ret := by
  rw [← toNat_wdep_pred hd] at ho
  unfold Thread.popped at hz
  unfold returnFrom
  simp only [hd, hf, ho, if_false, if_true, State.updThread_some ht, hz]

end Resident

end Pop

end Sys2Proof.Machine

namespace Sys2Proof
open Machine

/-- A pushed frame, and what the push leaves. -/
theorem pushed_of_callTo {i : Instr} {word : Word} {uses : List Dst} {body : Place → Thread → Core → State → Res} {s : State} {t : Thread}
    {pc : Word} (h : CanIssue s t uses) (hi : exec i s = issue word uses false body s) (hroom : PushRoom s t)
    (hb : body s.turn t (coreNow s) s = callTo s s.turn t pc) : ∃ u, Jumps i s (s.setThread s.turn u) pc
      ∧ u.frames = ⟨t.pc + 4, t.window, false⟩ :: t.frames.take 2 ∧ u.wdep = t.wdep + 1
      ∧ (∀ r : Reg, r.toNat < 16 → readI (coreNow s) u r = readI (coreNow s) t r)
      ∧ (∀ r : Reg, 16 ≤ r.toNat → r.toNat < 32 → readI (coreNow s) u r = 0)
      ∧ u.f = t.f ∧ Thread.specials { u with wdep := t.wdep } = Thread.specials t ∧ u.loops = t.loops ∧ u.region = t.region := by
  obtain ⟨hd, ha, hf⟩ := hroom
  have runs := jumps_of_body h hi (hb.trans (callTo_pushes h.here hd ha hf))
  obtain ⟨qs, hu⟩ := push_eq t
  have hi : (callTo.push t).i = withWindow t.i (Vector.replicate 16 0) := by rw [hu]
  refine ⟨callTo.push t, runs, ?_, ?_, fun r hr => readI_withWindow_below hi hr, fun r hr h32 => ?_, ?_⟩
  · rw [hu]
  · rw [hu]
  · rw [readI_withWindow hi hr h32]
    simp [show r.toNat - 16 < 16 by omega]
  · rw [hu]
    exact ⟨rfl, specials_windows .., rfl, rfl⟩

/-- Settles O7: the push and the pop of a window, and the traps of the window stack. -/
theorem callsAndReturn : Obligations.CallsAndReturn := by
  unfold Obligations.CallsAndReturn
  refine ⟨fun off a s t h => ?_, fun s t f rest h => ⟨fun hd => traps_of_body h rfl (returnFrom_empty hd), fun hd hf => ?_⟩⟩
  · have h' : CanIssue s t [] := h.mono (by simp)
    exact ⟨fun hroom => pushed_of_callTo h' rfl hroom rfl,
      fun hroom ha => pushed_of_callTo h rfl hroom (if_neg (not_not.mpr ha)),
      fun ha => traps_of_body h rfl (if_pos ha),
      fun hd => ⟨traps_of_body h' rfl (callTo_full hd),
        fun ha => traps_of_body h rfl ((if_neg (not_not.mpr ha)).trans (callTo_full hd))⟩⟩
  · obtain ⟨qs, hu⟩ := popped_eq t f rest
    have hi : (t.popped f rest).i = withWindow t.i f.win := by rw [hu]
    refine ⟨t.popped f rest, fun ho => jumps_of_body h rfl (returnFrom_pops h.here hd hf ho),
      fun ho z hz => jumps_of_body h rfl (returnFrom_commits h.here hd hf ho hz), rfl, rfl,
      fun r hr => readI_withWindow_below hi hr, fun j => readI_withWindow_word hi j, ?_⟩
    rw [hu]
    exact ⟨rfl, specials_windows .., rfl, rfl⟩

end Sys2Proof


/-! ## The instructions that only trap, and traps that no handler takes (R40, R41, R72, R105), and O11 -/

namespace Sys2Proof.Machine

theorem unhandled_iff {st : Word} {code : Nat} :
    unhandled st code = true ↔ code = 0x12 ∨ 2 ≤ tsDepth st ∨ (tsDepth st = 1 ∧ tsNE st = 0) := by
  simp [unhandled, cPinBudget, or_assoc]

/-- A trap that no handler takes parks the context of a slot with no result under way. -/
theorem raise_parks {s : State} {p : Place} {t : Thread} {c : Trap} (ht : s.thread p = some t) (hh : t.isHandler = false)
    (hp : t.pend = []) (hu : unhandled t.tstat c.code = true) : raise s p c = parkFault { s with stalled := false } p t c := by
  have hs : t.settled = true := by simp [Thread.settled, hp]
  have ht' : ({ s with stalled := false } : State).thread p = some t := ht
  unfold raise
  simp only [ht, hs, Bool.not_true, Bool.false_eq_true, if_false, drain_quiet ht hp, ht', hu]
  cases hr : t.role <;> simp_all [Thread.isHandler]

end Sys2Proof.Machine

namespace Sys2Proof
open Machine

section FetchTraps

variable {s : State} {t : Thread} (ht : s.thread s.turn = some t)

include ht

theorem illegalInstruction_traps (word : BitVec 32) : Traps (.illegalInstruction word) s 0x01 (word.setWidth 64) := by
  show execIllegalInstruction word s = _
  simp only [execIllegalInstruction, ht]
  rfl

theorem fetchFault_traps (code : Nat) (va : Word) : Traps (.fetchFault code va) s code va := by
  show execFetchFault code va s = _
  simp only [execFetchFault, ht]

end FetchTraps

/-- Settles O11: the trap forms by their bodies, an unhandled trap by the stop that it makes. -/
theorem trapInstructions : Obligations.TrapInstructions := by
  unfold Obligations.TrapInstructions
  refine ⟨fun imm word code va s t h => ⟨traps_of_body h rfl rfl, traps_of_body h rfl rfl, illegalInstruction_traps h.here word,
      fetchFault_traps h.here code va⟩,
    fun s t x code v ht hh hp hx hl hc => ?_⟩
  obtain ⟨y, hy, hstate, hcause, -, hfault⟩ := parkFault_stops (s := { s with stalled := false }) (u := t) hx hl ⟨code, v⟩
  rw [raise_parks ht hh hp (unhandled_iff.mpr hc)]
  exact ⟨y, hy, hstate, hcause, hfault⟩

end Sys2Proof


/-! ## Control registers (R43, R75 to R77, R96 to R98), and O14 -/

namespace Sys2Proof.Machine

/-! ### What the token step leaves (R62, R216) -/

/-- The token step, of a slot with a thread: its context holds the token, and of its region the marks alone change. -/
theorem giveToken_eq {s : State} {p : Place} {t : Thread} (ht : s.thread p = some t) (e : Bool) : ∃ (m : Ctx → BitVec 32) (tok : Option Nat)
    (pin excl wexcl : Bool),
    giveToken s p e = (s.updCtx (t.ctxId p) (fun x => { x with token_ := some t.uid, cmark := m x })).setThread p
      { t with region := { t.region with token := tok, pinned := pin, exclusive := excl, wantExcl := wexcl, want := false } } := by
  unfold giveToken
  rw [ht]
  exact ⟨_, _, _, _, _, rfl⟩

/-- What a reader of a context finds when another value of the token and of its mark has been put. -/
theorem updCtx_token (s : State) (c : CtxId) (u : Option Nat) (m : Ctx → BitVec 32) :
    s.updCtx c (fun x => { x with token_ := u, cmark := m x }) = s
      ∨ ∃ x, s.ctx c = some x ∧ s.updCtx c (fun x => { x with token_ := u, cmark := m x })
        = s.setCtx c { x with token_ := u, cmark := m x } := by
  cases h : s.ctx c with
  | none => exact .inl (by simp only [State.updCtx, h])
  | some x => exact .inr ⟨x, rfl, State.updCtx_some h _⟩

section Token

variable {s : State} {p : Place} {t t₁ : Thread} {e : Bool} (ht : s.thread p = some t) (h₁ : (giveToken s p e).thread p = some t₁)

include ht h₁

theorem ownsCore_giveToken : (giveToken s p e).ownsCore p t₁ = s.ownsCore p t := by
  obtain ⟨m, tok, pin, excl, wexcl, h⟩ := giveToken_eq ht e
  rw [h, State.thread_setThread] at h₁
  obtain rfl := Option.some.inj h₁
  rw [h]
  rcases updCtx_token s (t.ctxId p) (some t.uid) m with hc | ⟨x, hx, hc⟩
  · rw [hc]; rfl
  · rw [hc]
    show (_ && match (s.setCtx (t.ctxId p) _).ctx (t.ctxId p) with
      | some x => x.owns p.core
      | none => false) = _
    rw [State.ctx_setCtx]
    simp only [State.ownsCore, hx]
    rfl

theorem csrRead_giveToken (k : Core) (n : Nat) : csrRead (giveToken s p e) p t₁ k n = csrRead s p t k n := by
  obtain ⟨m, tok, pin, excl, wexcl, h⟩ := giveToken_eq ht e
  rw [h, State.thread_setThread] at h₁
  obtain rfl := Option.some.inj h₁
  rw [h]
  rcases updCtx_token s (t.ctxId p) (some t.uid) m with hc | ⟨x, hx, hc⟩
  · rw [hc]
    unfold csrRead
    rfl
  · rw [hc]
    unfold csrRead
    simp only [Thread.ctxId, State.ctx_setThread, hx] at *
    rw [State.ctx_setCtx]
    rfl

end Token
/-! ### What a write of a control register leaves and what it reads back (R96 to R98) -/

theorem setCsr_region (t : Thread) (n : Nat) (v : Word) : (t.setCsr n v).region = t.region := by
  unfold Thread.setCsr
  split <;> rfl

/-- A write of a control register leaves the region of the slot. -/
theorem csrWrite_pinnedAt (s : State) (p : Place) (t : Thread) (n : Nat) (v : Word) :
    (csrWrite s p t n v).pinnedAt p = s.pinnedAt p := by
  unfold csrWrite
  split
  · exact updThread_pinnedAt s p _ fun u => setCsr_region u n v
  · split
    · rfl
    · exact pinnedAt_congr (State.threads_updCtx _ _ _) p

theorem csrWrite_slot {s : State} {p : Place} {t u : Thread} (hu : s.thread p = some u) {n : Nat} (h : n < 0x100) (v : Word) :
    csrWrite s p t n v = s.setThread p (u.setCsr n v) := by
  rw [csrWrite, if_pos h, State.updThread_some hu]

theorem csrWrite_core {s : State} {p : Place} {t : Thread} {n : Nat} (h : ¬n < 0x100) (h' : n < 0x200) (v : Word) :
    ((csrWrite s p t n v).core (coreOf p)).lateCsr
      = (s.core (coreOf p)).lateCsr ++ [⟨t.ctx, n, v, (s.core (coreOf p)).cycle + 12, p.slot⟩] := by
  rw [csrWrite, if_neg h, if_pos h', State.updCore, State.core_setCore]

/-- The slot registers that are not read-only. -/
def slotCsrs : List Nat := [0x000, 0x001, 0x002, 0x003, 0x004, 0x008, 0x009, 0x00A, 0x00B, 0x00C, 0x00D, 0x010, 0x011, 0x012, 0x013,
  0x014, 0x015, 0x018, 0x020, 0x022, 0x023]

/-- A slot register that has a value and is not read-only is one of those that are written. -/
theorem mem_slotCsrs {s : State} {p : Place} {t : Thread} {k : Core} {n : Nat} {cr : Word} (h : n < 0x100)
    (hcr : csrRead s p t k n = some cr) (ho : csrReadOnly n = false) : n ∈ slotCsrs := by
  have hn : ¬(0x340 ≤ n ∧ n ≤ 0x36F) := by omega
  unfold csrRead at hcr
  split at hcr
  rotate_right
  · rw [if_neg hn] at hcr
    cases hcr
  all_goals
    clear hcr
    revert h ho
    decide

/-- A word none of whose upper bits is set is its lower bits. -/
theorem zx_truncate {m : Nat} {v mask : Word} (hm : ∀ i < 64, m ≤ i → mask.getLsbD i = true) (h : v &&& mask = 0) :
    zx (v.truncate m) = v := by
  apply BitVec.eq_of_getLsbD_eq
  intro i hi
  have hbit : (v &&& mask).getLsbD i = false := by rw [h]; exact BitVec.getLsbD_zero
  rw [BitVec.getLsbD_and] at hbit
  by_cases hmi : m ≤ i
  · rw [hm i hi hmi, Bool.and_true] at hbit
    simp [zx, hbit]
  · simp [zx, hi, Nat.lt_of_not_le hmi]

/-- A word of one bit is 1 or 0. -/
theorem ite_eq_one {v : Word} (h : zx (v.truncate 1) = v) : (if v == 1 then 1 else 0 : Word) = v := by
  rw [← h]
  generalize v.truncate 1 = b
  revert b
  decide

/-- A slot register reads what was written, where no reserved bit was set. -/
theorem csrRead_setCsr {n : Nat} {v : Word} (hn : n ∈ slotCsrs) (hv : v &&& csrReserved n = 0) (s : State) (p : Place) (t : Thread)
    (k : Core) : csrRead s p (t.setCsr n v) k n = some v := by
  simp only [slotCsrs, List.mem_cons, List.not_mem_nil, or_false] at hn
  by_cases h20 : n = 0x020
  · subst h20
    exact congrArg some (zx_truncate (by decide) hv)
  by_cases h22 : n = 0x022
  · subst h22
    exact congrArg some (ite_eq_one (zx_truncate (by decide) hv))
  by_cases h23 : n = 0x023
  · subst h23
    exact congrArg some (zx_truncate (by decide) hv)
  simp only [h20, h22, h23, or_false] at hn
  rcases hn with rfl | rfl | rfl | rfl | rfl | rfl | rfl | rfl | rfl | rfl | rfl | rfl | rfl | rfl | rfl | rfl | rfl | rfl <;> rfl

end Sys2Proof.Machine

namespace Sys2Proof
open Machine

/-! ### Forms that pin the region, with their register fields checked in the body (R41, R62) -/

section Pins

variable {word : Word} {uses : List Dst} {pins : Bool} {body : Place → Thread → Core → State → Res} {s : State} {t : Thread}

/-- A trap of the body comes before the token. -/
theorem issue_traps {c : Trap} (h : CanIssue s t uses) (hb : body s.turn t (coreNow s) s = .trap c) :
    issue word uses pins body s = .next (raise s s.turn c) := by
  cases pins
  · rw [issue_next h, hb]
    rfl
  · rw [issue_pinned h]
    unfold issuePinned
    rw [show s.core (coreOf s.turn) = coreNow s from rfl, hb]
    rfl

/-- The state in which the effect of a form is made that pins the region. -/
def pinIf (pins : Bool) (s : State) (t : Thread) : State := if pins && !t.region.pinned then giveToken s s.turn false else s

/-- A form that leaves the region of its slot as its token step has made it. -/
theorem issue_pins {t₁ : Thread} {w : State} (h : CanIssue s t uses)
    (hw : pins = true → t.region.pinned = true ∨ canToken s s.turn t = true) (h₁ : (pinIf pins s t).thread s.turn = some t₁)
    (h₀ : ∃ w₀, body s.turn t (coreNow s) s = .done w₀) (hb : body s.turn t₁ (coreNow s) (pinIf pins s t) = .done w)
    (hp : w.pinnedAt s.turn = (pinIf pins s t).pinnedAt s.turn) :
    issue word uses pins body s = .next (retire w s.turn false) := by
  obtain ⟨w₀, h₀⟩ := h₀
  cases hpins : pins
  · simp only [pinIf, hpins, Bool.false_and, Bool.false_eq_true, if_false] at h₁ hb
    obtain rfl := Option.some.inj (h.here.symm.trans h₁)
    rw [issue_next h, hb]
    rfl
  · rw [issue_pinned h]
    unfold issuePinned
    rw [show s.core (coreOf s.turn) = coreNow s from rfl, h₀]
    by_cases hf : t.region.pinned = true
    · simp only [pinIf, hf, Bool.not_true, Bool.and_false, Bool.false_eq_true, if_false] at h₁ hb hp
      obtain rfl := Option.some.inj (h.here.symm.trans h₁)
      obtain rfl : w₀ = w := Res.done.inj (h₀.symm.trans hb)
      have hpin : w₀.pinnedAt s.turn = true := by rw [hp, State.pinnedAt, h.here]; exact hf
      simp only [hf, if_true, pinOpened, hpin, finish]
    · have hc := (hw hpins).resolve_left hf
      simp only [pinIf, hpins, hf, Bool.not_false, Bool.and_self, if_true] at h₁ hb hp
      rw [giveToken_pinned s s.turn t h.here] at hp
      have hcore : (giveToken s s.turn false).core (coreOf s.turn) = coreNow s := giveToken_core s s.turn false _
      simp only [hf, hc, h₁, hcore, hb, if_true, Bool.false_eq_true, if_false, pinOpened, hp, finish]

theorem pinIf_thread (ht : s.thread s.turn = some t) (pins : Bool) : ∃ t₁, (pinIf pins s t).thread s.turn = some t₁
    ∧ (∃ r, t₁ = { t with region := r }) ∧ (pinIf pins s t).ownsCore s.turn t₁ = s.ownsCore s.turn t
    ∧ ∀ k n, csrRead (pinIf pins s t) s.turn t₁ k n = csrRead s s.turn t k n := by
  unfold pinIf
  split
  · obtain ⟨r, hr, -⟩ := giveToken_thread s s.turn t ht false
    exact ⟨_, hr, ⟨r, rfl⟩, ownsCore_giveToken ht hr, csrRead_giveToken ht hr⟩
  · exact ⟨t, ht, ⟨t.region, rfl⟩, rfl, fun _ _ => rfl⟩

theorem pinIf_core (pins : Bool) (c : CoreId) : (pinIf pins s t).core c = s.core c := by
  unfold pinIf
  split
  · exact giveToken_core _ _ _ _
  · rfl

end Pins

/-! ### CSRR (R96) -/

section Read

variable {s : State} {t : Thread} {d : Reg} {n : BitVec 13}

/-- A register field that the issue has let through belongs to a core that the context owns. -/
theorem CanIssue.owns_field (h : CanIssue s t [ri d]) : (isShared d && !s.ownsCore s.turn t) = false := by
  cases hd : isShared d
  · rfl
  · rw [h.owns (by simpa [ri] using hd)]
    rfl

theorem csrr_runs (h : CanIssue s t [ri d]) {v : Word} (hv : csrRead s s.turn t (coreNow s) n.toNat = some v)
    (hw : MayWrite s t (ri d)) : Runs (.csrr d n) s ((pinFor s t (ri d)).writeReg s.turn (ri d) v) := by
  obtain ⟨t₁, h₁, -, ho, hr⟩ := pinIf_thread h.here (isShared d)
  have hd := h.owns_field
  refine issue_pins (uses := []) (h.mono (by simp)) hw h₁ ?_ ?_ (writeReg_pinnedAt _ _ _ _)
  · simp only [hv, hd, Bool.false_eq_true, if_false]
    exact ⟨_, rfl⟩
  · simp only [hr, hv, ho, hd, Bool.false_eq_true, if_false]
    rfl

theorem csrr_unallocated (h : CanIssue s t [ri d]) (hn : csrRead s s.turn t (coreNow s) n.toNat = none) :
    Traps (.csrr d n) s 0x01 (wordOf (.csrr d n)) := by
  refine issue_traps (uses := []) (h.mono (by simp)) ?_
  simp only [hn]
  rfl

end Read

/-! ### CSRW, CSRS and CSRC (R96) -/

section Write

variable {i : Instr} {s : State} {t : Thread} {a : Reg} {n : BitVec 13} {cr : Word} {f : Word → Word → Word}
  (h : CanIssue s t [ri a]) (ho : n.toNat = 0x107 → s.ownsCore s.turn t = true)
  (hcr : csrRead s s.turn t (coreNow s) n.toNat = some cr) (hi : exec i s = csrSet (wordOf i) a n f s)

include h ho in
theorem owns_csr_fields : ((isShared a || n.toNat == 0x107) && !s.ownsCore s.turn t) = false := by
  cases hown : s.ownsCore s.turn t
  · have ha := h.owns_field
    rw [hown] at ha
    have hn : n.toNat ≠ 0x107 := fun hn => Bool.false_ne_true (hown.symm.trans (ho hn))
    simpa [hn] using ha
  · simp

/-- DEPTH of TSTAT stays where its two bits do (R76). -/
theorem csrMixed_kept_iff (x y : Word) (m : Nat) : (x &&& csrMixed m = y &&& csrMixed m) ↔ (m = 4 → wbits x 0 2 = wbits y 0 2) := by
  by_cases hm : m = 4
  · have low (z : Word) : (z &&& 3).toNat = wbits z 0 2 := by
      simpa [wbits] using Nat.and_two_pow_sub_one_eq_mod z.toNat 2
    rw [csrMixed, if_pos hm, ← BitVec.toNat_inj, low, low]
    exact ⟨fun e _ => e, fun e => e hm⟩
  · simp [csrMixed, hm]

include h ho hcr hi

theorem csrSet_denied (hd : csrReadOnly n.toNat = true ∨ f cr (readI (coreNow s) t a) &&& csrMixed n.toNat ≠ cr &&& csrMixed n.toNat) :
    Traps i s 0x0C (n.setWidth 64) := by
  have hf := owns_csr_fields h ho
  refine hi.trans (issue_traps (uses := []) (h.mono (by simp)) ?_)
  have hd' : (csrReadOnly n.toNat || f cr (readI (coreNow s) t a) &&& csrMixed n.toNat != cr &&& csrMixed n.toNat) = true := by
    simpa using hd
  simp only [hcr, hf, hd', Bool.false_eq_true, if_false, if_true, BitVec.ofNat_toNat]
  rfl

section Allowed

variable (hr : csrReadOnly n.toNat = false) (hm : f cr (readI (coreNow s) t a) &&& csrMixed n.toNat = cr &&& csrMixed n.toNat)

include hr hm

theorem csrSet_reserved (hv : f cr (readI (coreNow s) t a) &&& csrReserved n.toNat ≠ 0) : Traps i s 0x03 (n.setWidth 64) := by
  have hf := owns_csr_fields h ho
  refine hi.trans (issue_traps (uses := []) (h.mono (by simp)) ?_)
  have hv' : (f cr (readI (coreNow s) t a) &&& csrReserved n.toNat != 0) = true := bne_iff_ne.mpr hv
  simp only [hcr, hf, hr, hm, hv', bne_self_eq_false, Bool.or_self, Bool.false_eq_true, if_false, if_true, BitVec.ofNat_toNat]
  rfl

theorem csrSet_runs (hv : f cr (readI (coreNow s) t a) &&& csrReserved n.toNat = 0)
    (hw : csrPins n.toNat = true → t.region.pinned = true ∨ canToken s s.turn t = true) :
    Runs i s (csrWrite (pinIf (csrPins n.toNat) s t) s.turn t n.toNat (f cr (readI (coreNow s) t a))) := by
  have hf := owns_csr_fields h ho
  obtain ⟨t₁, h₁, ⟨r, rfl⟩, hown, hread⟩ := pinIf_thread h.here (csrPins n.toNat)
  refine hi.trans (issue_pins (uses := []) (h.mono (by simp)) hw h₁ ?_ ?_ (csrWrite_pinnedAt _ _ _ _ _))
  · simp only [hcr, hf, hr, hm, hv, bne_self_eq_false, Bool.or_self, Bool.false_eq_true, if_false]
    exact ⟨_, rfl⟩
  · simp only [hread, hcr, hown, hf, hr, readI_region, hm, hv, bne_self_eq_false, Bool.or_self, Bool.false_eq_true, if_false]
    rfl

end Allowed

/-- What the checks of R96 make of a write: `f` is the new value of the old one and the register. -/
theorem csrSet_sets : let new := f cr (readI (coreNow s) t a)
    let z := csrWrite (pinIf (csrPins n.toNat) s t) s.turn t n.toNat new
    (csrReadOnly n.toNat = true → Traps i s 0x0C (n.setWidth 64))
    ∧ (n.toNat = 4 → wbits new 0 2 ≠ wbits cr 0 2 → Traps i s 0x0C 4)
    ∧ (csrReadOnly n.toNat = false → (n.toNat = 4 → wbits new 0 2 = wbits cr 0 2) →
      (new &&& csrReserved n.toNat ≠ 0 → Traps i s 0x03 (n.setWidth 64))
      ∧ (new &&& csrReserved n.toNat = 0 →
        (csrPins n.toNat = true → t.region.pinned = true ∨ canToken s s.turn t = true) →
        Runs i s z
        ∧ (n.toNat < 0x100 → ∃ u, z.thread s.turn = some u ∧ csrRead z s.turn u (coreNow s) n.toNat = some new)
        ∧ (0x100 ≤ n.toNat → n.toNat < 0x200 → (z.core (coreOf s.turn)).lateCsr
            = (coreNow s).lateCsr ++ [⟨t.ctx, n.toNat, new, (coreNow s).cycle + 12, s.turn.slot⟩]))) := by
  intro new z
  refine ⟨fun hr => csrSet_denied h ho hcr hi (.inl hr), fun h4 hne => ?_, fun hr hk => ?_⟩
  · have h4' : n.setWidth 64 = (4 : Word) := by rw [← BitVec.ofNat_toNat, h4]; rfl
    exact h4' ▸ csrSet_denied h ho hcr hi (.inr fun hm => hne ((csrMixed_kept_iff _ _ _).mp hm h4))
  · have hm := (csrMixed_kept_iff new cr n.toNat).mpr hk
    refine ⟨csrSet_reserved h ho hcr hi hr hm, fun hv hw => ⟨csrSet_runs h ho hcr hi hr hm hv hw, fun hn => ?_, fun hn hn' => ?_⟩⟩
    · obtain ⟨t₁, h₁, -⟩ := pinIf_thread h.here (csrPins n.toNat)
      refine ⟨t₁.setCsr n.toNat new, ?_, csrRead_setCsr (mem_slotCsrs hn hcr hr) hv _ _ _ _⟩
      rw [show z = _ from csrWrite_slot h₁ hn new, State.thread_setThread]
    · rw [show (z.core (coreOf s.turn)).lateCsr = _ from csrWrite_core (Nat.not_lt.mpr hn) hn' new, pinIf_core]
      rfl

end Write

/-- Settles O14: CSRR by its body, the writes by the checks of R96. -/
theorem controlRegisters : Obligations.ControlRegisters := by
  unfold Obligations.ControlRegisters
  exact ⟨fun d n s t h => ⟨fun v hv hw => csrr_runs h hv hw, csrr_unallocated h⟩,
    fun a n s t cr h ho hcr => ⟨csrSet_sets (f := fun _ x => x) h ho hcr rfl, csrSet_sets (f := fun c x => c ||| x) h ho hcr rfl,
      csrSet_sets (f := fun c x => c &&& ~~~x) h ho hcr rfl⟩⟩

end Sys2Proof


/-! ## The checks of an address (R102, R151): O16 fails on a poisoned walk -/

namespace Sys2Proof.Machine

/-- A context with two resident pages, whose range table is in the second. -/
def walkCtx : Ctx := { Ctx.new with hbm := [⟨0, .hbm, 0⟩, ⟨4096, .hbm, 0⟩], rtbase := 4096 }

/-- A state in which the first line of that range table is poisoned. -/
def walkPoisoned : State := { State.reset with ctxs := [(⟨0, 1⟩, walkCtx)], poisoned := [64] }

def walkThread : Thread := Thread.new 7 1 0x10000 ⟨0, 0, 0⟩

/-- The walk finds no entry, as its table cannot be read, and the access faults POISON (R151). -/
theorem lookT_walkPoisoned : walk walkPoisoned ⟨0, 1⟩ walkCtx 0x10000 = none
    ∧ lookT walkPoisoned ⟨0, 0, 0⟩ walkThread 0x10000 8 8 needR = .fault ⟨cPoison, 0x10000⟩ := by decide +kernel

/-- Refutes O16: a walk that finds no entry because a line of its table is poisoned faults POISON, not NOMAP. -/
theorem not_accessChecks : ¬ Obligations.AccessChecks := by
  unfold Obligations.AccessChecks
  rintro ⟨h, -⟩
  obtain ⟨-, -, -, -, walks⟩ := h walkPoisoned walkThread walkCtx 0x10000 8 8 needR rfl
  obtain ⟨noEntry, poison⟩ := lookT_walkPoisoned
  obtain ⟨noMap, -⟩ := walks (by decide) (by decide) (by decide) rfl (by decide +kernel) rfl
  exact absurd (poison.symm.trans (noMap noEntry)) (by decide)

end Sys2Proof.Machine


/-! ## Stores (R101, R213, R219): O19 fails on a store that crosses two lines -/

namespace Sys2Proof.Machine

/-- Slot 0 of core 0. -/
def crossPlace : Place := ⟨0, 0, 0⟩

/-- A context with one resident page, at a system address that is no multiple of 64, and its image's data on it. -/
def crossCtx : Ctx := { Ctx.new with hbm := [⟨60, .hbm, 0⟩], dataVA := 0x20000, dataLen := 4096 }

/-- A thread whose region holds 46 items that write no line. -/
def crossThread : Thread :=
  let t := Thread.new 7 1 0x10000 crossPlace
  { t with i := ((Vector.replicate 32 0).set 1 5).set 2 0x20000
           region := { t.region with items := List.replicate 46 .lfence } }

def crossState : State :=
  { State.reset with threads := [(crossPlace, crossThread)], ctxs := [(⟨0, 1⟩, crossCtx)] }

/-- The byte at an address, behind a step. -/
def byteBehind (a : Nat) : Host.Outcome State Fault Refusal → Option Byte
  | .next s => some (memRead s.mem a)
  | _ => none

/-- The store's access is to system address 60, whose eight bytes lie in two lines. -/
theorem crossState_local : LocalAt crossState crossThread (readI (coreNow crossState) crossThread 2 + (0 : BitVec 9).signExtend 64 * 8)
    8 8 needW ⟨0, some 60, false, false⟩ 60 := by
  constructor <;> decide +kernel

/-- The region takes the two lines: it holds 46. -/
theorem crossState_takes (data : List Byte) (h : data.length = 8) : Takes crossState crossThread (.store 60 data) := by
  have lines : newLines crossThread.region (.store 60 data) = newLines crossThread.region (.store 60 (List.replicate 8 0)) := by
    simp [newLines, Item.lines, h]
  exact ⟨rfl, by rw [lines]; decide +kernel⟩

/-- The store makes 48 lines of 46, so that the region commits behind it (R219) and the byte is in memory. -/
theorem stD_commits : byteBehind 60 (exec (.stD 1 2 0) crossState) = some 5 ∧ memRead crossState.mem 60 = 0 := by decide +kernel

/-- Refutes O19: a quiet region may hold 46 lines, a store across two lines makes them 48, and the region commits (R219). -/
theorem not_stores : ¬ Obligations.Stores := by
  unfold Obligations.Stores
  rintro ⟨h, -, -⟩
  obtain ⟨-, keeps⟩ := h (.stD 1 2 0) _ crossState crossThread ⟨0, some 60, false, false⟩ 60 rfl
    ⟨rfl, rfl, by decide⟩ rfl crossState_local (crossState_takes _ (by decide))
  obtain ⟨s', run, same⟩ := keeps ⟨rfl, by decide⟩
  obtain ⟨written, before⟩ := stD_commits
  rw [run] at written
  have : memRead s'.mem 60 = 5 := Option.some.inj written
  exact absurd (before.symm.trans ((same 60).symm.trans this)) (by decide)

end Sys2Proof.Machine


/-! ## The loads (R99, R100, R239, R240, R242) as one access -/

namespace Sys2Proof
open Machine

/-- A load is an issue whose body is the access of its form. -/
structure LoadsAs (i : Instr) (f : LoadForm) (word : Word) (conv : Conv) (uses : List Dst) (pins : Bool) : Prop where
  run : ∀ s, exec i s = issue word uses pins
    (fun p t k s => loadFrom s p t word (f.addr k t) f.size conv f.dsts f.la f.mode f.acquire) s
  sub : uses ⊆ f.uses ++ f.dsts
  shares : ∀ d ∈ f.dsts, isShared d.reg = pins
  words : ∀ bs, bs.length = f.size → readWords f.size conv bs = f.value bs
  addr : ∀ k t r, f.addr k { t with region := r } = f.addr k t

/-- The bytes of a load that sign-extends. -/
theorem readWords_sx {size : Nat} (h : size ≠ 16) (n : Nat) (bs : List Byte) : readWords size (.sx n) bs = signed1 n bs := by
  rw [readWords, if_neg h, Conv.apply, sextW_eq]
  rfl

/-- The bytes of a load that zero-extends. -/
theorem readWords_zx {size : Nat} (h : size ≠ 16) (n : Nat) (bs : List Byte) : readWords size (.zx n) bs = zeroed1 n bs := by
  rw [readWords, if_neg h, Conv.apply, zeroed1, ← BitVec.toNat_ofNat, BitVec.ofNat_toNat]

section Forms

variable {i : Instr} {d a b : Reg} {la : BitVec 4} {size : Nat} {conv : Conv} {value : List Byte → List Word}
  (hv : ∀ bs, readWords size conv bs = value bs)

include hv

theorem loadsAs_loadL {off : BitVec 9} {f : LoadForm} (hf : loadOff size value d a la off = some f)
    (hi : ∀ s, exec i s = loadL (wordOf i) d a la off size conv s) :
    LoadsAs i f (wordOf i) conv [ri a, ri d] (isShared d) := by
  obtain rfl := Option.some.inj hf
  exact ⟨hi, by simp, by simp [ri], fun bs _ => hv bs, fun k t r => rfl⟩

theorem loadsAs_loadX {mode acq : Bool} {f : LoadForm} (hf : loadIdx size value d a b la mode acq = some f)
    (hi : ∀ s, exec i s = loadX (wordOf i) d a b la size conv mode acq s) :
    LoadsAs i f (wordOf i) conv [ri a, ri b, ri d] (isShared d) := by
  obtain rfl := Option.some.inj hf
  exact ⟨hi, by simp, by simp [ri], fun bs _ => hv bs, fun k t r => rfl⟩

end Forms

/-- The two registers of a pair are of one file. -/
theorem isShared_pairHi (d : BitVec 5) : isShared (pairHi d) = isShared (pairLo d) := by
  revert d
  decide

theorem loadsAs_ldp {d : BitVec 5} {a : Reg} {la : BitVec 4} {off : BitVec 9} {f : LoadForm} (hf : loadForm (.ldp d a la off) = some f) :
    LoadsAs (.ldp d a la off) f (wordOf (.ldp d a la off)) (.zx 64) [ri a, ri (pairLo d)] (isShared (pairLo d)) := by
  obtain rfl := Option.some.inj hf
  refine ⟨fun _ => rfl, by simp, by simp [ri, isShared_pairHi], fun bs hb => ?_, fun k t r => rfl⟩
  rw [readWords, if_pos rfl, leAt, leAt, List.drop_zero, List.take_of_length_le (l := bs.drop 8) (by simp [hb])]

/-- Every load is an access of its form. -/
theorem loadsAs {i : Instr} {f : LoadForm} (hf : loadForm i = some f) : ∃ word conv uses pins, LoadsAs i f word conv uses pins := by
  cases i
  case ldBSx => exact ⟨_, _, _, _, loadsAs_loadL (readWords_sx (by decide) 8) hf fun _ => rfl⟩
  case ldBZx => exact ⟨_, _, _, _, loadsAs_loadL (readWords_zx (by decide) 8) hf fun _ => rfl⟩
  case ldHSx => exact ⟨_, _, _, _, loadsAs_loadL (readWords_sx (by decide) 16) hf fun _ => rfl⟩
  case ldHZx => exact ⟨_, _, _, _, loadsAs_loadL (readWords_zx (by decide) 16) hf fun _ => rfl⟩
  case ldWSx => exact ⟨_, _, _, _, loadsAs_loadL (readWords_sx (by decide) 32) hf fun _ => rfl⟩
  case ldWZx => exact ⟨_, _, _, _, loadsAs_loadL (readWords_zx (by decide) 32) hf fun _ => rfl⟩
  case ldD => exact ⟨_, _, _, _, loadsAs_loadL (readWords_zx (by decide) 64) hf fun _ => rfl⟩
  case ldxBSx => exact ⟨_, _, _, _, loadsAs_loadX (readWords_sx (by decide) 8) hf fun _ => rfl⟩
  case ldxBZx => exact ⟨_, _, _, _, loadsAs_loadX (readWords_zx (by decide) 8) hf fun _ => rfl⟩
  case ldxHSx => exact ⟨_, _, _, _, loadsAs_loadX (readWords_sx (by decide) 16) hf fun _ => rfl⟩
  case ldxHZx => exact ⟨_, _, _, _, loadsAs_loadX (readWords_zx (by decide) 16) hf fun _ => rfl⟩
  case ldxWSx => exact ⟨_, _, _, _, loadsAs_loadX (readWords_sx (by decide) 32) hf fun _ => rfl⟩
  case ldxWZx => exact ⟨_, _, _, _, loadsAs_loadX (readWords_zx (by decide) 32) hf fun _ => rfl⟩
  case ldxD => exact ⟨_, _, _, _, loadsAs_loadX (readWords_zx (by decide) 64) hf fun _ => rfl⟩
  case ldfBSx => exact ⟨_, _, _, _, loadsAs_loadX (readWords_sx (by decide) 8) hf fun _ => rfl⟩
  case ldfBZx => exact ⟨_, _, _, _, loadsAs_loadX (readWords_zx (by decide) 8) hf fun _ => rfl⟩
  case ldfHSx => exact ⟨_, _, _, _, loadsAs_loadX (readWords_sx (by decide) 16) hf fun _ => rfl⟩
  case ldfHZx => exact ⟨_, _, _, _, loadsAs_loadX (readWords_zx (by decide) 16) hf fun _ => rfl⟩
  case ldfWSx => exact ⟨_, _, _, _, loadsAs_loadX (readWords_sx (by decide) 32) hf fun _ => rfl⟩
  case ldfWZx => exact ⟨_, _, _, _, loadsAs_loadX (readWords_zx (by decide) 32) hf fun _ => rfl⟩
  case ldfD => exact ⟨_, _, _, _, loadsAs_loadX (readWords_zx (by decide) 64) hf fun _ => rfl⟩
  case ldaW => exact ⟨_, _, _, _, loadsAs_loadX (readWords_sx (by decide) 32) hf fun _ => rfl⟩
  case ldaD => exact ⟨_, _, _, _, loadsAs_loadX (readWords_zx (by decide) 64) hf fun _ => rfl⟩
  case ldp => exact ⟨_, _, _, _, loadsAs_ldp hf⟩
  all_goals cases hf

end Sys2Proof


/-! ## The token step is not seen by an access (R62, R102, R202, R212)

Neither the checks of an address nor the bytes behind it read a context's token, its mark or the threads: each says the same of a
state and of what is left of it without them. -/

namespace Sys2Proof.Machine

/-- A context without its token and its mark. -/
def Ctx.bare (x : Ctx) : Ctx := { x with token_ := none, cmark := 0 }

/-- A state without threads, tokens and marks. -/
def State.bare (s : State) : State := { s with ctxs := s.ctxs.map (fun e => (e.1, e.2.bare)), threads := [] }

theorem ctx_bare (s : State) (c : CtxId) : s.bare.ctx c = (s.ctx c).map Ctx.bare := mget_map (fun _ => Ctx.bare) s.ctxs c

/-- The value of a key, changed in a way that a view does not see, changes nothing in the view. -/
theorem mset_map_self {κ α β : Type} [DecidableEq κ] (g : α → β) {m : Map κ α} {k : κ} {v w : α} (h : mget m k = some v)
    (hg : g w = g v) : (mset m k w).map (fun e => (e.1, g e.2)) = m.map (fun e => (e.1, g e.2)) := by
  induction m with
  | nil => cases h
  | cons e m ih =>
    obtain ⟨j, u⟩ := e
    by_cases hj : j = k
    · subst hj
      obtain rfl : u = v := by simpa [mget] using h
      simp [mset, hg]
    · simp only [mget, hj, if_false] at h
      simp [mset, hj, ih h]

theorem setThread_bare (s : State) (p : Place) (t : Thread) : (s.setThread p t).bare = s.bare := rfl

theorem setCtx_bare {s : State} {c : CtxId} {x y : Ctx} (hx : s.ctx c = some x) (h : y.bare = x.bare) : (s.setCtx c y).bare = s.bare :=
  congrArg (fun m => { s with ctxs := m, threads := [] }) (mset_map_self Ctx.bare hx h)

theorem giveToken_bare (s : State) (p : Place) (e : Bool) : (giveToken s p e).bare = s.bare := by
  cases ht : s.thread p with
  | none => rw [giveToken, ht]
  | some t =>
    obtain ⟨m, tok, pin, excl, wexcl, h⟩ := giveToken_eq ht e
    rw [h, setThread_bare]
    rcases updCtx_token s (t.ctxId p) (some t.uid) m with hc | ⟨x, hx, hc⟩
    · rw [hc]
    · rw [hc]
      exact setCtx_bare hx rfl

/-! ### Translation (R198 to R203) -/

section Walk

variable (s : State) (c : CtxId) (x : Ctx)

theorem rangeEntries_bare (table n i lo : Nat) : rangeEntries s.bare c x.bare table n i lo = rangeEntries s c x table n i lo := by
  induction n generalizing i lo with
  | zero => rfl
  | succ n ih =>
    unfold rangeEntries
    simp only [ih]
    rfl

theorem rangeTable_bare : rangeTable s.bare c x.bare = rangeTable s c x := by
  unfold rangeTable
  simp only [rangeEntries_bare]
  rfl

theorem pageWalk_bare (va : Nat) (l : List Nat) (table : Nat) : pageWalk s.bare c x.bare va l table = pageWalk s c x va l table := by
  induction l generalizing table with
  | nil => rfl
  | cons sh l ih =>
    unfold pageWalk
    simp only [ih]
    rfl

theorem pageRange_bare (root : Nat) (va : Word) : pageRange s.bare c x.bare root va = pageRange s c x root va := by
  unfold pageRange
  simp only [pageWalk_bare]
  rfl

theorem pagesHit_bare (va : Nat) (l : List Nat) (table : Nat) : pagesHit s.bare c x.bare va l table = pagesHit s c x va l table := by
  induction l generalizing table with
  | nil => rfl
  | cons sh l ih =>
    unfold pagesHit
    simp only [ih]
    rfl

theorem walkPoison_bare (va : Word) : walkPoison s.bare c x.bare va = walkPoison s c x va := by
  unfold walkPoison
  simp only [rangeTable_bare, pagesHit_bare]
  rfl

theorem walk_bare (va : Word) : walk s.bare c x.bare va = walk s c x va := by
  unfold walk
  simp only [walkPoison_bare, rangeTable_bare, pageRange_bare]

theorem translate_bare (va : Word) : translate s.bare c x.bare va = translate s c x va := by
  unfold translate
  simp only [walk_bare]
  rfl

end Walk

/-! ### Members, and the checks of an address (R102, R184, R201) -/

section Look

variable (s : State) (c : CtxId)

theorem member_bare (peer : Nat) : member s.bare c peer = member s c peer := by
  unfold member
  rw [ctx_bare]
  cases s.ctx c with
  | none => rfl
  | some x =>
    simp only [Option.map_some, State.bare, List.find?_map, Option.map_map]
    rfl

theorem resolve_bare (ca : Nat) : resolve s.bare c ca = resolve s c ca := by
  unfold resolve
  rw [member_bare]
  cases member s c (saPeer ca) with
  | none => rfl
  | some m =>
    simp only [ctx_bare]
    cases s.ctx m <;> rfl

theorem inSpill_bare (ca n : Nat) : inSpill s.bare c ca n = inSpill s c ca n := by
  unfold inSpill
  simp only [member_bare]
  simp only [State.bare, List.any_map]
  rfl

theorem sharedText_bare (ca : Nat) : sharedText s.bare c ca = sharedText s c ca := by
  unfold sharedText
  simp only [resolve_bare]
  simp only [State.bare, List.any_map]
  rfl

theorem lacks_bare (x : Ctx) (r : Range) (ca size need : Nat) : lacks s.bare c x.bare r ca size need = lacks s c x r ca size need := by
  unfold lacks
  rw [inSpill_bare, sharedText_bare]
  rfl

theorem lookRange_bare (x : Ctx) (r : Range) (va : Word) (size need : Nat) :
    lookRange s.bare c x.bare r va size need = lookRange s c x r va size need := by
  unfold lookRange
  simp only [lacks_bare]
  rfl

theorem look_bare (ap : Nat) (locks : List Lock) (va : Word) (size align need : Nat) :
    look s.bare c ap locks va size align need = look s c ap locks va size align need := by
  unfold look
  rw [ctx_bare]
  cases s.ctx c with
  | none => rfl
  | some x =>
    simp only [Option.map_some, lookRange_bare, translate_bare, walkPoison_bare]
    rfl

end Look

/-! ### Memory behind a slot (R100, R104, R212) -/

section Memory

variable (s : State) (p : Place) (t : Thread)

theorem bodyOver_bare (c : CtxId) (m : List Host.Cell) (ca : Nat) (b : Body) : bodyOver s.bare c m ca b = bodyOver s c m ca b := by
  rw [bodyOver, resolve_bare]
  rfl

theorem over_bare (c : CtxId) (m : List Host.Cell) (i : Item) : i.over s.bare c m = i.over s c m := by
  cases i
  case packet ca body g n => exact bodyOver_bare s c m ca body
  all_goals rfl

theorem ownMem_bare (uid before : Nat) : ownMem s.bare uid before = ownMem s uid before := by
  unfold ownMem
  simp only [bodyOver_bare]
  rfl

theorem slotReads_bare (sa n : Nat) : slotReads s.bare p t sa n = slotReads s p t sa n := by
  unfold slotReads slotMem
  simp only [over_bare, ownMem_bare]
  rfl

end Memory

end Sys2Proof.Machine


/-! ## Loads reached in place (R100, R189, R212, R239, R240, R242), and O17 -/

namespace Sys2Proof.Machine

/-! ### States that differ in threads, tokens and marks alone -/

section Congr

variable {s z : State} (h : z.bare = s.bare)

include h

theorem lookT_congr (p : Place) (t : Thread) (va : Word) (size align need : Nat) :
    lookT z p t va size align need = lookT s p t va size align need := by
  rw [lookT, ← look_bare, h, look_bare]
  rfl

theorem slotReads_congr (p : Place) (t : Thread) (sa n : Nat) : slotReads z p t sa n = slotReads s p t sa n := by
  rw [← slotReads_bare, h, slotReads_bare]

theorem hitSa_congr (p : Place) (ap : Nat) (l : Loc) : hitSa z p ap l = hitSa s p ap l :=
  (congrArg (hitSa · p ap l) h : hitSa z.bare p ap l = hitSa s.bare p ap l)

theorem poisonHit_congr (sa n : Nat) : poisonHit z sa n = poisonHit s sa n :=
  (congrArg (poisonHit · sa n) h : poisonHit z.bare sa n = poisonHit s.bare sa n)

end Congr

theorem length_memReads (m : List Host.Cell) (a n : Nat) : (memReads m a n).length = n := by
  induction n generalizing a with
  | zero => rfl
  | succ n ih => exact congrArg (· + 1) (ih (a + 1))

/-- A slot sees the same bytes when its region has changed but for its items. -/
theorem slotReads_region (s : State) (p : Place) (t : Thread) {r : Region} (hr : r.items = t.region.items) (sa n : Nat) :
    slotReads s p { t with region := r } sa n = slotReads s p t sa n := by
  simp only [slotReads, slotMem, hr]
  rfl

/-! ### The access of a line that is reached in place -/

section Hit

variable {s : State} {p : Place} {t : Thread} {l : Loc} {sa : Nat}

theorem localSa_some (home : localSa p.core l = some sa) : l.sa = some sa ∧ homeDist sa = some (coreDist p.core) := by
  unfold localSa at home
  split at home
  · next x hx =>
    split at home
    · next hd => exact Option.some.inj home ▸ ⟨hx, hd⟩
    · cases home
  · cases home

/-- Memory homed in the district of the core, on its own device, is not far (R189). -/
theorem isFar_local (home : localSa p.core l = some sa) (own : saPeer l.ca = p.peer) : isFar s p t l = false := by
  obtain ⟨hsa, hd⟩ := localSa_some home
  rw [isFar, if_neg (not_not.mpr own), hsa]
  simp only [hd, bne_self_eq_false]

theorem directSa_of_hitSa {ap : Nat} (hit : hitSa s p ap l = some sa) : directSa p ap l = some sa := by
  rw [hitSa, Option.filter_eq_some_iff] at hit
  exact hit.1

theorem readNow_hit {va : Word} {n : Nat} (home : localSa p.core l = some sa) (hit : hitSa s p t.apCore l = some sa)
    (clean : poisonHit s sa n = false) : readNow s p t va l n = .ok (slotReads s p t sa n) (joinRead s p sa n) := by
  unfold readNow
  rw [home]
  simp only [clean, directSa_of_hitSa hit, Option.isNone_some, Bool.false_and, Bool.false_eq_true, if_false]

/-- A load of a line that is reached in place is performed at its issue. -/
theorem loadFrom_hit {word va : Word} {size : Nat} {conv : Conv} {dsts : List Dst} {la : Nat} {mode acq : Bool}
    (free : t.acquiring = false) (plain : t.isHandler = false) (found : lookT s p t va size size needR = .ok l)
    (home : localSa p.core l = some sa) (own : saPeer l.ca = p.peer) (memory : saKind l.ca ≠ 5)
    (hit : hitSa s p t.apCore l = some sa) (clean : poisonHit s sa size = false) :
    loadFrom s p t word va size conv dsts la mode acq
      = .done (acquired (pendNow (joinRead s p sa size) p dsts la acq (readWords size conv (slotReads s p t sa size))) p t acq) := by
  have near : isFar s p t l = false := isFar_local home own
  have notHost : l.isHost = false := beq_eq_false_iff_ne.mpr memory
  have stays : moveTarget s p t l mode = none := by simp [moveTarget, near]
  unfold loadFrom
  simp only [free, plain, found, notHost, near, stays, hit, readNow_hit home hit clean, Bool.false_and, Bool.and_false, Bool.false_eq_true,
    if_false, Option.isSome_some, Bool.true_or, if_true]

end Hit

/-! ### What a load leaves of the region's marks -/

theorem acquired_threads (s : State) (p : Place) (t : Thread) (acq : Bool) : (acquired s p t acq).threads = s.threads := by
  unfold acquired
  split <;> rfl

theorem acquired_pinnedAt (s : State) (p : Place) (t : Thread) (acq : Bool) : (acquired s p t acq).pinnedAt p = s.pinnedAt p :=
  pinnedAt_congr (acquired_threads s p t acq) p

theorem joinRead_pinnedAt (s : State) (p : Place) (sa n : Nat) : (joinRead s p sa n).pinnedAt p = s.pinnedAt p := by
  have touched : (match s.thread p with
      | some t => touch s (t.ctxId p) sa
      | none => s).threads = s.threads := by split <;> simp
  unfold joinRead
  rw [← pinnedAt_congr touched p]
  unfold State.pinnedAt
  rw [State.thread_updThread]
  cases State.thread _ p with
  | none => rfl
  | some t =>
    simp only [Option.map_some]
    split <;> rfl

end Sys2Proof.Machine

namespace Sys2Proof
open Machine

section Pins

variable {s : State} {t : Thread}

theorem pinIf_bare (pins : Bool) : (pinIf pins s t).bare = s.bare := by
  unfold pinIf
  split
  · exact giveToken_bare _ _ _
  · rfl

theorem pinIf_items (ht : s.thread s.turn = some t) (pins : Bool) :
    ∃ r, (pinIf pins s t).thread s.turn = some { t with region := r } ∧ r.items = t.region.items := by
  unfold pinIf
  split
  · obtain ⟨r, hr, -, -, items⟩ := giveToken_thread s s.turn t ht false
    exact ⟨r, hr, items⟩
  · exact ⟨t.region, ht, rfl⟩

end Pins

/-- A load of a local line that is reached in place, with the token step where it pins. -/
theorem LoadsAs.hits {i : Instr} {f : LoadForm} {word : Word} {conv : Conv} {uses : List Dst} {pins : Bool}
    (hi : LoadsAs i f word conv uses pins) {s : State} {t : Thread} {l : Loc} {sa : Nat} (h : CanIssue s t (f.uses ++ f.dsts))
    (hw : pins = true → t.region.pinned = true ∨ canToken s s.turn t = true) (free : t.acquiring = false)
    (hl : LocalAt s t (f.addr (coreNow s) t) f.size f.size needR l sa) (hit : hitSa s s.turn t.apCore l = some sa)
    (clean : poisonHit s sa f.size = false) :
    Runs i s (acquired (pendNow (joinRead (pinIf pins s t) s.turn sa f.size) s.turn f.dsts f.la f.acquire
      (readWords f.size conv (slotReads s s.turn t sa f.size))) s.turn t f.acquire) := by
  obtain ⟨found, home, own, memory⟩ := hl
  have same : (pinIf pins s t).bare = s.bare := pinIf_bare pins
  obtain ⟨r, h₁, items⟩ := pinIf_items h.here pins
  refine (hi.run s).trans (issue_pins (h.mono hi.sub) hw h₁ ⟨_, loadFrom_hit free h.plain found home own memory hit clean⟩ ?_ ?_)
  · rw [hi.addr, loadFrom_hit (t := { t with region := r }) free h.plain ((lookT_congr same _ _ _ _ _ _).trans found) home own
      memory ((hitSa_congr same _ _ _).trans hit) ((poisonHit_congr same _ _).trans clean), slotReads_congr same,
      slotReads_region _ _ _ items]
    rfl
  · rw [acquired_pinnedAt, pendNow_pinnedAt, joinRead_pinnedAt]

/-- Settles O17: the load is the access of its form, and the token step changes nothing that it reads. -/
theorem localLoads : Obligations.LocalLoads := by
  unfold Obligations.LocalLoads
  intro i f s t l sa hf h hw free hl hit clean d hd
  obtain ⟨word, conv, uses, pins, hi⟩ := loadsAs hf
  have run := hi.hits h (fun hp => hw d hd ((hi.shares d hd).trans hp)) free hl hit clean
  rw [hi.words (slotReads s s.turn t sa f.size) (length_memReads _ _ _)] at run
  rw [← hi.shares d hd] at run
  exact run

end Sys2Proof


/-! ## Loads that are not reached in place (R103, R187, R189 to R192, R195, R212, R242), and O18 -/

namespace Sys2Proof.Machine

/-! ### The access of such a line -/

section Far

variable {s : State} {p : Place} {t : Thread} {l : Loc} {word va : Word} {size : Nat} {conv : Conv} {dsts : List Dst} {la : Nat}
  {mode acq : Bool} (free : t.acquiring = false) (plain : t.isHandler = false) (found : lookT s p t va size size needR = .ok l)
  (pair : saKind l.ca = 5 → size ≠ 16)

theorem host_pair (pair : saKind l.ca = 5 → size ≠ 16) : (l.isHost && size == 16) = false := by
  rw [Bool.and_eq_false_imp]
  exact fun host => beq_eq_false_iff_ne.mpr (pair (beq_iff_eq.mp host))

include free plain found pair

/-- A load that no place is reserved for asks the home of its line. -/
theorem loadFrom_asks (idle : mode = true → isFar s p t l = true → busyForMove s p t = false) (stays : moveTarget s p t l mode = none)
    (miss : hitSa s p t.apCore l = none) (memory : l.sa.isSome = true → saKind l.ca ≠ 6) (clean : poisonAt s p t l size = false) :
    loadFrom s p t word va size conv dsts la mode acq = .done (acquired (askHome s p t va l.ca (.read size conv) dsts la acq) p t acq) := by
  have idle' : (mode && isFar s p t l && busyForMove s p t) = false := by
    rw [Bool.and_eq_false_imp, Bool.and_eq_true]
    exact fun h => idle h.1 h.2
  have window : (l.sa.isSome && saKind l.ca == 6) = false := by
    rw [Bool.and_eq_false_imp]
    exact fun h => beq_eq_false_iff_ne.mpr (memory h)
  unfold loadFrom
  simp only [free, plain, found, host_pair pair, idle', stays, miss, window, clean, Option.isSome_none, Bool.or_self, Bool.false_eq_true,
    if_false]

/-- A far load that a place is granted for moves the thread there. -/
theorem loadFrom_moves {dst : Place} (idle : busyForMove s p t = false) (goes : moveTarget s p t l mode = some dst) :
    loadFrom s p t word va size conv dsts la mode acq
      = .done (acquired (moveFor s p t word dst va l.ca (.read size conv) dsts la acq) p t acq) := by
  unfold loadFrom
  simp only [free, plain, found, host_pair pair, idle, goes, Bool.and_false, Bool.false_eq_true, if_false]

end Far

/-! ### What a request and a reservation leave -/

theorem enterStream_mem (s : State) (k : Packet) : (enterStream s k).1.mem = s.mem := by
  unfold enterStream
  split <;> rfl

theorem launchPacket_mem (s : State) (k : Packet) : (launchPacket s k).mem = s.mem :=
  (((routed_same _ _).1.trans (atQueue_same _ _ _ _)).1).trans (enterStream_mem s k)

/-- A packet that leaves its slot, held or not, leaves memory and the threads as they are. -/
theorem sendPacket_keeps (s : State) (k : Packet) : (sendPacket s k).mem = s.mem ∧ (sendPacket s k).threads = s.threads := by
  unfold sendPacket
  dsimp only
  split
  · exact ⟨rfl, rfl⟩
  · exact ⟨launchPacket_mem s k, launchPacket_threads s k⟩

theorem acquired_mem (s : State) (p : Place) (t : Thread) (acq : Bool) : (acquired s p t acq).mem = s.mem := by
  unfold acquired
  split <;> rfl

theorem acquired_migs (s : State) (p : Place) (t : Thread) (acq : Bool) : (acquired s p t acq).migs = s.migs := by
  unfold acquired
  split <;> rfl

/-- What a change of a core leaves as it was in that core, it leaves in every core. -/
theorem core_updCore_keeps {α : Type} (g : Core → α) (s : State) (c d : CoreId) {f : Core → Core} (hf : ∀ k, g (f k) = g k) :
    g ((s.updCore c f).core d) = g (s.core d) := by
  unfold State.updCore
  by_cases h : d = c
  · subst h
    rw [State.core_setCore, hf]
  · rw [State.core_setCore_other _ _ h]

/-- What an acquiring load drops are elements of the slot's streams. -/
theorem acquired_arrivals (s : State) (p : Place) (t : Thread) (acq : Bool) (c : CoreId) :
    ((acquired s p t acq).core c).arrivals = (s.core c).arrivals := by
  unfold acquired
  split
  · exact core_updCore_keeps Core.arrivals s (coreOf p) c (f := fun k => { k with streams := k.streams.map _ }) (fun _ => rfl)
  · rfl

theorem pendLater_mem (s : State) (p : Place) (ds : List Dst) (la : Nat) (acq : Bool) (id : Nat) :
    (pendLater s p ds la acq id).mem = s.mem := by
  unfold pendLater
  simp

theorem migs_updThread (s : State) (p : Place) (f : Thread → Thread) : (s.updThread p f).migs = s.migs := by
  unfold State.updThread
  split <;> rfl

section Ask

variable (s : State) (p : Place) (t : Thread) (va : Word) (ca : Nat) (body : Body) (dsts : List Dst) (la : Nat) (acq : Bool)

theorem askHome_mem : (askHome s p t va ca body dsts la acq).mem = s.mem :=
  (pendLater_mem _ _ _ _ _ _).trans (sendPacket_keeps _ _).1

theorem askHome_pinnedAt : (askHome s p t va ca body dsts la acq).pinnedAt p = s.pinnedAt p :=
  (pendLater_pinnedAt _ _ _ _ _ _).trans (pinnedAt_congr (sendPacket_keeps _ _).2 p)

end Ask

section Move

variable (s : State) (p : Place) (t : Thread) (word : Word) (dst : Place) (va : Word) (ca : Nat) (body : Body) (dsts : List Dst) (la : Nat)
  (acq : Bool)

theorem moveFor_eq : moveFor s p t word dst va ca body dsts la acq
    = pendLater (reserve s.fresh.2 p t dst s.nextId (some (va, body, dsts)) ca word) p dsts la acq s.nextId := rfl

theorem moveFor_mem : (moveFor s p t word dst va ca body dsts la acq).mem = s.mem := pendLater_mem _ _ _ _ _ _

theorem moveFor_pinnedAt : (moveFor s p t word dst va ca body dsts la acq).pinnedAt p = s.pinnedAt p := pendLater_pinnedAt _ _ _ _ _ _

/-- The thread's move stands among the moves, under a name of its own. -/
theorem moveFor_migs : ∃ m ∈ (moveFor s p t word dst va ca body dsts la acq).migs,
    m.id = s.nextId ∧ m.dst = dst ∧ m.src = p ∧ m.thread = t := by
  rw [moveFor_eq, pendLater, migs_updThread]
  exact ⟨_, List.mem_append_right _ (List.mem_singleton.mpr rfl), rfl, rfl, rfl, rfl⟩

/-- The move has an entry in the arrival buffer of its target. -/
theorem moveFor_arrivals : ((moveFor s p t word dst va ca body dsts la acq).core (coreOf dst)).arrivals
    = (s.core (coreOf dst)).arrivals ++ [s.nextId] := by
  rw [moveFor_eq, pendLater, State.core_updThread]
  exact congrArg Core.arrivals (State.core_setCore s.fresh.2 (coreOf dst) _)

end Move

end Sys2Proof.Machine

namespace Sys2Proof
open Machine

/-- A load whose access does the same in the state of its issue and, where it pins, in the one behind the token step. -/
theorem LoadsAs.runs {i : Instr} {f : LoadForm} {word : Word} {conv : Conv} {uses : List Dst} {pins : Bool}
    (hi : LoadsAs i f word conv uses pins) {s : State} {t t' : Thread} {ready : State → Thread → Prop} {w : State → Thread → State}
    (h : CanIssue s t (f.uses ++ f.dsts)) (hw : pins = true → t.region.pinned = true ∨ canToken s s.turn t = true)
    (free : t.acquiring = false) (h₁ : (pinIf pins s t).thread s.turn = some t') (before : ready s t) (behind : ready (pinIf pins s t) t')
    (acts : ∀ z u, u.acquiring = false → u.isHandler = false → ready z u →
      loadFrom z s.turn u word (f.addr (coreNow s) t) f.size conv f.dsts f.la f.mode f.acquire = .done (w z u))
    (keeps : ∀ z u, (w z u).pinnedAt s.turn = z.pinnedAt s.turn) : Runs i s (w (pinIf pins s t) t') := by
  obtain ⟨-, hr, ⟨r, rfl⟩, -⟩ := pinIf_thread h.here pins
  obtain rfl := Option.some.inj (h₁.symm.trans hr)
  refine (hi.run s).trans (issue_pins (h.mono hi.sub) hw h₁ ⟨_, acts s t free h.plain before⟩ ?_ (keeps _ _))
  rw [hi.addr]
  exact acts _ _ free h.plain behind

theorem pinFor_mem (s : State) (t : Thread) (d : Dst) : (pinFor s t d).mem = s.mem := by
  unfold pinFor
  split
  · exact giveToken_mem _ _ _
  · rfl

/-- Settles O18: the access of a load whose line is not reached in place is a request, or a move where one is granted. -/
theorem farLoads : Obligations.FarLoads := by
  unfold Obligations.FarLoads
  refine ⟨fun i f d s t t' l hf hd h hw free => ?_, fun i f d s t t' l dst hf hd h hw free => ?_⟩
  · intro va ready memory pair before h₁ behind
    obtain ⟨word, conv, uses, pins, hi⟩ := loadsAs hf
    obtain rfl := hi.shares d hd
    refine ⟨conv, _, hi.runs (ready := ready) (w := fun z u =>
      acquired (askHome z s.turn u va l.ca (.read f.size conv) f.dsts f.la f.acquire) s.turn u f.acquire) h hw free h₁ before behind
      (fun z u free plain hz => ?_) (fun z u => ?_), rfl, hi.words, ?_⟩
    · obtain ⟨found, idle, stays, clean, miss⟩ := hz
      exact loadFrom_asks free plain found pair idle stays miss memory clean
    · rw [acquired_pinnedAt, askHome_pinnedAt]
    · rw [acquired_mem, askHome_mem]
      exact pinFor_mem s t d
  · intro va ready pair before h₁ behind
    obtain ⟨word, conv, uses, pins, hi⟩ := loadsAs hf
    obtain rfl := hi.shares d hd
    refine ⟨_, (pinFor s t d).nextId, hi.runs (ready := ready) (w := fun z u =>
      acquired (moveFor z s.turn u word dst va l.ca (.read f.size conv) f.dsts f.la f.acquire) s.turn u f.acquire) h hw free h₁ before behind
      (fun z u free plain hz => ?_) (fun z u => ?_), ?_, ?_, ?_⟩
    · obtain ⟨found, idle, goes⟩ := hz
      exact loadFrom_moves free plain found pair idle goes
    · rw [acquired_pinnedAt, moveFor_pinnedAt]
    · rw [acquired_migs]
      exact moveFor_migs _ _ _ _ _ _ _ _ _ _ _
    · rw [acquired_arrivals, moveFor_arrivals, pinIf_core]
      rfl
    · rw [acquired_mem, moveFor_mem]
      exact pinFor_mem s t d

end Sys2Proof

/-! ## What every operation keeps: the keys of every device (R118), and the canonical form of memory (R2, R210)

`Kept s₀ s` says that `s` may have come from `s₀` by steps that enrol and revoke no key. One lemma per function of the model, named
after it: from `Kept s₀ s` to `Kept s₀` of what it answers. -/

namespace Sys2Proof.Machine

/-- The keys of every device are those of `s₀`, and memory is in its canonical form if that of `s₀` is. -/
def Kept (s₀ s : State) : Prop :=
  (∀ n, (s.dev n).keys = (s₀.dev n).keys) ∧ (Memory.wf s₀.mem = true → Memory.wf s.mem = true)

/-- Every state that an instruction's effect may come to is kept. -/
def ResKept (s₀ : State) : Res → Prop
  | .done s => Kept s₀ s
  | .jump s _ => Kept s₀ s
  | .stall s => Kept s₀ s
  | .trap _ => True
  | .gone s => Kept s₀ s

/-- The next state of an outcome is kept. -/
def OutKept (s₀ : State) : Host.Outcome State Fault Refusal → Prop
  | .next s => Kept s₀ s
  | _ => True

/-- The state that is answered, if any, is kept. -/
def OptKept (s₀ : State) : Option State → Prop
  | some s => Kept s₀ s
  | none => True

/-- The state that is answered with something else, if any, is kept. -/
def PairKept {α : Type} (s₀ : State) : Option (State × α) → Prop
  | some r => Kept s₀ r.1
  | none => True

/-- The state that is answered behind something else, if any, is kept. -/
def SndKept {α : Type} (s₀ : State) : Option (α × State) → Prop
  | some r => Kept s₀ r.2
  | none => True

/-- The state that is answered unless an error is. -/
def ExceptKept {ε : Type} (s₀ : State) : Except ε State → Prop
  | .ok s => Kept s₀ s
  | .error _ => True

/-- Both states of a step that may wait are kept. -/
def EitherKept (s₀ : State) : Except State State → Prop
  | .ok s => Kept s₀ s
  | .error s => Kept s₀ s

/-- The state that a step of a summary heap comes to, or waits in, is kept. -/
def HeapKept (s₀ : State) : HeapStep → Prop
  | .ok r => Kept s₀ r.1
  | .error s => Kept s₀ s

/-- What takes the place of a value that an effect asks for is kept. -/
def ErrKept {α : Type} (s₀ : State) : Except Res α → Prop
  | .ok _ => True
  | .error r => ResKept s₀ r

/-- What an effect comes to, if it comes to anything, is kept. -/
def OptResKept (s₀ : State) : Option Res → Prop
  | some r => ResKept s₀ r
  | none => True

/-- The state that buffering comes to is kept. -/
def RoomKept (s₀ : State) : Room → Prop
  | .ok s => Kept s₀ s
  | .again s => Kept s₀ s

/-- The state of a read of operand bytes is kept. -/
def GotKept (s₀ : State) : Got → Prop
  | .ok _ s => Kept s₀ s
  | .stop r => ResKept s₀ r

/-- The state of a read of operands is kept. -/
def ValsKept (s₀ : State) : Vals → Prop
  | .ok _ s => Kept s₀ s
  | .stop r => ResKept s₀ r

/-- The state that writing frames comes to is kept. -/
def SpillKept (s₀ : State) : Spill → Prop
  | .ok s => Kept s₀ s
  | _ => True

/-- The state that a write of the device comes to is kept. -/
def PutKept (s₀ : State) : Put → Prop
  | .ok s => Kept s₀ s
  | _ => True

/-- The state that a launch comes to is kept. -/
def LaunchedKept (s₀ : State) : Launched → Prop
  | .ok s _ => Kept s₀ s
  | _ => True

/-- The state that a donation comes to is kept. -/
def DonationKept (s₀ : State) : Donation → Prop
  | .ok s => Kept s₀ s
  | _ => True

/-- The state that an access at an arrival comes to is kept. -/
def ArrivedKept (s₀ : State) : Arrived → Prop
  | .ok s _ => Kept s₀ s
  | _ => True

/-- The state of a command's write is kept. -/
def CmdPutKept (s₀ : State) : CmdPut → Prop
  | .ok s => Kept s₀ s
  | .sent s => Kept s₀ s
  | _ => True

/-- The state of a presentation's verdict is kept. -/
def VerdictKept (s₀ : State) : Verdict → Prop
  | .refused _ s => Kept s₀ s
  | .built _ s => Kept s₀ s
  | .taken s => Kept s₀ s
  | .waiting _ s => Kept s₀ s

variable {s₀ s s' : State}

/-! ### Rules of the relation -/

theorem Kept.refl (s : State) : Kept s s := ⟨fun _ => rfl, id⟩

/-! The state behind an answer that is known. -/

protected theorem OptKept.some {r} (h : OptKept s₀ r) (e : r = .some s) : Kept s₀ s := by
  subst e
  exact h
protected theorem PairKept.some {α : Type} {r : Option (State × α)} {a : α} (h : PairKept s₀ r) (e : r = .some (s, a)) : Kept s₀ s
    := by
  subst e
  exact h
protected theorem SndKept.some {α : Type} {r : Option (α × State)} {a : α} (h : SndKept s₀ r) (e : r = .some (a, s)) : Kept s₀ s
    := by
  subst e; exact h
protected theorem PairKept.get {α : Type} {r : Option (State × α)} {q} (h : PairKept s₀ r) (e : r = .some q) : Kept s₀ q.1 := by
  subst e; exact h
protected theorem ExceptKept.ok {ε : Type} {r : Except ε State} (h : ExceptKept s₀ r) (e : r = .ok s) : Kept s₀ s := by
  subst e
  exact h
protected theorem EitherKept.ok {r} (h : EitherKept s₀ r) (e : r = .ok s) : Kept s₀ s := by
  subst e
  exact h
protected theorem EitherKept.error {r} (h : EitherKept s₀ r) (e : r = .error s) : Kept s₀ s := by
  subst e
  exact h
protected theorem HeapKept.ok {r : HeapStep} {q} (h : HeapKept s₀ r) (e : r = .ok q) : Kept s₀ q.1 := by
  subst e
  exact h
protected theorem HeapKept.error {r : HeapStep} (h : HeapKept s₀ r) (e : r = .error s) : Kept s₀ s := by
  subst e
  exact h
protected theorem ErrKept.error {α : Type} {r : Except Res α} {q : Res} (h : ErrKept s₀ r) (e : r = .error q) : ResKept s₀ q := by
  subst e
  exact h
protected theorem OptResKept.some {r : Option Res} {q : Res} (h : OptResKept s₀ r) (e : r = .some q) : ResKept s₀ q := by
  subst e
  exact h
protected theorem ResKept.done {r : Res} (h : ResKept s₀ r) (e : r = .done s) : Kept s₀ s := by
  subst e
  exact h

protected theorem ResKept.stall {r : Res} (h : ResKept s₀ r) (e : r = .stall s) : Kept s₀ s := by
  subst e
  exact h

protected theorem RoomKept.ok {r : Room} (h : RoomKept s₀ r) (e : r = .ok s) : Kept s₀ s := by
  subst e
  exact h
protected theorem RoomKept.again {r : Room} (h : RoomKept s₀ r) (e : r = .again s) : Kept s₀ s := by
  subst e
  exact h
protected theorem GotKept.ok {r : Got} {a} (h : GotKept s₀ r) (e : r = .ok a s) : Kept s₀ s := by
  subst e
  exact h
protected theorem ValsKept.ok {r : Vals} {a} (h : ValsKept s₀ r) (e : r = .ok a s) : Kept s₀ s := by
  subst e
  exact h
protected theorem SpillKept.ok {r : Spill} (h : SpillKept s₀ r) (e : r = .ok s) : Kept s₀ s := by
  subst e
  exact h
protected theorem PutKept.ok {r : Put} (h : PutKept s₀ r) (e : r = .ok s) : Kept s₀ s := by
  subst e
  exact h
protected theorem LaunchedKept.ok {r : Launched} {a} (h : LaunchedKept s₀ r) (e : r = .ok s a) : Kept s₀ s := by
  subst e
  exact h
protected theorem DonationKept.ok {r : Donation} (h : DonationKept s₀ r) (e : r = .ok s) : Kept s₀ s := by
  subst e
  exact h
protected theorem ArrivedKept.ok {r : Arrived} {a} (h : ArrivedKept s₀ r) (e : r = .ok s a) : Kept s₀ s := by
  subst e
  exact h
protected theorem CmdPutKept.ok {r : CmdPut} (h : CmdPutKept s₀ r) (e : r = .ok s) : Kept s₀ s := by
  subst e
  exact h
protected theorem CmdPutKept.sent {r : CmdPut} (h : CmdPutKept s₀ r) (e : r = .sent s) : Kept s₀ s := by
  subst e
  exact h

protected theorem GotKept.stop {r : Got} {q} (h : GotKept s₀ r) (e : r = .stop q) : ResKept s₀ q := by
  subst e
  exact h
protected theorem ValsKept.stop {r : Vals} {q} (h : ValsKept s₀ r) (e : r = .stop q) : ResKept s₀ q := by
  subst e
  exact h

theorem fst_kept {α : Type} {r : State × α} {a : α} (e : r = (s, a)) (h : Kept s₀ r.1) : Kept s₀ s := by
  subst e; exact h

theorem snd_kept {α : Type} {r : α × State} {a : α} (e : r = (a, s)) (h : Kept s₀ r.2) : Kept s₀ s := by
  subst e; exact h

theorem foldl_kept {α : Type} {l : List α} {f : State → α → State} (h : Kept s₀ s)
    (hf : ∀ z a, Kept s₀ z → Kept s₀ (f z a)) : Kept s₀ (l.foldl f s) := by
  induction l generalizing s with
  | nil => exact h
  | cons a l ih => exact ih (hf s a h)

theorem getD_kept {o : Option State} (h : Kept s₀ s) (ho : OptKept s₀ o) : Kept s₀ (o.getD s) := by
  cases o with
  | none => exact h
  | some z => exact ho

theorem elim_kept {α : Type} {o : Option α} {f : α → State} (h : Kept s₀ s) (hf : ∀ a, Kept s₀ (f a)) : Kept s₀ (o.elim s f) := by
  cases o with
  | none => exact h
  | some a => exact hf a

theorem foldlFst_kept {α β : Type} {l : List α} {f : State × β → α → State × β} {r : State × β} (h : Kept s₀ r.1)
    (hf : ∀ r a, Kept s₀ r.1 → Kept s₀ (f r a).1) : Kept s₀ (l.foldl f r).1 := by
  induction l generalizing r with
  | nil => exact h
  | cons a l ih => exact ih (hf r a h)

theorem ite_kept {c : Prop} [Decidable c] {a b : State} (ha : Kept s₀ a) (hb : Kept s₀ b) : Kept s₀ (if c then a else b) := by
  split
  · exact ha
  · exact hb

theorem map_kept {α : Type} {o : Option α} {f : α → State} (hf : ∀ a, o = some a → Kept s₀ (f a)) : OptKept s₀ (o.map f) := by
  cases o with
  | none => trivial
  | some a => exact hf a rfl

theorem bind_kept {α : Type} {o : Option α} {f : α → Option State} (hf : ∀ a, o = some a → OptKept s₀ (f a)) :
    OptKept s₀ (o.bind f) := by
  cases o with
  | none => trivial
  | some a => exact hf a rfl

theorem mapPair_kept {α β : Type} {o : Option α} {f : α → State × β} (hf : ∀ a, o = some a → Kept s₀ (f a).1) :
    PairKept s₀ (o.map f) := by
  cases o with
  | none => trivial
  | some a => exact hf a rfl

theorem exceptMap_kept {ε : Type} {o : Except ε State} {f : State → State} (ho : ExceptKept s₀ o)
    (hf : ∀ z, Kept s₀ z → Kept s₀ (f z)) : ExceptKept s₀ (o.map f) := by
  cases o with
  | error _ => trivial
  | ok z => exact hf z ho

theorem eitherMap_kept {o : Except State State} {f : State → State} (ho : EitherKept s₀ o)
    (hf : ∀ z, Kept s₀ z → Kept s₀ (f z)) : EitherKept s₀ (o.map f) := by
  cases o with
  | error _ => exact ho
  | ok z => exact hf z ho

theorem heapMap_kept {o : Except State State} {w : Word} (ho : EitherKept s₀ o) : HeapKept s₀ (o.map (fun z => (z, w))) := by
  cases o with
  | error _ => exact ho
  | ok z => exact ho

theorem foldBind_none {α : Type} (f : α → State → Option State) (l : List α) :
    l.foldl (fun m a => m.bind (fun z => f a z)) none = none := by
  induction l with
  | nil => rfl
  | cons a l ih => exact ih

/-- A fold that stops at the first answer that is none. -/
theorem foldBind_kept {α : Type} {l : List α} {f : α → State → Option State} (h : Kept s₀ s)
    (hf : ∀ z a, Kept s₀ z → OptKept s₀ (f a z)) : OptKept s₀ (l.foldl (fun m a => m.bind (fun z => f a z)) (some s)) := by
  induction l generalizing s with
  | nil => exact h
  | cons a l ih =>
    rw [List.foldl_cons, Option.bind_some]
    cases e : f a s with
    | none => rw [foldBind_none]; trivial
    | some z => exact ih ((hf s a h).some e)

theorem findSome_kept {α : Type} {l : List α} {f : α → Option State} (hf : ∀ a, OptKept s₀ (f a)) : OptKept s₀ (l.findSome? f) := by
  induction l with
  | nil => trivial
  | cons a l ih =>
    rw [List.findSome?_cons]
    split
    · next e => exact (hf a).some e
    · exact ih

/-! ### The updates of a state -/

/-- A change of everything but memory and the devices. -/
theorem record_kept {poisoned repair threads donors cores ctxs packets streams migs msgs agenda turn now nextId plan draws stalled}
    (h : Kept s₀ s) : Kept s₀ ⟨s.mem, poisoned, repair, threads, donors, cores, ctxs, s.devs, packets, streams, migs, msgs, agenda,
      turn, now, nextId, plan, draws, stalled⟩ := h

/-- A change of everything but the devices, which keeps memory in its canonical form. -/
theorem memory_kept {mem poisoned repair threads donors cores ctxs packets streams migs msgs agenda turn now nextId plan draws
    stalled}
    (h : Kept s₀ s) (hm : Memory.wf s.mem = true → Memory.wf mem = true) :
    Kept s₀ ⟨mem, poisoned, repair, threads, donors, cores, ctxs, s.devs, packets, streams, migs, msgs, agenda, turn, now, nextId,
      plan, draws, stalled⟩ := ⟨h.1, fun w => hm (h.2 w)⟩

theorem State.setThread_kept {p t} (h : Kept s₀ s) : Kept s₀ (s.setThread p t) := h
theorem State.freeSlot_kept {p} (h : Kept s₀ s) : Kept s₀ (s.freeSlot p) := h
theorem State.setCore_kept {c k} (h : Kept s₀ s) : Kept s₀ (s.setCore c k) := h
theorem State.setCtx_kept {c x} (h : Kept s₀ s) : Kept s₀ (s.setCtx c x) := h
theorem State.updCore_kept {c f} (h : Kept s₀ s) : Kept s₀ (s.updCore c f) := h
theorem State.updCtx_kept {c f} (h : Kept s₀ s) : Kept s₀ (s.updCtx c f) := by
  unfold State.updCtx
  split <;> exact h

theorem State.updThread_kept {p f} (h : Kept s₀ s) : Kept s₀ (s.updThread p f) := by
  unfold State.updThread
  split <;> exact h

theorem State.fresh_kept (h : Kept s₀ s) : Kept s₀ s.fresh.2 := h
theorem State.draw_kept (h : Kept s₀ s) : Kept s₀ s.draw.2 := h

theorem State.setDev_kept {n d} (h : Kept s₀ s) (hd : d.keys = (s.dev n).keys) : Kept s₀ (s.setDev n d) := by
  refine ⟨fun m => ?_, h.2⟩
  by_cases e : m = n
  · subst e
    rw [State.dev_setDev, hd]
    exact h.1 m
  · rw [State.dev_setDev_other s d e]
    exact h.1 m

theorem State.capUpdate_kept {n f} (h : Kept s₀ s) (hf : ∀ d, (f d).keys = d.keys) : Kept s₀ (s.capUpdate n f) :=
  State.setDev_kept h (hf (s.dev n))

theorem State.writes_kept {a bs} (h : Kept s₀ s) : Kept s₀ (s.writes a bs) := ⟨h.1, fun w => memWrites_wf bs (h.2 w) a⟩

/-! ### Registers (R33, R60, R61) -/

theorem State.putReg_kept {p d v at_v} (h : Kept s₀ s) : Kept s₀ (State.putReg s p d v at_v) := by
  unfold State.putReg
  exact ite_kept (State.updCore_kept h) (State.updThread_kept h)

theorem State.writeReg_kept {p d v} (h : Kept s₀ s) : Kept s₀ (State.writeReg s p d v) := by
  unfold State.writeReg
  exact State.putReg_kept (State.updThread_kept h)

/-! ### Cached translations (R12, R202, R203) -/

theorem cacheFor_kept {p ctx instr r} (h : Kept s₀ s) : Kept s₀ (cacheFor s p ctx instr r) := by
  unfold cacheFor
  exact State.setDev_kept (State.updCore_kept h) rfl

theorem dropCached_kept {c} (h : Kept s₀ s) : Kept s₀ (dropCached s c) := by
  unfold dropCached
  exact State.setDev_kept (record_kept h) rfl

/-! ### Queues (R230, R231, R233) -/

theorem atQueue_kept {k peer dist} (h : Kept s₀ s) : Kept s₀ (atQueue s k peer dist).1 := by
  unfold atQueue
  split
  next e =>
    dsimp only
    split <;> exact snd_kept e (State.fresh_kept h)

/-! ### Streams and sending -/

theorem nextPlane_kept {peer dist num} (h : Kept s₀ s) : Kept s₀ (nextPlane s peer dist num).1 := by
  unfold nextPlane
  split
  · exact h
  · exact State.setDev_kept h rfl

theorem enterStream_kept {k} (h : Kept s₀ s) : Kept s₀ (enterStream s k).1 := by
  unfold enterStream
  split
  · exact h
  · exact record_kept h

theorem routed_kept {k} (h : Kept s₀ s) : Kept s₀ (routed s k).1 := by
  unfold routed
  dsimp only
  split
  · dsimp only
    split
    · exact h
    · exact nextPlane_kept h
  · dsimp only
    split
    · exact h
    · exact nextPlane_kept h

theorem launchPacket_kept {k} (h : Kept s₀ s) : Kept s₀ (launchPacket s k) := by
  unfold launchPacket
  split
  next e =>
    split
    next e₁ =>
      split
      next e₂ => exact record_kept (fst_kept e₂ (atQueue_kept (fst_kept e₁ (routed_kept (fst_kept e (enterStream_kept h))))))

theorem sendPacket_kept {k} (h : Kept s₀ s) : Kept s₀ (sendPacket s k) := by
  unfold sendPacket
  exact ite_kept (record_kept h) (launchPacket_kept h)

theorem mkPacket_kept {p t ca body global slack} (h : Kept s₀ s) : Kept s₀ (mkPacket s p t ca body global slack).1 := by
  unfold mkPacket
  dsimp only
  exact State.fresh_kept h

theorem keepPacket_kept {k} (h : Kept s₀ s) : Kept s₀ (keepPacket s k) := by
  unfold keepPacket
  exact record_kept h

theorem releaseHeld_kept {uid n} (h : Kept s₀ s) : Kept s₀ (releaseHeld s uid n) := by
  induction n generalizing s uid with
  | zero =>
    unfold releaseHeld
    exact h
  | succ n ih =>
    unfold releaseHeld
    split
    · exact h
    · exact ite_kept h (ih (launchPacket_kept (record_kept h)))

theorem setPacket_kept {k} (h : Kept s₀ s) : Kept s₀ (setPacket s k) := by
  unfold setPacket
  exact record_kept h

theorem dropPacket_kept {id} (h : Kept s₀ s) : Kept s₀ (dropPacket s id) := by
  unfold dropPacket
  exact record_kept h

theorem mkRequestTo_kept {p t body path slack} (h : Kept s₀ s) : Kept s₀ (mkRequestTo s p t body path slack).1 := by
  unfold mkRequestTo
  split
  next e => exact atQueue_kept (snd_kept e (State.fresh_kept h))

theorem mkRequest_kept {p t body dist qtr slack} (h : Kept s₀ s) : Kept s₀ (mkRequest s p t body dist qtr slack).1 := by
  unfold mkRequest
  exact mkRequestTo_kept h

theorem sendTo_kept {p c uid body peer dist limited slack} (h : Kept s₀ s) : Kept s₀
    (sendTo s p c uid body peer dist limited slack) := by
  unfold sendTo
  split
  next e =>
    dsimp only
    refine record_kept ?_
    refine atQueue_kept ?_
    split
    · exact snd_kept e (State.fresh_kept h)
    · exact nextPlane_kept (snd_kept e (State.fresh_kept h))

/-! ### What a slot's own packets have not brought to M yet (R104) -/

theorem storeItem_kept {c uid item k} (h : Kept s₀ s) : Kept s₀ (storeItem s c uid item k) := by
  unfold storeItem
  split
  · exact h
  · dsimp only
    split
    · exact State.setCtx_kept h
    · exact ite_kept (State.setCtx_kept h) (State.setCtx_kept h)
    · exact ite_kept (State.setCtx_kept h) (ite_kept (State.setCtx_kept h) (State.setCtx_kept h))
    · exact ite_kept (State.setCtx_kept h) (ite_kept (State.setCtx_kept h) (State.setCtx_kept h))
    · exact ite_kept (State.setCtx_kept h) (ite_kept (State.setCtx_kept h) (State.setCtx_kept h))

theorem noteRecords_kept {c p} (h : Kept s₀ s) : Kept s₀ (noteRecords s c p) := by
  unfold noteRecords
  split
  · dsimp only
    split
    · exact h
    · split
      · exact State.setThread_kept h
      · exact storeItem_kept h
  · exact h

theorem drainStore_kept {c uid n} (h : Kept s₀ s) : Kept s₀ (drainStore s c uid n) := by
  induction n generalizing s c uid with
  | zero =>
    unfold drainStore
    exact h
  | succ n ih =>
    unfold drainStore
    split
    · split
      · exact noteRecords_kept h
      · split
        · exact h
        · exact ih (State.setCtx_kept (State.setThread_kept h))
    · exact h

theorem deliver_kept {c uid item k} (h : Kept s₀ s) : Kept s₀ (deliver s c uid item k) := by
  unfold deliver
  split
  next e =>
    dsimp only
    split
    · exact ite_kept (snd_kept e (State.fresh_kept h)) (storeItem_kept (snd_kept e (State.fresh_kept h)))
    · exact storeItem_kept (snd_kept e (State.fresh_kept h))
    · split
      · exact noteRecords_kept (State.setThread_kept (snd_kept e (State.fresh_kept h)))
      · exact storeItem_kept (snd_kept e (State.fresh_kept h))

theorem countDrop_kept {c} (h : Kept s₀ s) : Kept s₀ (countDrop s c) := by
  unfold countDrop
  exact State.updCtx_kept h

theorem postProgram_kept {c target payload} (h : Kept s₀ s) : Kept s₀ (postProgram s c target payload) := by
  unfold postProgram
  dsimp only
  split
  · exact countDrop_kept h
  · split
    · exact ite_kept (deliver_kept h) (countDrop_kept h)
    · exact countDrop_kept h

theorem lateReply_kept {p t} (h : Kept s₀ s) : Kept s₀ (lateReply s p t) := by
  unfold lateReply
  exact ite_kept (deliver_kept (State.updCtx_kept (State.setThread_kept h))) (State.updCtx_kept (State.setThread_kept h))

theorem sendArrival_kept {p t bar units slack} (h : Kept s₀ s) : Kept s₀ (sendArrival s p t bar units slack) := by
  unfold sendArrival
  dsimp only
  exact record_kept (mkRequest_kept h)

theorem coreSends_kept {p t bar n} (h : Kept s₀ s) : Kept s₀ (coreSends s p t bar n) := by
  induction n generalizing s p t bar with
  | zero =>
    unfold coreSends
    exact h
  | succ n ih =>
    unfold coreSends
    dsimp only
    exact ite_kept h (ih (sendArrival_kept
        (State.setCore_kept (record_kept (foldl_kept h (fun _ _ hz => State.updThread_kept hz))))))

theorem arrive_kept {p t bar slack} (h : Kept s₀ s) : Kept s₀ (arrive s p t bar slack) := by
  unfold arrive
  split
  · exact sendArrival_kept h
  · split
    · exact State.updThread_kept h
    · dsimp only
      exact coreSends_kept (State.setCore_kept (State.updThread_kept h))

theorem afterLeave_kept {p t bar held} (h : Kept s₀ s) : Kept s₀ (afterLeave s p t bar held) := by
  unfold afterLeave
  exact coreSends_kept (foldl_kept h (fun _ _ hz => sendArrival_kept hz))

theorem withdraw_kept {p t bar} (h : Kept s₀ s) : Kept s₀ (withdraw s p t bar) := by
  unfold withdraw
  split
  · exact h
  · exact afterLeave_kept (State.updThread_kept h)

theorem withdrawParked_kept {p t} (h : Kept s₀ s) : Kept s₀ (withdrawParked s p t) := by
  unfold withdrawParked
  exact foldl_kept h (fun _ _ hz => afterLeave_kept hz)

theorem withdrawAll_kept {p} (h : Kept s₀ s) : Kept s₀ (withdrawAll s p) := by
  unfold withdrawAll
  split
  · exact h
  · exact foldl_kept h (fun _ _ hz => withdraw_kept hz)

theorem wakeBarrier_kept {c bar} (h : Kept s₀ s) : Kept s₀ (wakeBarrier s c bar) := by
  unfold wakeBarrier
  exact record_kept h

theorem barrierCount_kept {c bar units} (h : Kept s₀ s) : Kept s₀ (barrierCount s c bar units) := by
  unfold barrierCount
  split
  · exact h
  · exact ite_kept (State.setCtx_kept h) (wakeBarrier_kept (State.setCtx_kept h))

/-! ### Stream engines held by a thread -/

theorem dropFetched_kept {c uid} (h : Kept s₀ s) : Kept s₀ (dropFetched s c uid) := by
  unfold dropFetched
  exact record_kept (State.updCore_kept h)

/-! ### Opening -/

theorem openRegion_kept {p explicit ts rstart} (h : Kept s₀ s) : Kept s₀ (openRegion s p explicit ts rstart) := by
  unfold openRegion
  split
  · exact h
  · exact State.setThread_kept h

/-! ### Aborts (R215) -/

theorem cancelMigs_kept {uid} (h : Kept s₀ s) : Kept s₀ (cancelMigs s uid) := by
  unfold cancelMigs
  exact record_kept h

theorem abortPlace_kept {p counts} (h : Kept s₀ s) : Kept s₀ (abortPlace s p counts) := by
  unfold abortPlace
  split
  · exact h
  · exact State.setThread_kept (cancelMigs_kept (State.updCore_kept (dropFetched_kept h)))

theorem abortReaders_kept {skip lines} (h : Kept s₀ s) : Kept s₀ (abortReaders s skip lines) := by
  unfold abortReaders
  exact foldl_kept h (fun _ _ hz => abortPlace_kept hz)

theorem repairLine_kept {sa n l} (h : Kept s₀ s) : Kept s₀ (repairLine s sa n l) := by
  unfold repairLine
  exact ite_kept (record_kept h) (record_kept h)

theorem unpoison_kept {sa n} (h : Kept s₀ s) : Kept s₀ (unpoison s sa n) := by
  unfold unpoison
  exact foldl_kept h (fun _ _ hz => repairLine_kept hz)

theorem touch_kept {c sa} (h : Kept s₀ s) : Kept s₀ (touch s c sa) := by
  unfold touch
  exact State.updCtx_kept h

theorem extWriteBy_kept {owner skip sa data} (h : Kept s₀ s) : Kept s₀ (extWriteBy owner s skip sa data) := by
  unfold extWriteBy
  exact ite_kept h (abortReaders_kept (ite_kept (unpoison_kept (State.writes_kept h)) (State.writes_kept h)))

theorem extWrite_kept {skip sa data} (h : Kept s₀ s) : Kept s₀ (extWrite s skip sa data) := by
  unfold extWrite
  exact extWriteBy_kept h

/-! ### Entering commands (R226, R274, R277, R335) -/

theorem enterCmd_kept {c q} (h : Kept s₀ s) : Kept s₀ (enterCmd s c q) := by
  unfold enterCmd
  exact State.updCore_kept h

theorem enterFence_kept {p t mask} (h : Kept s₀ s) : Kept s₀ (enterFence s p t mask) := by
  unfold enterFence
  split
  next e => exact enterCmd_kept (snd_kept e (State.fresh_kept h))

/-! ### The items of a region at their commit (R213, R214, R217) -/

theorem Item.perform_kept {v} (h : Kept s₀ s) : Kept s₀ (Item.perform s v) := by
  unfold Item.perform
  split
  · exact unpoison_kept (State.writes_kept h)
  · exact unpoison_kept (State.writes_kept h)
  · exact h

theorem completeTfence_kept {c} (h : Kept s₀ s) : Kept s₀ (completeTfence s c) := by
  unfold completeTfence
  dsimp only
  split
  · exact dropCached_kept h
  · exact record_kept (dropCached_kept h)

theorem notePredictor_kept {c sa cached} (h : Kept s₀ s) : Kept s₀ (notePredictor s c sa cached) := by
  unfold notePredictor
  split
  · exact h
  · split
    next e => exact State.updCtx_kept (snd_kept e (State.draw_kept h))

theorem Item.note_kept {c v} (h : Kept s₀ s) : Kept s₀ (Item.note c s v) := by
  unfold Item.note
  split
  · exact notePredictor_kept h
  · exact h

theorem Item.send_kept {p t v} (h : Kept s₀ s) : Kept s₀ (Item.send p t s v) := by
  unfold Item.send
  split
  · exact sendPacket_kept (mkPacket_kept h)
  · exact completeTfence_kept h
  · exact h

theorem Item.enter_kept {p t v} (h : Kept s₀ s) : Kept s₀ (Item.enter p t s v) := by
  unfold Item.enter
  split
  · exact enterCmd_kept h
  · exact enterFence_kept h
  · exact State.updCtx_kept h
  · split
    next e => exact record_kept (fst_kept e (mkRequestTo_kept h))
  · exact h

theorem Item.postItem_kept {p t v} (h : Kept s₀ s) : Kept s₀ (Item.postItem p t s v) := by
  unfold Item.postItem
  split
  · exact postProgram_kept h
  · split <;> exact arrive_kept h
  · exact State.updCtx_kept h
  · exact extWrite_kept h
  · exact h

theorem emit_kept {p t items} (h : Kept s₀ s) : Kept s₀ (emit s p t items) := by
  unfold emit
  exact ite_kept (foldl_kept (foldl_kept
      (foldl_kept (abortReaders_kept
      (foldl_kept (foldl_kept (foldl_kept h (fun _ _ hz => Item.perform_kept hz)) (fun _ _ hz => Item.note_kept hz)) (fun _ _ hz
      => touch_kept hz))) (fun _ _ hz => Item.send_kept hz)) (fun _ _ hz => Item.enter_kept hz)) (fun _ _ hz => Item.postItem_kept
      hz)) (dropFetched_kept (foldl_kept (foldl_kept (foldl_kept
      (abortReaders_kept (foldl_kept
      (foldl_kept (foldl_kept h (fun _ _ hz => Item.perform_kept hz)) (fun _ _ hz => Item.note_kept hz)) (fun _ _ hz => touch_kept
      hz))) (fun _ _ hz => Item.send_kept hz)) (fun _ _ hz => Item.enter_kept hz)) (fun _ _ hz => Item.postItem_kept hz)))

/-! ### Committing (R214) -/

theorem pushResult_kept {p t va n slack v} (h : Kept s₀ s) : Kept s₀ (pushResult s p t va n slack v) := by
  unfold pushResult
  split
  · exact ite_kept (emit_kept h) (State.setThread_kept h)
  · exact h

theorem writePend_kept {p q} (h : Kept s₀ s) : Kept s₀ (writePend s p q) := by
  unfold writePend
  split
  · exact h
  · split
    · exact pushResult_kept h
    · exact h
  · exact foldl_kept h (fun _ _ hz => ite_kept hz (State.putReg_kept hz))

theorem drain_kept {p} (h : Kept s₀ s) : Kept s₀ (drain s p) := by
  unfold drain
  split
  · exact h
  · exact State.updThread_kept (foldl_kept h (fun _ _ hz => writePend_kept hz))

theorem commitTo_kept {p explicit ts rstart} (h : Kept s₀ s) : Kept s₀ (commitTo s p explicit ts rstart) := by
  unfold commitTo
  dsimp only
  split
  · exact drain_kept h
  · exact openRegion_kept (State.updCore_kept (State.updCtx_kept (emit_kept (drain_kept h))))

theorem tryCommit_kept {p t explicit ts rstart} (h : Kept s₀ s) : OptKept s₀ (tryCommit s p t explicit ts rstart) := by
  unfold tryCommit
  split
  · exact trivial
  · dsimp only
    split
    · exact trivial
    · split
      · exact commitTo_kept (drain_kept h)
      · exact trivial

/-! ### Pinning and exclusive mode (R62, R216, R217) -/

theorem giveToken_kept {p excl} (h : Kept s₀ s) : Kept s₀ (giveToken s p excl) := by
  unfold giveToken
  split
  · exact h
  · exact State.setThread_kept (State.updCtx_kept h)

theorem exclusiveInPlace_kept {p} (h : Kept s₀ s) : Kept s₀ (exclusiveInPlace s p) := by
  unfold exclusiveInPlace
  split
  · exact h
  · exact ite_kept h (State.updThread_kept (foldl_kept h (fun _ _ hz => emit_kept hz)))

/-! ### Buffering (R213, R217, R219) -/

theorem actNow_kept {p t i} (h : Kept s₀ s) : Kept s₀ (actNow s p t i) := by
  unfold actNow
  exact emit_kept h

theorem noLine_kept {p t} (h : Kept s₀ s) : Kept s₀ (noLine s p t) := by
  unfold noLine
  exact ite_kept h (ite_kept (ite_kept h (getD_kept h (tryCommit_kept h))) (ite_kept (exclusiveInPlace_kept h)
      (abortPlace_kept (State.updThread_kept h))))

theorem buffer_kept {p i} (h : Kept s₀ s) : RoomKept s₀ (buffer s p i) := by
  unfold buffer
  split
  · exact h
  · dsimp only
    split
    · split
      · exact h
      · exact actNow_kept h
    · split
      · exact State.setThread_kept h
      · exact noLine_kept h

/-! ### Stops (R143, R151) -/

theorem parkFault_kept {p t c} (h : Kept s₀ s) : Kept s₀ (parkFault s p t c) := by
  unfold parkFault
  exact State.updCtx_kept h

/-! ### Traps -/

theorem endHandler_kept {p t exit} (h : Kept s₀ s) : Kept s₀ (endHandler s p t exit) := by
  unfold endHandler
  dsimp only
  split
  · exact deliver_kept (State.freeSlot_kept h)
  · exact State.freeSlot_kept h

theorem misuse_kept {p t} (h : Kept s₀ s) : Kept s₀ (misuse s p t) := by
  unfold misuse
  split
  next e => exact endHandler_kept (snd_kept e (State.draw_kept h))

theorem waits_kept {p} (h : Kept s₀ s) : Kept s₀ (waits s p) := by
  unfold waits
  split
  · exact record_kept h
  · exact record_kept (State.setThread_kept h)

theorem raise_kept {p c} (h : Kept s₀ s) : Kept s₀ (raise s p c) := by
  unfold raise
  split
  · exact h
  · split
    · exact waits_kept h
    · dsimp only
      split
      · exact record_kept (drain_kept h)
      · split
        · exact endHandler_kept (record_kept (drain_kept h))
        · exact ite_kept (parkFault_kept (record_kept (drain_kept h))) (State.setThread_kept (record_kept (drain_kept h)))

/-! ### Retirement -/

theorem flush_kept {p} (h : Kept s₀ s) : Kept s₀ (flush s p) := by
  unfold flush
  split
  · exact h
  · exact State.updThread_kept (foldl_kept h (fun _ _ hz => ite_kept (writePend_kept hz) hz))

theorem autoCommit_kept {p} (h : Kept s₀ s) : Kept s₀ (autoCommit s p) := by
  unfold autoCommit
  split
  · exact h
  · exact ite_kept (getD_kept h (tryCommit_kept h)) h

theorem retire_kept {p keepOnce} (h : Kept s₀ s) : Kept s₀ (retire s p keepOnce) := by
  unfold retire
  exact record_kept (autoCommit_kept (flush_kept (State.updThread_kept h)))

theorem retireTo_kept {p pc} (h : Kept s₀ s) : Kept s₀ (retireTo s p pc) := by
  unfold retireTo
  exact record_kept (autoCommit_kept (flush_kept (State.updThread_kept h)))

/-! ### Issue -/

theorem finish_kept {p keepOnce v} (h : Kept s₀ s) (hv : ResKept s₀ v) : OutKept s₀ (finish s p keepOnce v) := by
  unfold finish
  split
  · exact retire_kept hv
  · exact retireTo_kept hv
  · exact waits_kept hv
  · exact raise_kept h
  · exact record_kept hv

theorem pinOpened_kept {p v} (hv : ResKept s₀ v) : ResKept s₀ (pinOpened p v) := by
  unfold pinOpened
  split
  · exact ite_kept hv (giveToken_kept hv)
  · exact ite_kept hv (giveToken_kept hv)
  · exact hv

theorem issuePinned_kept {p t body} (h : Kept s₀ s) (hbody : ∀ a0 a1 a2 z, Kept s₀ z → ResKept s₀ (body a0 a1 a2 z)) : ResKept s₀
    (issuePinned s p t body) := by
  unfold issuePinned
  split
  · exact trivial
  · next e => exact (hbody _ _ _ _ h).stall e
  · split
    · exact pinOpened_kept (hbody _ _ _ _ h)
    · split
      · dsimp only
        split
        · exact hbody _ _ _ _ h
        · exact pinOpened_kept (hbody _ _ _ _ (giveToken_kept h))
      · exact State.updThread_kept h

theorem issueWith_kept {keepOnce word uses pins body} (hbody : ∀ a0 a1 a2 z, Kept s₀ z → ResKept s₀ (body a0 a1 a2 z))
    (h : Kept s₀ s) : OutKept s₀ (issueWith keepOnce word uses pins body s) := by
  unfold issueWith
  dsimp only
  split
  · exact trivial
  · split
    · split
      · exact finish_kept h (misuse_kept h)
      · split
        · exact finish_kept h trivial
        · split
          · exact finish_kept h (issuePinned_kept h hbody)
          · exact finish_kept h (hbody _ _ _ _ h)
    · split
      · exact finish_kept h (misuse_kept h)
      · split
        · exact finish_kept h trivial
        · split
          · exact finish_kept h (issuePinned_kept h hbody)
          · exact finish_kept h (hbody _ _ _ _ h)

theorem issue_kept {word uses pins body} (hbody : ∀ a0 a1 a2 z, Kept s₀ z → ResKept s₀ (body a0 a1 a2 z)) (h : Kept s₀ s) :
    OutKept s₀ (issue word uses pins body s) := by
  unfold issue
  exact issueWith_kept hbody h

/-! ### Pages that are not resident (R204, R205) -/

theorem askPage_kept {c page} (h : Kept s₀ s) : Kept s₀ (askPage s c page) := by
  unfold askPage
  split
  · exact h
  · split
    · exact ite_kept h (State.setCtx_kept h)
    · exact ite_kept h (State.setCtx_kept h)
    · exact h

theorem parkPageOn_kept {p c page} (h : Kept s₀ s) : Kept s₀ (parkPageOn s p c page) := by
  unfold parkPageOn
  split
  · exact h
  · exact record_kept (askPage_kept (State.updThread_kept (ite_kept h (abortPlace_kept h))))

theorem parkPage_kept {p page} (h : Kept s₀ s) : Kept s₀ (parkPage s p page) := by
  unfold parkPage
  split
  · exact h
  · exact parkPageOn_kept h

/-! ### Results -/

theorem pendNow_kept {p dsts la acquire vs} (h : Kept s₀ s) : Kept s₀ (pendNow s p dsts la acquire vs) := by
  unfold pendNow
  split
  next e => exact State.updThread_kept (snd_kept e (State.fresh_kept h))

theorem pendLater_kept {p dsts la acquire id} (h : Kept s₀ s) : Kept s₀ (pendLater s p dsts la acquire id) := by
  unfold pendLater
  exact State.updThread_kept h

theorem arriveValue_kept {p id vs} (h : Kept s₀ s) : Kept s₀ (arriveValue s p id vs) := by
  unfold arriveValue
  exact flush_kept (State.updThread_kept h)

theorem compute_kept {word uses d f} (h : Kept s₀ s) : OutKept s₀ (compute word uses d f s) := by
  unfold compute
  refine issue_kept ?_ h
  intro a a₁ a₂ z hz
  split
  · exact State.writeReg_kept hz
  · exact trivial

theorem joinRead_kept {p sa n} (h : Kept s₀ s) : Kept s₀ (joinRead s p sa n) := by
  unfold joinRead
  dsimp only
  refine State.updThread_kept ?_
  split
  · exact touch_kept h
  · exact h

theorem readNow_kept {p t va l n} (h : Kept s₀ s) : GotKept s₀ (readNow s p t va l n) := by
  unfold readNow
  split
  · split
    · exact trivial
    · split
      · exact h
      · exact joinRead_kept h
  · split
    · exact parkPageOn_kept h
    · split
      · split
        · exact trivial
        · split <;> exact h
      · exact h

theorem readVa_kept {p t va n align} (h : Kept s₀ s) : GotKept s₀ (readVa s p t va n align) := by
  unfold readVa
  split
  · exact readNow_kept h
  · exact trivial
  · exact parkPage_kept h

theorem readPieces_kept {p t n v n'} (h : Kept s₀ s) : GotKept s₀ (readPieces s p t n v n') := by
  induction n generalizing s p t v n' with
  | zero =>
    unfold readPieces
    exact h
  | succ n ih =>
    unfold readPieces
    split
    · exact h
    · dsimp only
      split
      · next e =>
          split
          · next e₁ => exact (ih ((readVa_kept h).ok e)).ok e₁
          · exact ih ((readVa_kept h).ok e)
      · exact readVa_kept h

theorem readRecord_kept {p t va n align} (h : Kept s₀ s) : GotKept s₀ (readRecord s p t va n align) := by
  unfold readRecord
  split
  · exact trivial
  · exact readPieces_kept h

/-! ### Streams as operands (R271 to R273) -/

theorem State.bump_kept {c eng} (h : Kept s₀ s) : Kept s₀ (State.bump s c eng) := by
  unfold State.bump
  exact State.updCore_kept h

theorem fetchElement_kept {p t eng e idx} (h : Kept s₀ s) : Kept s₀ (fetchElement s p t eng e idx) := by
  unfold fetchElement
  dsimp only
  split
  · exact h
  · split
    · exact ite_kept h (sendPacket_kept (mkPacket_kept h))
    · exact h

theorem fetchAhead_kept {p t eng e} (h : Kept s₀ s) : Kept s₀ (fetchAhead s p t eng e) := by
  unfold fetchAhead
  exact foldl_kept h (fun _ _ hz => fetchElement_kept hz)

theorem popOne_kept {p t eng e} (h : Kept s₀ s) (h' : Kept s₀ s') : GotKept s₀ (popOne s s' p t eng e) := by
  unfold popOne
  dsimp only
  split
  · exact trivial
  · exact parkPage_kept h
  · split
    · exact readNow_kept h'
    · split
      · split
        · exact fetchAhead_kept h
        · exact h
      · split
        · exact trivial
        · split <;> exact h'

theorem popAll_kept {p l} (h : Kept s₀ s) (h' : Kept s₀ s') : ValsKept s₀ (popAll s s' p l) := by
  induction l generalizing s s' p with
  | nil =>
    unfold popAll
    exact h'
  | cons a l ih =>
    unfold popAll
    split
    · exact h'
    · dsimp only
      split
      · split
        · next e₂ => exact (ih h h').ok e₂
        · exact ih h h'
      · split
        · exact trivial
        · split
          · next e₂ => exact (popOne_kept h h').stop e₂
          · next e₂ =>
              split
              · next e₃ => exact (ih h (State.bump_kept ((popOne_kept h h').ok e₂))).ok e₃
              · exact ih h (State.bump_kept ((popOne_kept h h').ok e₂))

theorem operands_kept {p t word srcs dst} (h : Kept s₀ s) : ValsKept s₀ (operands s p t word srcs dst) := by
  unfold operands
  dsimp only
  split
  · exact h
  · split
    · exact trivial
    · split
      · exact popAll_kept h h
      · split
        · exact trivial
        · split
          · exact trivial
          · split
            · exact trivial
            · exact parkPage_kept h
            · exact popAll_kept h h

theorem computeF_kept {word srcs d f} (h : Kept s₀ s) : OutKept s₀ (computeF word srcs d f s) := by
  unfold computeF
  refine issue_kept ?_ h
  intro a a₁ a₂ z hz
  split
  · next e => exact (operands_kept hz).stop e
  · next e =>
      split
      · exact State.writeReg_kept ((operands_kept hz).ok e)
      · split
        · next e₂ => exact State.bump_kept ((buffer_kept ((operands_kept hz).ok e)).ok e₂)
        · split
          · next e₃ => exact (buffer_kept hz).again e₃
          · exact hz

/-! ### Shapes of register instructions -/

theorem rrr_kept {word d a b f} (h : Kept s₀ s) : OutKept s₀ (rrr word d a b f s) := by
  unfold rrr
  exact compute_kept h

theorem rrrT_kept {word d a b f} (h : Kept s₀ s) : OutKept s₀ (rrrT word d a b f s) := by
  unfold rrrT
  exact compute_kept h

theorem rrrd_kept {word d a b f} (h : Kept s₀ s) : OutKept s₀ (rrrd word d a b f s) := by
  unfold rrrd
  exact compute_kept h

theorem rr_kept {word d a f} (h : Kept s₀ s) : OutKept s₀ (rr word d a f s) := by
  unfold rr
  exact compute_kept h

theorem fff_kept {word d a b f} (h : Kept s₀ s) : OutKept s₀ (fff word d a b f s) := by
  unfold fff
  exact computeF_kept h

theorem ff_kept {word d a f} (h : Kept s₀ s) : OutKept s₀ (ff word d a f s) := by
  unfold ff
  exact computeF_kept h

theorem placeThread_kept {p t} (h : Kept s₀ s) : Kept s₀ (placeThread s p t) := by
  unfold placeThread
  exact drainStore_kept (State.setThread_kept h)

theorem reserve_kept {p t dst id access ca word} (h : Kept s₀ s) : Kept s₀ (reserve s p t dst id access ca word) := by
  unfold reserve
  exact record_kept (State.updCore_kept h)

theorem writePieces_kept {uid l l'} (h : Kept s₀ s) : Kept s₀ (writePieces s uid l l') := by
  induction l generalizing s uid l' with
  | nil =>
    unfold writePieces
    exact h
  | cons a l ih =>
    unfold writePieces
    exact ih (extWrite_kept h)

theorem spillFrame_kept {p t n f} (h : Kept s₀ s) : SpillKept s₀ (spillFrame s p t n f) := by
  unfold spillFrame
  split
  · exact trivial
  · split
    · exact trivial
    · exact State.updThread_kept (writePieces_kept h)

theorem spillAll_kept {p t l} (h : Kept s₀ s) : SpillKept s₀ (spillAll s p t l) := by
  induction l generalizing s p t with
  | nil =>
    unfold spillAll
    exact h
  | cons a l ih =>
    unfold spillAll
    split
    · next e => exact ih ((spillFrame_kept h).ok e)
    · exact spillFrame_kept h

theorem flushFrames_kept {p} (h : Kept s₀ s) : SpillKept s₀ (flushFrames s p) := by
  unfold flushFrames
  split
  · exact h
  · split
    · exact trivial
    · exact spillAll_kept h

theorem fillFrame_kept {p t} (h : Kept s₀ s) : OptKept s₀ (fillFrame s p t) := by
  unfold fillFrame
  exact map_kept (fun _ _ => State.updThread_kept h)

theorem callTo_kept {p t pc} (h : Kept s₀ s) : ResKept s₀ (callTo s p t pc) := by
  unfold callTo
  dsimp only
  split
  · exact trivial
  · split
    · exact trivial
    · split
      · split
        · exact State.updThread_kept h
        · split
          · next e₁ => exact (spillFrame_kept h).ok e₁
          · exact h
          · exact trivial
      · exact State.updThread_kept h

theorem returnFrom_kept {p t} (h : Kept s₀ s) : ResKept s₀ (returnFrom s p t) := by
  unfold returnFrom
  split
  · exact trivial
  · split
    · split
      · exact h
      · split
        · next e₁ => exact (fillFrame_kept h).some e₁
        · exact trivial
    · dsimp only
      split
      · split
        · next e₁ => exact (tryCommit_kept (State.updThread_kept h)).some e₁
        · exact h
      · exact State.updThread_kept h

/-! ### Forms of an access -/

theorem handlerLook_kept {p t va size align need} (h : Kept s₀ s) : ErrKept s₀ (handlerLook s p t va size align need) := by
  unfold handlerLook
  split
  · split
    · split
      · exact trivial
      · exact misuse_kept h
    · exact misuse_kept h
  · exact trivial
  · exact misuse_kept h

theorem handlerWrite_kept {p t sa data} (h : Kept s₀ s) : ResKept s₀ (handlerWrite s p t sa data) := by
  unfold handlerWrite
  split
  · exact keepPacket_kept (mkPacket_kept h)
  · exact extWrite_kept h

theorem handlerAtomic_kept {p t va sa op w val cmp d la} (h : Kept s₀ s) : ResKept s₀
    (handlerAtomic s p t va sa op w val cmp d la) := by
  unfold handlerAtomic
  dsimp only
  split
  · exact pendLater_kept (keepPacket_kept (mkPacket_kept h))
  · exact pendNow_kept (extWrite_kept h)

theorem handlerLoad_kept {p t sa size conv dsts la acq} (h : Kept s₀ s) : ResKept s₀ (handlerLoad s p t sa size conv dsts la acq)
    := by
  unfold handlerLoad
  split
  · exact h
  · exact pendNow_kept h

/-! ### Migrating accesses -/

theorem moveFor_kept {p t word dst va ca body dsts la acq} (h : Kept s₀ s) : Kept s₀
    (moveFor s p t word dst va ca body dsts la acq) := by
  unfold moveFor
  split
  next e => exact pendLater_kept (reserve_kept (snd_kept e (State.fresh_kept h)))

theorem askHome_kept {p t va ca body dsts la acq} (h : Kept s₀ s) : Kept s₀ (askHome s p t va ca body dsts la acq) := by
  unfold askHome
  exact pendLater_kept (sendPacket_kept (mkPacket_kept h))

/-! ### Loads -/

theorem acquired_kept {p t acq} (h : Kept s₀ s) : Kept s₀ (acquired s p t acq) := by
  unfold acquired
  exact ite_kept (dropFetched_kept h) h

theorem loadFrom_kept {p t word va size conv dsts la mode acq} (h : Kept s₀ s) : ResKept s₀
    (loadFrom s p t word va size conv dsts la mode acq) := by
  unfold loadFrom
  split
  · exact h
  · split
    · split
      · next e₁ => exact (handlerLook_kept h).error e₁
      · split
        · exact trivial
        · exact handlerLoad_kept h
    · split
      · exact trivial
      · exact parkPage_kept h
      · split
        · exact trivial
        · split
          · exact trivial
          · split
            · exact acquired_kept (moveFor_kept h)
            · split
              · split
                · next e₃ => exact (readNow_kept h).stop e₃
                · next e₃ => exact acquired_kept (pendNow_kept ((readNow_kept h).ok e₃))
              · split
                · exact trivial
                · exact acquired_kept (askHome_kept h)

/-! ### Stores -/

theorem buffered_kept {p i} (h : Kept s₀ s) : ResKept s₀ (buffered s p i) := by
  unfold buffered
  split
  · next e => exact (buffer_kept h).ok e
  · next e => exact (buffer_kept h).again e

theorem storeTo_kept {p t va data rel} (h : Kept s₀ s) : ResKept s₀ (storeTo s p t va data rel) := by
  unfold storeTo
  split
  · exact h
  · split
    · split
      · next e₁ => exact (handlerLook_kept h).error e₁
      · exact handlerWrite_kept h
    · split
      · exact trivial
      · exact parkPage_kept h
      · split
        · exact trivial
        · exact buffered_kept h

/-! ### Atomics -/

theorem pushLast_kept {p uid d} (h : Kept s₀ s) : Kept s₀ (pushLast s p uid d) := by
  unfold pushLast
  split
  · exact h
  · exact State.bump_kept (State.updThread_kept h)

theorem localAtomic_kept {p t va l sa op w val cmp d la} (h : Kept s₀ s) : ResKept s₀
    (localAtomic s p t va l sa op w val cmp d la) := by
  unfold localAtomic
  dsimp only
  split
  · split
    · exact h
    · split
      · exact h
      · next e₁ => exact pushLast_kept (pendNow_kept ((buffer_kept (notePredictor_kept (joinRead_kept h))).ok e₁))
  · split
    · exact h
    · next e => exact pushLast_kept ((buffer_kept (notePredictor_kept (askHome_kept h))).ok e)

theorem atomicAt_kept {p t word va l dst op w val cmp d la} (h : Kept s₀ s) : ResKept s₀
    (atomicAt s p t word va l dst op w val cmp d la) := by
  unfold atomicAt
  split
  · exact pushLast_kept (moveFor_kept h)
  · split
    · split
      · split
        · exact trivial
        · exact localAtomic_kept h
      · split
        · exact trivial
        · exact localAtomic_kept h
    · exact pushLast_kept (askHome_kept h)

theorem atomic_kept {p t word va op w b d cmp la} (h : Kept s₀ s) : ResKept s₀ (atomic s p t word va op w b d cmp la) := by
  unfold atomic
  dsimp only
  split
  · exact h
  · split
    · split
      · next e₁ => exact (handlerLook_kept h).error e₁
      · split
        · split
          · exact trivial
          · exact handlerAtomic_kept h
        · split
          · exact trivial
          · exact handlerAtomic_kept h
    · split
      · exact trivial
      · exact parkPage_kept h
      · split
        · exact trivial
        · split
          · exact trivial
          · split
            · split
              · exact trivial
              · split
                · split
                  · exact noLine_kept h
                  · split
                    · next e₃ => exact (operands_kept h).stop e₃
                    · next e₃ =>
                        split
                        · exact h
                        · split
                          · split
                            · exact h
                            · next e₆ =>
                                split
                                · exact h
                                · exact atomicAt_kept ((tryCommit_kept ((operands_kept h).ok e₃)).some e₆)
                          · split
                            · split
                              · split
                                · next e₇ => exact (buffer_kept h).again e₇
                                · exact h
                              · exact h
                            · exact atomicAt_kept ((operands_kept h).ok e₃)
                · split
                  · exact noLine_kept h
                  · split
                    · next e₂ => exact (operands_kept h).stop e₂
                    · next e₂ =>
                        split
                        · exact h
                        · split
                          · split
                            · exact h
                            · next e₅ =>
                                split
                                · exact h
                                · exact atomicAt_kept ((tryCommit_kept ((operands_kept h).ok e₂)).some e₅)
                          · split
                            · split
                              · split
                                · next e₆ => exact (buffer_kept h).again e₆
                                · exact h
                              · exact h
                            · exact atomicAt_kept ((operands_kept h).ok e₂)
            · split
              · exact trivial
              · split
                · split
                  · exact noLine_kept h
                  · split
                    · next e₂ => exact (operands_kept h).stop e₂
                    · next e₂ =>
                        split
                        · exact h
                        · split
                          · split
                            · exact h
                            · next e₅ =>
                                split
                                · exact h
                                · exact atomicAt_kept ((tryCommit_kept ((operands_kept h).ok e₂)).some e₅)
                          · split
                            · split
                              · split
                                · next e₆ => exact (buffer_kept h).again e₆
                                · exact h
                              · exact h
                            · exact atomicAt_kept ((operands_kept h).ok e₂)
                · split
                  · exact noLine_kept h
                  · split
                    · next e₁ => exact (operands_kept h).stop e₁
                    · next e₁ =>
                        split
                        · exact h
                        · split
                          · split
                            · exact h
                            · next e₄ =>
                                split
                                · exact h
                                · exact atomicAt_kept ((tryCommit_kept ((operands_kept h).ok e₁)).some e₄)
                          · split
                            · split
                              · split
                                · next e₅ => exact (buffer_kept h).again e₅
                                · exact h
                              · exact h
                            · exact atomicAt_kept ((operands_kept h).ok e₁)

theorem posted_kept {p t word va op w b cmp} (h : Kept s₀ s) : ResKept s₀ (posted s p t word va op w b cmp) := by
  unfold posted
  dsimp only
  split
  · exact h
  · split
    · exact trivial
    · exact parkPage_kept h
    · split
      · exact trivial
      · split
        · next e₁ => exact (operands_kept h).stop e₁
        · next e₁ =>
            split
            · next e₂ => exact (buffer_kept ((operands_kept h).ok e₁)).ok e₂
            · split
              · next e₃ => exact (buffer_kept h).again e₃
              · exact h

/-! ### The instructions: basic accesses (R99) -/

theorem loadL_kept {word d a la off size conv} (h : Kept s₀ s) : OutKept s₀ (loadL word d a la off size conv s) := by
  unfold loadL
  exact issue_kept (fun _ _ _ _ hz => loadFrom_kept hz) h

theorem loadX_kept {word d a b la size conv mode acq} (h : Kept s₀ s) : OutKept s₀ (loadX word d a b la size conv mode acq s) := by
  unfold loadX
  exact issue_kept (fun _ _ _ _ hz => loadFrom_kept hz) h

theorem storeL_kept {word d a off size} (h : Kept s₀ s) : OutKept s₀ (storeL word d a off size s) := by
  unfold storeL
  exact issue_kept (fun _ _ _ _ hz => storeTo_kept hz) h

theorem storeX_kept {word d a b size rel} (h : Kept s₀ s) : OutKept s₀ (storeX word d a b size rel s) := by
  unfold storeX
  exact issue_kept (fun _ _ _ _ hz => storeTo_kept hz) h

/-! ### Atomics (R244 to R246) -/

theorem atomicI_kept {word op w d a b la} (h : Kept s₀ s) : OutKept s₀ (atomicI word op w d a b la s) := by
  unfold atomicI
  exact issue_kept (fun _ _ _ _ hz => atomic_kept hz) h

theorem atomicF_kept {word op w d a b la} (h : Kept s₀ s) : OutKept s₀ (atomicF word op w d a b la s) := by
  unfold atomicF
  exact issue_kept (fun _ _ _ _ hz => atomic_kept hz) h

theorem postedI_kept {word op w d a b} (h : Kept s₀ s) : OutKept s₀ (postedI word op w d a b s) := by
  unfold postedI
  exact issue_kept (fun _ _ _ _ hz => posted_kept hz) h

theorem postedF_kept {word op w a b} (h : Kept s₀ s) : OutKept s₀ (postedF word op w a b s) := by
  unfold postedF
  exact issue_kept (fun _ _ _ _ hz => posted_kept hz) h

/-! ### Regions (R247, R248) -/

theorem commitHere_kept {p t explicit ts} (h : Kept s₀ s) : ResKept s₀ (commitHere s p t explicit ts) := by
  unfold commitHere
  split
  · next e => exact (tryCommit_kept h).some e
  · exact h

/-! ### Moves by instruction (R251, R252) -/

theorem moveTo_kept {p t dst} (h : Kept s₀ s) : Kept s₀ (moveTo s p t dst) := by
  unfold moveTo
  split
  next e => exact reserve_kept (snd_kept e (State.fresh_kept h))

/-! ### Barriers (R255 to R259) -/

theorem waitPhase_kept {p t n phase} (h : Kept s₀ s) : ResKept s₀ (waitPhase s p t n phase) := by
  unfold waitPhase
  split
  · exact h
  · exact State.updThread_kept h

/-! ### Waits that end at the slot's own position -/

theorem endWait_kept {p commits} (h : Kept s₀ s) : Kept s₀ (endWait s p commits) := by
  unfold endWait
  exact retire_kept (State.updThread_kept h)

/-! ### Items and teams (R18, R19, R20) -/

theorem State.setKernel_kept {c k} (h : Kept s₀ s) : Kept s₀ (State.setKernel s c k) := by
  unfold State.setKernel
  exact State.updCtx_kept h

/-! ### The bytes of entries (R359, R362) -/

theorem deviceWrite_kept {c ap locks n v l} (h : Kept s₀ s) : PutKept s₀ (deviceWrite s c ap locks n v l) := by
  induction n generalizing s c ap locks v l with
  | zero =>
    unfold deviceWrite
    exact h
  | succ n ih =>
    unfold deviceWrite
    split
    · exact h
    · dsimp only
      split
      · split
        · split
          · exact trivial
          · exact ih (extWrite_kept (touch_kept h))
        · exact ih h
      · exact trivial
      · exact ih h

theorem Put.orWait_kept {c v} (h : Kept s₀ s) (hv : PutKept s₀ v) : EitherKept s₀ (Put.orWait s c v) := by
  unfold Put.orWait
  split
  · exact hv
  · exact h
  · exact askPage_kept h

theorem putKernel_kept {c old k} (h : Kept s₀ s) : EitherKept s₀ (putKernel s c old k) := by
  unfold putKernel
  dsimp only
  split
  · exact State.setKernel_kept h
  · exact Put.orWait_kept h (deviceWrite_kept (State.setKernel_kept h))

/-! ### Closing (R352, R379) -/

theorem externalDec_kept {c ca} (h : Kept s₀ s) : Kept s₀ (externalDec s c ca) := by
  unfold externalDec
  split
  · split
    · split
      next e₂ => exact record_kept (snd_kept e₂ (State.fresh_kept h))
    · exact extWrite_kept h
  · exact h

theorem closeKernel_kept {c old k} (h : Kept s₀ s) : EitherKept s₀ (closeKernel s c old k) := by
  unfold closeKernel
  exact eitherMap_kept (putKernel_kept h) (fun _ hz => externalDec_kept hz)

theorem taskEnd_kept {c num key held} (h : Kept s₀ s) : EitherKept s₀ (taskEnd s c num key held) := by
  unfold taskEnd
  split
  · exact h
  · dsimp only
    split
    · split
      · exact putKernel_kept h
      · split
        · exact closeKernel_kept h
        · split
          · exact putKernel_kept h
          · exact closeKernel_kept h
    · split
      · split
        · exact putKernel_kept h
        · split
          · exact closeKernel_kept h
          · split
            · exact putKernel_kept h
            · exact closeKernel_kept h
      · split
        · split
          · exact putKernel_kept h
          · split
            · exact closeKernel_kept h
            · split
              · exact putKernel_kept h
              · exact closeKernel_kept h
        · split
          · split
            · exact putKernel_kept h
            · split
              · exact closeKernel_kept h
              · split
                · exact putKernel_kept h
                · exact closeKernel_kept h
          · split
            · exact putKernel_kept h
            · split
              · exact closeKernel_kept h
              · split
                · exact putKernel_kept h
                · exact closeKernel_kept h

/-! ### The checks of LAUNCH (R348, R372) -/

theorem openSpill_kept {c ap locks k} (h : Kept s₀ s) : PutKept s₀ (openSpill s c ap locks k) := by
  unfold openSpill
  split
  · exact h
  · exact deviceWrite_kept h

theorem launchAt_kept {c x k num qtr request joinSa} (h : Kept s₀ s) : Kept s₀ (launchAt s c x k num qtr request joinSa) := by
  unfold launchAt
  exact extWrite_kept (State.setCtx_kept h)

theorem launched_ite {b : Prop} [Decidable b] {x y : Launched} (hx : LaunchedKept s₀ x) (hy : LaunchedKept s₀ y) :
    LaunchedKept s₀ (if b then x else y) := by
  split
  · exact hx
  · exact hy

theorem launchWith_kept {c ap locks uid slk qtr hd} (h : Kept s₀ s) :
    LaunchedKept s₀ (launchWith s c ap locks uid slk qtr hd) := by
  unfold launchWith
  split
  · trivial
  · extract_lets k k₁ codeOk
    iterate 4 refine launched_ite trivial ?_
    generalize look s c ap locks k₁.join 8 8 needW = place
    generalize tableRead s c ap locks uid (leAt hd 0x78 2) (BitVec.ofNat 64 (leAt hd 0x60 8)) = words
    generalize spillRead s c ap locks uid k₁.spill = extension
    rcases place with l | _ | _ <;> rcases words with (_ | _ | _) | table <;> rcases extension with (_ | _ | _) | cap <;> try
        trivial
    iterate 4 refine launched_ite trivial ?_
    split
    · trivial
    · split
      · trivial
      · extract_lets sa k₂
        split
        · trivial
        · split
          · next e => exact (openSpill_kept (launchAt_kept h)).ok e
          · trivial
          · trivial
theorem createThread_kept {c p pc role slk wid wsp regs fregs bar} (h : Kept s₀ s) : Kept s₀
    (createThread s c p pc role slk wid wsp regs fregs bar) := by
  unfold createThread
  split
  next e => exact placeThread_kept (snd_kept e (State.fresh_kept h))

/-! ### Teams and items (R20, R23, R24, R28) -/

theorem placeTeam_kept {c x k} (h : Kept s₀ s) : Kept s₀ (placeTeam s c x k) := by
  unfold placeTeam
  dsimp only
  split
  · exact h
  · split <;> exact State.setKernel_kept h

theorem startItem_kept {c k p team} (h : Kept s₀ s) : Kept s₀ (startItem s c k p team) := by
  unfold startItem
  split
  exact createThread_kept (State.setKernel_kept h)

theorem distribute_kept {c k dist} (h : Kept s₀ s) : Kept s₀ (distribute s c k dist) := by
  unfold distribute
  split
  · exact h
  · split
    · split
      · exact startItem_kept h
      · exact h
    · split
      · split
        · exact startItem_kept h
        · exact h
      · exact h

/-! ### WNEXT (R373) -/

theorem finishItem_kept {p t} (h : Kept s₀ s) : Kept s₀ (finishItem s p t) := by
  unfold finishItem
  split
  · exact State.setThread_kept h
  · exact h

theorem moveBarrier_kept {p old new} (h : Kept s₀ s) : Kept s₀ (moveBarrier s p old new) := by
  unfold moveBarrier
  split
  · exact h
  · dsimp only
    split
    · refine State.updThread_kept ?_
      split
      · exact withdraw_kept h
      · exact h
    · split
      · exact withdraw_kept h
      · exact h

theorem claimItem_kept {p num team wid} (h : Kept s₀ s) : Kept s₀ (claimItem s p num team wid).1 := by
  unfold claimItem
  dsimp only
  split
  · exact h
  · split
    · exact State.updThread_kept h
    · split
      · exact State.updThread_kept h
      · split
        · exact State.updThread_kept h
        · exact moveBarrier_kept (State.updThread_kept (State.setKernel_kept h))

theorem checkpointed_kept {p d v} (h : Kept s₀ s) : Kept s₀ (checkpointed s p d v) := by
  unfold checkpointed
  exact ite_kept h (State.updThread_kept h)

/-! ### SPAWN (R358, R374) -/

theorem askUnit_kept {p t c qtr body d la} (h : Kept s₀ s) : Kept s₀ (askUnit s p t c qtr body d la) := by
  unfold askUnit
  dsimp only
  refine pendLater_kept ?_
  refine record_kept ?_
  refine mkRequestTo_kept ?_
  split
  · exact h
  · exact nextPlane_kept h

theorem answerUnit_kept {k qtr vs} (h : Kept s₀ s) : Kept s₀ (answerUnit s k qtr vs) := by
  unfold answerUnit
  dsimp only
  refine setPacket_kept ?_
  refine atQueue_kept ?_
  split
  · exact h
  · exact nextPlane_kept h

theorem startChild_kept {c core slot qtr entry args wid slk} (h : Kept s₀ s) : Kept s₀
    (startChild s c core slot qtr entry args wid slk) := by
  unfold startChild
  exact State.setDev_kept (createThread_kept h) rfl

/-! ### Updates (R350, R353, R376, R379) -/

theorem heapStatus_kept {n} (h : Kept s₀ s) : HeapKept s₀ (heapStatus s n) := by
  unfold heapStatus
  exact h

theorem mergeStep_kept {c x k a b} (h : Kept s₀ s) : HeapKept s₀ (mergeStep s c x k a b) := by
  unfold mergeStep
  dsimp only
  split
  · exact heapStatus_kept h
  · split
    · exact heapStatus_kept h
    · split
      · exact heapMap_kept (putKernel_kept h)
      · split
        · exact heapMap_kept (putKernel_kept h)
        · exact heapStatus_kept h

theorem addStep_kept {c k a b} (h : Kept s₀ s) : HeapKept s₀ (addStep s c k a b) := by
  unfold addStep
  dsimp only
  split
  · exact heapStatus_kept h
  · split
    · exact heapStatus_kept h
    · split
      · exact heapMap_kept (putKernel_kept h)
      · exact heapStatus_kept h

theorem closeStep_kept {c k} (h : Kept s₀ s) : HeapKept s₀ (closeStep s c k) := by
  unfold closeStep
  split
  · exact heapStatus_kept h
  · split
    · exact heapStatus_kept h
    · dsimp only
      split
      · exact heapMap_kept (closeKernel_kept h)
      · exact heapMap_kept (putKernel_kept h)

theorem drainStep_kept {c k ap locks a b} (h : Kept s₀ s) : HeapKept s₀ (drainStep s c k ap locks a b) := by
  unfold drainStep
  split
  · exact h
  · dsimp only
    split
    · exact h
    · split
      · next e => exact (Put.orWait_kept h (deviceWrite_kept h)).error e
      · next z e =>
        have hz : Kept s₀ z := (Put.orWait_kept h (deviceWrite_kept h)).ok e
        split
        · exact h
        · next e₁ => exact (putKernel_kept hz).ok e₁

theorem heapStep_kept {c num fn ap locks a b} (h : Kept s₀ s) : HeapKept s₀ (heapStep s c num fn ap locks a b) := by
  unfold heapStep
  split
  · exact heapStatus_kept h
  · split
    · exact heapStatus_kept h
    · split
      · exact heapStatus_kept h
      · split
        · exact mergeStep_kept h
        · exact addStep_kept h
        · exact h
        · exact closeStep_kept h
        · exact h
        · exact h
        · exact drainStep_kept h

theorem heapAsk_kept {p t ck fn a b d la} (h : Kept s₀ s) (h' : Kept s₀ s') :
    ResKept s₀ (heapAsk p t s s' ck fn a b d la) := by
  unfold heapAsk
  split
  · exact askUnit_kept h'
  · split
    · next e => exact pendNow_kept ((heapStep_kept h').ok e)
    · exact h

theorem heapForm_kept {p t fn a b d la} (h : Kept s₀ s) : ResKept s₀ (heapForm p t s fn a b d la) := by
  unfold heapForm
  dsimp only
  split
  · exact h
  · next e => exact heapAsk_kept h ((tryCommit_kept h).some e)

theorem heapFormF_kept {p t word fn a b d la} (h : Kept s₀ s) : ResKept s₀ (heapFormF p t s word fn a b d la) := by
  unfold heapFormF
  split
  · next e => exact (operands_kept h).stop e
  · next e =>
      dsimp only
      split
      · exact h
      · split
        · exact h
        · next e₂ => exact heapAsk_kept h ((tryCommit_kept ((operands_kept h).ok e)).some e₂)

/-! ### The forms that read (R353, R377, R378) -/

theorem heapRead_kept {p t fn a item d la} (h : Kept s₀ s) : ResKept s₀ (heapRead p t s fn a item d la) := by
  unfold heapRead
  exact heapAsk_kept h h

/-! ### Dispatch (R351, R361, R362, R380) -/

theorem dispatchTo_kept {c x k core slot} (h : Kept s₀ s) : Kept s₀ (dispatchTo s c x k core slot) := by
  unfold dispatchTo
  dsimp only
  split
  · exact h
  · split
    · exact h
    · split
      · next e₂ => exact (putKernel_kept h).error e₂
      · next e₂ => exact createThread_kept ((putKernel_kept h).ok e₂)

/-! ### JSET, JDEC -/

theorem counterLook_kept {p t va need} (h : Kept s₀ s) : ErrKept s₀ (counterLook s p t va need) := by
  unfold counterLook
  split
  · exact trivial
  · exact parkPage_kept h
  · split <;> exact trivial

/-! ### JWAIT and donation (R28, R256) -/

theorem donate_kept {p va} (h : Kept s₀ s) : DonationKept s₀ (donate s p va) := by
  unfold donate
  split
  · exact h
  · split
    · exact trivial
    · split
      · exact trivial
      · split
        · exact trivial
        · exact trivial
        · next e₂ =>
            split
            · exact (flushFrames_kept h).ok e₂
            · exact record_kept (State.freeSlot_kept (writePieces_kept ((flushFrames_kept h).ok e₂)))

theorem joinWait_kept {p t va ca} (h : Kept s₀ s) (h' : Kept s₀ s') : ResKept s₀ (joinWait s p t va ca s') := by
  unfold joinWait
  extract_lets at_ zero
  split
  · trivial
  · split
    · exact h
    · split
      · exact State.updThread_kept h
      · split
        · next e => exact (donate_kept h).ok e
        · exact h'
        · trivial
theorem leaveQueues_kept {c t} (h : Kept s₀ s) : Kept s₀ (leaveQueues s c t) := by
  unfold leaveQueues
  exact foldl_kept (foldl_kept (State.updCtx_kept (foldl_kept h (fun _ _ hz => countDrop_kept hz))) (fun _ _ hz => storeItem_kept
      hz)) (fun _ _ hz => storeItem_kept hz)

/-! ### The end of a thread (R108, R177, R381) -/

theorem retireThread_kept {p} (h : Kept s₀ s) : Kept s₀ (retireThread s p) := by
  unfold retireThread
  split
  · exact h
  · exact leaveQueues_kept (State.freeSlot_kept (State.updCtx_kept (State.updCore_kept (withdrawAll_kept (cancelMigs_kept h)))))

theorem endTask_kept {p t} (h : Kept s₀ s) : EitherKept s₀ (endTask s p t) := by
  unfold endTask
  split
  · exact taskEnd_kept h
  · exact h

theorem endAsks_kept {p t} (h : Kept s₀ s) : Kept s₀ (endAsks s p t) := by
  unfold endAsks
  split
  · exact h
  · next e => exact (endTask_kept h).error e

theorem State.reckon_kept {c} (h : Kept s₀ s) : Kept s₀ (State.reckon s c) := by
  unfold State.reckon
  exact State.updCtx_kept h

/-! ### Queues (R13, R230 to R235) -/

theorem moveOn_kept {k} (h : Kept s₀ s) : Kept s₀ (moveOn s k) := by
  unfold moveOn
  dsimp only
  exact setPacket_kept (State.fresh_kept h)

theorem moveIf_kept {k} (h : Kept s₀ s) : Kept s₀ (moveIf s k) := by
  unfold moveIf
  exact ite_kept (moveOn_kept h) h

/-! ### HQ (R191) -/

theorem hold_kept {k sa} (h : Kept s₀ s) : Kept s₀ (hold s k sa) := by
  unfold hold
  exact ite_kept (State.updCore_kept (setPacket_kept h)) (setPacket_kept h)

theorem serve_kept {q} (h : Kept s₀ s) : Kept s₀ (serve s q) := by
  unfold serve
  split
  · exact h
  · exact h
  · split
    · exact ite_kept (moveIf_kept h) h
    · exact h
  · dsimp only
    split
    · exact h
    · split
      · exact h
      · split
        · exact State.updCore_kept (dropPacket_kept h)
        · exact State.updCore_kept (moveOn_kept h)
  · split
    · exact moveIf_kept h
    · exact h

/-! ### Performing stream packets (R182, R201, R222) -/

theorem reply_kept {k res} (h : Kept s₀ s) : Kept s₀ (reply s k res) := by
  unfold reply
  dsimp only
  refine setPacket_kept ?_
  refine atQueue_kept ?_
  split
  · exact h
  · exact nextPlane_kept h

theorem performed_kept {k sa res} (h : Kept s₀ s) : Kept s₀ (performed s k sa res) := by
  unfold performed
  dsimp only
  split
  · refine reply_kept ?_
    split
    · exact extWriteBy_kept (elim_kept h (fun _ => touch_kept h))
    · exact h
  · refine reply_kept ?_
    refine record_kept ?_
    split
    · exact extWriteBy_kept (elim_kept h (fun _ => touch_kept h))
    · exact h

theorem askMember_kept {k} (h : Kept s₀ s) : Kept s₀ (askMember s k) := by
  unfold askMember
  split
  · exact h
  · exact askPage_kept h

theorem countWrite_kept {k} (h : Kept s₀ s) : Kept s₀ (countWrite s k) := by
  unfold countWrite
  exact record_kept h

theorem hostPerform_kept {k data} (h : Kept s₀ s) : Kept s₀ (hostPerform s k data) := by
  unfold hostPerform
  exact extWriteBy_kept (dropPacket_kept h)

/-! ### Loads and atomics at their homes (R212, R213, R245, R272) -/

theorem settlePacket_kept {k} (h : Kept s₀ s) : Kept s₀ (settlePacket s k) := by
  unfold settlePacket
  exact record_kept h

theorem parkFar_kept {k} (h : Kept s₀ s) : Kept s₀ (parkFar s k) := by
  unfold parkFar
  dsimp only
  split
  · exact ite_kept (askMember_kept h) (ite_kept (State.updThread_kept (parkPageOn_kept (settlePacket_kept (askMember_kept h))))
        (parkPageOn_kept (settlePacket_kept (askMember_kept h))))
  · exact askMember_kept h

theorem joinHome_kept {k sa n} (h : Kept s₀ s) : Kept s₀ (joinHome s k sa n) := by
  unfold joinHome
  split
  · exact ite_kept (State.updThread_kept h) h
  · exact h

theorem answerRead_kept {k sa n res} (h : Kept s₀ s) : Kept s₀ (answerRead s k sa n res) := by
  unfold answerRead
  exact reply_kept (ite_kept (record_kept (elim_kept h (fun _ => touch_kept h))) (elim_kept h (fun _ => touch_kept h)))

/-! ### Acknowledgements and results (R57, R182, R183, R224, R232) -/

theorem noteLate_kept {k} (h : Kept s₀ s) : Kept s₀ (noteLate s k) := by
  unfold noteLate
  exact ite_kept h (State.updCtx_kept h)

theorem arriveElement_kept {p t eng idx size res} (h : Kept s₀ s) : Kept s₀ (arriveElement s p t eng idx size res) := by
  unfold arriveElement
  exact State.updCore_kept h

theorem arriveBytes_kept {k} (h : Kept s₀ s) : Kept s₀ (arriveBytes s k) := by
  unfold arriveBytes
  exact record_kept (settlePacket_kept h)

theorem arriveAt_kept {p t k} (h : Kept s₀ s) : Kept s₀ (arriveAt s p t k) := by
  unfold arriveAt
  dsimp only
  split
  · exact arriveElement_kept (ite_kept (lateReply_kept (settlePacket_kept h)) (settlePacket_kept h))
  · exact arriveValue_kept (ite_kept (lateReply_kept (settlePacket_kept h)) (settlePacket_kept h))

/-! ### Barriers (R257, R279, R332) -/

theorem zeroCounters_kept {c x} (h : Kept s₀ s) : Kept s₀ (zeroCounters s c x) := by
  unfold zeroCounters
  exact foldl_kept h (fun _ _ hz => State.updCore_kept hz)

theorem writeStat_kept {c x bar record} (h : Kept s₀ s) : PutKept s₀ (writeStat s c x bar record) := by
  unfold writeStat
  split
  · exact deviceWrite_kept h
  · exact trivial
  · exact h

theorem setBarrier_kept {c bar b} (h : Kept s₀ s) : Kept s₀ (setBarrier s c bar b) := by
  unfold setBarrier
  exact State.updCtx_kept h

/-! ### Restart points (R141) -/

theorem behindWait_kept {p} (h : Kept s₀ s) : Kept s₀ (behindWait s p) := by
  unfold behindWait
  split
  · exact h
  · split
    · exact endWait_kept h
    · exact endWait_kept h
    · exact h

theorem toRestart_kept {p} (h : Kept s₀ s) : OptKept s₀ (toRestart s p) := by
  have hb : Kept s₀ (behindWait s p) := behindWait_kept h
  unfold toRestart
  extract_lets b
  split
  · exact hb
  · split
    · trivial
    · extract_lets z
      have hz : Kept s₀ z := by
        unfold z
        split
        · exact openRegion_kept (State.updThread_kept hb)
        · split
          · exact abortPlace_kept hb
          · exact abortPlace_kept hb
          · exact State.updThread_kept hb
      split
      · next e => exact (flushFrames_kept hz).ok e
      · exact hz
      · trivial

/-! ### Migration (R195 to R197) -/

theorem freeArrival_kept {dst id} (h : Kept s₀ s) : Kept s₀ (freeArrival s dst id) := by
  unfold freeArrival
  exact State.updCore_kept h

theorem accessHere_kept {p t m stays} (h : Kept s₀ s) : Kept s₀ (accessHere s p t m stays) := by
  unfold accessHere
  dsimp only
  split
  · exact freeArrival_kept (record_kept h)
  · exact sendPacket_kept (mkPacket_kept (freeArrival_kept (record_kept h)))

theorem stayHere_kept {p t m} (h : Kept s₀ s) : Kept s₀ (stayHere s p t m) := by
  unfold stayHere
  split
  · dsimp only
    split
    · exact h
    · split
      · exact h
      · next e₁ => exact elim_kept h (fun _ =>
          accessHere_kept (State.updThread_kept ((tryCommit_kept (State.setThread_kept h)).some e₁)))
  · exact accessHere_kept h

theorem sendThread_kept {p c uid mid dst parts slack} (h : Kept s₀ s) : Kept s₀ (sendThread s p c uid mid dst parts slack) := by
  unfold sendThread
  exact foldl_kept h (fun _ _ hz => sendTo_kept hz)

theorem leaveSlot_kept {p m q} (h : Kept s₀ s) : Kept s₀ (leaveSlot s p m q) := by
  unfold leaveSlot
  dsimp only
  split
  · exact withdrawAll_kept h
  · exact sendThread_kept (record_kept (State.freeSlot_kept
        (ite_kept (leaveQueues_kept (State.updCore_kept (withdrawAll_kept h))) (State.updCore_kept (withdrawAll_kept h)))))

theorem depart_kept {p t m} (h : Kept s₀ s) : Kept s₀ (depart s p t m) := by
  unfold depart
  dsimp only
  split
  · exact h
  · split
    · exact h
    · split
      · exact stayHere_kept h
      · split
        · exact h
        · next e =>
            split
            · next e₁ => exact leaveSlot_kept ((flushFrames_kept ((tryCommit_kept (State.setThread_kept h)).some e)).ok e₁)
            · exact h

theorem arrivalAccess_kept {c uid dst va body} (h : Kept s₀ s) : ArrivedKept s₀ (arrivalAccess s c uid dst va body) := by
  unfold arrivalAccess
  dsimp only
  split
  · exact trivial
  · exact trivial
  · split
    · exact h
    · split
      · split
        · exact trivial
        · split
          · exact trivial
          · exact touch_kept h
      · split
        · split
          · exact trivial
          · split
            · exact trivial
            · split
              · split
                · exact trivial
                · split
                  · exact trivial
                  · exact notePredictor_kept (extWrite_kept (touch_kept h))
              · split
                · split
                  · exact trivial
                  · split
                    · exact trivial
                    · exact notePredictor_kept (extWrite_kept (touch_kept h))
                · split
                  · exact trivial
                  · split
                    · exact trivial
                    · exact notePredictor_kept (extWrite_kept (touch_kept h))
              · split
                · split
                  · exact trivial
                  · split
                    · exact trivial
                    · exact notePredictor_kept (extWrite_kept (touch_kept h))
                · split
                  · exact trivial
                  · split
                    · exact trivial
                    · exact notePredictor_kept (extWrite_kept (touch_kept h))
        · split
          · exact trivial
          · split
            · exact trivial
            · split
              · split
                · exact trivial
                · split
                  · exact trivial
                  · exact notePredictor_kept (extWrite_kept (touch_kept h))
              · split
                · split
                  · exact trivial
                  · split
                    · exact trivial
                    · exact notePredictor_kept (extWrite_kept (touch_kept h))
                · split
                  · exact trivial
                  · split
                    · exact trivial
                    · exact notePredictor_kept (extWrite_kept (touch_kept h))
              · split
                · split
                  · exact trivial
                  · split
                    · exact trivial
                    · exact notePredictor_kept (extWrite_kept (touch_kept h))
                · split
                  · exact trivial
                  · split
                    · exact trivial
                    · exact notePredictor_kept (extWrite_kept (touch_kept h))
      · split
        · exact trivial
        · split
          · exact trivial
          · exact h

theorem takeSlot_kept {c m} (h : Kept s₀ s) : Kept s₀ (takeSlot s c m) := by
  unfold takeSlot
  exact State.setThread_kept (freeArrival_kept h)

theorem land_kept {c m vs} (h : Kept s₀ s) : Kept s₀ (land s c m vs) := by
  unfold land
  dsimp only
  refine drainStore_kept ?_
  refine openRegion_kept ?_
  split
  · exact writePend_kept (record_kept (ite_kept h (takeSlot_kept h)))
  · exact record_kept (ite_kept h (takeSlot_kept h))

theorem landParked_kept {c m page} (h : Kept s₀ s) : Kept s₀ (landParked s c m page) := by
  unfold landParked
  exact askPage_kept (State.updThread_kept (record_kept (ite_kept h (takeSlot_kept h))))

theorem uncarry_kept {mid} (h : Kept s₀ s) : Kept s₀ (uncarry s mid) := by
  unfold uncarry
  exact record_kept h

/-! ### Displacement (R145, R146, R368, R369) -/

theorem displace_kept {p t} (h : Kept s₀ s) : OptKept s₀ (displace s p t) := by
  unfold displace
  split
  · exact trivial
  · split
    · next e₁ =>
        dsimp only
        split
        · exact trivial
        · exact sendThread_kept (record_kept (State.freeSlot_kept
              (State.updCore_kept (State.fresh_kept (withdrawAll_kept ((toRestart_kept h).some e₁))))))
    · exact trivial

/-! ### Forms that act behind a commit (R161) -/

theorem checkVa_kept {p t va align need} (h : Kept s₀ s) : OptResKept s₀ (checkVa s p t va align need) := by
  unfold checkVa
  split
  · exact trivial
  · exact trivial
  · exact parkPage_kept h

theorem commitThen_kept {p t act} (h : Kept s₀ s) (hact : ∀ z a1, Kept s₀ z → ResKept s₀ (act z a1)) : ResKept s₀
    (commitThen s p t act) := by
  unfold commitThen
  split
  · exact h
  · next e =>
      split
      · exact h
      · exact hact _ _ ((tryCommit_kept h).some e)

theorem waitFormOn_kept {p t c page} (h : Kept s₀ s) : ResKept s₀ (waitFormOn s p t c page) := by
  unfold waitFormOn
  split
  · exact h
  · next e => exact parkPageOn_kept ((tryCommit_kept h).some e)

theorem waitForm_kept {p t page} (h : Kept s₀ s) : ResKept s₀ (waitForm s p t page) := by
  unfold waitForm
  exact waitFormOn_kept h

theorem noRecord_kept {p t bad v} (h : Kept s₀ s) (h' : Kept s₀ s') (hbad : ResKept s₀ bad) : ResKept s₀ (noRecord s s' p t bad v)
    := by
  unfold noRecord
  split
  · exact hbad
  · exact waitFormOn_kept h
  · exact raise_kept h'

theorem putBytes_kept {c ap locks va bs} (h : Kept s₀ s) : PutKept s₀ (putBytes s c ap locks va bs) := by
  unfold putBytes
  exact deviceWrite_kept h

theorem writeThen_kept {p t va bs d la v} (h : Kept s₀ s) (h' : Kept s₀ s') : ResKept s₀ (writeThen s s' p t va bs d la v) := by
  unfold writeThen
  split
  · next e => exact pendNow_kept ((putBytes_kept h').ok e)
  · exact h
  · exact waitForm_kept h

/-! ### Completion records (R268, R278, R303) -/

theorem noRecords_kept {c p uid} (h : Kept s₀ s) : Kept s₀ (noRecords s c p uid) := by
  unfold noRecords
  exact State.updCtx_kept (State.updThread_kept h)

theorem takeRecord_kept {p t} (h : Kept s₀ s) : SndKept s₀ (takeRecord s p t) := by
  unfold takeRecord
  dsimp only
  split
  · change Kept s₀ _
    dsimp only
    split
    · exact ite_kept (noRecords_kept (drainStore_kept (State.setThread_kept h))) (drainStore_kept (State.setThread_kept h))
    · exact drainStore_kept (State.setThread_kept h)
  · split
    · exact trivial
    · split
      · exact trivial
      · split
        · change Kept s₀ _
          dsimp only
          split
          · exact ite_kept (noRecords_kept (State.setCtx_kept h)) (State.setCtx_kept h)
          · exact State.setCtx_kept h
        · exact trivial

theorem pickEvent_map_kept {p t code} (h : Kept s₀ s) : OptKept s₀ ((pickEvent s p t code).map (fun r => r.2.2)) := by
  unfold pickEvent
  dsimp only
  split
  · trivial
  · split
    · split
      · trivial
      · split
        · exact h
        · exact drainStore_kept (State.setThread_kept h)
    · split
      · trivial
      · split
        · exact State.setCtx_kept h
        · exact h
        · trivial

/-! ### EVWAIT and EVPOST (R114, R177 to R179) -/

theorem pickEvent_kept {p t code n bs z} (h : Kept s₀ s) (e : pickEvent s p t code = some (n, bs, z)) : Kept s₀ z :=
  (pickEvent_map_kept h).some (by rw [e]; rfl)

theorem eventWait_kept {p area code d la} (h : Kept s₀ s) : Kept s₀ (eventWait s p area code d la) := by
  unfold eventWait
  exact State.updThread_kept h

/-! ### Time and nonces (R124, R174, R175) -/

theorem drawNonce_kept {peer} (h : Kept s₀ s) : Kept s₀ (drawNonce s peer).1 := by
  unfold drawNonce
  exact State.setDev_kept h rfl

/-! ### Pages (R14, R201) -/

theorem zeroPages_kept {pages} (h : Kept s₀ s) : Kept s₀ (zeroPages s pages) := memory_kept h (memFilter_wf _)

theorem zeroSpans_kept {peer spans} (h : Kept s₀ s) : Kept s₀ (zeroSpans s peer spans) := memory_kept h (memFilter_wf _)

/-! ### The plan of a build (R120) -/

theorem choosePlan_kept {peer cls b fractional} (h : Kept s₀ s) : SndKept s₀ (choosePlan s peer cls b fractional) := by
  have own (o : Option Plan) : SndKept s₀ (o.map (fun q => (q, s))) := by
    cases o with
    | none => trivial
    | some _ => exact h
  unfold choosePlan
  split
  · split
    · exact record_kept h
    · exact own _
  · exact own _

/-! ### Cores between grants (R60, R276, R312) -/

theorem resetCores_kept {peer cores} (h : Kept s₀ s) : Kept s₀ (resetCores s peer cores) := by
  unfold resetCores
  exact foldl_kept h (fun _ _ hz => State.updCore_kept hz)

/-! ### Pages (R135, R152, R158, R201, R204) -/

theorem swapPages_kept {a b} (h : Kept s₀ s) : Kept s₀ (swapPages s a b) := by
  unfold swapPages
  split
  · exact h
  · exact memory_kept h (fun w => memWrites_wf _ (memWrites_wf _ w _) _)

theorem wakePage_kept {c page} (h : Kept s₀ s) : Kept s₀ (wakePage s c page) := by
  unfold wakePage
  exact record_kept (State.updCtx_kept h)

/-! ### Residency summaries (R199, R200) -/

theorem putRes_kept {c x ca sh v} (h : Kept s₀ s) : Kept s₀ (putRes s c x ca sh v) := by
  unfold putRes
  split
  · exact ite_kept h (extWrite_kept h)
  · exact h

theorem noteResidence_kept {c} (h : Kept s₀ s) : Kept s₀ (noteResidence s c) := by
  unfold noteResidence
  split
  · exact h
  · exact ite_kept (foldl_kept h (fun _ _ hz => putRes_kept hz))
        (foldl_kept (foldl_kept h (fun _ _ hz => putRes_kept hz)) (fun _ _ hz => putRes_kept hz))

/-! ### Pages in and out -/

theorem evictPage_kept {c displaced} (h : Kept s₀ s) : OptKept s₀ (evictPage s c displaced) := by
  unfold evictPage
  split
  · exact trivial
  · exact bind_kept (fun _ _ => map_kept (fun _ _ => noteResidence_kept (State.updCtx_kept (swapPages_kept h))))

theorem gainPlace_kept {c x} (h : Kept s₀ s) : PairKept s₀ (gainPlace s c x) := by
  unfold gainPlace
  split
  · exact trivial
  · split
    · exact h
    · split
      · next e₁ => exact mapPair_kept (fun _ _ => (bind_kept (fun _ _ => evictPage_kept h)).some e₁)
      · exact trivial

theorem bringPage_kept {c x page g} (h : Kept s₀ s) : Kept s₀ (bringPage s c x page g) := by
  unfold bringPage
  split
  · next e => exact wakePage_kept (noteResidence_kept (State.updCtx_kept (swapPages_kept ((gainPlace_kept h).some e))))
  · split
    · exact wakePage_kept (noteResidence_kept (State.updCtx_kept (swapPages_kept h)))
    · exact h

/-! ### Decreases (R136, R169, R171) -/

theorem giveBack_kept {c b} (h : Kept s₀ s) : Kept s₀ (giveBack s c b) := by
  unfold giveBack
  split
  · exact h
  · dsimp only
    split
    · exact State.updCtx_kept (State.setCtx_kept h)
    · exact State.capUpdate_kept (State.setCtx_kept h) (fun _ => rfl)

theorem settleOwed_kept {c} (h : Kept s₀ s) : Kept s₀ (settleOwed s c) := by
  unfold settleOwed
  split
  · exact h
  · exact ite_kept h (giveBack_kept h)

/-! ### Stream forms -/

theorem give_kept {p d la v} (h : Kept s₀ s) : ResKept s₀ (give s p d la v) := by
  unfold give
  exact pendNow_kept h

theorem State.setStream_kept {p n e} (h : Kept s₀ s) : Kept s₀ (State.setStream s p n e) := by
  unfold State.setStream
  exact State.updCore_kept h

/-! ### Queued commands (R225) -/

theorem mkCmd_kept {p t queue ct work} (h : Kept s₀ s) : Kept s₀ (mkCmd s p t queue ct work).1 := by
  unfold mkCmd
  split
  next e => exact snd_kept e (State.fresh_kept h)

theorem bufferCmd_kept {p t queue ct work} (h : Kept s₀ s) : ResKept s₀ (bufferCmd s p t queue ct work) := by
  unfold bufferCmd
  exact buffered_kept (mkCmd_kept h)

/-! ### Vector commands (R290, R292) -/

theorem vectorCmd_kept {word fn sd sa sb a b} (h : Kept s₀ s) : OutKept s₀ (vectorCmd word fn sd sa sb a b s) := by
  unfold vectorCmd
  exact issue_kept (fun _ _ _ _ hz => bufferCmd_kept hz) h

/-! ### Engine commands (R268, R299) -/

theorem recordCmd_kept {word d a b q ct srcSize work} (h : Kept s₀ s) : OutKept s₀ (recordCmd word d a b q ct srcSize work s) := by
  unfold recordCmd
  refine issue_kept ?_ h
  intro a₁ a₂ a₃ z hz
  dsimp only
  split
  · exact trivial
  · exact bufferCmd_kept hz

theorem State.setCmd_kept {q} (h : Kept s₀ s) : Kept s₀ (State.setCmd s q) := by
  unfold State.setCmd
  exact State.updCore_kept h

/-! ### Reads (R225) -/

theorem cmdPacket_kept {q va ca body} (h : Kept s₀ s) : Kept s₀ (cmdPacket s q va ca body).1 := by
  unfold cmdPacket
  split
  next e => exact snd_kept e (State.fresh_kept h)

theorem cmdSend_kept {q va ca body} (h : Kept s₀ s) : Kept s₀ (cmdSend s q va ca body) := by
  unfold cmdSend
  split
  next e => exact launchPacket_kept (fst_kept e (cmdPacket_kept h))

theorem cmdFetch_kept {q va ca n} (h : Kept s₀ s) : Kept s₀ (cmdFetch s q va ca n) := by
  unfold cmdFetch
  exact ite_kept h (cmdSend_kept h)

theorem cmdStop_kept {q bad v} (h : Kept s₀ s) (hbad : ∀ a0, Kept s₀ (bad a0)) : Kept s₀ (cmdStop s q bad v) := by
  unfold cmdStop
  split
  · exact h
  · exact hbad _
  · exact askPage_kept h
  · exact cmdFetch_kept h

/-! ### Layout records (R227) -/

theorem lpTouch_kept {q va n} (h : Kept s₀ s) : Kept s₀ (lpTouch s q va n) := by
  unfold lpTouch
  refine foldl_kept h ?_
  intro z a hz
  split
  · exact elim_kept hz (fun _ => elim_kept hz (fun _ => touch_kept hz))
  · exact hz

theorem lpRead_kept {q va n} (h : Kept s₀ s) : Kept s₀ (lpRead s q va n).1 := by
  unfold lpRead
  split
  · exact h
  · exact h
  · split
    · split
      · split
        · exact h
        · exact lpTouch_kept (State.setCtx_kept h)
      · split
        · exact lpTouch_kept (State.setCtx_kept h)
        · exact h
    · exact h

/-! ### Writes (R220) -/

theorem cmdPut_kept {q w} (h : Kept s₀ s) : CmdPutKept s₀ (cmdPut s q w) := by
  unfold cmdPut
  split
  · exact trivial
  · exact trivial
  · split
    · split
      · split
        next e₃ => exact keepPacket_kept (fst_kept e₃ (cmdPacket_kept h))
      · exact extWrite_kept h
    · exact cmdSend_kept h

/-! ### The end of a command (R225, R268, R278) -/

theorem cmdArrive_kept {q bar} (h : Kept s₀ s) : Kept s₀ (cmdArrive s q bar) := by
  unfold cmdArrive
  dsimp only
  exact record_kept (atQueue_kept (State.fresh_kept h))

theorem removeCmd_kept {q} (h : Kept s₀ s) : Kept s₀ (removeCmd s q) := by
  unfold removeCmd
  exact State.updCore_kept h

theorem afterPost_kept {q} (h : Kept s₀ s) : Kept s₀ (afterPost s q) := by
  unfold afterPost
  exact ite_kept (State.setCmd_kept h) (removeCmd_kept h)

theorem finishEngine_kept {q} (h : Kept s₀ s) : Kept s₀ (finishEngine s q) := by
  unfold finishEngine
  dsimp only
  split
  · exact afterPost_kept (deliver_kept h)
  · split
    · exact cmdArrive_kept (removeCmd_kept (deliver_kept h))
    · exact removeCmd_kept (deliver_kept h)

theorem cmdFault_kept {q event code} (h : Kept s₀ s) : Kept s₀ (cmdFault s q event code) := by
  unfold cmdFault
  exact afterPost_kept (deliver_kept h)

theorem enterHeld_kept {c} (h : Kept s₀ s) : Kept s₀ (enterHeld s c) := by
  unfold enterHeld
  split
  · exact h
  · exact foldl_kept (foldl_kept (State.setCtx_kept h) (fun _ _ hz => drainStore_kept hz)) (fun _ _ hz => removeCmd_kept hz)

/-! ### Slices (R275) -/

theorem vectorRead_kept {q slice} (h : Kept s₀ s) : Kept s₀ (vectorRead s q slice) := by
  unfold vectorRead
  split
  · dsimp only
    split
    · split
      · exact State.setCmd_kept h
      · exact cmdStop_kept h (fun _ => State.setCmd_kept h)
    · split
      · exact State.setCmd_kept h
      · exact cmdStop_kept h (fun _ => State.setCmd_kept h)
      · exact cmdStop_kept h (fun _ => State.setCmd_kept h)
  · exact h

/-! ### Sharing the lane groups (R276) -/

theorem sliceSelect_kept {peer dist qtr grp} (h : Kept s₀ s) : Kept s₀ (sliceSelect s peer dist qtr grp) := by
  unfold sliceSelect
  dsimp only
  split
  · exact h
  · split
    · split
      · split
        · exact State.setCmd_kept h
        · exact h
      · exact h
    · split
      · exact State.setCmd_kept (State.updCore_kept (foldl_kept h (fun _ _ hz => State.updCore_kept hz)))
      · exact State.updCore_kept (foldl_kept h (fun _ _ hz => State.updCore_kept hz))

/-! ### Layout records -/

theorem engineStart_kept {q} (h : Kept s₀ s) : Kept s₀ (engineStart s q) := by
  unfold engineStart
  dsimp only
  split
  · exact State.setCmd_kept h
  · split
    · next e₁ => exact ite_kept (State.setCmd_kept (fst_kept e₁ (lpRead_kept h))) (State.setCmd_kept (fst_kept e₁ (lpRead_kept h)))
    · next e₁ => exact cmdStop_kept (fst_kept e₁ (lpRead_kept h)) (fun _ => State.setCmd_kept (fst_kept e₁ (lpRead_kept h)))

/-! ### Moving -/

theorem engineTake_kept {q got next} (h : Kept s₀ s) : Kept s₀ (engineTake s q got next) := by
  unfold engineTake
  split
  · exact State.setCmd_kept h
  · exact cmdStop_kept h (fun _ => State.setCmd_kept h)

theorem copyStep_kept {q dst src row n} (h : Kept s₀ s) : Kept s₀ (copyStep s q dst src row n) := by
  unfold copyStep
  exact engineTake_kept h

theorem gatherStep_kept {q place} (h : Kept s₀ s) : Kept s₀ (gatherStep s q place) := by
  unfold gatherStep
  dsimp only
  split
  · exact engineTake_kept h
  · exact ite_kept (engineTake_kept h) (engineTake_kept h)

theorem collStep_kept {q a b} (h : Kept s₀ s) : Kept s₀ (collStep s q a b) := by
  unfold collStep
  dsimp only
  split
  · exact engineTake_kept h
  · split
    · exact engineTake_kept h
    · exact ite_kept (engineTake_kept h) (engineTake_kept h)

theorem engineRead_kept {q n} (h : Kept s₀ s) : Kept s₀ (engineRead s q n) := by
  unfold engineRead
  dsimp only
  split
  · exact copyStep_kept h
  · exact copyStep_kept h
  · exact gatherStep_kept h
  · exact gatherStep_kept h
  · exact collStep_kept h
  · exact h

/-! ### Engines (R277) -/

theorem engineSelect_kept {peer dist qtr kind} (h : Kept s₀ s) : Kept s₀ (engineSelect s peer dist qtr kind) := by
  unfold engineSelect
  dsimp only
  split
  · exact h
  · split
    · exact h
    · exact State.setCmd_kept h

theorem csrWrite_kept {p t n v} (h : Kept s₀ s) : Kept s₀ (csrWrite s p t n v) := by
  unfold csrWrite
  exact ite_kept (State.updThread_kept h) (ite_kept (State.updCore_kept h) (State.updCtx_kept h))

theorem csrSet_kept {word a csr f} (h : Kept s₀ s) : OutKept s₀ (csrSet word a csr f s) := by
  unfold csrSet
  refine issue_kept ?_ h
  intro a₁ a₂ a₃ z hz
  dsimp only
  split
  · exact trivial
  · split
    · exact trivial
    · split
      · exact trivial
      · split
        · exact trivial
        · exact csrWrite_kept hz

/-! ### Claims (R313, R337) -/

theorem bufferGive_kept {p t d la work} (h : Kept s₀ s) : ResKept s₀ (bufferGive s p t d la work) := by
  unfold bufferGive
  split
  · next e => exact give_kept ((bufferCmd_kept h).done e)
  · exact bufferCmd_kept h

/-! ### Commands of one tile (R334, R338 to R340) -/

theorem loadTile_kept {word o a b work} (h : Kept s₀ s) : OutKept s₀ (loadTile word o a b work s) := by
  unfold loadTile
  refine issue_kept ?_ h
  intro a₁ a₂ a₃ z hz
  dsimp only
  split
  · exact trivial
  · exact bufferCmd_kept hz

theorem tileProduct_kept {word cd cs oa ob} (h : Kept s₀ s) : OutKept s₀ (tileProduct word cd cs oa ob s) := by
  unfold tileProduct
  refine issue_kept ?_ h
  intro a a₁ a₂ z hz
  dsimp only
  split
  · exact trivial
  · exact bufferCmd_kept hz

/-! ### Slots, tiles and counters -/

theorem countAll_kept {q ts} (h : Kept s₀ s) : Kept s₀ (countAll s q ts) := by
  unfold countAll
  exact State.updCore_kept h

/-! ### A step (R328) -/

theorem putStep_kept {q cd r} (h : Kept s₀ s) : Kept s₀ (putStep s q cd r) := by
  unfold putStep
  exact countAll_kept (State.updCore_kept h)

/-! ### Commands of one tile -/

theorem tileRun_kept {q} (h : Kept s₀ s) : Kept s₀ (tileRun s q) := by
  unfold tileRun
  dsimp only
  split
  · exact State.setCmd_kept (State.updCore_kept h)
  · exact State.setCmd_kept (State.updCore_kept h)
  · exact getD_kept (countAll_kept (State.setCmd_kept h))
        (map_kept (fun _ _ => cmdStop_kept h (fun _ => countAll_kept (State.setCmd_kept h))))
  · exact State.setCmd_kept (putStep_kept h)
  · exact State.setCmd_kept (State.updCore_kept h)
  · exact h

/-! ### MGEMM (R314 to R316, R343) -/

theorem showSeq_kept {q act} (h : Kept s₀ s) : Kept s₀ (showSeq s q act) := by
  unfold showSeq
  exact State.updCore_kept h

theorem gemmFault_kept {q code} (h : Kept s₀ s) : Kept s₀ (gemmFault s q code) := by
  unfold gemmFault
  exact showSeq_kept (State.setCmd_kept h)

theorem gemmStart_kept {q rec_} (h : Kept s₀ s) : Kept s₀ (gemmStart s q rec_) := by
  unfold gemmStart
  dsimp only
  split
  · next e =>
      exact ite_kept (showSeq_kept (State.setCmd_kept (fst_kept e (lpRead_kept h)))) (gemmFault_kept (fst_kept e (lpRead_kept h)))
  · next e => exact cmdStop_kept (fst_kept e (lpRead_kept h)) (fun _ => gemmFault_kept (fst_kept e (lpRead_kept h)))

theorem gemmStep_kept {q} (h : Kept s₀ s) : Kept s₀ (gemmStep s q) := by
  unfold gemmStep
  split
  · exact showSeq_kept (State.setCmd_kept (putStep_kept (State.updCore_kept h)))
  · exact h

theorem gemmDrain_kept {q} (h : Kept s₀ s) : Kept s₀ (gemmDrain s q) := by
  unfold gemmDrain
  split
  · dsimp only
    split
    · exact cmdStop_kept h (fun _ => gemmFault_kept h)
    · exact countAll_kept (showSeq_kept (State.setCmd_kept h))
  · exact h

/-! ### MCVT (R342) -/

theorem cvtStart_kept {q rec_ fmt} (h : Kept s₀ s) : Kept s₀ (cvtStart s q rec_ fmt) := by
  unfold cvtStart
  dsimp only
  split
  · next e => exact ite_kept (State.setCmd_kept (fst_kept e (lpRead_kept h))) (State.setCmd_kept (fst_kept e (lpRead_kept h)))
  · next e => exact cmdStop_kept (fst_kept e (lpRead_kept h)) (fun _ => State.setCmd_kept (fst_kept e (lpRead_kept h)))

theorem cvtStep_kept {q fmt seed} (h : Kept s₀ s) : Kept s₀ (cvtStep s q fmt seed) := by
  unfold cvtStep
  dsimp only
  split
  · exact State.setCmd_kept h
  · split
    · split
      · exact cmdStop_kept h (fun _ => State.setCmd_kept h)
      · exact countAll_kept (State.setCmd_kept h)
    · split
      · exact cmdStop_kept h (fun _ => State.setCmd_kept h)
      · exact countAll_kept (State.setCmd_kept h)

/-! ### The steps of a matrix command -/

theorem matrixStart_kept {q} (h : Kept s₀ s) : Kept s₀ (matrixStart s q) := by
  unfold matrixStart
  split
  · exact gemmStart_kept h
  · exact cvtStart_kept h
  · exact State.setCmd_kept h

theorem matrixAct_kept {q} (h : Kept s₀ s) : Kept s₀ (matrixAct s q) := by
  unfold matrixAct
  split
  · exact State.setCmd_kept h
  · exact cvtStep_kept h
  · exact tileRun_kept h

theorem matrixRead_kept {q n} (h : Kept s₀ s) : Kept s₀ (matrixRead s q n) := by
  unfold matrixRead
  dsimp only
  split
  · exact ite_kept (matrixAct_kept h) (State.setCmd_kept h)
  · exact cmdStop_kept (State.setCmd_kept h) (fun _ => ite_kept (gemmFault_kept h) (State.setCmd_kept h))

theorem stepTo_kept (h : Kept s₀ s) : OutKept s₀ (stepTo s) := by
  unfold stepTo
  exact h

/-! ### Starting and reading (R225) -/

theorem vectorStart_kept {q} (h : Kept s₀ s) : Kept s₀ (vectorStart s q) := by
  unfold vectorStart
  split
  · exact State.setCmd_kept h
  · exact h

theorem cmdStart_kept {q} (h : Kept s₀ s) : Kept s₀ (cmdStart s q) := by
  unfold cmdStart
  exact ite_kept (vectorStart_kept h) (ite_kept (matrixStart_kept h) (engineStart_kept h))

theorem cmdRead_kept {q n} (h : Kept s₀ s) : Kept s₀ (cmdRead s q n) := by
  unfold cmdRead
  exact ite_kept (vectorRead_kept h) (ite_kept (matrixRead_kept h) (ite_kept (engineRead_kept h) h))

/-! ### Writing (R220) -/

theorem cmdWrite_kept {q n} (h : Kept s₀ s) : Kept s₀ (cmdWrite s q n) := by
  unfold cmdWrite
  split
  · exact h
  · dsimp only
    split
    · next e₁ => exact State.setCmd_kept ((cmdPut_kept h).ok e₁)
    · next e₁ => exact State.setCmd_kept ((cmdPut_kept h).sent e₁)
    · exact State.setCmd_kept h
    · exact askPage_kept h

theorem hostWrite_kept {pa bytes} (h : Kept s₀ s) : Kept s₀ (hostWrite s pa bytes) := by
  unfold hostWrite
  split
  · exact h
  · split
    · split
      next e₁ => exact keepPacket_kept (snd_kept e₁ (State.fresh_kept h))
    · exact extWriteBy_kept h

/-! ### Completion (R225, R268, R278, R292, R346) -/

theorem cmdComplete_kept {q} (h : Kept s₀ s) : Kept s₀ (cmdComplete s q) := by
  unfold cmdComplete
  exact ite_kept (finishEngine_kept h) (ite_kept (removeCmd_kept h) (cmdFault_kept h))

/-! ### A thread leaves its slot -/

theorem dropReads_kept {c uid} (h : Kept s₀ s) : Kept s₀ (dropReads s c uid) := by
  unfold dropReads
  exact record_kept h

theorem dropRegion_kept {p} (h : Kept s₀ s) : Kept s₀ (dropRegion s p) := by
  unfold dropRegion
  dsimp only
  split
  · exact abortPlace_kept h
  · exact State.setThread_kept (State.updCtx_kept (abortPlace_kept h))

theorem bringTo_kept {p faulting} (h : Kept s₀ s) : OptKept s₀ (bringTo s p faulting) := by
  unfold bringTo
  split
  · split
    · next e₁ => exact (flushFrames_kept (dropRegion_kept h)).ok e₁
    · exact dropRegion_kept h
    · exact trivial
  · exact toRestart_kept h

theorem unload_kept {p whole faulting} (h : Kept s₀ s) : OptKept s₀ (unload s p whole faulting) := by
  unfold unload
  split
  · exact h
  · split
    · exact trivial
    · split
      · exact trivial
      · next e₁ =>
          dsimp only
          split
          · exact withdrawAll_kept ((bringTo_kept h).some e₁)
          · exact State.updCtx_kept (State.updCore_kept (State.freeSlot_kept
                (dropReads_kept (record_kept (withdrawAll_kept ((bringTo_kept h).some e₁))))))

theorem unloadParked_kept {p whole t} (h : Kept s₀ s) : Kept s₀ (unloadParked s p whole t) := by
  unfold unloadParked
  exact State.updCore_kept (State.updCtx_kept (dropReads_kept (withdrawParked_kept h)))

theorem unloadAllParked_kept {p whole l} (h : Kept s₀ s) : Kept s₀ (unloadAllParked s p whole l) := by
  induction l generalizing s p whole with
  | nil =>
    unfold unloadAllParked
    exact record_kept h
  | cons a l ih =>
    unfold unloadAllParked
    exact ih (unloadParked_kept (record_kept h))

theorem unloadDonors_kept {p whole} (h : Kept s₀ s) : OptKept s₀ (unloadDonors s p whole) := by
  unfold unloadDonors
  dsimp only
  split
  · exact trivial
  · exact unloadAllParked_kept h

/-! ### Room for an image, and its loader (R149) -/

theorem putPages_kept {l l'} (h : Kept s₀ s) : Kept s₀ (putPages s l l') := by
  induction l generalizing s l' with
  | nil =>
    unfold putPages
    exact h
  | cons a l ih =>
    unfold putPages
    exact ih (State.writes_kept h)

/-! ### Images in memory (R141, R143, R144, R147) -/

theorem writeThread_kept {c uid} (h : Kept s₀ s) : OptKept s₀ (writeThread s c uid) := by
  unfold writeThread
  split
  · exact h
  · split
    · exact h
    · exact map_kept (fun _ _ => putPages_kept (State.setCtx_kept h))

theorem unloadSlot_kept {p} (h : Kept s₀ s) : PairKept s₀ (unloadSlot s p) := by
  unfold unloadSlot
  split
  · exact h
  · dsimp only
    refine mapPair_kept ?_
    intro z e₁
    split
    · next e₂ => exact (foldBind_kept ((bind_kept (fun _ e₃ => unloadDonors_kept ((unload_kept h).some e₃))).some e₁) (fun _ _ hz =>
        writeThread_kept hz)).some e₂
    · exact (bind_kept (fun _ e₃ => unloadDonors_kept ((unload_kept h).some e₃))).some e₁

theorem writeWhole_kept {c x cause} (h : Kept s₀ s) : OptKept s₀ (writeWhole s c x cause) := by
  unfold writeWhole
  exact map_kept (fun _ _ => putPages_kept (State.setCtx_kept (State.setCtx_kept (zeroPages_kept h))))

theorem dropWhole_kept {c} (h : Kept s₀ s) : Kept s₀ (dropWhole s c) := by
  unfold dropWhole
  split
  · exact h
  · exact ite_kept (State.setCtx_kept (zeroPages_kept h)) h

/-! ### A thread comes back (R144, R186, R316, R380) -/

theorem load_kept {c m core slot} (h : Kept s₀ s) : Kept s₀ (load s c m core slot) := by
  unfold load
  exact dropWhole_kept (placeThread_kept (State.updCore_kept (record_kept (State.updCtx_kept (zeroPages_kept h)))))

theorem loadNext_kept {c x} (h : Kept s₀ s) : OptKept s₀ (loadNext s c x) := by
  unfold loadNext
  exact findSome_kept (fun _ => map_kept (fun _ _ => load_kept h))

theorem loadAll_kept {c n} (h : Kept s₀ s) : Kept s₀ (loadAll s c n) := by
  induction n generalizing s c with
  | zero =>
    unfold loadAll
    exact h
  | succ n ih =>
    unfold loadAll
    split
    · exact h
    · split
      · next e₁ => exact ih ((loadNext_kept h).some e₁)
      · exact h

/-! ### Dumps (R149) -/

theorem writePages_kept {l l'} (h : Kept s₀ s) : Kept s₀ (writePages s l l') := by
  induction l generalizing s l' with
  | nil =>
    unfold writePages
    exact h
  | cons a l ih =>
    unfold writePages
    exact ih (extWrite_kept h)

theorem dump_kept {c x cause} (h : Kept s₀ s) : Kept s₀ (dump s c x cause).1 := by
  unfold dump
  split
  · exact h
  · dsimp only
    split
    · exact h
    · exact writePages_kept h

/-! ### CKPT (R176) -/

theorem State.setDoor_kept {peer fn d} (h : Kept s₀ s) : Kept s₀ (State.setDoor s peer fn d) := by
  unfold State.setDoor
  exact State.setDev_kept h rfl

/-! ### Events (R155) -/

theorem writeEntry_kept {peer fn bs} (h : Kept s₀ s) : Kept s₀ (writeEntry s peer fn bs) := by
  unfold writeEntry
  exact State.setDoor_kept (State.writes_kept h)

theorem flushEntries_kept {peer fn n} (h : Kept s₀ s) : Kept s₀ (flushEntries s peer fn n) := by
  induction n generalizing s peer fn with
  | zero =>
    unfold flushEntries
    exact h
  | succ n ih =>
    unfold flushEntries
    dsimp only
    split
    · exact h
    · exact ite_kept (ih (writeEntry_kept (State.setDoor_kept h))) h

theorem postEntry_kept {peer fn bs} (h : Kept s₀ s) : Kept s₀ (postEntry s peer fn bs) := by
  unfold postEntry
  exact ite_kept (State.setDoor_kept h) (flushEntries_kept (State.setDoor_kept h))

theorem postEvent_kept {peer fn code ctx status flags serial word} (h : Kept s₀ s) : Kept s₀
    (postEvent s peer fn code ctx status flags serial word) := by
  unfold postEvent
  exact postEntry_kept h

theorem errorReport_kept {peer what kind} (h : Kept s₀ s) : Kept s₀ (errorReport s peer what kind) := by
  unfold errorReport
  exact postEvent_kept h

/-! ### Taking entries (R152, R153, R159) -/

theorem takePres_kept {peer fn} (h : Kept s₀ s) : Kept s₀ (takePres s peer fn) := by
  unfold takePres
  exact State.setDoor_kept h

theorem takeLaunch_kept {peer fn} (h : Kept s₀ s) : Kept s₀ (takeLaunch s peer fn) := by
  unfold takeLaunch
  exact State.setDoor_kept h

theorem ringError_kept {peer fn} (h : Kept s₀ s) : Kept s₀ (ringError s peer fn) := by
  unfold ringError
  exact State.setDoor_kept h

theorem presDone_kept {peer fn tag status ctx serial} (h : Kept s₀ s) : Kept s₀ (presDone s peer fn tag status ctx serial) := by
  unfold presDone
  exact postEvent_kept h

/-! ### Registers (R152, R154) -/

theorem registerWrite_kept {peer fn reg v} (h : Kept s₀ s) : Kept s₀ (registerWrite s peer fn reg v) := by
  unfold registerWrite
  dsimp only
  split
  · exact State.setDoor_kept h
  · exact State.setDoor_kept h
  · exact State.setDoor_kept h
  · exact State.setDoor_kept h
  · exact ite_kept (State.setDev_kept h rfl) h
  · exact ite_kept (State.setDev_kept h rfl) h
  · exact h

/-! ### The window of a key slot (R127) -/

theorem State.updWindow_kept {peer key f} (h : Kept s₀ s) : Kept s₀ (State.updWindow s peer key f) := by
  unfold State.updWindow
  exact State.setDev_kept h rfl

theorem homeReserve_kept {home key serial total modulus counted asker pres} (h : Kept s₀ s) : ExceptKept s₀
    (homeReserve s home key serial total modulus counted asker pres) := by
  unfold homeReserve
  dsimp only
  split
  · exact trivial
  · split
    · exact State.updWindow_kept h
    · exact trivial

/-! ### Messages (R128, R209) -/

theorem sendMsg_kept {src dst key asker pres kind slack} (h : Kept s₀ s) : Kept s₀ (sendMsg s src dst key asker pres kind slack)
    := by
  unfold sendMsg
  split
  next e => exact sendTo_kept (record_kept (snd_kept e (State.fresh_kept h)))

theorem dropMsg_kept {id} (h : Kept s₀ s) : Kept s₀ (dropMsg s id) := by
  unfold dropMsg
  exact record_kept h

theorem settleHome_kept {peer record pres commit slack} (h : Kept s₀ s) : Kept s₀ (settleHome s peer record pres commit slack) := by
  unfold settleHome
  exact ite_kept (State.updWindow_kept h) (sendMsg_kept h)

theorem cancelPres_kept {peer r} (h : Kept s₀ s) : Kept s₀ (cancelPres s peer r) := by
  unfold cancelPres
  exact settleHome_kept h

/-! ### Threads and commands at rest (R141, R143, R156) -/

theorem unloadAll_kept {c} (h : Kept s₀ s) : OptKept s₀ (unloadAll s c) := by
  unfold unloadAll
  split
  · exact trivial
  · split
    · exact h
    · exact bind_kept (fun _ e₁ => foldBind_kept ((foldBind_kept h (fun _ _ hz => unload_kept hz)).some e₁) (fun _ _ hz =>
          unloadDonors_kept hz))

/-! ### What is left of a context is cleared away -/

theorem clearCtx_kept {c} (h : Kept s₀ s) : Kept s₀ (clearCtx s c) := by
  unfold clearCtx
  exact record_kept (dropCached_kept (State.setDev_kept h rfl))

theorem dropTexts_kept {c} (h : Kept s₀ s) : Kept s₀ (dropTexts s c) := by
  unfold dropTexts
  split
  · exact h
  · exact State.setCtx_kept h

theorem releasePages_kept {peer pages} (h : Kept s₀ s) : Kept s₀ (releasePages s peer pages) := by
  unfold releasePages
  exact zeroPages_kept h

/-! ### Surrender (R114, R150, R155, R169) -/

theorem returnTo_kept {c x parent} (h : Kept s₀ s) : Kept s₀ (returnTo s c x parent) := by
  unfold returnTo
  exact State.updCtx_kept h

theorem cancelChildren_kept {c} (h : Kept s₀ s) : Kept s₀ (cancelChildren s c) := by
  unfold cancelChildren
  split
  · exact h
  · exact State.setDev_kept (State.setCtx_kept h) rfl

theorem endCtx_kept {c x flags silent} (h : Kept s₀ s) : Kept s₀ (endCtx s c x flags silent) := by
  unfold endCtx
  dsimp only
  split
  · exact ite_kept (State.capUpdate_kept (releasePages_kept (zeroSpans_kept (resetCores_kept (clearCtx_kept h)))) (fun _ => rfl))
        (postEvent_kept (State.capUpdate_kept (releasePages_kept (zeroSpans_kept (resetCores_kept (clearCtx_kept h))))
        (fun _ => rfl)))
  · exact ite_kept (State.capUpdate_kept (dropTexts_kept
        (releasePages_kept (State.setDev_kept (returnTo_kept (resetCores_kept (clearCtx_kept h))) rfl))) (fun _ => rfl))
        (deliver_kept (State.capUpdate_kept
        (dropTexts_kept (releasePages_kept (State.setDev_kept (returnTo_kept (resetCores_kept (clearCtx_kept h))) rfl))) (fun _ =>
        rfl)))

theorem restTree_kept {c n} (h : Kept s₀ s) : Kept s₀ (restTree s c n).1 := by
  induction n generalizing s c with
  | zero => exact h
  | succ n ih =>
    unfold restTree
    split
    · exact h
    · exact h
    · next e => exact foldlFst_kept (foldl_kept ((unloadAll_kept h).some e) (fun _ _ hz => State.updCtx_kept hz)) (fun _ _ hz =>
        ih hz)

theorem endTree_kept {c silent n} (h : Kept s₀ s) : Kept s₀ (endTree s c silent n) := by
  induction n generalizing s c silent with
  | zero =>
    unfold endTree
    exact h
  | succ n ih =>
    unfold endTree
    dsimp only
    split
    · exact foldl_kept h (fun _ _ hz => ih hz)
    · refine elim_kept ?_ ?_
      · refine cancelChildren_kept ?_
        split
        · exact dump_kept (foldl_kept h (fun _ _ hz => ih hz))
        · exact foldl_kept h (fun _ _ hz => ih hz)
      · intro a
        refine endCtx_kept ?_
        refine cancelChildren_kept ?_
        split
        · exact dump_kept (foldl_kept h (fun _ _ hz => ih hz))
        · exact foldl_kept h (fun _ _ hz => ih hz)

/-! ### STOP_COMPLETE (R140 to R143, R149, R155, R169) -/

theorem comeToRest_kept {c x cause} (h : Kept s₀ s) : Kept s₀ (comeToRest s c x cause) := by
  unfold comeToRest
  split
  next z flags e =>
    have hz : Kept s₀ z := by
      split at e
      · exact fst_kept e (dump_kept h)
      · exact fst_kept e h
    dsimp only
    split
    · exact postEvent_kept (State.updCtx_kept hz)
    · split
      · exact deliver_kept (postEvent_kept (State.updCtx_kept hz))
      · exact postEvent_kept (State.updCtx_kept hz)

theorem surrender_kept {c} (h : Kept s₀ s) : Kept s₀ (surrender s c) := by
  unfold surrender
  exact ite_kept (endTree_kept (restTree_kept h)) (restTree_kept h)

theorem completeRest_kept {c x cause} (h : Kept s₀ s) : Kept s₀ (completeRest s c x cause) := by
  unfold completeRest
  split
  · exact comeToRest_kept h
  · split
    · next e => exact comeToRest_kept ((writeWhole_kept h).some e)
    · exact surrender_kept (State.updCtx_kept h)

/-! ### Stop causes fall on a context (R143, R151, R156) -/

theorem stopCtx_kept {c cause exit} (h : Kept s₀ s) : Kept s₀ (stopCtx s c cause exit) := by
  unfold stopCtx
  split
  · exact h
  · split
    · exact State.setCtx_kept h
    · exact ite_kept h (State.setCtx_kept h)
    · exact ite_kept (State.setCtx_kept h) h
    · exact ite_kept (State.setCtx_kept h) (ite_kept (comeToRest_kept (State.setCtx_kept h)) h)

theorem abortHost_kept {c} (h : Kept s₀ s) : Kept s₀ (abortHost s c) := by
  unfold abortHost
  exact foldl_kept h (fun _ _ hz => State.setCmd_kept hz)

theorem tryStop_kept {c} (h : Kept s₀ s) : Kept s₀ (tryStop s c) := by
  unfold tryStop
  split
  · exact h
  · split
    · exact surrender_kept h
    · split
      · exact h
      · dsimp only
        split
        · exact ite_kept (abortHost_kept h) h
        · next e₁ =>
            split
            · exact ite_kept (abortHost_kept h) h
            · split
              · exact completeRest_kept ((unloadAll_kept (ite_kept (abortHost_kept h) h)).some e₁)
              · exact ite_kept (abortHost_kept h) h

theorem stopNow_kept {c cause exit} (h : Kept s₀ s) : Kept s₀ (stopNow s c cause exit) := by
  unfold stopNow
  exact tryStop_kept (stopCtx_kept h)

/-! ### Expiry, errors (R126, R151) -/

theorem keepExpiries_kept {peer} (h : Kept s₀ s) : Kept s₀ (keepExpiries s peer) := by
  unfold keepExpiries
  exact record_kept h

theorem memoryError_kept {c t} (h : Kept s₀ s) : Kept s₀ (memoryError s c t) := by
  unfold memoryError
  exact State.updCtx_kept (stopCtx_kept h)

/-! ### Host commands (R149, R154) -/

theorem showCmd_kept {c cmd target} (h : Kept s₀ s) : Kept s₀ (showCmd s c cmd target) := by
  unfold showCmd
  exact State.setDev_kept h rfl

theorem goLive_kept {c} (h : Kept s₀ s) : Kept s₀ (goLive s c) := by
  unfold goLive
  exact ite_kept (dropWhole_kept (loadAll_kept (State.updCtx_kept h))) h

/-! ### Functions (R156, R157) -/

theorem orphan_kept {c} (h : Kept s₀ s) : Kept s₀ (orphan s c) := by
  unfold orphan
  exact stopNow_kept (State.updCtx_kept h)

theorem functionDown_kept {peer fn} (h : Kept s₀ s) : Kept s₀ (functionDown s peer fn) := by
  unfold functionDown
  exact foldl_kept (foldl_kept (State.setDev_kept (State.setDoor_kept h) rfl) (fun _ _ hz => cancelPres_kept hz))
      (fun _ _ hz => orphan_kept hz)

theorem reattach_kept {c fn} (h : Kept s₀ s) : Kept s₀ (reattach s c fn) := by
  unfold reattach
  split
  · exact h
  · exact ite_kept h (goLive_kept (postEvent_kept (State.setCtx_kept h)))

/-! ### Yielding a slot (R135) -/

theorem yieldSlot_kept {c slots} (h : Kept s₀ s) : PairKept s₀ (yieldSlot s c slots) := by
  unfold yieldSlot
  dsimp only
  split
  · exact State.updCtx_kept h
  · split
    · exact mapPair_kept (fun _ e₂ => ite_kept (State.updCtx_kept ((unloadSlot_kept h).get e₂)) (stopNow_kept
          ((unloadSlot_kept h).get e₂)))
    · exact trivial

theorem handOn_kept {c e} (h : Kept s₀ s) : Kept s₀ (handOn s c e) := by
  unfold handOn
  split
  · exact h
  · dsimp only
    split
    · exact ite_kept (resetCores_kept (State.setCtx_kept h)) h
    · exact State.updCtx_kept (ite_kept (resetCores_kept (State.setCtx_kept h)) h)

theorem releaseSlot_kept {c x} (h : Kept s₀ s) : OptKept s₀ (releaseSlot s c x) := by
  unfold releaseSlot
  exact map_kept (fun _ e => settleOwed_kept (handOn_kept ((yieldSlot_kept h).get e)))

theorem releaseIdle_kept {c n} (h : Kept s₀ s) : Kept s₀ (releaseIdle s c n) := by
  induction n generalizing s c with
  | zero =>
    unfold releaseIdle
    exact settleOwed_kept h
  | succ n ih =>
    unfold releaseIdle
    split
    · exact h
    · split
      · split
        · next e₂ => exact ih ((releaseSlot_kept h).some e₂)
        · exact h
      · exact settleOwed_kept h

theorem reclaimFor_kept {victim x} (h : Kept s₀ s) : OptKept s₀ (reclaimFor s victim x) := by
  unfold reclaimFor
  split
  · exact trivial
  · split
    · exact trivial
    · exact map_kept (fun _ e₁ => State.updCtx_kept ((yieldSlot_kept h).get e₁))

/-! ### Returning a slot (R135, R140, R144, R380) -/

theorem gainSlot_kept {c x} (h : Kept s₀ s) : OptKept s₀ (gainSlot s c x) := by
  unfold gainSlot
  split
  · exact trivial
  · exact map_kept (fun _ _ => State.setCtx_kept h)

/-! ### Code images (R44) -/

theorem fillPages_kept {l l'} (h : Kept s₀ s) : Kept s₀ (fillPages s l l') := by
  induction l generalizing s l' with
  | nil =>
    unfold fillPages
    exact h
  | cons a l ih =>
    unfold fillPages
    exact ih (State.writes_kept h)

/-! ### The entry thread (R112, R371) -/

theorem startEntry_kept {c x pc serial arg} (h : Kept s₀ s) : Kept s₀ (startEntry s c x pc serial arg) := by
  unfold startEntry
  split
  next e =>
    split
    · exact placeThread_kept (snd_kept e (State.fresh_kept h))
    · exact State.updCtx_kept (snd_kept e (State.fresh_kept h))

/-! ### A context comes into being (R120, R121) -/

theorem enterCtx_kept {c x} (h : Kept s₀ s) : Kept s₀ (enterCtx s c x) := by
  unfold enterCtx
  exact State.setCtx_kept (resetCores_kept (zeroPages_kept h))

theorem buildRoot_kept {peer r q k token} (h : Kept s₀ s) : Kept s₀ (buildRoot s peer r q k token) := by
  unfold buildRoot
  exact startEntry_kept (State.capUpdate_kept (fillPages_kept (fillPages_kept (enterCtx_kept (zeroSpans_kept h)))) (fun _ => rfl))

theorem choosePages_map_kept {peer b} (h : Kept s₀ s) : OptKept s₀ ((choosePages s peer b).map (fun r => r.2.2.2)) := by
  have own (o : Option Nat) (p q : List Nat) : OptKept s₀ ((o.map (fun id => (id, p, q, s))).map (fun r => r.2.2.2)) := by
    cases o with
    | none => trivial
    | some _ => exact h
  unfold choosePages
  dsimp only
  split
  · split
    · exact record_kept h
    · exact own _ _ _
  · exact own _ _ _

theorem choosePages_kept {peer b n p q z} (h : Kept s₀ s) (e : choosePages s peer b = some (n, p, q, z)) : Kept s₀ z :=
  (choosePages_map_kept h).some (by rw [e]; rfl)

theorem buildChild_kept {parent x ch id hbm tier2 fn token arg} (h : Kept s₀ s) : Kept s₀
    (buildChild s parent x ch id hbm tier2 fn token arg) := by
  unfold buildChild
  exact startEntry_kept (State.capUpdate_kept (enterCtx_kept (State.updCtx_kept h)) (fun _ => rfl))

/-! ### Live migration (R149) -/

theorem fillSpans_kept {peer l l'} (h : Kept s₀ s) : Kept s₀ (fillSpans s peer l l') := by
  induction l generalizing s peer l' with
  | nil =>
    unfold fillSpans
    exact h
  | cons a l ih =>
    unfold fillSpans
    exact ih (State.writes_kept h)

theorem copyPages_kept {olds news} (h : Kept s₀ s) : Kept s₀ (copyPages s olds news) := by
  unfold copyPages
  exact foldl_kept h (fun _ _ hz => State.writes_kept hz)

theorem copyCores_kept {c d x y} (h : Kept s₀ s) : Kept s₀ (copyCores s c d x y) := by
  unfold copyCores
  exact foldl_kept (foldl_kept h (fun _ _ hz => State.updCore_kept hz)) (fun _ _ hz => State.updCore_kept hz)

/-! ### Warrants (R115 to R117, R120) -/

theorem closeWarrant_kept {peer r image pres token slack} (h : Kept s₀ s) : VerdictKept s₀
    (closeWarrant s peer r image pres token slack) := by
  unfold closeWarrant
  dsimp only
  split
  · exact settleHome_kept h
  · split
    · exact settleHome_kept h
    · split
      · exact settleHome_kept h
      · next e₁ =>
          split
          · exact settleHome_kept h
          · exact buildRoot_kept (settleHome_kept ((choosePlan_kept h).some e₁))

theorem openWarrant_kept {peer modulus r image token slack} (h : Kept s₀ s) : VerdictKept s₀
    (openWarrant s peer modulus r image token slack) := by
  unfold openWarrant
  dsimp only
  split
  · split
    · exact h
    · next e₁ => exact closeWarrant_kept ((homeReserve_kept (State.fresh_kept h)).ok e₁)
  · split
    · exact settleHome_kept (State.fresh_kept h)
    · exact sendMsg_kept (State.fresh_kept h)

theorem admitWarrant_kept {peer r image token slack} (h : Kept s₀ s) : VerdictKept s₀ (admitWarrant s peer r image token slack) :=
    by
  unfold admitWarrant
  split
  · exact h
  · split
    · exact h
    · split
      · exact h
      · split
        · exact h
        · split
          · exact h
          · exact openWarrant_kept h

/-! ### Slips (R121, R165) -/

theorem admitSlip_kept {peer r token heir arg} (h : Kept s₀ s) : VerdictKept s₀ (admitSlip s peer r token heir arg) := by
  unfold admitSlip
  split
  · exact h
  · split
    · exact h
    · split
      · exact h
      · split
        · exact h
        · split
          · exact h
          · split
            · exact h
            · next e₁ => exact buildChild_kept (choosePages_kept h e₁)

/-! ### Time certificates (R124) -/

theorem admitCertificate_kept {peer r} (h : Kept s₀ s) : VerdictKept s₀ (admitCertificate s peer r) := by
  unfold admitCertificate
  dsimp only
  split
  · exact h
  · split
    · exact h
    · split
      · exact h
      · split
        · exact h
        · split
          · exact h
          · split
            · exact h
            · exact State.setDev_kept (keepExpiries_kept h) rfl

/-! ### Capacity declarations (R131, R134) -/

theorem admitDeclaration_kept {peer r} (h : Kept s₀ s) : VerdictKept s₀ (admitDeclaration s peer r) := by
  unfold admitDeclaration
  dsimp only
  split
  · exact h
  · split
    · exact h
    · split
      · exact h
      · split
        · exact h
        · split
          · exact h
          · split
            · exact State.capUpdate_kept h (fun _ => rfl)
            · exact h

/-! ### Enrolment and revocation (R118, R159) -/

theorem endStage2_kept {peer} (h : Kept s₀ s) : Kept s₀ (endStage2 s peer) := by
  unfold endStage2
  exact ite_kept (State.capUpdate_kept h (fun _ => rfl)) h

/-! ### One presentation (R119, R137, R164) -/

/-- No presentation but that of an enrolment or revocation through the ring of the physical function changes a key (R118). -/
theorem presentRecord_kept {peer fn r image token heir arg slack} (h : Kept s₀ s)
    (hk : fn = some 0 → recKind r ≠ some .enrolment ∧ recKind r ≠ some .revocation) :
    VerdictKept s₀ (presentRecord s peer fn r image token heir arg slack) := by
  unfold presentRecord
  split
  · next e => rw [if_neg (fun hf => (hk hf).1 e)]; exact h
  · next e => rw [if_neg (fun hf => (hk hf).2 e)]; exact h
  · split
    · exact h
    · split
      · exact admitSlip_kept h
      · exact admitWarrant_kept h
      · exact admitCertificate_kept h
      · exact admitDeclaration_kept h
      · exact h

theorem countRefusal_kept {peer status} (h : Kept s₀ s) : Kept s₀ (countRefusal s peer status) := by
  unfold countRefusal
  exact ite_kept (State.capUpdate_kept h (fun _ => rfl)) h

/-! ### The presentation ring (R152, R153) -/

theorem answerRing_kept {peer fn tag r image v} (hv : VerdictKept s₀ v) : Kept s₀ (answerRing s peer fn tag r image v) := by
  unfold answerRing
  split
  · exact presDone_kept (countRefusal_kept hv)
  · exact presDone_kept hv
  · exact presDone_kept hv
  · exact State.setDev_kept hv rfl

theorem ringPresent_kept {peer fn kinds} (h : Kept s₀ s) (he : kinds.contains (some .enrolment) = false)
    (hr : kinds.contains (some .revocation) = false) : Kept s₀ (ringPresent peer fn kinds s) := by
  unfold ringPresent
  split
  · extract_lets e r image tag z
    split
    · exact h
    · next hc =>
      have hk : recKind r ≠ some .enrolment ∧ recKind r ≠ some .revocation := by
        constructor <;> intro e <;> simp_all
      split
      · exact answerRing_kept (presentRecord_kept (takePres_kept h) (fun _ => hk))
      · exact answerRing_kept (ringError_kept (takePres_kept h))
  · exact h

theorem ringPresentOf_kept {peer fn record tag kinds} (h : Kept s₀ s) (he : kinds.contains (some .enrolment) = false)
    (hr : kinds.contains (some .revocation) = false) : Kept s₀ (ringPresentOf peer fn record tag kinds s) := by
  unfold ringPresentOf
  dsimp only
  split
  · exact ringPresent_kept h he hr
  · exact h

/-! ### PRESENT and WACCEPT (R161, R164, R166) -/

theorem answerForm_kept {p t d la arg r image slack v} (hv : VerdictKept s₀ v) : ResKept s₀
    (answerForm p t d la arg r image slack v) := by
  unfold answerForm
  split
  · exact pendNow_kept (countRefusal_kept hv)
  · exact pendNow_kept hv
  · exact pendNow_kept hv
  · exact pendLater_kept (State.setDev_kept hv rfl)

theorem presentAct_kept {p d la va image t} (h : Kept s₀ s) (h' : Kept s₀ s') :
    ResKept s₀ (presentAct s p d la va image s' t) := by
  unfold presentAct
  extract_lets slack bad
  have hbad : ResKept s₀ bad := answerForm_kept h'
  split
  · exact noRecord_kept h h' hbad
  · split
    · exact hbad
    · split
      · exact answerForm_kept (presentRecord_kept h' nofun)
      · split
        · exact noRecord_kept h h' hbad
        · exact answerForm_kept (presentRecord_kept h' nofun)

theorem acceptAct_kept {p d la va arg t} (h : Kept s₀ s) (h' : Kept s₀ s') :
    ResKept s₀ (acceptAct s p d la va arg s' t) := by
  unfold acceptAct
  extract_lets slack bad
  have hbad : ResKept s₀ bad := answerForm_kept h'
  split
  · exact noRecord_kept h h' hbad
  · split
    · exact hbad
    · exact answerForm_kept (presentRecord_kept h' nofun)

/-! ### The home's answer (R127, R128) -/

theorem answerPres_kept {peer w v} (hv : VerdictKept s₀ v) : Kept s₀ (answerPres s peer w v) := by
  unfold answerPres
  split
  · exact answerRing_kept hv
  · dsimp only
    split
    · split
      · refine arriveValue_kept ?_
        split
        · exact countRefusal_kept hv
        · exact hv
        · exact hv
        · exact hv
      · split
        · exact countRefusal_kept hv
        · exact hv
        · exact hv
        · exact hv
    · split
      · exact countRefusal_kept hv
      · exact hv
      · exact hv
      · exact hv

theorem dropPres_kept {peer id} (h : Kept s₀ s) : Kept s₀ (dropPres s peer id) := by
  unfold dropPres
  exact State.setDev_kept h rfl

theorem refuseLate_kept {peer w} (h : Kept s₀ s) : Kept s₀ (refuseLate s peer w) := by
  unfold refuseLate
  exact answerPres_kept (cancelPres_kept (dropPres_kept h))

/-! ### The launch ring (R153, R382) -/

theorem launchDone_kept {peer fn ctx status serial tag} (h : Kept s₀ s) : Kept s₀ (launchDone s peer fn ctx status serial tag) := by
  unfold launchDone
  exact postEvent_kept h

theorem ringLaunchOf_kept {peer fn id hv tag} (h : Kept s₀ s) : Kept s₀ (ringLaunchOf peer fn id hv tag s) := by
  unfold ringLaunchOf
  dsimp only
  split
  · exact launchDone_kept (takeLaunch_kept h)
  · split
    · exact launchDone_kept (takeLaunch_kept h)
    · split
      · exact launchDone_kept (takeLaunch_kept h)
      · split
        · exact launchDone_kept (takeLaunch_kept h)
        · exact askPage_kept h
        · exact launchDone_kept (takeLaunch_kept h)
        · exact h
        · next e₁ => exact launchDone_kept (takeLaunch_kept ((launchWith_kept (State.fresh_kept h)).ok e₁))

theorem ringLaunch_kept {peer fn} (h : Kept s₀ s) : Kept s₀ (ringLaunch peer fn s) := by
  unfold ringLaunch
  exact ite_kept h (ite_kept (ringLaunchOf_kept h) (launchDone_kept (ringError_kept (takeLaunch_kept h))))

/-! ### Pages that a smaller holding displaces (R134, R135, R167) -/

theorem evictMany_kept {c n} (h : Kept s₀ s) : Kept s₀ (evictMany s c n) := by
  induction n generalizing s c with
  | zero =>
    unfold evictMany
    exact h
  | succ n ih =>
    unfold evictMany
    split
    · next e => exact ih ((evictPage_kept h).some e)
    · exact h

/-! ### WSPLIT (R167) -/

theorem splitOff_kept {c x uid entry b v n} (h : Kept s₀ s) : Kept s₀ (splitOff s c x uid entry b v n).2 := by
  unfold splitOff
  exact State.reckon_kept (evictMany_kept (resetCores_kept (State.setCtx_kept (State.setDev_kept h rfl))))

theorem splitAct_kept {p d la va entry t} (h : Kept s₀ s) (h' : Kept s₀ s') : ResKept s₀ (splitAct s p d la va entry s' t) := by
  unfold splitAct
  dsimp only
  split
  · refine noRecord_kept h h' ?_
    split
    · exact h
    · split
      · exact pendNow_kept h'
      · exact pendNow_kept (splitOff_kept h')
  · split
    · exact h
    · split
      · exact pendNow_kept h'
      · exact pendNow_kept (splitOff_kept h')

/-! ### WDELEG (R155, R168) -/

theorem postSlip_kept {c x ch tag} (h : Kept s₀ s) : Kept s₀ (postSlip s c x ch tag) := by
  unfold postSlip
  exact postEntry_kept (postEntry_kept h)

theorem delegAct_kept {p d la va serial t} (h : Kept s₀ s) (h' : Kept s₀ s') : ResKept s₀ (delegAct s p d la va serial s' t) := by
  unfold delegAct
  dsimp only
  split
  · exact h
  · split
    · exact pendNow_kept h'
    · split
      · next e₂ => exact pendNow_kept (postSlip_kept ((putBytes_kept h').ok e₂))
      · exact h
      · exact waitForm_kept h

/-! ### Decreases (R136, R169, R171) -/

theorem shrink_kept {c b} (h : Kept s₀ s) : Kept s₀ (shrink s c b) := by
  unfold shrink
  split
  · exact h
  · dsimp only
    refine releaseIdle_kept ?_
    refine giveBack_kept ?_
    refine releasePages_kept ?_
    split
    · exact State.updCtx_kept (State.setCtx_kept h)
    · exact zeroSpans_kept (State.setCtx_kept h)

/-! ### WSURR (R114, R169) -/

theorem partAct_kept {p d la va t} (h : Kept s₀ s) (h' : Kept s₀ s') : ResKept s₀ (partAct s p d la va s' t) := by
  unfold partAct
  dsimp only
  split
  · exact noRecord_kept h h' (pendNow_kept h')
  · split
    · exact pendNow_kept h'
    · exact pendNow_kept (shrink_kept h')
  · exact pendNow_kept h'

theorem surrenderAct_kept {p exit t} (h : Kept s₀ s) : ResKept s₀ (surrenderAct p exit s t) := by
  unfold surrenderAct
  exact stopNow_kept (retireThread_kept h)

/-! ### WAMEND (R136, R170, R171, R228) -/

theorem enlarge_kept {c x up g} (h : Kept s₀ s) : Kept s₀ (enlarge s c x up g) := by
  unfold enlarge
  exact State.capUpdate_kept (State.setCtx_kept (resetCores_kept (zeroPages_kept (zeroSpans_kept h)))) (fun _ => rfl)

theorem resize_kept {c x new} (h : Kept s₀ s) : ExceptKept s₀ (resize s c x new) := by
  unfold resize
  dsimp only
  split
  · exact trivial
  · split
    · exact trivial
    · split
      · exact trivial
      · exact shrink_kept (enlarge_kept h)

theorem replaceText_kept {c x k image digest} (h : Kept s₀ s) : ExceptKept s₀ (replaceText s c x k image digest) := by
  unfold replaceText
  split
  · exact trivial
  · exact releasePages_kept (dropTexts_kept (State.reckon_kept (State.setCtx_kept (fillPages_kept (zeroPages_kept h)))))

theorem amend_kept {c x r image} (h : Kept s₀ s) : ExceptKept s₀ (amend s c x r image) := by
  unfold amend
  dsimp only
  split
  · split
    · exact trivial
    · split
      · exact trivial
      · split
        · exact trivial
        · split
          · exact trivial
          · split
            · exact trivial
            · split
              · exact trivial
              · refine exceptMap_kept ?_ (fun _ hz => State.updCtx_kept hz)
                split
                · exact replaceText_kept h
                · exact resize_kept h
  · split
    · exact trivial
    · split
      · exact trivial
      · split
        · exact trivial
        · split
          · exact trivial
          · split
            · exact trivial
            · split
              · exact trivial
              · refine exceptMap_kept ?_ (fun _ hz => State.updCtx_kept hz)
                split
                · exact replaceText_kept h
                · exact resize_kept h

theorem amendAct_kept {p d la va image t} (h : Kept s₀ s) (h' : Kept s₀ s') : ResKept s₀ (amendAct s p d la va image s' t) := by
  unfold amendAct
  dsimp only
  split
  · exact noRecord_kept h h' (pendNow_kept h')
  · split
    · split
      · exact h
      · split
        · exact pendNow_kept h'
        · next e₃ => exact pendNow_kept ((amend_kept h').ok e₃)
    · split
      · exact noRecord_kept h h' (pendNow_kept h')
      · split
        · exact h
        · split
          · exact pendNow_kept h'
          · next e₃ => exact pendNow_kept ((amend_kept h').ok e₃)

theorem Device.lose_keys (d : Device) (other now : Nat) : (d.lose other now).keys = d.keys := by
  unfold Device.lose
  split <;> rfl

/-! ### Reset and self-test (R53, R118, R123, R159, R165) -/

theorem wipe_kept {peer} (h : Kept s₀ s) : Kept s₀ (wipe s peer) := by
  refine ⟨fun n => ?_, h.2⟩
  have hm : mget (wipe s peer).devs n = (mget s.devs n).map (fun d => if n = peer then d else d.lose peer s.now) :=
    mget_map (fun n d => if n = peer then d else Device.lose d peer s.now) s.devs n
  rw [← h.1 n, State.dev, State.dev, mgetD, mgetD, hm]
  cases mget s.devs n with
  | none => rfl
  | some d => by_cases e : n = peer <;> simp [e, Device.lose_keys]

/-! ### Time adoption (R125) -/

theorem attempt_kept {peer other rt} (h : Kept s₀ s) : Kept s₀ (attempt s peer other rt) := by
  unfold attempt
  exact ite_kept (ite_kept (State.setDev_kept (keepExpiries_kept h) rfl) (State.setDev_kept h rfl)) h

/-! ### Extents of other members (R201) -/

theorem branch_kept {word a b off c} (h : Kept s₀ s) : OutKept s₀ (branch word a b off c s) := by
  unfold branch
  refine issue_kept ?_ h
  intro a₁ a₂ a₃ z hz
  split <;> exact hz

theorem setLoop_kept {p t lvl n off} (h : Kept s₀ s) : ResKept s₀ (setLoop s p t lvl n off) := by
  unfold setLoop
  exact State.updThread_kept h

/-! ### Repeat frames (R69, R70, R73) -/

theorem startReplay_kept {p fb words mask stp count k i} (h : Kept s₀ s) : ResKept s₀
    (startReplay s p fb words mask stp count k i) := by
  unfold startReplay
  dsimp only
  split <;> split <;> exact State.updThread_kept h

/-! ### Queues in scratch (R282) -/

theorem queueWrite_kept {c sa bs} (h : Kept s₀ s) : OptKept s₀ (queueWrite s c sa bs) := by
  unfold queueWrite
  split
  · exact h
  · split
    · exact h
    · split
      · exact trivial
      · exact extWrite_kept h

theorem setQueue_kept {c qid q} (h : Kept s₀ s) : Kept s₀ (setQueue s c qid q) := by
  unfold setQueue
  exact State.updCtx_kept h

/-! ### Operations at a controller (R285, R305 to R308) -/

theorem queueStatus_kept {n} (h : Kept s₀ s) : Kept s₀ (queueStatus s n).1 := by
  unfold queueStatus
  exact h

theorem queueWait_kept (h : Kept s₀ s) : Kept s₀ (queueWait s).1 := by
  unfold queueWait
  exact h

theorem behindWrite_kept {w act} (h : Kept s₀ s) (hw : OptKept s₀ w) (hact : ∀ z, Kept s₀ z → Kept s₀ (act z).1) : Kept s₀
    (behindWrite s w act).1 := by
  unfold behindWrite
  split
  · exact queueWait_kept h
  · exact hact _ hw

theorem enqueue_kept {peer from_ hv payload q} (h : Kept s₀ s) : Kept s₀ (enqueue s peer from_ hv payload q).1 := by
  unfold enqueue
  split
  · exact queueStatus_kept h
  · exact behindWrite_kept h (queueWrite_kept h) (fun _ hz => setQueue_kept hz)

theorem takeFrom_kept {ask ap locks hv q steal stage va} (h : Kept s₀ s) : Kept s₀ (takeFrom s ask ap locks hv q steal stage va).1
    := by
  unfold takeFrom
  split
  · exact queueStatus_kept h
  · dsimp only
    split
    · next e => exact setQueue_kept ((putBytes_kept h).ok e)
    · exact queueWait_kept h
    · exact queueWait_kept (askPage_kept h)

theorem dequeue_kept {ask core ap locks steal hv va} (h : Kept s₀ s) : Kept s₀ (dequeue s ask core ap locks steal hv va).1 := by
  unfold dequeue
  split
  · exact queueStatus_kept h
  · split
    · split
      · exact queueStatus_kept h
      · split
        · split
          · exact queueStatus_kept h
          · split
            · exact queueStatus_kept h
            · dsimp only
              split
              · exact queueStatus_kept h
              · split
                · exact takeFrom_kept h
                · exact queueWait_kept h
        · split
          · exact queueStatus_kept h
          · split
            · exact takeFrom_kept h
            · exact queueWait_kept h
    · split
      · exact queueStatus_kept h
      · split
        · split
          · exact queueStatus_kept h
          · split
            · exact queueStatus_kept h
            · dsimp only
              split
              · exact queueStatus_kept h
              · split
                · exact takeFrom_kept h
                · exact queueWait_kept h
        · split
          · exact queueStatus_kept h
          · split
            · exact takeFrom_kept h
            · exact queueWait_kept h

theorem makeQueue_kept {c ap locks va b} (h : Kept s₀ s) : Kept s₀ (makeQueue s c ap locks va b).1 := by
  unfold makeQueue
  dsimp only
  split
  · exact queueStatus_kept h
  · split
    · split
      · exact queueStatus_kept h
      · split
        · exact queueStatus_kept h
        · exact behindWrite_kept h (queueWrite_kept h) (fun _ hz => setQueue_kept hz)
    · exact queueStatus_kept h

theorem destroyQueue_kept {ask hv} (h : Kept s₀ s) : Kept s₀ (destroyQueue s ask hv).1 := by
  unfold destroyQueue
  split
  · exact queueStatus_kept h
  · split
    · exact queueStatus_kept h
    · split
      · exact queueStatus_kept h
      · split
        · exact queueStatus_kept h
        · split
          · exact queueWait_kept h
          · exact behindWrite_kept h (queueWrite_kept h) (fun _ hz => setQueue_kept hz)

/-! ### Governors (R286, R287, R308) -/

theorem bindPipe_kept {c core ap locks uid a b} (h : Kept s₀ s) : Kept s₀ (bindPipe s c core ap locks uid a b).1 := by
  unfold bindPipe
  dsimp only
  split
  · exact queueStatus_kept h
  · split
    · split
      · exact queueStatus_kept h
      · split
        · exact State.setDev_kept h rfl
        · split
          · exact queueWait_kept (askPage_kept h)
          · split
            · exact queueStatus_kept h
            · exact State.setDev_kept h rfl
          · exact queueStatus_kept h
    · split
      · exact queueStatus_kept h
      · split
        · exact State.setDev_kept h rfl
        · split
          · exact queueWait_kept (askPage_kept h)
          · split
            · exact queueStatus_kept h
            · exact State.setDev_kept h rfl
          · exact queueStatus_kept h

theorem queueStep_kept {c core ap locks uid fn a b} (h : Kept s₀ s) : Kept s₀ (queueStep s c core ap locks uid fn a b).1 := by
  unfold queueStep
  split
  · exact makeQueue_kept h
  · split
    · exact queueStatus_kept h
    · split
      · exact queueStatus_kept h
      · split
        · exact queueStatus_kept h
        · split
          · exact enqueue_kept h
          · exact queueWait_kept h
  · exact dequeue_kept h
  · split
    · exact queueStatus_kept h
    · exact dequeue_kept h
  · exact destroyQueue_kept h
  · exact bindPipe_kept h

/-! ### Lending (R287) -/

theorem setPipe_kept {peer n g} (h : Kept s₀ s) : Kept s₀ (setPipe s peer n g) := by
  unfold setPipe
  exact State.setDev_kept h rfl

theorem lendTo_kept {peer n g stage} (h : Kept s₀ s) : Kept s₀ (lendTo s peer n g stage) := by
  unfold lendTo
  split
  · exact h
  · exact setPipe_kept h

theorem returnFromStage_kept {peer n g stage} (h : Kept s₀ s) : Kept s₀ (returnFromStage s peer n g stage) := by
  unfold returnFromStage
  split
  · exact h
  · exact setPipe_kept h

/-! ### The forms (R304 to R308) -/

theorem queueForm_kept {p t fn a b d la} (h : Kept s₀ s) : ResKept s₀ (queueForm p t s fn a b d la) := by
  unfold queueForm
  split
  · exact h
  · next e => exact askUnit_kept ((tryCommit_kept h).some e)

theorem recordVa_kept {p t va} (h : Kept s₀ s) : OptResKept s₀ (recordVa s p t va) := by
  unfold recordVa
  split
  · exact trivial
  · exact trivial
  · exact parkPage_kept h

/-! ## The instructions and events keep them too -/

/-- What the checks of two addresses answer, when one of them fails, is kept. -/
theorem checkVas_kept {p t va n need c va' n' need'} [Decidable c] (h : Kept s₀ s) :
    OptResKept s₀ ((checkVa s p t va n need).or (if c then none else checkVa s p t va' n' need')) := by
  cases e : checkVa s p t va n need with
  | some r => exact (checkVa_kept h).some e
  | none =>
    rw [Option.none_or]
    split
    · trivial
    · exact checkVa_kept h

theorem execPresent_kept {d a b la} (h : Kept s₀ s) : OutKept s₀ (execPresent d a b la s) := by
  unfold execPresent
  refine issue_kept ?_ h
  intro p t k z hz
  dsimp only
  split
  · next e => exact (checkVas_kept hz).some e
  · exact commitThen_kept hz (fun _ _ hz₁ => presentAct_kept hz hz₁)

theorem execWamend_kept {d a b la} (h : Kept s₀ s) : OutKept s₀ (execWamend d a b la s) := by
  unfold execWamend
  refine issue_kept ?_ h
  intro p t k z hz
  dsimp only
  split
  · next e => exact (checkVas_kept hz).some e
  · exact commitThen_kept hz (fun _ _ hz₁ => amendAct_kept hz hz₁)

theorem execDeviceReset_kept {peer} (h : Kept s₀ s) : OutKept s₀ (execDeviceReset peer s) :=
  State.setDev_kept (wipe_kept h) ((wipe_kept (Kept.refl s)).1 peer).symm

theorem execLinkLoss_kept {peer other} (h : Kept s₀ s) : OutKept s₀ (execLinkLoss peer other s) :=
  State.setDev_kept h (Device.lose_keys _ _ _)

theorem execQueueSwapIn_kept {c qid} (h : Kept s₀ s) : OutKept s₀ (execQueueSwapIn c qid s) := by
  unfold execQueueSwapIn
  change Kept s₀ _
  split
  · exact h
  · split
    · exact h
    · dsimp only
      split
      · exact h
      · next z e =>
        refine setQueue_kept ?_
        split at e
        · cases e
          exact h
        · exact (bind_kept (fun _ _ => map_kept (fun _ e => setQueue_kept ((queueWrite_kept h).some e)))).some e

/-- Changing islands one by one leaves the keys. -/
theorem foldl_setIsland_keys {α : Type} {f : Device → α → Device} (hf : ∀ d a, (f d a).keys = d.keys) (d : Device) (l : List α) :
    (l.foldl f d).keys = d.keys := by
  induction l generalizing d with
  | nil => rfl
  | cons a l ih => rw [List.foldl_cons, ih, hf]

theorem execThermalSample_kept {peer readings} (h : Kept s₀ s) : OutKept s₀ (execThermalSample peer readings s) := by
  unfold execThermalSample
  extract_lets d z
  have hd : d.keys = (s.dev peer).keys := foldl_setIsland_keys (fun d n => by split <;> rfl) _ _
  refine State.setDev_kept (State.setDev_kept h hd) ?_
  simp [z]

theorem execModulePowerStep_kept {peer milliwatts} (h : Kept s₀ s) : OutKept s₀ (execModulePowerStep peer milliwatts s) := by
  unfold execModulePowerStep
  have hd (l : List Nat) (f : Device → Nat → Device) (hf : ∀ d a, (f d a).keys = d.keys) :
      Kept s₀ (s.setDev peer (l.foldl f (s.dev peer))) := State.setDev_kept h (foldl_setIsland_keys hf _ _)
  exact ite_kept h (hd _ _ (fun _ _ => rfl))

theorem execPref_kept {a b} (h : Kept s₀ s) : OutKept s₀ (execPref a b s) := by
  unfold execPref
  refine issue_kept ?_ h
  intro a₁ a₂ a₃ z hz
  split
  · exact askPage_kept hz
  · exact hz

theorem execAbrt_kept (h : Kept s₀ s) : OutKept s₀ (execAbrt s) := by
  unfold execAbrt
  refine issue_kept ?_ h
  intro a a₁ a₂ z hz
  split
  · exact trivial
  · exact abortPlace_kept (State.updThread_kept hz)

theorem execFence_kept {dist} (h : Kept s₀ s) : OutKept s₀ (execFence dist s) := by
  unfold execFence
  refine issue_kept ?_ h
  intro a a₁ a₂ z hz
  dsimp only
  split <;> split <;> exact hz

theorem execFencep_kept (h : Kept s₀ s) : OutKept s₀ (execFencep s) := by
  unfold execFencep
  refine issue_kept ?_ h
  intro a a₁ a₂ z hz
  split <;> exact hz

theorem execIfence_kept (h : Kept s₀ s) : OutKept s₀ (execIfence s) := by
  unfold execIfence
  refine issue_kept ?_ h
  intro a a₁ a₂ z hz
  split
  · exact State.updThread_kept hz
  · exact hz

theorem execVfence_kept (h : Kept s₀ s) : OutKept s₀ (execVfence s) := by
  unfold execVfence
  refine issue_kept ?_ h
  intro a a₁ a₂ z hz
  split <;> exact hz

theorem execVwait_kept (h : Kept s₀ s) : OutKept s₀ (execVwait s) := by
  unfold execVwait
  refine issue_kept ?_ h
  intro a a₁ a₂ z hz
  dsimp only
  split
  · exact hz
  · exact State.updThread_kept hz

theorem execGo_kept {a} (h : Kept s₀ s) : OutKept s₀ (execGo a s) := by
  unfold execGo
  refine issue_kept ?_ h
  intro a₁ a₂ a₃ z hz
  dsimp only
  split
  · exact trivial
  · split
    · exact trivial
    · split
      · exact hz
      · next e₁ => exact parkPage_kept ((tryCommit_kept hz).some e₁)
  · split
    · exact trivial
    · split
      · exact trivial
      · split
        · split
          · next e₂ _ => exact parkPageOn_kept ((tryCommit_kept hz).some e₂)
          · exact hz
        · split
          · exact hz
          · next e₁ =>
              split
              · exact (tryCommit_kept hz).some e₁
              · split
                · exact moveTo_kept ((tryCommit_kept hz).some e₁)
                · exact (tryCommit_kept hz).some e₁

theorem execGohome_kept (h : Kept s₀ s) : OutKept s₀ (execGohome s) := by
  unfold execGohome
  refine issue_kept ?_ h
  intro a a₁ a₂ z hz
  split
  · exact trivial
  · split
    · exact hz
    · next e =>
        dsimp only
        split
        · exact (tryCommit_kept hz).some e
        · split
          · exact moveTo_kept ((tryCommit_kept hz).some e)
          · exact (tryCommit_kept hz).some e

theorem execAmsg_kept {a b} (h : Kept s₀ s) : OutKept s₀ (execAmsg a b s) := by
  unfold execAmsg
  refine issue_kept ?_ h
  intro a₁ a₂ a₃ z hz
  dsimp only
  split
  · exact trivial
  · split
    · exact trivial
    · exact buffered_kept hz

theorem execBarset_kept {a b} (h : Kept s₀ s) : OutKept s₀ (execBarset a b s) := by
  unfold execBarset
  refine issue_kept ?_ h
  intro a₁ a₂ a₃ z hz
  dsimp only
  split
  · exact trivial
  · split
    · exact trivial
    · exact buffered_kept hz

theorem execBarreg_kept {a} (h : Kept s₀ s) : OutKept s₀ (execBarreg a s) := by
  unfold execBarreg
  refine issue_kept ?_ h
  intro a₁ a₂ a₃ z hz
  split
  · exact trivial
  · split
    · exact hz
    · split
      · exact trivial
      · exact State.updThread_kept hz

theorem execBara_kept {a} (h : Kept s₀ s) : OutKept s₀ (execBara a s) := by
  unfold execBara
  refine issue_kept ?_ h
  intro a₁ a₂ a₃ z hz
  split
  · exact trivial
  · exact buffered_kept hz

theorem execBarw_kept {a b} (h : Kept s₀ s) : OutKept s₀ (execBarw a b s) := by
  unfold execBarw
  refine issue_kept ?_ h
  intro a₁ a₂ a₃ z hz
  split
  · exact trivial
  · split
    · exact hz
    · next e₁ => exact waitPhase_kept ((tryCommit_kept hz).some e₁)

theorem execBaraw_kept {a b} (h : Kept s₀ s) : OutKept s₀ (execBaraw a b s) := by
  unfold execBaraw
  refine issue_kept ?_ h
  intro a₁ a₂ a₃ z hz
  split
  · exact trivial
  · split
    · exact hz
    · next e₁ =>
        split
        · exact hz
        · exact waitPhase_kept (arrive_kept ((tryCommit_kept hz).some e₁))

theorem execRlock_kept {a} (h : Kept s₀ s) : OutKept s₀ (execRlock a s) := by
  unfold execRlock
  refine issue_kept ?_ h
  intro a₁ a₂ a₃ z hz
  dsimp only
  split
  · exact trivial
  · split
    · exact trivial
    · exact State.updThread_kept hz

theorem execRpre_kept {a} (h : Kept s₀ s) : OutKept s₀ (execRpre a s) := by
  unfold execRpre
  refine issue_kept ?_ h
  intro a₁ a₂ a₃ z hz
  dsimp only
  split
  · exact hz
  · split
    · exact cacheFor_kept hz
    · exact hz

theorem execLaunch_kept {d a la} (h : Kept s₀ s) : OutKept s₀ (execLaunch d a la s) := by
  unfold execLaunch
  refine issue_kept ?_ h
  intro a₁ a₂ a₃ z hz
  dsimp only
  split
  · next e => exact (readRecord_kept hz).stop e
  · split
    · exact hz
    · next e₁ =>
        split
        · exact hz
        · split
          · next e₃ => exact (readRecord_kept ((tryCommit_kept hz).some e₁)).stop e₃
          · next e₃ =>
              split
              · exact pendNow_kept ((readRecord_kept ((tryCommit_kept hz).some e₁)).ok e₃)
              · split
                · next e₅ => exact parkPageOn_kept ((tryCommit_kept hz).some e₅)
                · exact hz
              · exact trivial
              · exact hz
              · next e₄ => exact pendNow_kept ((launchWith_kept ((readRecord_kept ((tryCommit_kept hz).some e₁)).ok e₃)).ok e₄)

theorem execTeamPlacement_kept {c kernel} (h : Kept s₀ s) : OutKept s₀ (execTeamPlacement c kernel s) := by
  unfold execTeamPlacement
  change Kept s₀ _
  split
  · split
    · exact placeTeam_kept h
    · exact h
  · exact h

theorem execItemDistribution_kept {c kernel dist} (h : Kept s₀ s) : OutKept s₀ (execItemDistribution c kernel dist s) := by
  unfold execItemDistribution
  change Kept s₀ _
  split
  · split
    · exact ite_kept (distribute_kept h) h
    · exact h
  · exact h

theorem execWnext_kept {d la} (h : Kept s₀ s) : OutKept s₀ (execWnext d la s) := by
  unfold execWnext
  refine issue_kept ?_ h
  intro a a₁ a₂ z hz
  split
  · split
    · exact noLine_kept hz
    · dsimp only
      split
      · exact hz
      · split
        · exact hz
        · next e₂ => exact pendNow_kept (checkpointed_kept (claimItem_kept ((tryCommit_kept (finishItem_kept hz)).some e₂)))
  · exact pendNow_kept hz

theorem execSpawn_kept {d a b la} (h : Kept s₀ s) : OutKept s₀ (execSpawn d a b la s) := by
  unfold execSpawn
  refine issue_kept ?_ h
  intro a₁ a₂ a₃ z hz
  dsimp only
  split
  · exact trivial
  · split
    · exact pendNow_kept hz
    · split
      · exact pendNow_kept hz
      · split
        · exact hz
        · next e => exact askUnit_kept ((tryCommit_kept hz).some e)

theorem execSpawnAccept_kept {pkt} (h : Kept s₀ s) : OutKept s₀ (execSpawnAccept pkt s) := by
  unfold execSpawnAccept
  change Kept s₀ _
  split
  · exact h
  · split
    · dsimp only
      split
      · exact h
      · split
        · exact answerUnit_kept h
        · exact ite_kept (answerUnit_kept h) (answerUnit_kept (startChild_kept h))
    · exact h

theorem execHeapUpdate_kept {pkt} (h : Kept s₀ s) : OutKept s₀ (execHeapUpdate pkt s) := by
  unfold execHeapUpdate
  change Kept s₀ _
  split
  · exact h
  · split
    · dsimp only
      split
      · next e₃ => exact answerUnit_kept ((heapStep_kept h).ok e₃)
      · next e₃ => exact (heapStep_kept h).error e₃
    · exact h

theorem execHdrain_kept {d a b la} (h : Kept s₀ s) : OutKept s₀ (execHdrain d a b la s) := by
  unfold execHdrain
  refine issue_kept ?_ h
  intro a₁ a₂ a₃ z hz
  dsimp only
  split
  · exact trivial
  · split
    · exact trivial
    · exact parkPage_kept hz
    · exact heapForm_kept hz

theorem execSrrd_kept {d a b la} (h : Kept s₀ s) : OutKept s₀ (execSrrd d a b la s) := by
  unfold execSrrd
  refine issue_kept ?_ h
  intro a₁ a₂ a₃ z hz
  dsimp only
  split
  · exact pendNow_kept hz
  · exact hz

theorem execDispatch_kept {c kernel} (h : Kept s₀ s) : OutKept s₀ (execDispatch c kernel s) := by
  unfold execDispatch
  change Kept s₀ _
  split
  · exact h
  · split
    · exact h
    · split
      · exact h
      · split
        · exact dispatchTo_kept h
        · exact h

theorem execJset_kept {a b} (h : Kept s₀ s) : OutKept s₀ (execJset a b s) := by
  unfold execJset
  refine issue_kept ?_ h
  intro a₁ a₂ a₃ z hz
  split
  · exact hz
  · split
    · next e => exact (counterLook_kept hz).error e
    · exact buffered_kept hz

theorem execJdec_kept {a} (h : Kept s₀ s) : OutKept s₀ (execJdec a s) := by
  unfold execJdec
  refine issue_kept ?_ h
  intro a₁ a₂ a₃ z hz
  split
  · exact hz
  · split
    · next e => exact (counterLook_kept hz).error e
    · split <;> exact buffered_kept hz

theorem execJwait_kept {a} (h : Kept s₀ s) : OutKept s₀ (execJwait a s) := by
  unfold execJwait
  refine issue_kept ?_ h
  intro a₁ a₂ a₃ z hz
  dsimp only
  split
  · next e => exact (counterLook_kept hz).error e
  · split
    · exact hz
    · next e₁ => exact joinWait_kept ((tryCommit_kept hz).some e₁) hz

theorem execDonorResume_kept {p} (h : Kept s₀ s) : OutKept s₀ (execDonorResume p s) := by
  unfold execDonorResume
  change Kept s₀ _
  split
  · exact h
  · exact ite_kept (placeThread_kept (record_kept h)) h

theorem execQuit_kept (h : Kept s₀ s) : OutKept s₀ (execQuit s) := by
  unfold execQuit
  refine issue_kept ?_ h
  intro a a₁ a₂ z hz
  split
  · split
    · exact State.freeSlot_kept hz
    · exact hz
  · split
    · exact noLine_kept hz
    · dsimp only
      split
      · exact hz
      · split
        · exact hz
        · next e₁ =>
            split
            · next e₂ => exact (endTask_kept (retireThread_kept ((tryCommit_kept (finishItem_kept hz)).some e₁))).ok e₂
            · exact endAsks_kept hz

theorem execRlimq_kept {d a la} (h : Kept s₀ s) : OutKept s₀ (execRlimq d a la s) := by
  unfold execRlimq
  refine issue_kept ?_ h
  intro a₁ a₂ a₃ z hz
  split
  · exact hz
  · exact pendNow_kept hz

theorem execSlackDecrement_kept {pkt} (h : Kept s₀ s) : OutKept s₀ (execSlackDecrement pkt s) := by
  unfold execSlackDecrement
  change Kept s₀ _
  split
  · exact ite_kept (setPacket_kept h) h
  · exact h

theorem execLimiterAdmit_kept {pkt} (h : Kept s₀ s) : OutKept s₀ (execLimiterAdmit pkt s) := by
  unfold execLimiterAdmit
  change Kept s₀ _
  split
  · exact h
  · split
    · split
      · exact h
      · dsimp only
        split
        · exact moveOn_kept h
        · exact moveOn_kept h
        · split
          · exact moveOn_kept (State.setCtx_kept h)
          · exact h
    · exact h

theorem execTransmit_kept {peer plane tx} (h : Kept s₀ s) : OutKept s₀ (execTransmit peer plane tx s) := by
  unfold execTransmit
  dsimp only
  change Kept s₀ _
  split
  · exact h
  · split
    · exact h
    · exact ite_kept h (moveOn_kept (State.setDev_kept h rfl))

theorem execPerformPacket_kept {pkt} (h : Kept s₀ s) : OutKept s₀ (execPerformPacket pkt s) := by
  unfold execPerformPacket
  change Kept s₀ _
  split
  · exact h
  · dsimp only
    split
    · split
      · exact h
      · split
        · exact reply_kept h
        · split
          · exact h
          · split
            · exact performed_kept h
            · split
              · exact askMember_kept h
              · split
                · exact h
                · split
                  · exact ite_kept h (hold_kept h)
                  · split
                    · exact hostPerform_kept h
                    · exact performed_kept (countWrite_kept h)
    · split
      · exact h
      · split
        · exact reply_kept h
        · split
          · exact h
          · split
            · exact performed_kept h
            · split
              · exact askMember_kept h
              · split
                · exact h
                · split
                  · exact ite_kept h (hold_kept h)
                  · split
                    · exact hostPerform_kept h
                    · exact performed_kept (countWrite_kept h)
    · split
      · exact h
      · split
        · exact reply_kept h
        · split
          · exact h
          · split
            · exact performed_kept h
            · split
              · exact askMember_kept h
              · split
                · exact h
                · split
                  · exact ite_kept h (hold_kept h)
                  · split
                    · exact hostPerform_kept h
                    · exact performed_kept (countWrite_kept h)
    · split
      · exact h
      · split
        · exact reply_kept h
        · split
          · exact h
          · split
            · exact performed_kept h
            · split
              · exact askMember_kept h
              · split
                · exact h
                · split
                  · exact ite_kept h (hold_kept h)
                  · split
                    · exact hostPerform_kept h
                    · exact performed_kept (countWrite_kept h)

theorem execRemotePerform_kept {pkt} (h : Kept s₀ s) : OutKept s₀ (execRemotePerform pkt s) := by
  unfold execRemotePerform
  change Kept s₀ _
  split
  · exact h
  · split
    · exact h
    · split
      · exact reply_kept h
      · exact reply_kept h
      · exact reply_kept h
      · exact ite_kept (askMember_kept h) (ite_kept h (ite_kept (reply_kept h) (answerRead_kept h)))
      · exact ite_kept (parkFar_kept h) (ite_kept h (answerRead_kept (joinHome_kept h)))
      · exact ite_kept (parkFar_kept h) (ite_kept h (ite_kept (reply_kept h) (answerRead_kept h)))
      · dsimp only
        split
        · exact reply_kept h
        · split
          · exact h
          · split
            · exact performed_kept h
            · exact ite_kept (parkFar_kept h)
                  (ite_kept h (ite_kept (performed_kept (record_kept h)) (ite_kept (ite_kept h (hold_kept h)) (performed_kept h))))
      · exact h

theorem execAcknowledgement_kept {pkt lost} (h : Kept s₀ s) : OutKept s₀ (execAcknowledgement pkt lost s) := by
  unfold execAcknowledgement
  change Kept s₀ _
  split
  · exact h
  · exact ite_kept h (ite_kept (ite_kept h (ite_kept (dropPacket_kept h) (setPacket_kept h))) (ite_kept h
        (releaseHeld_kept (settlePacket_kept (ite_kept (noteLate_kept h) h)))))

theorem execRetransmit_kept {pkt} (h : Kept s₀ s) : OutKept s₀ (execRetransmit pkt s) := by
  unfold execRetransmit
  change Kept s₀ _
  split
  · exact h
  · split
    · exact h
    · dsimp only
      exact ite_kept (setPacket_kept (atQueue_kept (routed_kept h)))
          (record_kept (atQueue_kept (State.fresh_kept (setPacket_kept (routed_kept h)))))

theorem execResultArrival_kept {pkt} (h : Kept s₀ s) : OutKept s₀ (execResultArrival pkt s) := by
  unfold execResultArrival
  change Kept s₀ _
  split
  · exact h
  · split
    · exact h
    · dsimp only
      refine releaseHeld_kept ?_
      split
      · exact arriveBytes_kept h
      · exact arriveAt_kept h
      · exact settlePacket_kept h

theorem execBarrierArrival_kept {pkt} (h : Kept s₀ s) : OutKept s₀ (execBarrierArrival pkt s) := by
  unfold execBarrierArrival
  change Kept s₀ _
  split
  · exact h
  · split
    · exact barrierCount_kept (dropPacket_kept h)
    · exact h

theorem execStatisticsGather_kept {c bar} (h : Kept s₀ s) : OutKept s₀ (execStatisticsGather c bar s) := by
  unfold execStatisticsGather
  change Kept s₀ _
  split
  · exact h
  · exact ite_kept h (zeroCounters_kept (setBarrier_kept h))

theorem execStatisticsFlip_kept {c bar} (h : Kept s₀ s) : OutKept s₀ (execStatisticsFlip c bar s) := by
  unfold execStatisticsFlip
  change Kept s₀ _
  split
  · exact h
  · dsimp only
    split
    · split
      · next e₂ => exact (Put.orWait_kept h (writeStat_kept h)).error e₂
      · next e₂ => exact wakeBarrier_kept (setBarrier_kept ((Put.orWait_kept h (writeStat_kept h)).ok e₂))
    · exact h

theorem execCommitRegion_kept {p} (h : Kept s₀ s) : OutKept s₀ (execCommitRegion p s) := by
  unfold execCommitRegion
  change Kept s₀ _
  split
  · exact h
  · exact ite_kept h (getD_kept h (tryCommit_kept h))

theorem execTokenStep_kept {p} (h : Kept s₀ s) : OutKept s₀ (execTokenStep p s) := by
  unfold execTokenStep
  change Kept s₀ _
  split
  · exact h
  · exact ite_kept h (ite_kept (giveToken_kept h) (ite_kept (giveToken_kept h) h))

theorem execPinBudget_kept {p} (h : Kept s₀ s) : OutKept s₀ (execPinBudget p s) := by
  unfold execPinBudget
  change Kept s₀ _
  split
  · exact h
  · exact ite_kept (elim_kept (drain_kept (cancelMigs_kept (State.setThread_kept h))) (fun _ => parkFault_kept
        (drain_kept (cancelMigs_kept (State.setThread_kept h))))) h

theorem execWindowSpill_kept {p} (h : Kept s₀ s) : OutKept s₀ (execWindowSpill p s) := by
  unfold execWindowSpill
  change Kept s₀ _
  split
  · exact h
  · split
    · exact h
    · split
      · next e₂ => exact (spillFrame_kept h).ok e₂
      · exact h

theorem execWindowFill_kept {p} (h : Kept s₀ s) : OutKept s₀ (execWindowFill p s) := by
  unfold execWindowFill
  change Kept s₀ _
  split
  · exact h
  · exact ite_kept (getD_kept h (fillFrame_kept h)) h

theorem execWalkComplete_kept {p va} (h : Kept s₀ s) : OutKept s₀ (execWalkComplete p va s) := by
  unfold execWalkComplete
  change Kept s₀ _
  split
  · exact h
  · dsimp only
    split
    · exact h
    · split
      · exact h
      · split
        · exact cacheFor_kept h
        · exact h

theorem execActiveMessage_kept {c} (h : Kept s₀ s) : OutKept s₀ (execActiveMessage c s) := by
  unfold execActiveMessage
  dsimp only
  change Kept s₀ _
  split
  · split
    · exact h
    · split
      · exact State.updCore_kept h
      · exact State.setThread_kept (State.fresh_kept (State.updCore_kept h))
  · exact h

theorem execHandlerInstructionLimit_kept {c} (h : Kept s₀ s) : OutKept s₀ (execHandlerInstructionLimit c s) := by
  unfold execHandlerInstructionLimit
  dsimp only
  change Kept s₀ _
  split
  · exact ite_kept (endHandler_kept h) h
  · exact h

theorem execMigrationDepart_kept {p} (h : Kept s₀ s) : OutKept s₀ (execMigrationDepart p s) := by
  unfold execMigrationDepart
  change Kept s₀ _
  split
  · exact h
  · split
    · exact depart_kept h
    · exact h

theorem execMigrationArrival_kept {mid} (h : Kept s₀ s) : OutKept s₀ (execMigrationArrival mid s) := by
  unfold execMigrationArrival
  change Kept s₀ _
  split
  · exact h
  · split
    · exact h
    · split
      · exact h
      · dsimp only
        split
        · exact land_kept (uncarry_kept h)
        · split
          · exact raise_kept (land_kept (uncarry_kept h))
          · split
            · next e₃ => exact land_kept ((arrivalAccess_kept (uncarry_kept h)).ok e₃)
            · exact raise_kept (land_kept (uncarry_kept h))
            · exact landParked_kept (uncarry_kept h)
            · exact h

theorem execDisplacementArrival_kept {mid} (h : Kept s₀ s) : OutKept s₀ (execDisplacementArrival mid s) := by
  unfold execDisplacementArrival
  change Kept s₀ _
  split
  · exact h
  · exact ite_kept h (placeThread_kept (freeArrival_kept (record_kept (uncarry_kept h))))

theorem execEvrd_kept {d a la} (h : Kept s₀ s) : OutKept s₀ (execEvrd d a la s) := by
  unfold execEvrd
  refine issue_kept ?_ h
  intro a₁ a₂ a₃ z hz
  dsimp only
  split
  · next e => exact (checkVa_kept hz).some e
  · refine commitThen_kept hz ?_
    intro z₁ a₄ hz₁
    split
    · exact pendNow_kept hz₁
    · next e₁ => exact writeThen_kept hz ((takeRecord_kept hz₁).some e₁)

theorem execEvwait_kept {d a b la} (h : Kept s₀ s) : OutKept s₀ (execEvwait d a b la s) := by
  unfold execEvwait
  refine issue_kept ?_ h
  intro a₁ a₂ a₃ z hz
  dsimp only
  split
  · next e => exact (checkVa_kept hz).some e
  · refine commitThen_kept hz ?_
    intro z₁ a₄ hz₁
    split
    · exact pendNow_kept hz₁
    · split
      · exact eventWait_kept hz₁
      · next e₁ => exact writeThen_kept hz (pickEvent_kept hz₁ e₁)

theorem execTnonce_kept {d a la} (h : Kept s₀ s) : OutKept s₀ (execTnonce d a la s) := by
  unfold execTnonce
  refine issue_kept ?_ h
  intro a₁ a₂ a₃ z hz
  dsimp only
  split
  · next e => exact (checkVa_kept hz).some e
  · exact commitThen_kept hz (fun _ _ hz₁ => writeThen_kept hz (drawNonce_kept hz₁))

theorem execCaprd_kept {d a b la} (h : Kept s₀ s) : OutKept s₀ (execCaprd d a b la s) := by
  unfold execCaprd
  refine issue_kept ?_ h
  intro a₁ a₂ a₃ z hz
  dsimp only
  split
  · next e => exact (checkVa_kept hz).some e
  · refine commitThen_kept hz ?_
    intro z₁ a₄ hz₁
    split
    · exact pendNow_kept hz₁
    · exact writeThen_kept hz hz₁

theorem execPageArrival_kept {c page} (h : Kept s₀ s) : OutKept s₀ (execPageArrival c page s) := by
  unfold execPageArrival
  change Kept s₀ _
  split
  · exact h
  · split
    · exact ite_kept (bringPage_kept h) h
    · exact h

theorem execPageResponse_kept {c fn gen page bytes} (h : Kept s₀ s) : OutKept s₀ (execPageResponse c fn gen page bytes s) := by
  unfold execPageResponse
  dsimp only
  change Kept s₀ _
  split
  · exact State.setDev_kept h rfl
  · split
    · exact h
    · split
      · exact ite_kept (bringPage_kept (State.writes_kept (State.setCtx_kept h))) h
      · exact h

theorem execPageMoveComplete_kept {c page} (h : Kept s₀ s) : OutKept s₀ (execPageMoveComplete c page s) := by
  unfold execPageMoveComplete
  change Kept s₀ _
  split
  · exact h
  · split
    · split
      · next e₁ => exact settleOwed_kept (State.updCtx_kept ((evictPage_kept h).some e₁))
      · exact h
    · exact h

theorem execScfg_kept {d a b la} (h : Kept s₀ s) : OutKept s₀ (execScfg d a b la s) := by
  unfold execScfg
  refine issue_kept ?_ h
  intro a₁ a₂ a₃ z hz
  dsimp only
  split
  · exact give_kept hz
  · split
    · exact trivial
    · split
      · exact give_kept hz
      · split
        · split
          · exact give_kept hz
          · exact give_kept (State.setStream_kept (dropFetched_kept hz))
        · split
          · exact give_kept hz
          · split
            · split
              · exact give_kept hz
              · exact give_kept (State.setStream_kept hz)
            · split
              · exact give_kept hz
              · exact give_kept (State.setStream_kept hz)

theorem execSbnd_kept {d a b la} (h : Kept s₀ s) : OutKept s₀ (execSbnd d a b la s) := by
  unfold execSbnd
  refine issue_kept ?_ h
  intro a₁ a₂ a₃ z hz
  split
  · exact hz
  · split
    · next e => exact (readRecord_kept hz).stop e
    · next e =>
        split
        · exact give_kept ((readRecord_kept hz).ok e)
        · dsimp only
          split
          · exact give_kept ((readRecord_kept hz).ok e)
          · exact give_kept (State.setStream_kept (dropFetched_kept ((readRecord_kept hz).ok e)))

theorem execSmap_kept {d a b la} (h : Kept s₀ s) : OutKept s₀ (execSmap d a b la s) := by
  unfold execSmap
  refine issue_kept ?_ h
  intro a₁ a₂ a₃ z hz
  dsimp only
  split
  · exact give_kept hz
  · split
    · exact give_kept hz
    · refine give_kept ?_
      refine State.setStream_kept ?_
      split
      · exact State.setStream_kept hz
      · exact hz

theorem execSunmap_kept {d a la} (h : Kept s₀ s) : OutKept s₀ (execSunmap d a la s) := by
  unfold execSunmap
  refine issue_kept ?_ h
  intro a₁ a₂ a₃ z hz
  dsimp only
  refine give_kept ?_
  split
  · exact State.setStream_kept (dropFetched_kept hz)
  · exact hz

theorem execSqry_kept {d a la} (h : Kept s₀ s) : OutKept s₀ (execSqry d a la s) := by
  unfold execSqry
  refine issue_kept ?_ h
  intro a₁ a₂ a₃ z hz
  dsimp only
  split <;> exact give_kept hz

theorem execCpy_kept {d a b q ct} (h : Kept s₀ s) : OutKept s₀ (execCpy d a b q ct s) := by
  unfold execCpy
  refine issue_kept ?_ h
  intro a₁ a₂ a₃ z hz
  dsimp only
  split
  · exact trivial
  · exact bufferCmd_kept hz

theorem execCsrr_kept {d csr} (h : Kept s₀ s) : OutKept s₀ (execCsrr d csr s) := by
  unfold execCsrr
  refine issue_kept ?_ h
  intro a a₁ a₂ z hz
  split
  · exact trivial
  · split
    · exact trivial
    · exact State.writeReg_kept hz

theorem execCsrw_kept {a csr} (h : Kept s₀ s) : OutKept s₀ (execCsrw a csr s) := by
  unfold execCsrw
  exact csrSet_kept h

theorem execCsrc_kept {a csr} (h : Kept s₀ s) : OutKept s₀ (execCsrc a csr s) := by
  unfold execCsrc
  exact csrSet_kept h

theorem execMclaim_kept {d a b la} (h : Kept s₀ s) : OutKept s₀ (execMclaim d a b la s) := by
  unfold execMclaim
  refine issue_kept ?_ h
  intro a₁ a₂ a₃ z hz
  dsimp only
  split
  · exact give_kept hz
  · split
    · exact give_kept hz
    · split
      · exact give_kept hz
      · exact give_kept (State.updCore_kept hz)

theorem execMrel_kept {d a b la} (h : Kept s₀ s) : OutKept s₀ (execMrel d a b la s) := by
  unfold execMrel
  refine issue_kept ?_ h
  intro a₁ a₂ a₃ z hz
  dsimp only
  split
  · exact give_kept hz
  · split
    · exact give_kept hz
    · exact bufferGive_kept hz

theorem execMfmt_kept {d a b la} (h : Kept s₀ s) : OutKept s₀ (execMfmt d a b la s) := by
  unfold execMfmt
  refine issue_kept ?_ h
  intro a₁ a₂ a₃ z hz
  dsimp only
  split
  · exact give_kept hz
  · exact issuePinned_kept hz (fun _ _ _ _ hz₁ => give_kept (csrWrite_kept hz₁))

theorem execMscl_kept {d a b la} (h : Kept s₀ s) : OutKept s₀ (execMscl d a b la s) := by
  unfold execMscl
  refine issue_kept ?_ h
  intro a₁ a₂ a₃ z hz
  dsimp only
  split
  · exact trivial
  · split
    · exact give_kept hz
    · exact issuePinned_kept hz (fun _ _ _ _ hz₁ => give_kept (csrWrite_kept hz₁))

theorem execMrd_kept {c a b} (h : Kept s₀ s) : OutKept s₀ (execMrd c a b s) := by
  unfold execMrd
  dsimp only
  refine issue_kept ?_ h
  intro a₁ a₂ a₃ z hz
  split
  · exact trivial
  · exact bufferCmd_kept hz

theorem execMzero_kept {cd} (h : Kept s₀ s) : OutKept s₀ (execMzero cd s) := by
  unfold execMzero
  dsimp only
  refine issue_kept ?_ h
  intro a a₁ a₂ z hz
  split
  · exact trivial
  · exact bufferCmd_kept hz

theorem execMcvt_kept {d a b la} (h : Kept s₀ s) : OutKept s₀ (execMcvt d a b la s) := by
  unfold execMcvt
  refine issue_kept ?_ h
  intro a₁ a₂ a₃ z hz
  dsimp only
  split
  · exact trivial
  · split
    · split
      · exact give_kept hz
      · exact bufferGive_kept hz
    · split
      · split
        · exact give_kept hz
        · exact bufferGive_kept hz
      · split
        · exact give_kept hz
        · exact bufferGive_kept hz

theorem execMgemm_kept {d a b la} (h : Kept s₀ s) : OutKept s₀ (execMgemm d a b la s) := by
  unfold execMgemm
  refine issue_kept ?_ h
  intro a₁ a₂ a₃ z hz
  dsimp only
  split
  · exact trivial
  · split
    · exact give_kept hz
    · split
      · exact give_kept hz
      · exact bufferGive_kept hz

theorem execMwait_kept (h : Kept s₀ s) : OutKept s₀ (execMwait s) := by
  unfold execMwait
  refine issue_kept ?_ h
  intro a a₁ a₂ z hz
  split <;> exact hz

theorem execCommandStart_kept {cid} (h : Kept s₀ s) : OutKept s₀ (execCommandStart cid s) := by
  unfold execCommandStart
  refine stepTo_kept ?_
  split
  · exact ite_kept (cmdStart_kept h) h
  · exact h

theorem execCommandRead_kept {cid n} (h : Kept s₀ s) : OutKept s₀ (execCommandRead cid n s) := by
  unfold execCommandRead
  refine stepTo_kept ?_
  split
  · exact ite_kept (cmdRead_kept h) h
  · exact h

theorem execExternalWrite_kept {src} (h : Kept s₀ s) : OutKept s₀ (execExternalWrite src s) := by
  unfold execExternalWrite
  refine stepTo_kept ?_
  split
  · split
    · exact ite_kept (cmdWrite_kept h) h
    · exact h
  · exact hostWrite_kept h

theorem execCommandComplete_kept {cid} (h : Kept s₀ s) : OutKept s₀ (execCommandComplete cid s) := by
  unfold execCommandComplete
  refine stepTo_kept ?_
  split
  · exact ite_kept (ite_kept h (removeCmd_kept h)) (ite_kept (cmdComplete_kept h) h)
  · exact h

theorem execMgemmStep_kept {c} (h : Kept s₀ s) : OutKept s₀ (execMgemmStep c s) := by
  unfold execMgemmStep
  refine stepTo_kept ?_
  split
  · exact ite_kept (gemmStep_kept h) h
  · exact h

theorem execMgemmDrain_kept {c} (h : Kept s₀ s) : OutKept s₀ (execMgemmDrain c s) := by
  unfold execMgemmDrain
  refine stepTo_kept ?_
  split
  · exact ite_kept (gemmDrain_kept h) h
  · exact h

theorem execCkpt_kept {d a b la} (h : Kept s₀ s) : OutKept s₀ (execCkpt d a b la s) := by
  unfold execCkpt
  refine issue_kept ?_ h
  intro a₁ a₂ a₃ z hz
  dsimp only
  split
  · next e => exact (checkVa_kept hz).some e
  · refine commitThen_kept hz ?_
    intro z₁ a₄ hz₁
    split
    · exact pendNow_kept hz₁
    · split
      · exact pendNow_kept hz₁
      · exact writeThen_kept hz hz₁

theorem execRingRegisterWrite_kept {peer fn reg v} (h : Kept s₀ s) : OutKept s₀ (execRingRegisterWrite peer fn reg v s) := by
  unfold execRingRegisterWrite
  dsimp only
  change Kept s₀ _
  split
  · exact ringError_kept h
  · exact flushEntries_kept (State.setDoor_kept h)

theorem execRedeemRequest_kept {m} (h : Kept s₀ s) : OutKept s₀ (execRedeemRequest m s) := by
  unfold execRedeemRequest
  change Kept s₀ _
  split
  · exact h
  · split
    · split
      · next e₂ => exact sendMsg_kept ((homeReserve_kept (dropMsg_kept h)).ok e₂)
      · exact sendMsg_kept (dropMsg_kept h)
    · exact h

theorem execRedemptionCommit_kept {m} (h : Kept s₀ s) : OutKept s₀ (execRedemptionCommit m s) := by
  unfold execRedemptionCommit
  change Kept s₀ _
  split
  · exact h
  · split
    · exact State.updWindow_kept (dropMsg_kept h)
    · exact h

theorem execRedemptionCancel_kept {m} (h : Kept s₀ s) : OutKept s₀ (execRedemptionCancel m s) := by
  unfold execRedemptionCancel
  change Kept s₀ _
  split
  · exact h
  · split
    · exact State.updWindow_kept (dropMsg_kept h)
    · exact h

theorem execReservationHoldExpiry_kept {home key serial requester} (h : Kept s₀ s) : OutKept s₀
    (execReservationHoldExpiry home key serial requester s) := by
  unfold execReservationHoldExpiry
  change Kept s₀ _
  split
  · exact h
  · split
    · exact State.updWindow_kept h
    · exact h

theorem execContextExpiry_kept {c} (h : Kept s₀ s) : OutKept s₀ (execContextExpiry c s) := by
  unfold execContextExpiry
  change Kept s₀ _
  split
  · exact ite_kept (stopNow_kept h) h
  · exact h

theorem execEccError_kept {e} (h : Kept s₀ s) : OutKept s₀ (execEccError e s) := by
  unfold execEccError
  change Kept s₀ _
  split
  · exact State.setDev_kept h rfl
  · split
    · exact errorReport_kept (memoryError_kept (record_kept h))
    · exact h
  · split
    · exact h
    · exact ite_kept (memoryError_kept h) (abortPlace_kept h)
  · exact memoryError_kept h

theorem execHostResume_kept {c} (h : Kept s₀ s) : OutKept s₀ (execHostResume c s) := by
  unfold execHostResume
  dsimp only
  change Kept s₀ _
  split
  · exact ite_kept (goLive_kept (showCmd_kept h)) (showCmd_kept h)
  · exact showCmd_kept h

theorem execHostLiveMigrate_kept {c target} (h : Kept s₀ s) : OutKept s₀ (execHostLiveMigrate c target s) := by
  unfold execHostLiveMigrate
  dsimp only
  change Kept s₀ _
  split
  · exact ite_kept (showCmd_kept h) (ite_kept (getD_kept (State.setCtx_kept (showCmd_kept h))
        (writeWhole_kept (State.setCtx_kept (showCmd_kept h)))) (stopNow_kept (State.setCtx_kept (showCmd_kept h))))
  · exact showCmd_kept h

theorem execLiveMigrationRelease_kept {c} (h : Kept s₀ s) : OutKept s₀ (execLiveMigrationRelease c s) := by
  unfold execLiveMigrationRelease
  change Kept s₀ _
  split
  · exact ite_kept (surrender_kept (State.setCtx_kept h)) h
  · exact h

theorem execOrphanTimeout_kept {c} (h : Kept s₀ s) : OutKept s₀ (execOrphanTimeout c s) := by
  unfold execOrphanTimeout
  change Kept s₀ _
  split
  · exact ite_kept (stopNow_kept h) h
  · exact h

theorem execSlotReclaim_kept {victim} (h : Kept s₀ s) : OutKept s₀ (execSlotReclaim victim s) := by
  unfold execSlotReclaim
  change Kept s₀ _
  split
  · exact h
  · exact ite_kept (getD_kept h (releaseSlot_kept h)) (ite_kept (getD_kept h (reclaimFor_kept h)) h)

theorem execSlotReturn_kept {c} (h : Kept s₀ s) : OutKept s₀ (execSlotReturn c s) := by
  unfold execSlotReturn
  change Kept s₀ _
  split
  · exact h
  · split
    · exact h
    · split
      · next e₁ => exact (loadNext_kept h).some e₁
      · split
        · exact h
        · next e₂ =>
            split
            · exact getD_kept ((gainSlot_kept h).some e₂) (loadNext_kept ((gainSlot_kept h).some e₂))
            · exact (gainSlot_kept h).some e₂

theorem execLiveMigrationImage_kept {c target} (h : Kept s₀ s) : OutKept s₀ (execLiveMigrationImage c target s) := by
  unfold execLiveMigrationImage
  change Kept s₀ _
  split
  · exact h
  · split
    · exact h
    · split
      · exact h
      · exact goLive_kept (State.updCtx_kept (State.capUpdate_kept
            (copyCores_kept (fillSpans_kept (copyPages_kept (enterCtx_kept h)))) (fun _ => rfl)))

theorem execWaccept_kept {d a b la} (h : Kept s₀ s) : OutKept s₀ (execWaccept d a b la s) := by
  unfold execWaccept
  refine issue_kept ?_ h
  intro a₁ a₂ a₃ z hz
  dsimp only
  split
  · next e => exact (checkVa_kept hz).some e
  · exact commitThen_kept hz (fun _ _ hz₁ => acceptAct_kept hz hz₁)

theorem execRedeemReply_kept {m} (h : Kept s₀ s) : OutKept s₀ (execRedeemReply m s) := by
  unfold execRedeemReply
  change Kept s₀ _
  split
  · exact h
  · dsimp only
    split
    · exact ite_kept (refuseLate_kept (dropMsg_kept h)) (answerPres_kept (closeWarrant_kept (dropPres_kept (dropMsg_kept h))))
    · exact sendMsg_kept (dropMsg_kept h)
    · exact ite_kept (refuseLate_kept (dropMsg_kept h)) (answerPres_kept (dropPres_kept (dropMsg_kept h)))
    · exact dropMsg_kept h
    · exact h

theorem execRedeemTimeout_kept {peer pres} (h : Kept s₀ s) : OutKept s₀ (execRedeemTimeout peer pres s) := by
  unfold execRedeemTimeout
  change Kept s₀ _
  split
  · exact h
  · exact ite_kept (refuseLate_kept h) h

theorem execWsplit_kept {d a b la} (h : Kept s₀ s) : OutKept s₀ (execWsplit d a b la s) := by
  unfold execWsplit
  refine issue_kept ?_ h
  intro a₁ a₂ a₃ z hz
  dsimp only
  split
  · next e => exact (checkVa_kept hz).some e
  · exact commitThen_kept hz (fun _ _ hz₁ => splitAct_kept hz hz₁)

theorem execWdeleg_kept {d a b la} (h : Kept s₀ s) : OutKept s₀ (execWdeleg d a b la s) := by
  unfold execWdeleg
  refine issue_kept ?_ h
  intro a₁ a₂ a₃ z hz
  dsimp only
  split
  · next e => exact (checkVa_kept hz).some e
  · exact commitThen_kept hz (fun _ _ hz₁ => delegAct_kept hz hz₁)

theorem execWsurr_kept {d a b la} (h : Kept s₀ s) : OutKept s₀ (execWsurr d a b la s) := by
  unfold execWsurr
  refine issue_kept ?_ h
  intro a₁ a₂ a₃ z hz
  dsimp only
  split
  · exact commitThen_kept hz (fun _ _ hz₁ => surrenderAct_kept hz₁)
  · split
    · next e => exact (checkVa_kept hz).some e
    · exact commitThen_kept hz (fun _ _ hz₁ => partAct_kept hz hz₁)

theorem execJr_kept {a} (h : Kept s₀ s) : OutKept s₀ (execJr a s) := by
  unfold execJr
  refine issue_kept ?_ h
  intro a₁ a₂ a₃ z hz
  split
  · exact trivial
  · exact hz

theorem execCallr_kept {a} (h : Kept s₀ s) : OutKept s₀ (execCallr a s) := by
  unfold execCallr
  refine issue_kept ?_ h
  intro a₁ a₂ a₃ z hz
  split
  · exact trivial
  · exact callTo_kept hz

theorem execRpt_kept {len1 mask stp a} (h : Kept s₀ s) : OutKept s₀ (execRpt len1 mask stp a s) := by
  unfold execRpt
  refine issue_kept ?_ h
  intro a₁ a₂ a₃ z hz
  split
  · exact trivial
  · exact parkPage_kept hz
  · split
    · exact trivial
    · exact startReplay_kept hz

theorem execEret_kept (h : Kept s₀ s) : OutKept s₀ (execEret s) := by
  unfold execEret
  refine issue_kept ?_ h
  intro a a₁ a₂ z hz
  split
  · exact trivial
  · dsimp only
    split
    · split
      · exact startReplay_kept (State.setThread_kept hz)
      · split
        · exact raise_kept (State.setThread_kept hz)
        · exact hz
      · exact parkPage_kept hz
    · exact State.setThread_kept hz

theorem execWflush_kept (h : Kept s₀ s) : OutKept s₀ (execWflush s) := by
  unfold execWflush
  refine issue_kept ?_ h
  intro a a₁ a₂ z hz
  split
  · next e => exact (flushFrames_kept hz).ok e
  · exact hz
  · exact trivial

theorem execIllegalInstruction_kept {word} (h : Kept s₀ s) : OutKept s₀ (execIllegalInstruction word s) := by
  unfold execIllegalInstruction
  split
  · exact trivial
  · exact raise_kept h

theorem execFetchFault_kept {code va} (h : Kept s₀ s) : OutKept s₀ (execFetchFault code va s) := by
  unfold execFetchFault
  split
  · exact trivial
  · exact raise_kept h

theorem execAddv_kept {w d a b} (h : Kept s₀ s) : OutKept s₀ (execAddv w d a b s) := by
  unfold execAddv
  exact rrrT_kept h

theorem execSubv_kept {w d a b} (h : Kept s₀ s) : OutKept s₀ (execSubv w d a b s) := by
  unfold execSubv
  exact rrrT_kept h

theorem execShl_kept {w d a b} (h : Kept s₀ s) : OutKept s₀ (execShl w d a b s) := by
  unfold execShl
  exact rrr_kept h

theorem execShr_kept {w d a b} (h : Kept s₀ s) : OutKept s₀ (execShr w d a b s) := by
  unfold execShr
  exact rrr_kept h

theorem execSra_kept {w d a b} (h : Kept s₀ s) : OutKept s₀ (execSra w d a b s) := by
  unfold execSra
  exact rrr_kept h

theorem execRol_kept {w d a b} (h : Kept s₀ s) : OutKept s₀ (execRol w d a b s) := by
  unfold execRol
  exact rrr_kept h

theorem execSeq_kept {w d a b} (h : Kept s₀ s) : OutKept s₀ (execSeq w d a b s) := by
  unfold execSeq
  exact rrr_kept h

theorem execSne_kept {w d a b} (h : Kept s₀ s) : OutKept s₀ (execSne w d a b s) := by
  unfold execSne
  exact rrr_kept h

theorem execSlt_kept {w d a b} (h : Kept s₀ s) : OutKept s₀ (execSlt w d a b s) := by
  unfold execSlt
  exact rrr_kept h

theorem execSltu_kept {w d a b} (h : Kept s₀ s) : OutKept s₀ (execSltu w d a b s) := by
  unfold execSltu
  exact rrr_kept h

theorem execAddi_kept {d a imm} (h : Kept s₀ s) : OutKept s₀ (execAddi d a imm s) := by
  unfold execAddi
  exact rr_kept h

theorem execAndi_kept {d a imm} (h : Kept s₀ s) : OutKept s₀ (execAndi d a imm s) := by
  unfold execAndi
  exact rr_kept h

theorem execOri_kept {d a imm} (h : Kept s₀ s) : OutKept s₀ (execOri d a imm s) := by
  unfold execOri
  exact rr_kept h

theorem execXori_kept {d a imm} (h : Kept s₀ s) : OutKept s₀ (execXori d a imm s) := by
  unfold execXori
  exact rr_kept h

theorem execSlti_kept {d a imm} (h : Kept s₀ s) : OutKept s₀ (execSlti d a imm s) := by
  unfold execSlti
  exact rr_kept h

theorem execShli_kept {w d a amt} (h : Kept s₀ s) : OutKept s₀ (execShli w d a amt s) := by
  unfold execShli
  exact rr_kept h

theorem execShri_kept {w d a amt} (h : Kept s₀ s) : OutKept s₀ (execShri w d a amt s) := by
  unfold execShri
  exact rr_kept h

theorem execSrai_kept {w d a amt} (h : Kept s₀ s) : OutKept s₀ (execSrai w d a amt s) := by
  unfold execSrai
  exact rr_kept h

theorem execBfx_kept {d a width1 pos} (h : Kept s₀ s) : OutKept s₀ (execBfx d a width1 pos s) := by
  unfold execBfx
  exact rr_kept h

theorem execBfxs_kept {d a width1 pos} (h : Kept s₀ s) : OutKept s₀ (execBfxs d a width1 pos s) := by
  unfold execBfxs
  exact rr_kept h

theorem execBfi_kept {d a width1 pos} (h : Kept s₀ s) : OutKept s₀ (execBfi d a width1 pos s) := by
  unfold execBfi
  exact rrrd_kept h

theorem execLi_kept {d imm} (h : Kept s₀ s) : OutKept s₀ (execLi d imm s) := by
  unfold execLi
  exact compute_kept h

theorem execLih_kept {d imm} (h : Kept s₀ s) : OutKept s₀ (execLih d imm s) := by
  unfold execLih
  exact compute_kept h

theorem execAddpc_kept {d imm} (h : Kept s₀ s) : OutKept s₀ (execAddpc d imm s) := by
  unfold execAddpc
  exact compute_kept h

theorem execQueueOperation_kept {pkt} (h : Kept s₀ s) : OutKept s₀ (execQueueOperation pkt s) := by
  unfold execQueueOperation
  change Kept s₀ _
  split
  · exact h
  · split
    · split
      · exact h
      · dsimp only
        split
        · next e₃ => exact answerUnit_kept (fst_kept e₃ (queueStep_kept h))
        · next e₃ => exact fst_kept e₃ (queueStep_kept h)
    · exact h

theorem execGovernorLend_kept {peer dist pipe stage} (h : Kept s₀ s) : OutKept s₀ (execGovernorLend peer dist pipe stage s) := by
  unfold execGovernorLend
  change Kept s₀ _
  split
  · exact h
  · exact ite_kept h (lendTo_kept h)

theorem execGovernorReturn_kept {peer dist pipe stage} (h : Kept s₀ s) : OutKept s₀ (execGovernorReturn peer dist pipe stage s) :=
    by
  unfold execGovernorReturn
  change Kept s₀ _
  split
  · exact h
  · exact ite_kept h (returnFromStage_kept h)

theorem execQmake_kept {d a b la} (h : Kept s₀ s) : OutKept s₀ (execQmake d a b la s) := by
  unfold execQmake
  refine issue_kept ?_ h
  intro a₁ a₂ a₃ z hz
  dsimp only
  split
  · exact trivial
  · exact parkPage_kept hz
  · exact queueForm_kept hz

theorem execQdeq_kept {d a b la} (h : Kept s₀ s) : OutKept s₀ (execQdeq d a b la s) := by
  unfold execQdeq
  refine issue_kept ?_ h
  intro a₁ a₂ a₃ z hz
  split
  · next e => exact (recordVa_kept hz).some e
  · exact queueForm_kept hz

theorem execQsteal_kept {d a b la} (h : Kept s₀ s) : OutKept s₀ (execQsteal d a b la s) := by
  unfold execQsteal
  refine issue_kept ?_ h
  intro a₁ a₂ a₃ z hz
  split
  · next e => exact (recordVa_kept hz).some e
  · exact queueForm_kept hz

theorem execGovset_kept {d a b la} (h : Kept s₀ s) : OutKept s₀ (execGovset d a b la s) := by
  unfold execGovset
  refine issue_kept ?_ h
  intro a₁ a₂ a₃ z hz
  dsimp only
  split
  · exact queueForm_kept hz
  · split
    · exact trivial
    · split
      · exact trivial
      · exact parkPage_kept hz
      · exact queueForm_kept hz

/-- No instruction and no event but an enrolment and a revocation changes a key (R118). -/
theorem exec_kept {i : Instr} (h : Kept s₀ s)
    (hi : ∀ peer fn record tag, i ≠ .enrolment peer fn record tag ∧ i ≠ .revocation peer fn record tag) :
    OutKept s₀ (exec i s) := by
  cases i
  case add | sub | mul | mulh | mulhu | div | divu | rem | remu | min | max | minu | maxu | and | or | xor | andn =>
    exact rrr_kept h
  case addv =>
    exact execAddv_kept h
  case subv =>
    exact execSubv_kept h
  case madd | sel =>
    exact rrrd_kept h
  case divv =>
    exact rrrT_kept h
  case abs | clz | ctz | popc | brev =>
    exact rr_kept h
  case shl =>
    exact execShl_kept h
  case shr =>
    exact execShr_kept h
  case sra =>
    exact execSra_kept h
  case rol =>
    exact execRol_kept h
  case seq =>
    exact execSeq_kept h
  case sne =>
    exact execSne_kept h
  case slt =>
    exact execSlt_kept h
  case sltu =>
    exact execSltu_kept h
  case addi =>
    exact execAddi_kept h
  case andi =>
    exact execAndi_kept h
  case ori =>
    exact execOri_kept h
  case xori =>
    exact execXori_kept h
  case slti =>
    exact execSlti_kept h
  case shli =>
    exact execShli_kept h
  case shri =>
    exact execShri_kept h
  case srai =>
    exact execSrai_kept h
  case bfx =>
    exact execBfx_kept h
  case bfxs =>
    exact execBfxs_kept h
  case bfi =>
    exact execBfi_kept h
  case li =>
    exact execLi_kept h
  case lih =>
    exact execLih_kept h
  case addpc =>
    exact execAddpc_kept h
  case ldl =>
    exact compute_kept h
  case fadd | fsub | fmul | fdiv | fmin | fmax =>
    exact fff_kept h
  case fmadd | fcmpeq | fcmplt | fcmple =>
    exact computeF_kept h
  case fabs | fneg | fsqrt | fcvtif | fcvtfi | fcvtw | fmvif | fmvfi =>
    exact ff_kept h
  case beq | bne | blt | bge | bltu | bgeu =>
    exact branch_kept h
  case j | nop =>
    exact issue_kept (fun _ _ _ _ hz => hz) h
  case call =>
    exact issue_kept (fun _ _ _ _ hz => callTo_kept hz) h
  case loop | loopi =>
    exact issue_kept (fun _ _ _ _ hz => setLoop_kept hz) h
  case rpt =>
    exact execRpt_kept h
  case csrr =>
    exact execCsrr_kept h
  case csrw =>
    exact execCsrw_kept h
  case csrs =>
    exact csrSet_kept h
  case csrc =>
    exact execCsrc_kept h
  case eret =>
    exact execEret_kept h
  case brk | trap =>
    exact issue_kept (fun _ _ _ _ _ => trivial) h
  case quit =>
    exact execQuit_kept h
  case jr =>
    exact execJr_kept h
  case callr =>
    exact execCallr_kept h
  case ret =>
    exact issue_kept (fun _ _ _ _ hz => returnFrom_kept hz) h
  case lbrk | runlk | slk =>
    exact issue_kept (fun _ _ _ _ hz => State.updThread_kept hz) h
  case wflush =>
    exact execWflush_kept h
  case ldBSx | ldBZx | ldHSx | ldHZx | ldWSx | ldWZx | ldD =>
    exact loadL_kept h
  case ldxBSx | ldxBZx | ldxHSx | ldxHZx | ldxWSx | ldxWZx | ldxD | ldaW | ldaD | ldfBSx | ldfBZx | ldfHSx | ldfHZx | ldfWSx |
      ldfWZx | ldfD =>
    exact loadX_kept h
  case stB | stH | stW | stD =>
    exact storeL_kept h
  case stxB | stxH | stxW | stxD | stlW | stlD | stlGW | stlGD =>
    exact storeX_kept h
  case ldp =>
    exact issue_kept (fun _ _ _ _ hz => loadFrom_kept hz) h
  case stp =>
    exact issue_kept (fun _ _ _ _ hz => storeTo_kept hz) h
  case pref =>
    exact execPref_kept h
  case aadd | aand | aor | axor | amin | amax | aminu | amaxu | aswp | acas =>
    exact atomicI_kept h
  case aaddP | aandP | aorP | axorP | aminP | amaxP | aminuP | amaxuP | aswpP | acasP =>
    exact postedI_kept h
  case afadd | afmin | afmax =>
    exact atomicF_kept h
  case afaddP | afminP | afmaxP =>
    exact postedF_kept h
  case rgn | cmt =>
    exact issue_kept (fun _ _ _ _ hz => commitHere_kept hz) h
  case abrt =>
    exact execAbrt_kept h
  case rgnq | lateq | wqry | dtime | qderiv | qstat =>
    exact issue_kept (fun _ _ _ _ hz => pendNow_kept hz) h
  case fence =>
    exact execFence_kept h
  case fencep =>
    exact execFencep_kept h
  case ifence =>
    exact execIfence_kept h
  case lfence | tfence | qfence | evpost =>
    exact issue_kept (fun _ _ _ _ hz => buffered_kept hz) h
  case vfence =>
    exact execVfence_kept h
  case vwait =>
    exact execVwait_kept h
  case go =>
    exact execGo_kept h
  case gohome =>
    exact execGohome_kept h
  case amsg =>
    exact execAmsg_kept h
  case barset =>
    exact execBarset_kept h
  case barreg =>
    exact execBarreg_kept h
  case bara =>
    exact execBara_kept h
  case barw =>
    exact execBarw_kept h
  case baraw =>
    exact execBaraw_kept h
  case jset =>
    exact execJset_kept h
  case jdec =>
    exact execJdec_kept h
  case jwait =>
    exact execJwait_kept h
  case rlock =>
    exact execRlock_kept h
  case rpre =>
    exact execRpre_kept h
  case slkOnce =>
    exact issueWith_kept (fun _ _ _ _ hz => State.updThread_kept hz) h
  case present =>
    exact execPresent_kept h
  case wsplit =>
    exact execWsplit_kept h
  case wdeleg =>
    exact execWdeleg_kept h
  case waccept =>
    exact execWaccept_kept h
  case wsurr =>
    exact execWsurr_kept h
  case wamend =>
    exact execWamend_kept h
  case caprd =>
    exact execCaprd_kept h
  case tnonce =>
    exact execTnonce_kept h
  case ckpt =>
    exact execCkpt_kept h
  case evwait =>
    exact execEvwait_kept h
  case rlimq =>
    exact execRlimq_kept h
  case evrd =>
    exact execEvrd_kept h
  case scfg =>
    exact execScfg_kept h
  case sbnd =>
    exact execSbnd_kept h
  case smap =>
    exact execSmap_kept h
  case sunmap =>
    exact execSunmap_kept h
  case sqry =>
    exact execSqry_kept h
  case vadd | vsub | vmul | vfma | vfms | vdiv | vmin | vmax | vabs | vcvt | vcmp | vsel | vand | vor | vxor | vshl | vshr |
      viota | vshop | vexp2 | vlog2 | vrcp | vrsq | vsqrt | vsin | vcos | vtanh =>
    exact vectorCmd_kept h
  case cpy =>
    exact execCpy_kept h
  case cpy2d | gath | scat | coll =>
    exact recordCmd_kept h
  case qmake =>
    exact execQmake_kept h
  case qenq | qdest =>
    exact issue_kept (fun _ _ _ _ hz => queueForm_kept hz) h
  case qdeq =>
    exact execQdeq_kept h
  case qsteal =>
    exact execQsteal_kept h
  case govset =>
    exact execGovset_kept h
  case mma | mmaz =>
    exact tileProduct_kept h
  case mzero =>
    exact execMzero_kept h
  case mclaim =>
    exact execMclaim_kept h
  case mrel =>
    exact execMrel_kept h
  case mfmt =>
    exact execMfmt_kept h
  case mscl =>
    exact execMscl_kept h
  case mldt | mtrn =>
    exact loadTile_kept h
  case mrd =>
    exact execMrd_kept h
  case mcvt =>
    exact execMcvt_kept h
  case mgemm =>
    exact execMgemm_kept h
  case mseqq =>
    exact issue_kept (fun _ _ _ _ hz => give_kept hz) h
  case mburst =>
    exact issue_kept (fun _ _ _ _ hz => State.updCore_kept hz) h
  case mwait =>
    exact execMwait_kept h
  case launch =>
    exact execLaunch_kept h
  case wnext =>
    exact execWnext_kept h
  case spawn =>
    exact execSpawn_kept h
  case hmerge | hadd =>
    exact issue_kept (fun _ _ _ _ hz => heapFormF_kept hz) h
  case hqry | htop =>
    exact issue_kept (fun _ _ _ _ hz => heapRead_kept hz) h
  case hclose =>
    exact issue_kept (fun _ _ _ _ hz => heapForm_kept hz) h
  case hdrain =>
    exact execHdrain_kept h
  case srrd =>
    exact execSrrd_kept h
  case commitRegion =>
    exact execCommitRegion_kept h
  case tokenStep =>
    exact execTokenStep_kept h
  case pinBudget =>
    exact execPinBudget_kept h
  case resultArrival =>
    exact execResultArrival_kept h
  case remotePerform =>
    exact execRemotePerform_kept h
  case performPacket =>
    exact execPerformPacket_kept h
  case acknowledgement =>
    exact execAcknowledgement_kept h
  case retransmit =>
    exact execRetransmit_kept h
  case externalWrite =>
    exact execExternalWrite_kept h
  case commandStart =>
    exact execCommandStart_kept h
  case commandRead =>
    exact execCommandRead_kept h
  case commandComplete =>
    exact execCommandComplete_kept h
  case lpCopy =>
    exact stepTo_kept (ite_kept (State.updCtx_kept h) h)
  case queueEntry | burstExpiry | rampDownEnd =>
    exact stepTo_kept (State.updCore_kept h)
  case eventStoreEntry =>
    exact stepTo_kept (enterHeld_kept h)
  case slackDecrement =>
    exact execSlackDecrement_kept h
  case queueService =>
    exact serve_kept h
  case limiterAdmit =>
    exact execLimiterAdmit_kept h
  case transmit =>
    exact execTransmit_kept h
  case linkReplay =>
    exact h
  case holdReleaseSignal =>
    exact State.setDev_kept h rfl
  case windowSpill =>
    exact execWindowSpill_kept h
  case windowFill =>
    exact execWindowFill_kept h
  case walkComplete =>
    exact execWalkComplete_kept h
  case pageArrival =>
    exact execPageArrival_kept h
  case pageResponse =>
    exact execPageResponse_kept h
  case migrationDepart =>
    exact execMigrationDepart_kept h
  case migrationArrival =>
    exact execMigrationArrival_kept h
  case activeMessage =>
    exact execActiveMessage_kept h
  case handlerInstructionLimit =>
    exact execHandlerInstructionLimit_kept h
  case barrierArrival =>
    exact execBarrierArrival_kept h
  case statisticsGather =>
    exact execStatisticsGather_kept h
  case statisticsFlip =>
    exact execStatisticsFlip_kept h
  case teamPlacement =>
    exact execTeamPlacement_kept h
  case itemDistribution =>
    exact execItemDistribution_kept h
  case donorResume =>
    exact execDonorResume_kept h
  case dispatch =>
    exact execDispatch_kept h
  case heapUpdate =>
    exact execHeapUpdate_kept h
  case spawnAccept =>
    exact execSpawnAccept_kept h
  case engineSelect =>
    exact stepTo_kept (engineSelect_kept h)
  case sliceSelect =>
    exact stepTo_kept (sliceSelect_kept h)
  case mgemmStep =>
    exact execMgemmStep_kept h
  case mgemmDrain =>
    exact execMgemmDrain_kept h
  case governorLend =>
    exact execGovernorLend_kept h
  case governorReturn =>
    exact execGovernorReturn_kept h
  case queueOperation =>
    exact execQueueOperation_kept h
  case queueSwapIn =>
    exact execQueueSwapIn_kept h
  case thermalSample =>
    exact execThermalSample_kept h
  case frequencyStep | droop | peerUp =>
    exact ite_kept (State.setDev_kept h rfl) h
  case modulePowerStep =>
    exact execModulePowerStep_kept h
  case thermalDisplacement =>
    exact ite_kept (State.setDev_kept (getD_kept h (findSome_kept (fun _ => displace_kept h))) rfl) h
  case displacementArrival =>
    exact execDisplacementArrival_kept h
  case slotReclaim =>
    exact execSlotReclaim_kept h
  case slotReturn =>
    exact execSlotReturn_kept h
  case stopComplete =>
    exact tryStop_kept h
  case contextExpiry =>
    exact execContextExpiry_kept h
  case eccError =>
    exact execEccError_kept h
  case warrant =>
    exact ite_kept (ringPresentOf_kept h rfl rfl) h
  case delegationSlip | timeCertificate | capacityDeclaration =>
    exact ringPresentOf_kept h rfl rfl
  case doorwayLaunch =>
    exact ite_kept (ringLaunch_kept h) h
  case redeemRequest =>
    exact execRedeemRequest_kept h
  case redeemReply =>
    exact execRedeemReply_kept h
  case redemptionCommit =>
    exact execRedemptionCommit_kept h
  case redemptionCancel =>
    exact execRedemptionCancel_kept h
  case redeemTimeout =>
    exact execRedeemTimeout_kept h
  case reservationHoldExpiry =>
    exact execReservationHoldExpiry_kept h
  case ringRegisterWrite =>
    exact execRingRegisterWrite_kept h
  case registerWrite =>
    exact flushEntries_kept (registerWrite_kept h)
  case noncereq =>
    exact ite_kept (drawNonce_kept (State.setDev_kept h rfl)) (State.setDev_kept h rfl)
  case hostPark | hostSurrender =>
    exact stopNow_kept (showCmd_kept h)
  case hostResume =>
    exact execHostResume_kept h
  case hostLiveMigrate =>
    exact execHostLiveMigrate_kept h
  case liveMigrationImage =>
    exact execLiveMigrationImage_kept h
  case vfEnableClear =>
    exact foldl_kept h (fun _ _ hz => functionDown_kept hz)
  case functionLevelReset =>
    exact ite_kept (functionDown_kept h) h
  case vfEnable =>
    exact ite_kept h (foldl_kept (flushEntries_kept (State.setDoor_kept h)) (fun _ _ hz => ite_kept (reattach_kept hz) hz))
  case orphanTimeout =>
    exact execOrphanTimeout_kept h
  case timeAdoption | timeExchange =>
    exact attempt_kept h
  case deviceReset =>
    exact execDeviceReset_kept h
  case selfTestComplete =>
    exact ite_kept h (ite_kept (endStage2_kept (State.setDev_kept h rfl)) (foldl_kept (State.setDev_kept h rfl)
        (fun _ _ hz => errorReport_kept hz)))
  case linkLoss =>
    exact execLinkLoss_kept h
  case illegalInstruction =>
    exact execIllegalInstruction_kept h
  case fetchFault =>
    exact execFetchFault_kept h
  case memberExtentUpdate =>
    exact ite_kept h (State.updCtx_kept h)
  case erheadWrite =>
    exact flushEntries_kept (State.setDoor_kept h)
  case liveMigrationRelease =>
    exact execLiveMigrationRelease_kept h
  case pageMoveComplete =>
    exact execPageMoveComplete_kept h
  case enrolment peer fn record tag => exact absurd rfl (hi peer fn record tag).1
  case revocation peer fn record tag => exact absurd rfl (hi peer fn record tag).2

/-! ## The key records (R118, R119) -/

/-- The state that a presentation's verdict leaves. -/
def Verdict.state : Verdict → State
  | .refused _ s => s
  | .built _ s => s
  | .taken s => s
  | .waiting _ s => s

theorem verdictKept_iff {v : Verdict} : VerdictKept s₀ v ↔ Kept s₀ v.state := by
  cases v <;> rfl

/-- A key record changes no key but those of its device, and only under Zilkor's signature (R118). -/
theorem admitKey_keys {peer n r fill} (h : ¬ (n = peer ∧ signedBy Config.zilkorModulus 0x1C0 r = true)) :
    ((admitKey s peer r fill).state.dev n).keys = (s.dev n).keys := by
  unfold admitKey
  dsimp only
  split
  · rfl
  · split
    · rfl
    · next hs =>
      have hn : n ≠ peer := fun e => h ⟨e, by simpa using hs⟩
      split
      · rfl
      · split
        · rfl
        · split
          · change ((endStage2 _ peer).dev n).keys = _
            rw [(endStage2_kept (Kept.refl _)).1, State.dev_setDev_other _ _ hn]
          · change ((State.setDev s peer _).dev n).keys = _
            rw [State.dev_setDev_other _ _ hn]

/-- The record of a presentation is one that may change the keys of device `n`: an enrolment or a revocation, presented to it
    through
the ring of its physical function, under Zilkor's signature (R118, R119). -/
def MayChangeKeys (peer : Nat) (fn : Option Nat) (r : List Byte) (n : Nat) : Prop :=
  n = peer ∧ fn = some 0 ∧ (recKind r = some .enrolment ∨ recKind r = some .revocation)
    ∧ signedBy Config.zilkorModulus 0x1C0 r = true

theorem presentRecord_keys {peer fn r image token heir arg slack n} (h : ¬ MayChangeKeys peer fn r n) :
    ((presentRecord s peer fn r image token heir arg slack).state.dev n).keys = (s.dev n).keys := by
  by_cases hk : fn = some 0 → recKind r ≠ some .enrolment ∧ recKind r ≠ some .revocation
  · exact (verdictKept_iff.mp (presentRecord_kept (Kept.refl s) hk)).1 n
  · obtain ⟨hf, hk⟩ := Classical.not_imp.mp hk
    have hkind : recKind r = some .enrolment ∨ recKind r = some .revocation := by tauto
    have hs : ¬ (n = peer ∧ signedBy Config.zilkorModulus 0x1C0 r = true) := fun ⟨hn, hs⟩ => h ⟨hn, hf, hkind, hs⟩
    unfold presentRecord
    rcases hkind with e | e <;> rw [e] <;> simp only [hf, if_true] <;> exact admitKey_keys hs

/-- Taking the next record of a ring changes keys only as that record may (R118). -/
theorem ringPresent_keys {peer fn kinds n} (h : ¬ MayChangeKeys peer (some fn) (nextRecord s peer fn) n) :
    ((ringPresent peer fn kinds s).dev n).keys = (s.dev n).keys := by
  unfold ringPresent
  split
  · extract_lets e r image tag z
    have hz : Kept s z := takePres_kept (Kept.refl s)
    split
    · rfl
    · split
      · rw [(answerRing_kept (verdictKept_iff.mpr (Kept.refl _))).1, presentRecord_keys (r := r) h, hz.1]
      · exact (answerRing_kept (v := .refused _ _) (ringError_kept hz)).1 n
  · rfl

theorem ringPresentOf_keys {peer fn record tag kinds n} (h : ¬ MayChangeKeys peer (some fn) (nextRecord s peer fn) n) :
    ((ringPresentOf peer fn record tag kinds s).dev n).keys = (s.dev n).keys := by
  unfold ringPresentOf
  dsimp only
  split
  · exact ringPresent_keys h
  · rfl

/-- A step that changes a key of a device is the presentation of a signed key record through its physical function (R118). -/
theorem keys_of_exec {i : Instr} {n : Nat} (e : exec i s = .next s') (hn : (s'.dev n).keys ≠ (s.dev n).keys) :
    ∃ peer fn r, presented s i = some (peer, fn, r) ∧ MayChangeKeys peer (some fn) r n := by
  by_contra hno
  have hpres (peer fn : Nat) (hp : presented s i = some (peer, fn, nextRecord s peer fn)) :
      ¬ MayChangeKeys peer (some fn) (nextRecord s peer fn) n := fun hm => hno ⟨_, _, _, hp, hm⟩
  by_cases hi : ∀ peer fn record tag, i ≠ .enrolment peer fn record tag ∧ i ≠ .revocation peer fn record tag
  · have hk : OutKept s (exec i s) := exec_kept (Kept.refl s) hi
    rw [e] at hk
    exact hn (hk.1 n)
  · push Not at hi
    obtain ⟨peer, fn, record, tag, hi⟩ := hi
    by_cases he : i = .enrolment peer fn record tag
    · subst he
      obtain rfl := Host.Outcome.next.inj (e : Host.Outcome.next (ringPresentOf peer fn record tag _ s) = _)
      exact hn (ringPresentOf_keys (hpres peer fn rfl))
    · obtain rfl := hi he
      obtain rfl := Host.Outcome.next.inj (e : Host.Outcome.next (ringPresentOf peer fn record tag _ s) = _)
      exact hn (ringPresentOf_keys (hpres peer fn rfl))

end Sys2Proof.Machine

namespace Sys2Proof
open Machine
/-- Settles O57: `exec_kept` for all instructions but two, and for these the branches of `admitKey`. -/
theorem keysOnlyBySignedRecords : Obligations.KeysOnlyBySignedRecords := by
  unfold Obligations.KeysOnlyBySignedRecords
  intro i s s' n e hn
  obtain ⟨peer, fn, r, hp, rfl, hfn, hkind, hs⟩ := keys_of_exec e hn
  obtain rfl : fn = 0 := Option.some.inj hfn
  exact ⟨r, hp, hkind, hs⟩
end Sys2Proof

/-! ## Reset (R123, R131, R152, R159) -/

namespace Sys2Proof
open Machine

/-- After reset every device holds its reset values. -/
theorem Machine.State.dev_reset (peer : Nat) : State.reset.dev peer = Device.reset := rfl

/-- After reset every function of a device holds its reset values (R152). -/
theorem Machine.State.door_reset (peer fn : Nat) : State.reset.door peer fn = Door.reset fn := rfl

/-- Settles O58: the fields of the reset state. -/
theorem resetState : Obligations.ResetState := by
  unfold Obligations.ResetState
  have inv : Inv State.reset := rfl
  have awake : JoinsAwake State.reset := fun _ hmem => nomatch hmem
  refine ⟨inv, awake, fun peer => ?_, fun _ => rfl, fun _ => rfl⟩
  rw [State.dev_reset, State.door_reset]
  refine ⟨rfl, rfl, rfl, rfl, rfl, rfl, fun fn hfn => ?_⟩
  rw [State.door_reset]
  exact decide_eq_false hfn

end Sys2Proof

/-! ## Presentations and launches through a function's rings (R119, R121, R153, R154) -/

namespace Sys2Proof.Machine

/-! ### Numbers of entries -/

theorem leNat_lt (bs : List Byte) : leNat bs < 256 ^ bs.length := by
  induction bs with
  | nil => exact Nat.one_pos
  | cons b bs ih =>
    have hb := b.isLt
    rw [leNat, List.length_cons, pow_succ]
    omega

theorem leAt_lt (bs : List Byte) (off n : Nat) : leAt bs off n < 256 ^ n :=
  (leNat_lt _).trans_le (Nat.pow_le_pow_right (by decide) (List.length_take_le _ _))

/-- The tag of an entry is the word that its eight bytes give. -/
theorem tag_toNat (bs : List Byte) (off : Nat) : (BitVec.ofNat 64 (leAt bs off 8)).toNat = leAt bs off 8 := by
  rw [BitVec.toNat_ofNat]
  exact Nat.mod_eq_of_lt (leAt_lt bs off 8)

/-! ### What the rings of a function leave as it was -/

/-- Of a device, only its doors may have changed; the time and the contexts are as they were. -/
structure OnlyDoors (peer : Nat) (s s' : State) : Prop where
  dev : ∃ doors, s'.dev peer = { s.dev peer with doors := doors }
  now : s'.now = s.now
  ctxs : s'.ctxs = s.ctxs

variable {peer fn : Nat} {s s' s'' : State}

theorem OnlyDoors.refl (peer : Nat) (s : State) : OnlyDoors peer s s := ⟨⟨_, rfl⟩, rfl, rfl⟩

theorem OnlyDoors.trans (h : OnlyDoors peer s s') (h' : OnlyDoors peer s' s'') : OnlyDoors peer s s'' := by
  obtain ⟨doors, hd⟩ := h.dev
  obtain ⟨doors', hd'⟩ := h'.dev
  exact ⟨⟨doors', by rw [hd', hd]⟩, h'.now.trans h.now, h'.ctxs.trans h.ctxs⟩

theorem setDoor_onlyDoors (s : State) (peer fn : Nat) (d : Door) : OnlyDoors peer s (s.setDoor peer fn d) :=
  ⟨⟨_, State.dev_setDev _ _ _⟩, rfl, rfl⟩

theorem writeEntry_onlyDoors (s : State) (peer fn : Nat) (bs : List Byte) : OnlyDoors peer s (writeEntry s peer fn bs) :=
  (⟨⟨_, rfl⟩, rfl, rfl⟩ : OnlyDoors peer s (s.writes _ bs)).trans (setDoor_onlyDoors _ _ _ _)

theorem flushEntries_onlyDoors (peer fn : Nat) : ∀ (n : Nat) (s : State), OnlyDoors peer s (flushEntries s peer fn n)
  | 0, s => .refl peer s
  | n + 1, s => by
    rw [flushEntries]
    split
    · exact .refl peer s
    · split
      · exact ((setDoor_onlyDoors _ _ _ _).trans (writeEntry_onlyDoors _ _ _ _)).trans (flushEntries_onlyDoors peer fn n _)
      · exact .refl peer s

theorem postEntry_onlyDoors (s : State) (peer fn : Nat) (bs : List Byte) : OnlyDoors peer s (postEntry s peer fn bs) := by
  unfold postEntry
  dsimp only
  split
  · exact setDoor_onlyDoors _ _ _ _
  · exact (setDoor_onlyDoors _ _ _ _).trans (flushEntries_onlyDoors _ _ _ _)

theorem presDone_onlyDoors (s : State) (peer fn : Nat) (tag : Word) (status ctx serial : Nat) :
    OnlyDoors peer s (presDone s peer fn tag status ctx serial) := postEntry_onlyDoors _ _ _ _

theorem takePres_onlyDoors (s : State) (peer fn : Nat) : OnlyDoors peer s (takePres s peer fn) := setDoor_onlyDoors _ _ _ _

/-- What a device holds beside its doors is as it was. -/
theorem OnlyDoors.field {α : Type} (f : Device → α) (h : OnlyDoors peer s s')
    (hf : ∀ d doors, f { d with doors := doors } = f d := by intros; rfl) : f (s'.dev peer) = f (s.dev peer) := by
  obtain ⟨doors, hd⟩ := h.dev
  rw [hd, hf]

theorem OnlyDoors.dtime (h : OnlyDoors peer s s') : s'.dtime peer = s.dtime peer := by
  rw [State.dtime, State.dtime, h.now]
  exact h.field (fun d => d.timeT + nsOf (s.now - d.timeAt))

theorem OnlyDoors.dunc (h : OnlyDoors peer s s') : s'.dunc peer = s.dunc peer := by
  rw [State.dunc, State.dunc, h.now]
  exact h.field (fun d => match d.timeA with
    | none => 2 ^ 64 - 1
    | some a => a + (20 * nsOf (s.now - d.timeAt) + 999999) / 1000000)

theorem OnlyDoors.nonceMatches (h : OnlyDoors peer s s') (r : List Byte) : nonceMatches s' peer r = nonceMatches s peer r := by
  rw [Machine.nonceMatches, Machine.nonceMatches, h.now, h.field (·.nonce)]

/-! ### Taking the next entry (R119) -/

/-- The next entry of a presentation ring, presented under its own tag, is answered with its verdict where it is well formed. -/
theorem ringPresentOf_ok {kinds : List (Option RecKind)} (takes : presTakes s peer fn = true) :
    let e := presEntry s peer fn
    let r := hostRecord s peer fn (leAt e 0 8)
    let image := if leAt e 8 8 = 0 then [] else hostBytes s peer fn (leAt e 8 8) (leAt e 0x10 4)
    let tag : Word := BitVec.ofNat 64 (leAt e 0x18 8)
    kinds.contains (recKind r) = true → presEntryOk e = true → ringPresentOf peer fn (leAt e 0 8) tag kinds s =
      answerRing (takePres s peer fn) peer fn tag r image
        (presentRecord (takePres s peer fn) peer (some fn) r image (s.door peer fn).atoken none 0 (doorSlack r)) := by
  intro e r image tag kind ok
  rw [ringPresentOf, if_pos ⟨rfl, (tag_toNat _ _).symm⟩, ringPresent, if_pos takes]
  simp only [e, r, image, tag, kind, ok, Bool.not_true, Bool.false_eq_true, if_false, if_true]

/-- A malformed entry sets DSTAT.RING, and is answered as one whose record is malformed (R154). -/
theorem ringPresentOf_bad {kinds : List (Option RecKind)} (takes : presTakes s peer fn = true) :
    let e := presEntry s peer fn
    let r := hostRecord s peer fn (leAt e 0 8)
    let image := if leAt e 8 8 = 0 then [] else hostBytes s peer fn (leAt e 8 8) (leAt e 0x10 4)
    let tag : Word := BitVec.ofNat 64 (leAt e 0x18 8)
    kinds.contains (recKind r) = true → presEntryOk e = false → ringPresentOf peer fn (leAt e 0 8) tag kinds s =
      answerRing (takePres s peer fn) peer fn tag r image (.refused stFormat (ringError (takePres s peer fn) peer fn)) := by
  intro e r image tag kind ok
  rw [ringPresentOf, if_pos ⟨rfl, (tag_toNat _ _).symm⟩, ringPresent, if_pos takes]
  simp only [e, r, image, tag, kind, ok, Bool.not_true, Bool.false_eq_true, if_false]

/-! ### Records that are accepted (R118, R124, R131) -/

section
variable {r image : List Byte} {token arg : Word} {heir : Option (Nat × Word)} {slack : Nat}

/-- On a READY device, a record that is no key record is presented to the rule of its kind. -/
theorem presentRecord_certificate (kind : recKind r = some .certificate) (ready : (s.dev peer).ready = true) :
    presentRecord s peer (some fn) r image token heir arg slack = admitCertificate s peer r := by
  simp only [presentRecord, kind, ready, Bool.not_true, Bool.false_eq_true, if_false]

theorem presentRecord_declaration (kind : recKind r = some .declaration) (ready : (s.dev peer).ready = true) :
    presentRecord s peer (some fn) r image token heir arg slack = admitDeclaration s peer r := by
  simp only [presentRecord, kind, ready, Bool.not_true, Bool.false_eq_true, if_false]

theorem presentRecord_warrant (kind : recKind r = some .warrant) (ready : (s.dev peer).ready = true) :
    presentRecord s peer (some fn) r image token heir arg slack = admitWarrant s peer r image token slack := by
  simp only [presentRecord, kind, ready, Bool.not_true, Bool.false_eq_true, if_false]

/-- The physical function takes key records. -/
theorem presentRecord_enrolment (kind : recKind r = some .enrolment) :
    presentRecord s peer (some 0) r image token heir arg slack = admitKey s peer r true := by
  simp only [presentRecord, kind, if_true]

theorem presentRecord_revocation (kind : recKind r = some .revocation) :
    presentRecord s peer (some 0) r image token heir arg slack = admitKey s peer r false := by
  simp only [presentRecord, kind, if_true]
end

theorem nsOf_zero : nsOf 0 = 0 := rfl

/-- An accepted certificate sets the time and its uncertainty, and uses up the nonce (R124). -/
theorem admitCertificate_taken {r : List Byte} {n : Nat} (ok : certificateOk r = true) (slot : leAt r 6 1 = 0)
    (key : (s.dev peer).modulus 0 = some n) (signed : signedBy n 0x80 r = true) (id : idMatches peer r 8 = true)
    (nonce : nonceMatches s peer r = true)
    (later : (s.dev peer).timeA.isSome = true → s.dtime peer ≤ leAt r 0x20 8 + s.dunc peer) :
    ∃ z, admitCertificate s peer r = .taken z ∧ z.dtime peer = leAt r 0x20 8 ∧ (z.dev peer).timeA = some (leAt r 0x28 8)
      ∧ (z.dev peer).nonce = none := by
  have late : ((s.dev peer).timeA.isSome && decide (leAt r 0x20 8 + s.dunc peer < s.dtime peer)) = false := by
    cases h : (s.dev peer).timeA.isSome with
    | false => rfl
    | true => simpa using later h
  refine ⟨(keepExpiries s peer).setDev peer
    { (s.dev peer).setTime s.now (leAt r 0x20 8) (leAt r 0x28 8) with nonce := none, nonce0 := 0, nonce1 := 0 }, ?_, ?_, ?_, ?_⟩
  · simp only [admitCertificate, ok, namesSlot0, slot, beq_self_eq_true, if_true, key, signed, id, nonce, late, Bool.not_true,
      Bool.false_eq_true, if_false]
  · simp [State.dtime, Device.setTime, keepExpiries, nsOf_zero]
  · simp [Device.setTime]
  · simp

/-- An accepted declaration gives the device its ratios (R131). -/
theorem admitDeclaration_taken {r : List Byte} {n : Nat} (ok : declarationOk r = true) (slot : leAt r 0x10 1 = 0)
    (key : (s.dev peer).modulus 0 = some n) (signed : signedBy n 0x100 r = true) (id : idMatches peer r 0x18 = true)
    (newer : (s.dev peer).declSerial < leAt r 8 8)
    (holds : grantsHold (s.capUpdate peer (fun d =>
      { d with ratios := declEntries r, declSerial := leAt r 8 8, adopt := leAt r 6 2 == 1 })) peer = true) :
    ∃ z, admitDeclaration s peer r = .taken z ∧ (z.dev peer).ratios = declEntries r ∧ (z.dev peer).declSerial = leAt r 8 8 := by
  refine ⟨_, by
    simp only [admitDeclaration, ok, namesSlot0, slot, beq_self_eq_true, if_true, key, signed, id, Nat.not_le.mpr newer, holds,
      Bool.not_true, Bool.false_eq_true, if_false]
    rfl, ?_, ?_⟩ <;> rw [State.capUpdate, State.dev_setDev]

/-- The end of bring-up stage 2 leaves the keys and the windows. -/
theorem endStage2_keysWindows (s : State) (peer : Nat) : ((endStage2 s peer).dev peer).keys = (s.dev peer).keys
    ∧ ((endStage2 s peer).dev peer).windows = (s.dev peer).windows := by
  unfold endStage2
  dsimp only
  split
  · simp [State.capUpdate]
  · exact ⟨rfl, rfl⟩

/-- An accepted enrolment fills its slot with the key, and resets the slot's window (R118, R127). -/
theorem admitKey_fills {r : List Byte} (ok : keyRecordOk r true = true) (signed : signedBy Config.zilkorModulus 0x1C0 r = true)
    (id : idMatches peer r 8 = true) (empty : mget (s.dev peer).keys (leAt r 6 1) = none) :
    ∃ z, admitKey s peer r true = .taken z ∧ mget (z.dev peer).keys (leAt r 6 1) = some ⟨leAt r 0x20 384, leAt r 0x10 4⟩
      ∧ (z.dev peer).window (leAt r 6 1) = Window.reset := by
  refine ⟨_, by
    simp only [admitKey, ok, signed, id, empty, Option.isSome_none, Bool.not_true, Bool.false_eq_true, if_false, if_true]
    rfl, ?_, ?_⟩
  · rw [(endStage2_keysWindows _ _).1]
    simp
  · rw [Device.window, (endStage2_keysWindows _ _).2]
    simp [mgetD]

/-- An accepted revocation empties its slot (R118). -/
theorem admitKey_empties {r : List Byte} (ok : keyRecordOk r false = true) (signed : signedBy Config.zilkorModulus 0x1C0 r = true)
    (id : idMatches peer r 8 = true) (full : (mget (s.dev peer).keys (leAt r 6 1)).isSome = true) :
    ∃ z, admitKey s peer r false = .taken z ∧ mget (z.dev peer).keys (leAt r 6 1) = none := by
  refine ⟨_, by
    simp only [admitKey, ok, signed, id, full, Bool.not_true, Bool.false_eq_true, if_false, beq_iff_eq]
    rfl, ?_⟩
  rw [State.dev_setDev]
  simp [mget_mdel_same]

end Sys2Proof.Machine

/-! ## Contexts whose event store alone changes (R177) -/

namespace Sys2Proof.Machine
variable {s s' s'' : State}

/-- The context is the same but for its event store. -/
def Ctx.SameButStore (x y : Ctx) : Prop := ∃ store held dropped, y = { x with store := store, held := held, dropped := dropped }

theorem Ctx.SameButStore.refl (x : Ctx) : x.SameButStore x := ⟨_, _, _, rfl⟩

theorem Ctx.SameButStore.trans {x y z : Ctx} (h : x.SameButStore y) (h' : y.SameButStore z) : x.SameButStore z := by
  obtain ⟨_, _, _, rfl⟩ := h
  obtain ⟨a, b, c, rfl⟩ := h'
  exact ⟨a, b, c, rfl⟩

/-- What a context holds beside its event store is as it was. -/
theorem Ctx.SameButStore.field {α : Type} {x y : Ctx} (f : Ctx → α) (h : x.SameButStore y)
    (hf : ∀ x store held dropped, f { x with store := store, held := held, dropped := dropped } = f x := by intros; rfl) : f y = f
      x := by
  obtain ⟨store, held, dropped, rfl⟩ := h
  exact hf x store held dropped

theorem Ctx.admitHeld_same (x : Ctx) : x.SameButStore x.admitHeld := by
  unfold Ctx.admitHeld
  have start : x.SameButStore { x with held := [] } := ⟨_, _, _, rfl⟩
  generalize { x with held := [] } = y at start
  generalize x.held = l
  induction l generalizing y with
  | nil => exact start
  | cons e l ih =>
    refine ih _ (start.trans ?_)
    dsimp only
    split <;> exact ⟨_, _, _, rfl⟩

/-- Every context is the same but for its event store. -/
def EventsOnly (s s' : State) : Prop :=
  ∀ c, (s.ctx c = none → s'.ctx c = none) ∧ ∀ x, s.ctx c = some x → ∃ y, s'.ctx c = some y ∧ x.SameButStore y

theorem EventsOnly.refl (s : State) : EventsOnly s s := fun _ => ⟨id, fun x h => ⟨x, h, .refl x⟩⟩

theorem EventsOnly.of_ctxs (h : s'.ctxs = s.ctxs) : EventsOnly s s' := fun c => by
  have hc : s'.ctx c = s.ctx c := by rw [State.ctx, State.ctx, h]
  rw [hc]
  exact EventsOnly.refl s c

theorem EventsOnly.trans (h : EventsOnly s s') (h' : EventsOnly s' s'') : EventsOnly s s'' := fun c =>
  ⟨fun hn => (h' c).1 ((h c).1 hn), fun x hx => by
    obtain ⟨y, hy, hxy⟩ := (h c).2 x hx
    obtain ⟨z, hz, hyz⟩ := (h' c).2 y hy
    exact ⟨z, hz, hxy.trans hyz⟩⟩

theorem State.ctx_setCtx_other (s : State) {c d : CtxId} (x : Ctx) (h : d ≠ c) : (s.setCtx c x).ctx d = s.ctx d := by
  simp [State.ctx, State.setCtx, mget_mset_other _ _ h]

/-- A context of which only the store changes is put back. -/
theorem EventsOnly.setCtx {c : CtxId} {x y : Ctx} (hx : s.ctx c = some x) (h : x.SameButStore y) : EventsOnly s (s.setCtx c y) :=
    fun d => by
  by_cases hd : d = c
  · subst hd
    refine ⟨fun hn => absurd (hn.symm.trans hx) (by simp), fun z hz => ⟨y, State.ctx_setCtx _ _ _, ?_⟩⟩
    obtain rfl := Option.some.inj (hz.symm.trans hx)
    exact h
  · rw [State.ctx_setCtx_other _ _ hd]
    exact EventsOnly.refl s d

theorem storeItem_eventsOnly (s : State) (c : CtxId) (uid : Option Nat) (item : Event ⊕ Rec) (k : StoreClass) :
    EventsOnly s (storeItem s c uid item k) := by
  unfold storeItem
  split
  · exact .refl s
  · next x hx =>
    extract_lets y add hold room slotFree
    have put : EventsOnly s (s.setCtx c y) := .setCtx hx x.admitHeld_same
    have adds (res : Bool) : EventsOnly s (add res) := .setCtx hx (x.admitHeld_same.trans ⟨_, _, _, rfl⟩)
    have holds (cid hq : Option Nat) : EventsOnly s (hold cid hq) := .setCtx hx (x.admitHeld_same.trans ⟨_, _, _, rfl⟩)
    cases k with
    | child => exact adds _
    | program =>
      dsimp only
      split
      · exact adds _
      · exact .setCtx hx (x.admitHeld_same.trans ⟨_, _, _, rfl⟩)
    | late =>
      dsimp only
      split
      · exact adds _
      · split
        · exact adds _
        · exact put
    | fault cid hq =>
      dsimp only
      split
      · exact adds _
      · split
        · exact adds _
        · exact holds _ _
    | record cid =>
      dsimp only
      split
      · exact adds _
      · split
        · exact holds _ _
        · exact put

theorem noteRecords_eventsOnly (s : State) (c : CtxId) (p : Place) : EventsOnly s (noteRecords s c p) := by
  unfold noteRecords
  split
  · dsimp only
    split
    · exact .refl s
    · split
      · exact .of_ctxs rfl
      · exact storeItem_eventsOnly _ _ _ _ _
  · exact .refl s

theorem drainStore_eventsOnly (c : CtxId) (uid : Nat) : ∀ (n : Nat) (s : State), EventsOnly s (drainStore s c uid n)
  | 0, s => .refl s
  | n + 1, s => by
    unfold drainStore
    split
    · next x p t hx _ =>
      split
      · exact noteRecords_eventsOnly _ _ _
      · split
        · exact .refl s
        · next t' _ =>
          refine EventsOnly.trans ?_ (drainStore_eventsOnly c uid n _)
          refine EventsOnly.trans (s' := s.setThread p t') (.of_ctxs rfl) (.setCtx hx ?_)
          exact Ctx.SameButStore.trans ⟨_, _, _, rfl⟩ (Ctx.admitHeld_same _)
    · exact .refl s

theorem placeThread_eventsOnly (s : State) (p : Place) (t : Thread) : EventsOnly s (placeThread s p t) :=
  (EventsOnly.of_ctxs rfl : EventsOnly s (s.setThread p t)).trans (drainStore_eventsOnly _ _ _ _)

end Sys2Proof.Machine

/-! ## A warrant that is accepted builds a context (R120, R121) -/

namespace Sys2Proof.Machine
variable {peer fn : Nat} {s s' s'' : State}

/-- The first thread enters, in its slot or as an image, and its context changes only in its events and its images. -/
theorem startEntry_ctx {c : CtxId} {x z : Ctx} (h : s.ctx c = some z) (pc : Word) (serial : Nat) (arg : Word) :
    ∃ y images, (startEntry s c x pc serial arg).ctx c = some y ∧ ({ z with images := images } : Ctx).SameButStore y := by
  unfold startEntry
  dsimp only [State.fresh]
  split
  · next core slot _ =>
    obtain ⟨y, hy, hz⟩ := (placeThread_eventsOnly { s with nextId := s.nextId + 1 } ⟨c.peer, core, slot⟩ _ c).2 z h
    exact ⟨y, z.images, hy, hz⟩
  · have hz : (State.ctx { s with nextId := s.nextId + 1 } c) = some z := h
    rw [State.updCtx_some hz]
    exact ⟨_, _, State.ctx_setCtx _ _ _, .refl _⟩

theorem fillPages_ctxs (pages : List Nat) : ∀ (s : State) (bs : List Byte), (fillPages s pages bs).ctxs = s.ctxs := by
  induction pages with
  | nil => exact fun _ _ => rfl
  | cons sa rest ih => exact fun s bs => (ih _ _).trans rfl

/-- A root context is LIVE under its warrant's serial and block, and has no parent. -/
theorem buildRoot_ctx (s : State) (peer : Nat) (r : List Byte) (q : Plan) (k : Code) (token : Word) :
    ∃ y, (buildRoot s peer r q k token).ctx ⟨peer, q.ctx⟩ = some y ∧ y.state = .live ∧ y.serial = leAt r 8 8
      ∧ y.block = recBlock r ∧ y.parent = none := by
  unfold buildRoot
  extract_lets c w x z pages z₁ z₂
  have entered : ∃ now, z.ctx c = some (x.reckon now) := ⟨_, State.ctx_setCtx _ _ _⟩
  obtain ⟨now, entered⟩ := entered
  have filled : z₂.ctx c = z.ctx c := by
    simp only [State.ctx, z₂, z₁, State.capUpdate, State.setDev, fillPages_ctxs]
  obtain ⟨y, images, hy, same⟩ := startEntry_ctx (x := x) (filled.trans entered) (BitVec.ofNat 64 (k.textVA + k.entry)) x.serial 0
  exact ⟨y, hy, same.field (·.state), same.field (·.serial), same.field (·.block), same.field (·.parent)⟩

/-- A warrant that is accepted at once has its context built. -/
theorem closeWarrant_built {r image : List Byte} {pres id slack : Nat} {token : Word}
    (h : closeWarrant s peer r image pres token slack = .built id s') :
    ∃ z q k, q.ctx = id ∧ s' = buildRoot z peer r q k token := by
  unfold closeWarrant at h
  extract_lets b no at h
  split at h
  · cases h
  · split at h
    · cases h
    · split at h
      · cases h
      · split at h
        · cases h
        · cases h
          exact ⟨_, _, _, rfl, rfl⟩

theorem openWarrant_built {r image : List Byte} {modulus id slack : Nat} {token : Word}
    (h : openWarrant s peer modulus r image token slack = .built id s') :
    ∃ z q k, q.ctx = id ∧ s' = buildRoot z peer r q k token := by
  unfold openWarrant at h
  dsimp only at h
  split at h
  · split at h
    · cases h
    · exact closeWarrant_built h
  · split at h <;> cases h

theorem admitWarrant_built {r image : List Byte} {id slack : Nat} {token : Word}
    (h : admitWarrant s peer r image token slack = .built id s') :
    ∃ z q k, q.ctx = id ∧ s' = buildRoot z peer r q k token := by
  unfold admitWarrant at h
  split at h
  · cases h
  · split at h
    · cases h
    · split at h
      · cases h
      · split at h
        · cases h
        · split at h
          · cases h
          · exact openWarrant_built h

/-- The context of an accepted warrant (R121). -/
theorem admitWarrant_ctx {r image : List Byte} {id slack : Nat} {token : Word}
    (h : admitWarrant s peer r image token slack = .built id s') :
    ∃ y, s'.ctx ⟨peer, id⟩ = some y ∧ y.state = .live ∧ y.serial = leAt r 8 8 ∧ y.block = recBlock r ∧ y.parent = none := by
  obtain ⟨z, q, k, rfl, rfl⟩ := admitWarrant_built h
  exact buildRoot_ctx z peer r q k token

end Sys2Proof.Machine

/-! ## The messages of the redemption protocol (R127 to R129) -/

namespace Sys2Proof.Machine
variable {s s' s'' : State}

/-- The messages, and the windows of every device, are as they were. -/
structure WindowsSame (s s' : State) : Prop where
  msgs : s'.msgs = s.msgs
  windows : ∀ n, (s'.dev n).windows = (s.dev n).windows

theorem WindowsSame.trans (h : WindowsSame s s') (h' : WindowsSame s' s'') : WindowsSame s s'' :=
  ⟨h'.msgs.trans h.msgs, fun n => (h'.windows n).trans (h.windows n)⟩

theorem nextPlane_windowsSame (s : State) (peer dist : Nat) (num : Option Nat) : WindowsSame s (nextPlane s peer dist num).1 := by
  cases num with
  | some n => exact ⟨rfl, fun _ => rfl⟩
  | none =>
    refine ⟨rfl, fun n => ?_⟩
    by_cases hn : n = peer
    · subst hn
      simp [nextPlane]
    · simp [nextPlane, State.dev_setDev_other _ _ hn]

theorem atQueue_windowsSame (s : State) (k : Packet) (peer dist : Nat) : WindowsSame s (atQueue s k peer dist).1 := by
  unfold atQueue
  dsimp only [State.fresh]
  split <;> exact ⟨rfl, fun _ => rfl⟩

theorem sendTo_windowsSame (s : State) (p : Place) (c : CtxId) (uid : Nat) (body : Body) (peer dist : Nat) (limited : Bool)
    (slack : Nat) : WindowsSame s (sendTo s p c uid body peer dist limited slack) := by
  unfold sendTo
  dsimp only [State.fresh]
  have plane : ∀ own : Prop, [Decidable own] → WindowsSame s (if own then ({ s with nextId := s.nextId + 1 }, 2 * coreDist p.core)
      else nextPlane { s with nextId := s.nextId + 1 } p.peer (coreDist p.core) none : State × Nat).1 := fun own _ => by
    split
    · exact ⟨rfl, fun _ => rfl⟩
    · refine WindowsSame.trans ?_ (nextPlane_windowsSame _ _ _ _)
      exact ⟨rfl, fun _ => rfl⟩
  exact (plane _).trans ((atQueue_windowsSame _ _ _ _).trans ⟨rfl, fun _ => rfl⟩)

/-- A message that is sent stands among the messages behind the others. -/
theorem sendMsg_msgs (s : State) (src dst key asker pres : Nat) (kind : MsgKind) (slack : Nat) :
    (sendMsg s src dst key asker pres kind slack).msgs = s.msgs ++ [⟨s.nextId, src, dst, key, asker, pres, kind, slack⟩] :=
  (sendTo_windowsSame _ _ _ _ _ _ _ _ _).msgs

theorem sendMsg_sends (s : State) (src dst key asker pres : Nat) (kind : MsgKind) (slack : Nat) :
    ∃ m ∈ (sendMsg s src dst key asker pres kind slack).msgs, m.kind = kind ∧ m.src = src ∧ m.pres = pres := by
  rw [sendMsg_msgs]
  exact ⟨⟨s.nextId, src, dst, key, asker, pres, kind, slack⟩, List.mem_append_right _ (List.mem_singleton_self _), rfl, rfl, rfl⟩

theorem sendMsg_window (s : State) (src dst key asker pres : Nat) (kind : MsgKind) (slack n key' : Nat) :
    ((sendMsg s src dst key asker pres kind slack).dev n).window key' = (s.dev n).window key' := by
  rw [Device.window, Device.window]
  exact congrArg (mgetD · key' _) ((sendTo_windowsSame _ _ _ _ _ _ _ _ _).windows n)

theorem updWindow_window (s : State) (peer key : Nat) (f : Window → Window) :
    ((s.updWindow peer key f).dev peer).window key = f ((s.dev peer).window key) := by
  simp [State.updWindow, Device.window, mgetD]

theorem dropMsg_dev (s : State) (id n : Nat) : (dropMsg s id).dev n = s.dev n := rfl

/-! ### The window of a key slot (R127) -/

/-- A serial that the base has not passed, not redeemed and not reserved, is reserved. -/
theorem Window.reserve_new {w : Window} {serial : Nat} (base : w.base ≤ serial) (new : serial ∉ w.redeemed)
    (free : ∀ e ∈ w.reserved, e.1 ≠ serial) (total asker pres : Nat) :
    w.reserve serial total false asker pres = some { w with reserved := w.reserved ++ [(serial, asker, pres, false)] } := by
  have taken : (w.redeemed.contains serial || w.reserved.any (fun r => r.1 == serial)) = false := by
    simpa [new] using fun a b c d h => free (a, b, c, d) h
  simp only [Window.reserve, Nat.not_lt.mpr base, taken, Bool.false_eq_true, if_false]

/-- A redeemed serial is not reserved again. -/
theorem Window.reserve_redeemed {w : Window} {serial : Nat} (old : serial ∈ w.redeemed) (total asker pres : Nat) :
    w.reserve serial total false asker pres = none := by
  have taken : w.redeemed.contains serial = true := List.contains_iff_mem.mpr old
  simp only [Window.reserve, taken, Bool.true_or, Bool.false_eq_true, if_false, if_true, ite_self]

/-- A home whose slot holds the key reserves in its window (R127). -/
theorem homeReserve_some {home slot serial total asker pres : Nat} {key : Key} {counted : Bool} {w : Window}
    (hkey : mget (s.dev home).keys slot = some key)
    (hw : ((s.dev home).window slot).reserve serial total counted asker pres = some w) :
    homeReserve s home slot serial total key.modulus counted asker pres = .ok (s.updWindow home slot (fun _ => w)) := by
  simp [homeReserve, hkey, hw]

theorem homeReserve_none {home slot serial total asker pres : Nat} {key : Key} {counted : Bool}
    (hkey : mget (s.dev home).keys slot = some key)
    (hw : ((s.dev home).window slot).reserve serial total counted asker pres = none) :
    homeReserve s home slot serial total key.modulus counted asker pres = .error stRedeemed := by
  simp [homeReserve, hkey, hw]

/-- Covering a serial leaves the reservations and the counts. -/
theorem Window.cover_frame (w : Window) (serial : Nat) : (w.cover serial).reserved = w.reserved ∧ (w.cover serial).counted =
    w.counted := by
  unfold Window.cover
  dsimp only
  split <;> exact ⟨rfl, rfl⟩

/-- A commit takes the reservation away and leaves the counts; that of a serial without a count makes it redeemed (R127). -/
theorem Window.commit_held {w : Window} {serial asker pres : Nat} {counted : Bool}
    (held : w.held asker pres = some (serial, asker, pres, counted)) (base : w.base ≤ serial) :
    (counted = false → serial ∈ (w.commit asker pres).redeemed)
    ∧ (serial, asker, pres, counted) ∉ (w.commit asker pres).reserved ∧ (w.commit asker pres).counted = w.counted := by
  unfold Window.commit
  rw [held]
  simp only [Nat.not_lt.mpr base, if_false]
  obtain ⟨reserved, count⟩ := Window.cover_frame
    { w with reserved := w.reserved.filter (· != (serial, asker, pres, counted)) } serial
  cases counted with
  | true => simp [reserved, count]
  | false => simp [reserved, count]

/-- A cancel takes the reservation away, and gives back one of its count (R127). -/
theorem Window.cancel_frame (w : Window) (asker pres : Nat) :
    (w.cancel asker pres).base = w.base ∧ (w.cancel asker pres).redeemed = w.redeemed := by
  unfold Window.cancel
  split
  · exact ⟨rfl, rfl⟩
  · dsimp only
    split <;> exact ⟨rfl, rfl⟩

theorem Window.cancel_none {w : Window} {asker pres : Nat} (held : w.held asker pres = none) : w.cancel asker pres = w := by
  simp only [Window.cancel, held]

theorem Window.cancel_held {w : Window} {serial asker pres : Nat} {counted : Bool}
    (held : w.held asker pres = some (serial, asker, pres, counted)) :
    (serial, asker, pres, counted) ∉ (w.cancel asker pres).reserved
    ∧ (counted = true → ∀ m, mget w.counted serial = some m → mget (w.cancel asker pres).counted serial = some (m + 1))
    ∧ (counted = false → (w.cancel asker pres).counted = w.counted) := by
  unfold Window.cancel
  rw [held]
  cases counted with
  | false => simp
  | true =>
    cases hm : mget w.counted serial with
    | none => simp [hm]
    | some m => simp [hm]

end Sys2Proof.Machine

/-! ## Admission (R118 to R131, R153) -/

namespace Sys2Proof
open Machine

section
variable {s s' s₂ : State} {peer fn : Nat}

/-! ### The entry of a presentation ring -/

/-- The record, the image and the tag of the next entry of a presentation ring, and the verdict on it (R119, R153). -/
def nextImage (s : State) (peer fn : Nat) : List Byte :=
  let e := presEntry s peer fn
  if leAt e 8 8 = 0 then [] else hostBytes s peer fn (leAt e 8 8) (leAt e 0x10 4)

def nextTag (s : State) (peer fn : Nat) : Word := BitVec.ofNat 64 (leAt (presEntry s peer fn) 0x18 8)

def nextVerdict (s : State) (peer fn : Nat) : Verdict :=
  presentRecord (takePres s peer fn) peer (some fn) (nextRecord s peer fn) (nextImage s peer fn) (s.door peer fn).atoken none 0
    (doorSlack (nextRecord s peer fn))

/-- What the next entry of a presentation ring comes to. -/
def nextAnswer (s : State) (peer fn : Nat) : State :=
  answerRing (takePres s peer fn) peer fn (nextTag s peer fn) (nextRecord s peer fn) (nextImage s peer fn)
    (if presEntryOk (presEntry s peer fn) then nextVerdict s peer fn
      else .refused stFormat (ringError (takePres s peer fn) peer fn))

/-- The events of presentation take the next entry if its record is of their kind (R119). -/
theorem ringPresentOf_next {kinds : List (Option RecKind)} (takes : presTakes s peer fn = true)
    (kind : kinds.contains (recKind (nextRecord s peer fn)) = true) :
    ringPresentOf peer fn (leAt (presEntry s peer fn) 0 8) (nextTag s peer fn) kinds s = nextAnswer s peer fn := by
  cases ok : presEntryOk (presEntry s peer fn) with
  | true =>
    rw [nextAnswer, if_pos ok]
    exact ringPresentOf_ok takes kind ok
  | false =>
    rw [nextAnswer, if_neg (by simp [ok])]
    exact ringPresentOf_bad takes kind ok

/-- The event of each kind of record takes the next entry (R119). -/
theorem presents_next (takes : presTakes s peer fn = true) :
    let e := presEntry s peer fn
    let r := nextRecord s peer fn
    let comes (i : Instr) : Prop := Does i s (nextAnswer s peer fn)
    ((recKind r = some .warrant ∨ recKind r = none) → comes (.warrant peer fn (leAt e 0 8) (leAt e 8 8) (nextTag s peer fn)))
    ∧ (recKind r = some .slip → comes (.delegationSlip peer fn (leAt e 0 8) (nextTag s peer fn)))
    ∧ (recKind r = some .certificate → comes (.timeCertificate peer fn (leAt e 0 8) (nextTag s peer fn)))
    ∧ (recKind r = some .declaration → comes (.capacityDeclaration peer fn (leAt e 0 8) (nextTag s peer fn)))
    ∧ (recKind r = some .enrolment → comes (.enrolment peer fn (leAt e 0 8) (nextTag s peer fn)))
    ∧ (recKind r = some .revocation → comes (.revocation peer fn (leAt e 0 8) (nextTag s peer fn))) := by
  intro e r comes
  have next (kinds : List (Option RecKind)) (h : kinds.contains (recKind r) = true) :
      (.next (ringPresentOf peer fn (leAt e 0 8) (nextTag s peer fn) kinds s) : Host.Outcome State Fault Refusal)
        = .next (nextAnswer s peer fn) :=
    congrArg Host.Outcome.next (ringPresentOf_next takes h)
  refine ⟨fun h => ?_, fun h => next [some .slip] (by rw [h]; rfl), fun h => next [some .certificate] (by rw [h]; rfl),
    fun h => next [some .declaration] (by rw [h]; rfl), fun h => next [some .enrolment] (by rw [h]; rfl),
    fun h => next [some .revocation] (by rw [h]; rfl)⟩
  refine Eq.trans (congrArg Host.Outcome.next (if_pos rfl)) (next [some .warrant, none] ?_)
  rcases h with h | h <;> rw [h] <;> rfl

/-- A record that is taken is answered with an event, which changes only the doors of the device. -/
theorem nextAnswer_taken {z : State} (ok : presEntryOk (presEntry s peer fn) = true) (h : nextVerdict s peer fn = .taken z) :
    OnlyDoors peer z (nextAnswer s peer fn) := by
  rw [nextAnswer, if_pos ok, h]
  exact presDone_onlyDoors _ _ _ _ _ _ _

/-! ### The entry of a launch ring -/

/-- The event of a launch entry takes the next entry of the ring (R119, R153). -/
theorem doorwayLaunch_takes (takes : launchTakes s peer fn = true) :
    let e := launchEntry s peer fn
    let tag : Word := BitVec.ofNat 64 (leAt e 0x18 8)
    exec (.doorwayLaunch peer fn (leAt e 0 2) (leAt e 8 8) tag) s = .next (if launchEntryOk e
      then ringLaunchOf peer fn (leAt e 0 2) (hostBytes s peer fn (leAt e 8 8) 128) tag s
      else launchDone (ringError (takeLaunch s peer fn) peer fn) peer fn (leAt e 0 2) stBadLaunch 0 tag) := by
  intro e tag
  refine congrArg Host.Outcome.next ((if_pos ⟨rfl, rfl, (tag_toNat e 0x18).symm⟩).trans ?_)
  rw [ringLaunch, if_neg (by simp [takes])]

/-- What the checks of a launch header answer for a context that is reached through a door (R348, R372). -/
def doorLaunch (s : State) (peer id : Nat) (x : Ctx) (h : List Byte) : Launched :=
  let core := ((lowest x.slots).map (·.1)).getD x.coreHome
  launchWith s.fresh.2 ⟨peer, id⟩ core [] s.fresh.1 (max 0x200 (classFloor x.cls)) (core / 256) h

section
variable {id : Nat} {x : Ctx} {h : List Byte} {tag : Word} (hc : s.ctx ⟨peer, id⟩ = some x) (hfn : x.doorFn = fn)
  (live : x.state = .live)
include hc hfn live

theorem ringLaunchOf_status {st : Nat} (hl : doorLaunch s peer id x h = .status st) :
    ringLaunchOf peer fn id h tag s = launchDone (takeLaunch s peer fn) peer fn id st x.serial tag := by
  rw [doorLaunch] at hl
  simp only [ringLaunchOf, hc, if_neg (not_not_intro hfn), if_neg (not_not_intro live), hl]

theorem ringLaunchOf_ok {z : State} {num : Nat} (hl : doorLaunch s peer id x h = .ok z num) :
    ringLaunchOf peer fn id h tag s = launchDone (takeLaunch z peer fn) peer fn id 0 x.serial (withBit63 num) := by
  rw [doorLaunch] at hl
  simp only [ringLaunchOf, hc, if_neg (not_not_intro hfn), if_neg (not_not_intro live), hl]

end

end

/-! ### Messages at the home and at the device that presents (R127 to R129) -/

section
variable {s : State} {g : Msg}

/-- A request that the home grants reserves its serial and is answered with a grant (R128). -/
theorem redeemRequest_granted {serial total : Nat} {key : Key} {counted : Bool} {w : Window} (found : findMsg s g.id = some g)
    (kind : g.kind = .request serial counted total key.modulus) (hkey : mget (s.dev g.dst).keys g.key = some key)
    (hw : ((s.dev g.dst).window g.key).reserve serial total counted g.asker g.pres = some w) :
    ∃ s', Does (.redeemRequest g.id) s s' ∧ (s'.dev g.dst).window g.key = w
      ∧ ∃ m ∈ s'.msgs, m.kind = .grant ∧ m.src = g.dst ∧ m.pres = g.pres := by
  refine ⟨sendMsg ((dropMsg s g.id).updWindow g.dst g.key (fun _ => w)) g.dst g.asker g.key g.asker g.pres .grant g.slack, ?_, ?_,
    ?_⟩
  · simp only [Does, exec, execRedeemRequest, found, kind,
      homeReserve_some (s := dropMsg s g.id) hkey hw]
  · rw [sendMsg_window, updWindow_window]
  · exact sendMsg_sends _ _ _ _ _ _ _ _

/-- A request that the home's window refuses is denied as redeemed (R127, R128). -/
theorem redeemRequest_denied {serial total : Nat} {key : Key} {counted : Bool} (found : findMsg s g.id = some g)
    (kind : g.kind = .request serial counted total key.modulus) (hkey : mget (s.dev g.dst).keys g.key = some key)
    (hw : ((s.dev g.dst).window g.key).reserve serial total counted g.asker g.pres = none) :
    ∃ s' m, Does (.redeemRequest g.id) s s' ∧ m ∈ s'.msgs ∧ m.kind = .deny stRedeemed ∧ m.src = g.dst ∧ m.pres = g.pres := by
  obtain ⟨m, sent⟩ := sendMsg_sends (dropMsg s g.id) g.dst g.asker g.key g.asker g.pres (.deny stRedeemed) g.slack
  exact ⟨_, m, by simp only [Does, exec, execRedeemRequest, found, kind, homeReserve_none (s := dropMsg s g.id) hkey hw], sent⟩

/-- A commit and a cancel change the window of their key at the home (R128). -/
theorem redemptionCommit_window {n : Nat} (found : findMsg s g.id = some g) (kind : g.kind = .commit n) :
    ∃ s', Does (.redemptionCommit g.id) s s'
      ∧ (s'.dev g.dst).window g.key = ((s.dev g.dst).window g.key).commit g.asker g.pres :=
  ⟨(dropMsg s g.id).updWindow g.dst g.key (·.commit g.asker g.pres), by simp only [Does, exec, execRedemptionCommit, found, kind],
    by rw [updWindow_window, dropMsg_dev]⟩

theorem redemptionCancel_window {n : Nat} (found : findMsg s g.id = some g) (kind : g.kind = .cancel n) :
    ∃ s', Does (.redemptionCancel g.id) s s'
      ∧ (s'.dev g.dst).window g.key = ((s.dev g.dst).window g.key).cancel g.asker g.pres :=
  ⟨(dropMsg s g.id).updWindow g.dst g.key (·.cancel g.asker g.pres), by simp only [Does, exec, execRedemptionCancel, found, kind],
    by rw [updWindow_window, dropMsg_dev]⟩

/-- A grant for a presentation that is over is given back (R128). -/
theorem redeemReply_over (found : findMsg s g.id = some g) (kind : g.kind = .grant)
    (past : ∀ v ∈ (s.dev g.dst).press, v.id ≠ g.pres) :
    ∃ s' m, Does (.redeemReply g.id) s s' ∧ m ∈ s'.msgs ∧ m.kind = .cancel 0 ∧ m.src = g.dst ∧ m.pres = g.pres := by
  have none : (s.dev g.dst).press.find? (fun v => v.id == g.pres) = none := by simpa using past
  obtain ⟨m, sent⟩ := sendMsg_sends (dropMsg s g.id) g.dst g.src g.key g.asker g.pres (.cancel 0) g.slack
  exact ⟨_, m, by simp only [Does, exec, execRedeemReply, found, kind, dropMsg_dev, none], sent⟩

/-- A denial in time is the status of its presentation (R128). -/
theorem redeemReply_denied {st f : Nat} {v : Pres} (found : findMsg s g.id = some g) (kind : g.kind = .deny st)
    (hv : (s.dev g.dst).press.find? (fun v => v.id == g.pres) = some v) (ring : v.fn = some f)
      (soon : nsOf (s.now - v.since) ≤ 10 ^ 6) :
    let z := dropPres (dropMsg s g.id) g.dst v.id
    Does (.redeemReply g.id) s (presDone (countRefusal z g.dst st) g.dst f v.tag st 0 (recOwn v.record)) := by
  have late : v.late (dropMsg s g.id) = false := decide_eq_false (Nat.not_lt.mpr soon)
  simp only [Does, exec, execRedeemReply, found, kind, dropMsg_dev, hv, late, answerPres, ring, answerRing, Bool.false_eq_true,
    if_false]

end

/-- Settles O48: the next entry of a ring by `presents_next` and `doorwayLaunch_takes`, the records by the lemmas on admission, the
home by those on its window. -/
theorem admissionSteps : Obligations.AdmissionSteps := by
  unfold Obligations.AdmissionSteps
  refine ⟨fun s peer fn takes => ?_, fun s peer fn x takes => ?_, fun s g found => ?_, fun s peer v hv past => ?_,
    fun s home key serial asker pres counted gone down held => ?_⟩
  · have doors := takePres_onlyDoors s peer fn
    have ready : ((takePres s peer fn).dev peer).ready = (s.dev peer).ready := doors.field (·.ready)
    have keys : ((takePres s peer fn).dev peer).keys = (s.dev peer).keys := doors.field (·.keys)
    have modulus : ((takePres s peer fn).dev peer).modulus 0 = (s.dev peer).modulus 0 := doors.field (·.modulus 0)
    obtain ⟨warrant, slip, certificate, declaration, enrolment, revocation⟩ := presents_next takes
    extract_lets e r image tag s₁ d token verdict comes slot
    have answers {i : Instr} (h : Does i s (nextAnswer s peer fn)) : comes i :=
      ⟨fun ok => by rwa [nextAnswer, if_pos ok] at h, fun bad => by rwa [nextAnswer, if_neg (Bool.eq_false_iff.mp bad)] at h⟩
    refine ⟨fun h => answers (warrant h), fun h => answers (slip h), fun h => answers (certificate h), fun h => answers
      (declaration h),
      fun h => answers (enrolment h), fun h => answers (revocation h), fun ok => ⟨?_, ?_, ?_, ?_, ?_, ?_⟩⟩
    · intro n kind isReady format slot0 key signed id nonce later
      obtain ⟨z, hz, time, err, used⟩ := admitCertificate_taken (s := s₁) format slot0 (modulus.trans key) signed id
        ((doors.nonceMatches r).trans nonce) (by rw [doors.field (·.timeA), doors.dtime, doors.dunc]; exact later)
      have after := nextAnswer_taken ok ((presentRecord_certificate kind (ready.trans isReady)).trans hz)
      exact ⟨_, certificate kind, after.dtime.trans time, (after.field (·.timeA)).trans err, (after.field (·.nonce)).trans used⟩
    · rintro rfl kind format signed id empty
      obtain ⟨z, hz, key, window⟩ := admitKey_fills (s := s₁) format signed id (by rw [keys]; exact empty)
      have after := nextAnswer_taken ok ((presentRecord_enrolment kind).trans hz)
      exact ⟨_, enrolment kind, (after.field (fun d => mget d.keys slot)).trans key, (after.field (·.window slot)).trans window⟩
    · rintro rfl kind format signed id full
      obtain ⟨z, hz, key⟩ := admitKey_empties (s := s₁) format signed id (by rw [keys]; exact full)
      have after := nextAnswer_taken ok ((presentRecord_revocation kind).trans hz)
      exact ⟨_, revocation kind, (after.field (fun d => mget d.keys slot)).trans key⟩
    · intro n kind isReady format slot0 key signed id newer holds
      obtain ⟨z, hz, ratios, serial⟩ := admitDeclaration_taken (s := s₁) format slot0 (modulus.trans key) signed id
        (by rw [doors.field (·.declSerial)]; exact newer) holds
      have after := nextAnswer_taken ok ((presentRecord_declaration kind (ready.trans isReady)).trans hz)
      exact ⟨_, declaration kind, (after.field (·.ratios)).trans ratios, (after.field (·.declSerial)).trans serial⟩
    · intro id s₂ kind isReady built
      obtain ⟨y, hy, live, serial, block, root⟩ := admitWarrant_ctx built
      have own : recOwn r = leAt r 8 8 := by rw [recOwn, kind]
      have does := (answers (warrant (.inl kind))).1 ok
      rw [show verdict = .built id s₂ from (presentRecord_warrant kind (ready.trans isReady)).trans built, answerRing, own] at does
      exact ⟨y, does, hy, live, serial, block, root⟩
    · intro st s₂ kind refused
      have own : recOwn r = leAt r 0 8 := by rw [recOwn, kind]
      have does := (answers (slip kind)).1 ok
      rwa [refused, answerRing, own] at does
  · extract_lets e id tag c core launch done
    have event : exec (.doorwayLaunch peer fn id (leAt e 8 8) tag) s = .next (if launchEntryOk e
      then ringLaunchOf peer fn id (hostBytes s peer fn (leAt e 8 8) 128) tag s
      else launchDone (ringError (takeLaunch s peer fn) peer fn) peer fn id stBadLaunch 0 tag) := doorwayLaunch_takes takes
    refine ⟨fun ok => ?_, fun bad => ?_⟩
    · rw [if_pos ok] at event
      have comes {z : State} {st serial : Nat} {t : Word} (h : ringLaunchOf peer fn id (hostBytes s peer fn (leAt e 8 8) 128) tag
          s =
          launchDone (takeLaunch z peer fn) peer fn id st serial t) : done z st serial t := event.trans (congrArg
            Host.Outcome.next h)
      refine ⟨fun hc => comes ?_, fun hc hfn => comes ?_, fun hc hfn hst => comes ?_, fun st hc hfn hst hl => comes ?_,
        fun z num hc hfn hst hl => comes ?_⟩
      · simp only [ringLaunchOf, show s.ctx ⟨peer, id⟩ = none from hc]
      · simp only [ringLaunchOf, show s.ctx ⟨peer, id⟩ = some x from hc, if_pos hfn]
      · simp only [ringLaunchOf, show s.ctx ⟨peer, id⟩ = some x from hc, if_neg (not_not_intro hfn), if_pos hst]
      · exact ringLaunchOf_status hc hfn hst hl
      · exact ringLaunchOf_ok hc hfn hst hl
    · rwa [if_neg (Bool.eq_false_iff.mp bad)] at event
  · extract_lets w after sends
    refine ⟨fun serial total key kind hkey => ⟨fun base new free => ?_, fun old => ?_⟩, fun n serial counted kind held base => ?_,
      fun n kind => ?_, fun kind past => redeemReply_over found kind past, fun st v f kind hv ring soon =>
      redeemReply_denied found kind hv ring soon⟩
    · obtain ⟨s', does, window, m, hm, sent⟩ := redeemRequest_granted found kind hkey
        (Window.reserve_new base new free total g.asker g.pres)
      refine ⟨⟨s', m, does, hm, sent⟩, s', does, ?_⟩
      rw [show after s' = _ from window]
      exact List.mem_append_right _ (List.mem_singleton_self _)
    · exact redeemRequest_denied found kind hkey (Window.reserve_redeemed old total g.asker g.pres)
    · obtain ⟨s', does, window⟩ := redemptionCommit_window found kind
      refine ⟨s', does, ?_⟩
      rw [show after s' = _ from window]
      exact Window.commit_held held base
    · obtain ⟨s', does, window⟩ := redemptionCancel_window found kind
      refine ⟨s', does, ?_⟩
      rw [show after s' = _ from window]
      obtain ⟨base, redeemed⟩ := w.cancel_frame g.asker g.pres
      exact ⟨base, redeemed, Window.cancel_none, fun serial counted held => Window.cancel_held held⟩
  · have late : v.late s = true := decide_eq_true past
    simp only [Does, exec, execRedeemTimeout, hv, late, if_true, refuseLate]
    rfl
  · have waits : ¬ ((s.dev home).peersUp.contains asker = true ∨ downFor s home asker < 10 ^ 10) :=
      not_or_intro (Bool.eq_false_iff.mp gone) (Nat.not_lt.mpr down)
    simp only [Does, exec, execReservationHoldExpiry, if_neg waits, held]

end Sys2Proof

/-! ## Contexts under stops and resumptions (R135, R140 to R151) -/

namespace Sys2Proof.Machine
variable {s s' s'' : State} {c : CtxId}

/-! ### Operations that leave the contexts, or all but their events, as they were -/

theorem State.ctx_congr (h : s'.ctxs = s.ctxs) (c : CtxId) : s'.ctx c = s.ctx c := by rw [State.ctx, State.ctx, h]

theorem resetCores_ctxs (peer : Nat) (cores : List Nat) : ∀ s : State, (resetCores s peer cores).ctxs = s.ctxs := by
  unfold resetCores
  induction cores with
  | nil => exact fun _ => rfl
  | cons core cores ih => exact fun s => (ih _).trans rfl

theorem putPages_ctxs (pages : List Nat) : ∀ (s : State) (bs : List Byte), (putPages s pages bs).ctxs = s.ctxs := by
  induction pages with
  | nil => exact fun _ _ => rfl
  | cons a rest ih => exact fun s bs => (ih _ _).trans rfl

theorem fillSpans_ctxs (peer : Nat) (spans : List Span) : ∀ (s : State) (bs : List Byte), (fillSpans s peer spans bs).ctxs =
    s.ctxs := by
  induction spans with
  | nil => exact fun _ _ => rfl
  | cons sp rest ih => exact fun s bs => (ih _ _).trans rfl

theorem EventsOnly.foldl {α : Type} {f : State → α → State} (hf : ∀ s a, EventsOnly s (f s a)) (l : List α) (s : State) :
    EventsOnly s (l.foldl f s) := by
  induction l generalizing s with
  | nil => exact .refl s
  | cons a l ih => exact (hf s a).trans (ih _)

theorem State.writes_eventsOnly (s : State) (a : Nat) (bs : List Byte) : EventsOnly s (s.writes a bs) := .of_ctxs rfl

theorem State.updCore_eventsOnly (s : State) (c : CoreId) (f : Core → Core) : EventsOnly s (s.updCore c f) := .of_ctxs rfl

theorem copyPages_eventsOnly (s : State) (olds news : List Nat) : EventsOnly s (copyPages s olds news) :=
  .foldl (fun _ _ => State.writes_eventsOnly _ _ _) _ _

theorem copyCores_eventsOnly (s : State) (c d : CtxId) (x y : Ctx) : EventsOnly s (copyCores s c d x y) :=
  (EventsOnly.foldl (fun _ _ => State.updCore_eventsOnly _ _ _) _ _).trans
    (.foldl (fun _ _ => State.updCore_eventsOnly _ _ _) _ _)

theorem postEvent_ctxs (s : State) (peer fn code ctx status flags serial word : Nat) :
    (postEvent s peer fn code ctx status flags serial word).ctxs = s.ctxs := (postEntry_onlyDoors _ _ _ _).ctxs

theorem deliver_eventsOnly (s : State) (c : CtxId) (uid : Nat) (item : Event ⊕ Rec) (k : StoreClass) :
    EventsOnly s (deliver s c uid item k) := by
  have fresh : EventsOnly s s.fresh.2 := .of_ctxs rfl
  unfold deliver
  dsimp only
  split
  · split
    · exact fresh
    · exact fresh.trans (storeItem_eventsOnly _ _ _ _ _)
  · exact fresh.trans (storeItem_eventsOnly _ _ _ _ _)
  · split
    · refine fresh.trans (EventsOnly.trans ?_ (noteRecords_eventsOnly _ _ _))
      exact .of_ctxs rfl
    · exact fresh.trans (storeItem_eventsOnly _ _ _ _ _)

/-! ### A context that has ended is gone (R144) -/

theorem State.updCtx_ctx_none (h : s.ctx c = none) (d : CtxId) (f : Ctx → Ctx) : (s.updCtx d f).ctx c = none := by
  unfold State.updCtx
  split
  · next x hx =>
    have hd : c ≠ d := fun e => by simp [← e, h] at hx
    rw [State.ctx_setCtx_other _ _ hd, h]
  · exact h

theorem dropTexts_ctx_none (h : s.ctx c = none) (d : CtxId) : (dropTexts s d).ctx c = none := by
  unfold dropTexts
  split
  · exact h
  · next x hx =>
    have hd : c ≠ d := fun e => by simp [← e, h] at hx
    dsimp only
    rw [State.ctx_setCtx_other _ _ hd, h]

theorem clearCtx_ctx (s : State) (c : CtxId) : (clearCtx s c).ctx c = none := mget_mdel_same s.ctxs c

/-- A context that ends is gone from the machine (R144). -/
theorem endCtx_ctx (s : State) (c : CtxId) (x : Ctx) (flags : Nat) (silent : Bool) : (endCtx s c x flags silent).ctx c = none := by
  have cleared : (resetCores (clearCtx s c) c.peer x.cores).ctx c = none := (State.ctx_congr (resetCores_ctxs _ _ _) c).trans
      (clearCtx_ctx s c)
  unfold endCtx
  dsimp only
  split
  · generalize hz : (State.capUpdate _ c.peer _) = z
    have gone : z.ctx c = none := hz ▸ cleared
    split
    · exact gone
    · exact (State.ctx_congr (postEvent_ctxs _ _ _ _ _ _ _ _ _) c).trans gone
  · next id _ =>
    generalize hz : (State.capUpdate _ c.peer _) = z
    have gone : z.ctx c = none := by
      subst hz
      refine dropTexts_ctx_none (c := c) ?_ _
      exact State.updCtx_ctx_none cleared _ _
    split
    · exact gone
    · exact (deliver_eventsOnly _ _ _ _ _ c).1 gone

/-- At the end of a tree its root is gone. -/
theorem endTree_ctx (s : State) (c : CtxId) (silent : Bool) (n : Nat) : (endTree s c silent (n + 1)).ctx c = none := by
  unfold endTree
  extract_lets z₁
  split
  · next h => exact h
  · next y _ =>
    generalize (if y.cause = some 1 then dump z₁ c y 1 else (z₁, 0)) = r
    obtain ⟨z₂, dumped⟩ := r
    dsimp only
    generalize cancelChildren z₂ c = z₃
    cases h : z₃.ctx c with
    | none => exact h
    | some z => exact endCtx_ctx _ _ _ _ _

end Sys2Proof.Machine

/-! ### Threads are loaded (R141) -/

namespace Sys2Proof.Machine
variable {s s' s'' : State} {c : CtxId}

/-- The context is the same but for its event store, its images and its written image. -/
def Ctx.SameButLoaded (x y : Ctx) : Prop := ∃ store held dropped images whole,
  y = { x with store := store, held := held, dropped := dropped, images := images, whole := whole }

theorem Ctx.SameButLoaded.refl (x : Ctx) : x.SameButLoaded x := ⟨_, _, _, _, _, rfl⟩

theorem Ctx.SameButStore.loaded {x y : Ctx} (h : x.SameButStore y) : x.SameButLoaded y := by
  obtain ⟨_, _, _, rfl⟩ := h
  exact ⟨_, _, _, _, _, rfl⟩

theorem Ctx.SameButLoaded.trans {x y z : Ctx} (h : x.SameButLoaded y) (h' : y.SameButLoaded z) : x.SameButLoaded z := by
  obtain ⟨_, _, _, _, _, rfl⟩ := h
  obtain ⟨a, b, c, d, e, rfl⟩ := h'
  exact ⟨a, b, c, d, e, rfl⟩

/-- What a context holds beside them is as it was. -/
theorem Ctx.SameButLoaded.field {α : Type} {x y : Ctx} (f : Ctx → α) (h : x.SameButLoaded y)
    (hf : ∀ x store held dropped images whole,
      f { x with store := store, held := held, dropped := dropped, images := images, whole := whole } = f x := by intros; rfl) :
    f y = f x := by
  obtain ⟨store, held, dropped, images, whole, rfl⟩ := h
  exact hf x store held dropped images whole

/-- No context is lost, and each is the same but for its events, its images and its written image. -/
def LoadsOnly (s s' : State) : Prop := ∀ c x, s.ctx c = some x → ∃ y, s'.ctx c = some y ∧ x.SameButLoaded y

theorem LoadsOnly.refl (s : State) : LoadsOnly s s := fun _ x h => ⟨x, h, .refl x⟩

theorem EventsOnly.loads (h : EventsOnly s s') : LoadsOnly s s' := fun c x hx => by
  obtain ⟨y, hy, hxy⟩ := (h c).2 x hx
  exact ⟨y, hy, hxy.loaded⟩

theorem LoadsOnly.trans (h : LoadsOnly s s') (h' : LoadsOnly s' s'') : LoadsOnly s s'' := fun c x hx => by
  obtain ⟨y, hy, hxy⟩ := h c x hx
  obtain ⟨z, hz, hyz⟩ := h' c y hy
  exact ⟨z, hz, hxy.trans hyz⟩

theorem LoadsOnly.setCtx {x y : Ctx} (hx : s.ctx c = some x) (h : x.SameButLoaded y) : LoadsOnly s (s.setCtx c y) := fun d z hz =>
    by
  by_cases hd : d = c
  · subst hd
    obtain rfl := Option.some.inj (hz.symm.trans hx)
    exact ⟨y, State.ctx_setCtx _ _ _, h⟩
  · exact ⟨z, (State.ctx_setCtx_other _ _ hd).trans hz, .refl z⟩

theorem LoadsOnly.updCtx (s : State) (c : CtxId) {f : Ctx → Ctx} (hf : ∀ x : Ctx, x.SameButLoaded (f x)) : LoadsOnly s
    (s.updCtx c f) := by
  unfold State.updCtx
  split
  · next x hx => exact .setCtx hx (hf x)
  · exact .refl s

theorem dropWhole_loadsOnly (s : State) (c : CtxId) : LoadsOnly s (dropWhole s c) := by
  unfold dropWhole
  split
  · exact .refl s
  · next x hx =>
    split
    · exact LoadsOnly.trans (s' := zeroPages s (x.whole.getD [])) (EventsOnly.loads (.of_ctxs rfl))
        (.setCtx hx ⟨_, _, _, _, _, rfl⟩)
    · exact .refl s

theorem dropWhole_thread (s : State) (c : CtxId) (p : Place) : (dropWhole s c).thread p = s.thread p := by
  unfold dropWhole
  split
  · rfl
  · split <;> rfl

/-- A thread that is placed has its registers and its wait. -/
theorem placeThread_registers (s : State) (p : Place) (t : Thread) : ∃ u, (placeThread s p t).thread p = some u ∧ u.pc = t.pc
    ∧ u.i = t.i ∧ u.f = t.f ∧ u.wait = t.wait := by
  obtain ⟨u, hu, events, records, rfl⟩ := placeThread_thread s p t
  exact ⟨_, hu, rfl, rfl, rfl, rfl⟩

theorem load_loadsOnly (s : State) (c : CtxId) (m : Image) (core slot : Nat) : LoadsOnly s (load s c m core slot) := by
  unfold load
  refine LoadsOnly.trans ?_ (dropWhole_loadsOnly _ _)
  refine LoadsOnly.trans ?_ (placeThread_eventsOnly _ _ _).loads
  refine LoadsOnly.trans ?_ (State.updCore_eventsOnly _ _ _).loads
  have zeroed : EventsOnly s (zeroPages s m.pages) := .of_ctxs rfl
  refine LoadsOnly.trans (zeroed.loads.trans (.updCtx _ c fun x => ?_)) (EventsOnly.loads (.of_ctxs rfl))
  exact ⟨_, _, _, _, _, rfl⟩

/-- A loaded thread stands in its slot with its registers, and waits for nothing. -/
theorem load_thread (s : State) (c : CtxId) (m : Image) (core slot : Nat) :
    ∃ u, (load s c m core slot).thread ⟨c.peer, core, slot⟩ = some u ∧ u.pc = m.thread.pc ∧ u.i = m.thread.i ∧ u.f = m.thread.f
      ∧ u.wait = .none := by
  unfold load
  simp only [dropWhole_thread]
  exact placeThread_registers _ _ _

theorem loadNext_loadsOnly {x : Ctx} (h : loadNext s c x = some s') : LoadsOnly s s' := by
  obtain ⟨m, -, hm⟩ := List.exists_of_findSome?_eq_some h
  obtain ⟨e, -, rfl⟩ := Option.map_eq_some_iff.mp hm
  exact load_loadsOnly _ _ _ _ _

/-- The first image, if its pages load and it has a slot, is loaded next. -/
theorem loadNext_first {x : Ctx} {m : Image} {rest : List Image} {core slot : Nat} (images : x.images = m :: rest)
    (pages : pagesLoad s m.pages = true) (free : m.slotFor s c x = some (core, slot)) :
    loadNext s c x = some (load s c m core slot) := by
  simp only [loadNext, images, List.filter_cons, pages, if_true, List.findSome?_cons, free, Option.map_some]

theorem loadAll_loadsOnly (c : CtxId) : ∀ (n : Nat) (s : State), LoadsOnly s (loadAll s c n)
  | 0, s => .refl s
  | n + 1, s => by
    unfold loadAll
    split
    · exact .refl s
    · split
      · next h => exact (loadNext_loadsOnly h).trans (loadAll_loadsOnly c n _)
      · exact .refl s

/-- The context as it goes on (R135, R140). -/
def Ctx.lives (x : Ctx) : Ctx := { x.takeBack with state := .live, cause := none, exitWord := 0, liveTo := none, liveAs := none }

/-- A parked context whose image loads is LIVE again, and loading changes no other context but its events (R140, R141). -/
theorem goLive_ctx {x : Ctx} (hx : s.ctx c = some x) (pages : pagesLoad s (x.whole.getD []) = true) :
    LoadsOnly (s.setCtx c x.lives) (goLive s c) := by
  have loads : (s.ctx c).any (fun x => pagesLoad s (x.whole.getD [])) = true := by rw [hx]; exact pages
  rw [goLive, if_pos loads, State.updCtx_some hx]
  exact (loadAll_loadsOnly c _ _).trans (dropWhole_loadsOnly _ _)

end Sys2Proof.Machine

/-! ### Stops that come to rest, and contexts that move (R135, R149, R150) -/

namespace Sys2Proof.Machine
variable {s s' s'' : State} {c : CtxId} {x : Ctx}

/-- A context whose image is written holds it. -/
theorem writeWhole_ctx {cause : Nat} (h : writeWhole s c x cause = some s') :
    ∃ y, s'.ctx c = some y ∧ y.whole.isSome = true := by
  unfold writeWhole at h
  obtain ⟨pages, -, rfl⟩ := Option.map_eq_some_iff.mp h
  refine ⟨_, (State.ctx_congr (putPages_ctxs _ _ _) c).trans (State.ctx_setCtx _ _ _), rfl⟩

/-- A context that is parked is PARKED without slots; the rest of it stays (R144). -/
theorem comeToRest_park {y : Ctx} (hx : s.ctx c = some y) :
    (comeToRest s c x 7).ctx c = some { y with state := .parked, slots := [] } := by
  have rests : ((s.updCtx c (fun y => { y with state := restState 7, slots := [] })).ctx c) = some
      { y with state := .parked, slots := [] } := by
    rw [State.updCtx_some hx, State.ctx_setCtx]
    rfl
  unfold comeToRest
  rw [if_neg (by decide)]
  dsimp only
  split
  · rw [State.ctx_congr (postEvent_ctxs _ _ _ _ _ _ _ _ _), rests]
  · rw [if_neg (by decide), State.ctx_congr (postEvent_ctxs _ _ _ _ _ _ _ _ _), rests]

/-- A stop of a context that is not surrendered comes to rest once its threads are unloaded (R141, R144). -/
theorem tryStop_park {y : Ctx} (hx : s.ctx c = some x) (stopping : x.state = .stopping) (cause : x.cause = some 7)
    (unloaded : unloadAll s c = some s') (hy : s'.ctx c = some y) (written : writeWhole s' c y 7 = some s'') :
    tryStop s c = comeToRest s'' c y 7 := by
  have stays : x.ending = false := by rw [Ctx.ending, cause]; rfl
  have rest : completeRest s' c y 7 = comeToRest s'' c y 7 := by
    unfold completeRest
    rw [if_neg (by decide), written]
  simp only [tryStop, hx, stays, stopping, cause, unloaded, hy, Option.getD_some, Nat.reduceEqDiff, if_false, false_and, ne_eq,
    not_true_eq_false, Bool.false_eq_true, rest]

/-- A surrender that has come to rest ends its tree in one step (R144). -/
theorem surrender_ends (hx : s.ctx c = some x) (above : ∀ id, x.parent = some id → ending s ⟨c.peer, id⟩ = false)
    (rest : restTree s c 9 = (s', true)) : surrender s c = endTree s' c x.liveAs.isSome 9 := by
  have none : (x.parent.any fun id => ending s ⟨c.peer, id⟩) = false := by
    cases h : x.parent with
    | none => rfl
    | some id => exact above id h
  simp [surrender, rest, hx, none]

/-- What is among the first elements that a test accepts passes the test. -/
theorem of_mem_firstN {α : Type} {f : α → Bool} {a : α} : ∀ {n : Nat} {l : List α}, a ∈ firstN f n l → f a = true
  | 0, _, h => by simp [firstN] at h
  | n + 1, [], h => by simp [firstN] at h
  | n + 1, b :: l, h => by
    rw [firstN] at h
    split at h
    · next hb =>
      rcases List.mem_cons.mp h with rfl | h
      · exact hb
      · exact of_mem_firstN h
    · exact of_mem_firstN h

/-- A number that a device chooses for a context is free. -/
theorem freeId_free {peer id : Nat} (h : freeId s peer = some id) : s.ctx ⟨peer, id⟩ = none :=
  Option.isNone_iff_eq_none.mp (of_mem_firstN (f := fun n => (s.ctx ⟨peer, n⟩).isNone) (List.mem_of_head? h))

theorem movePlan_free {peer : Nat} {q : Plan} (h : movePlan s x peer = some q) : s.ctx ⟨peer, q.ctx⟩ = none := by
  unfold movePlan at h
  dsimp only at h
  split at h
  · next hid _ =>
    cases h
    exact freeId_free hid
  · cases h

/-- A context goes on under its serial and with its block. -/
theorem Ctx.lives_frame (x : Ctx) : x.lives.serial = x.serial ∧ x.lives.block = x.block := by
  unfold Ctx.lives Ctx.takeBack
  split <;> exact ⟨rfl, rfl⟩

/-- A context that has moved is LIVE at its target, and PARKED where it was (R150). -/
theorem moved_ctx {target : Nat} {q : Plan} (hx : s.ctx c = some x) (away : (⟨target, q.ctx⟩ : CtxId) ≠ c) (pages news : List Nat)
    (bytes : List Byte) :
    let d : CtxId := ⟨target, q.ctx⟩
    let y := movedCtx s x target q
    let s₁ := copyCores (fillSpans (copyPages (enterCtx s d y) pages news) target y.spans bytes) c d x y
    let s₂ := s₁.capUpdate target (fun v => v.count y.cls (1 :: grantKinds) y.granted true)
    let s₃ := goLive (s₂.updCtx c (fun v => { v with liveAs := some q.ctx })) d
    ∃ z w, s₃.ctx c = some z ∧ z.liveAs = some q.ctx ∧ z.state = x.state ∧ s₃.ctx d = some w ∧ w.state = .live ∧ w.serial = x.serial
      ∧ w.block = x.block := by
  intro d y s₁ s₂ s₃
  have entered : ∃ now, (enterCtx s d y).ctx d = some (y.reckon now) := ⟨_, State.ctx_setCtx _ _ _⟩
  obtain ⟨now, entered⟩ := entered
  have stays : (enterCtx s d y).ctx c = some x :=
    (State.ctx_setCtx_other _ _ (Ne.symm away)).trans ((State.ctx_congr (resetCores_ctxs _ _ _) c).trans hx)
  have copied : EventsOnly (enterCtx s d y) s₂ := by
    refine EventsOnly.trans ?_ (.of_ctxs rfl : EventsOnly s₁ s₂)
    exact ((copyPages_eventsOnly _ _ _).trans (.of_ctxs (fillSpans_ctxs _ _ _ _))).trans (copyCores_eventsOnly _ _ _ _ _)
  obtain ⟨v, hv, same⟩ := (copied c).2 x stays
  obtain ⟨w, hw, same'⟩ := (copied d).2 _ entered
  let s₄ := s₂.updCtx c (fun v => { v with liveAs := some q.ctx })
  have put : s₄ = s₂.setCtx c { v with liveAs := some q.ctx } := State.updCtx_some hv _
  have left : s₄.ctx c = some { v with liveAs := some q.ctx } := by rw [put, State.ctx_setCtx]
  have there : s₄.ctx d = some w := by rw [put, State.ctx_setCtx_other _ _ away, hw]
  have loads : pagesLoad s₄ (w.whole.getD []) = true := by
    rw [same'.field (·.whole)]
    rfl
  have live := goLive_ctx there loads
  obtain ⟨z, hz, zs⟩ := live c _ ((State.ctx_setCtx_other _ _ (Ne.symm away)).trans left)
  obtain ⟨u, hu, us⟩ := live d _ (State.ctx_setCtx _ _ _)
  exact ⟨z, u, hz, zs.field (·.liveAs), (zs.field (·.state)).trans (same.field (·.state)), hu, us.field (·.state),
    (us.field (·.serial)).trans (w.lives_frame.1.trans (same'.field (·.serial))), (us.field (·.block)).trans
      (w.lives_frame.2.trans (same'.field (·.block)))⟩

end Sys2Proof.Machine

/-! ## Stops of contexts and what follows them (R135, R140 to R144, R149 to R151) -/

namespace Sys2Proof
open Machine

section
variable {s s' s'' : State} {c : CtxId} {x : Ctx}

/-- A parked context resumes where its image loads (R140). -/
theorem hostResume_live (hx : s.ctx c = some x) (parked : x.state = .parked) (here : x.liveAs = none) (stays : x.ending = false)
    (pages : pagesLoad s (x.whole.getD []) = true) :
    ∃ s' y, Does (.hostResume c) s s' ∧ s'.ctx c = some y ∧ y.state = .live ∧ y.cause = none := by
  have hx' : (showCmd s c 2 0).ctx c = some x := hx
  obtain ⟨y, hy, same⟩ := goLive_ctx hx' pages c _ (State.ctx_setCtx _ _ _)
  refine ⟨_, y, ?_, hy, same.field (·.state), same.field (·.cause)⟩
  simp only [Does, exec, execHostResume, hx', parked, here, stays, Option.isNone_none, Bool.not_false, and_self, if_true]

/-- The image of a context that moves, once it has come, builds it at its target (R150). -/
theorem liveMigrationImage_moves {target : Nat} {q : Plan} (hx : s.ctx c = some x) (parked : x.state = .parked)
    (goes : x.liveTo = some target) (here : x.liveAs = none) (stays : x.ending = false) (sent : sentImage s x = true)
    (may : migratable s c x target = true) (ready : (s.dev target).ready = true)
    (fits : classTest s target x.cls Block.zero x.block true = true) (plan : movePlan s x target = some q) :
    ∃ s' y z, Does (.liveMigrationImage c target) s s' ∧ s'.ctx c = some z ∧ z.liveAs = some q.ctx ∧ z.state = .parked
      ∧ s'.ctx ⟨target, q.ctx⟩ = some y ∧ y.state = .live ∧ y.serial = x.serial ∧ y.block = x.block := by
  have away : (⟨target, q.ctx⟩ : CtxId) ≠ c := fun e => by
    rw [← e, movePlan_free plan] at hx
    cases hx
  obtain ⟨z, y, hz, moved, rest, hy, live, serial, block⟩ := moved_ctx hx away (x.hbm.map (·.sa) ++ x.tier2) (q.hbm ++ q.tier2)
    (spanBytes s c.peer x.spans)
  refine ⟨_, y, z, ?_, hz, moved, rest.trans parked, hy, live, serial, block⟩
  simp only [Does, exec, execLiveMigrationImage, hx, parked, goes, here, stays, sent, may, ready, fits, plan, ne_eq,
    not_true_eq_false,
    Option.isSome_none, Bool.not_true, Bool.false_eq_true, or_self, if_false]

theorem flushEntries_poisoned (peer fn : Nat) : ∀ (n : Nat) (s : State), (flushEntries s peer fn n).poisoned = s.poisoned
  | 0, _ => rfl
  | n + 1, s => by
    rw [flushEntries]
    split
    · rfl
    · split
      · exact (flushEntries_poisoned peer fn n _).trans rfl
      · rfl

theorem errorReport_poisoned (s : State) (peer what kind : Nat) : (errorReport s peer what kind).poisoned = s.poisoned := by
  unfold errorReport postEvent postEntry
  dsimp only
  split
  · rfl
  · exact (flushEntries_poisoned _ _ _ _).trans rfl

/-- A LIVE context that meets an uncorrectable error stops for it (R143, R151). -/
theorem memoryError_live (hx : s.ctx c = some x) (live : x.state = .live) :
    ∃ y z, memoryError s c none = (s.setCtx c z).setCtx c y ∧ y.state = .stopping ∧ y.cause = some 3 := by
  have stops : stopCtx s c 3 0 = s.setCtx c { x with state := .stopping, cause := some 3, exitWord := 0 } := by
    simp only [stopCtx, hx, live, Ctx.stop]
  rw [memoryError, stops, State.updCtx_some (State.ctx_setCtx _ _ _)]
  exact ⟨_, _, rfl, rfl, rfl⟩

/-- An uncorrectable error in a line poisons it, and stops the context that owns it (R151). -/
theorem eccLine_stops {n : Nat} (hx : s.ctx c = some x) (owner : ownerOf s n = some c) (live : x.state = .live) :
    ∃ s' y, Does (.eccError (.line n)) s s' ∧ s'.poisoned.contains n = true ∧ s'.ctx c = some y ∧ y.state = .stopping
      ∧ y.cause = some 3 := by
  let z : State := { s with poisoned := if s.poisoned.contains n then s.poisoned else s.poisoned ++ [n], repair := mdel s.repair n }
  have hz : z.ctx c = some x := hx
  have marked : z.poisoned.contains n = true := by
    dsimp only [z]
    split
    · next h => exact h
    · simp
  obtain ⟨y, w, stops, stopped⟩ := memoryError_live hz live
  refine ⟨errorReport (memoryError z c none) (saPeer (64 * n)) (64 * n) 2, y, ?_, ?_, ?_, stopped⟩
  · simp only [Does, exec, execEccError, owner, z]
  · rw [errorReport_poisoned, stops]
    exact marked
  · rw [errorReport, State.ctx_congr (postEvent_ctxs _ _ _ _ _ _ _ _ _), stops, State.ctx_setCtx]

/-- A fractional context gives the slot that it can spare to the one that waits (R146). -/
theorem slotReclaim_gives {needy : CtxId} {y : Ctx} {rest : List (CtxId × Ctx)} {e : Nat × Nat} (hx : s.ctx c = some x)
    (owes : x.owesSlots = false) (fractional : x.fractional = true) (live : x.state = .live)
    (waits : wanting s c.peer x.coreHome = (needy, y) :: rest) (full : freeOn s c.peer x.coreHome = []) (other : needy ≠ c)
    (hy : s.ctx needy = some y) (oldest : oldestCommit (victimsOn s c.peer x.coreHome (needy, y)) = some c)
    (spare : highest ((yieldable s c x needy).filter (fun e => s.slotFree ⟨c.peer, e.1, e.2⟩)) = some e) :
    let s₁ := s.setCtx c { x with slots := x.slots.filter (· != e) }
    Does (.slotReclaim c) s (s₁.setCtx needy (y.takeSlot s₁ needy e)) := by
  intro s₁
  have yields : yieldSlot s c (yieldable s c x needy) = some (s₁, e) := by
    simp only [yieldSlot, spare, State.updCtx_some hx, s₁]
  have waiting : s₁.ctx needy = some y := (State.ctx_setCtx_other _ _ other).trans hy
  simp only [Does, exec, execSlotReclaim, hx, owes, fractional, live, reclaimFor, waits, full, oldest, yields, Option.map_some,
    Option.getD_some, State.updCtx_some waiting, List.isEmpty_nil, Bool.not_true, bne_self_eq_false, Bool.or_self, beq_self_eq_true,
    Bool.and_self, Bool.false_eq_true, if_false, if_true]

/-- The first image of a LIVE context takes the slot that it may have (R145). -/
theorem slotReturn_loads {m : Image} {rest : List Image} {core slot : Nat} (hx : s.ctx c = some x) (live : x.state = .live)
    (images : x.images = m :: rest) (pages : pagesLoad s m.pages = true) (free : m.slotFor s c x = some (core, slot)) :
    ∃ s' u, Does (.slotReturn c) s s' ∧ s'.thread ⟨c.peer, core, slot⟩ = some u ∧ u.pc = m.thread.pc ∧ u.i = m.thread.i
      ∧ u.f = m.thread.f ∧ u.wait = .none := by
  obtain ⟨u, hu, registers⟩ := load_thread s c m core slot
  refine ⟨_, u, ?_, hu, registers⟩
  simp only [Does, exec, execSlotReturn, hx, live, ne_eq, not_true_eq_false, if_false, loadNext_first images pages free]

end

/-- Settles O47: each event comes to the stop, the rest, the load or the end that its lemma states. -/
theorem stopSteps : Obligations.StopSteps := by
  unfold Obligations.StopSteps
  intro s c x hx
  refine ⟨fun cause exit live => ?_, fun cause exit stopping stays => ?_, rfl, rfl, fun late notFaulted => ?_, fun orphaned lapsed
    => ?_,
    fun s₁ s₂ y stopping cause unloaded hy written => ?_, fun s₁ stopping cause here above rest => ⟨?_, endTree_ctx _ _ _ _⟩,
    fun parked here stays pages => hostResume_live hx parked here stays pages, fun target may here => ?_,
    fun target q parked goes here stays sent may ready fits plan =>
      liveMigrationImage_moves hx parked goes here stays sent may ready fits plan,
    fun s₁ parked away root rest => ⟨?_, endTree_ctx _ _ _ _⟩, fun peer => rfl, fun n owner live => eccLine_stops hx owner live,
    fun p t ht free => ?_, fun needy y rest e owes fractional live waits full other hy oldest spare =>
      slotReclaim_gives hx owes fractional live waits full other hy oldest spare,
    fun m rest core slot live images pages free => slotReturn_loads hx live images pages free⟩
  · simp only [stopCtx, hx, live, Ctx.stop]
  · simp only [stopCtx, hx, stopping, stays, Bool.false_and, Bool.false_eq_true, if_false, Ctx.stop]
  · simp only [Does, exec, execContextExpiry, hx, late, notFaulted, ne_eq, not_false_eq_true, and_self, if_true]
  · simp only [Does, exec, execOrphanTimeout, hx, orphaned, lapsed, and_self, if_true]
  · obtain ⟨w, hw, image⟩ := writeWhole_ctx written
    exact ⟨_, _, congrArg Host.Outcome.next (tryStop_park hx stopping cause unloaded hy written), comeToRest_park hw, rfl, rfl,
      image⟩
  · have ends : x.ending = true := by rw [Ctx.ending, cause]; rfl
    refine congrArg Host.Outcome.next ?_
    simp only [tryStop, hx, ends, if_true]
    rw [surrender_ends hx above rest, here]
    rfl
  · extract_lets y s₁
    have shown : (showCmd s c 4 target).ctx c = some x := hx
    constructor
    · intro parked
      simp only [Does, exec, execHostLiveMigrate, shown, may, here, parked, Option.isSome_none, Bool.not_true, Bool.or_self,
        Bool.false_eq_true, if_false, if_true, s₁, y]
    · intro busy
      simp only [Does, exec, execHostLiveMigrate, shown, may, here, busy, Option.isSome_none, Bool.not_true, Bool.or_self,
        Bool.false_eq_true, if_false, s₁, y]
  · have orders : x.stopFor 5 0 = if x.ending then x else { x with cause := some 5, exitWord := 0 } := by
      simp only [Ctx.stopFor, parked]
    have root' : (x.stopFor 5 0).parent = none := by rw [orders]; split <;> exact root
    have away' : (x.stopFor 5 0).liveAs.isSome = true := by rw [orders]; split <;> exact away
    have ends := surrender_ends (State.ctx_setCtx s c (x.stopFor 5 0)) (fun id h => by rw [root'] at h; cases h) rest
    rw [away'] at ends
    simp only [Does, exec, execLiveMigrationRelease, hx, parked, away, and_self, if_true, ends]
  · simp only [Does, exec, execEccError, ht, free, Bool.false_eq_true, if_false]

end Sys2Proof

/-! ## Pages that come and go (R135, R158, R204) -/

namespace Sys2Proof.Machine
variable {s s' : State} {c : CtxId} {x : Ctx}

/-! ### A write of the machine leaves the threads that read nothing (R213, R215) -/

/-- The thread reads nothing that a write of another could change under it, or holds it fixed. -/
def Thread.unread (t : Thread) : Prop := t.region.fixed = true ∨ t.region.reads = []

/-- The slot holds the thread, and every slot is listed once. -/
def Holds (p : Place) (t : Thread) (s : State) : Prop := s.thread p = some t ∧ (s.threads.map (·.1)).Nodup

theorem Holds.of_threads {p : Place} {t : Thread} (h : Holds p t s) (e : s'.threads = s.threads) : Holds p t s' := by
  rw [Holds, State.thread, e]
  exact h

/-- An entry that is written again keeps its place in the list. -/
theorem keys_mset_present {κ α : Type} [DecidableEq κ] {m : Map κ α} {k : κ} {v : α} (h : mget m k = some v) (w : α) :
    (mset m k w).map (·.1) = m.map (·.1) := by
  induction m with
  | nil => cases h
  | cons e m ih =>
    obtain ⟨j, u⟩ := e
    by_cases hj : j = k
    · simp [mset, hj]
    · have rest := ih (by simpa [mget, hj] using h)
      simp [mset, hj, rest]

theorem abortPlace_keys (s : State) (p : Place) (counts : Bool) :
    (abortPlace s p counts).threads.map (·.1) = s.threads.map (·.1) := by
  unfold abortPlace
  split
  · rfl
  · next t ht => exact keys_mset_present ht _

theorem foldl_abortPlace_keys (l : List (Place × Thread)) : ∀ s : State,
    (l.foldl (fun s e => abortPlace s e.1 true) s).threads.map (·.1) = s.threads.map (·.1) := by
  induction l with
  | nil => exact fun _ => rfl
  | cons e l ih => exact fun s => (ih _).trans (abortPlace_keys s e.1 true)

theorem abortReaders_holds {p : Place} {t : Thread} (h : Holds p t s) (free : t.unread) (skip : Option Nat) (lines : List Nat) :
    Holds p t (abortReaders s skip lines) := by
  obtain ⟨ht, hs⟩ := h
  refine ⟨(foldl_abortPlace_thread _ s ?_).trans ht, by rw [abortReaders, foldl_abortPlace_keys]; exact hs⟩
  rintro ⟨q, u⟩ he rfl
  obtain ⟨hmem, hcond⟩ := List.mem_filter.mp he
  obtain rfl := mget_unique hs ht hmem
  rcases free with fixed | none
  · simp [fixed] at hcond
  · simp [none] at hcond

theorem extWrite_holds {p : Place} {t : Thread} (h : Holds p t s) (free : t.unread) (skip : Option Nat) (sa : Nat)
    (data : List Byte) :
    Holds p t (extWrite s skip sa data) := by
  unfold extWrite extWriteBy
  split
  · exact h
  · dsimp only
    refine abortReaders_holds (h.of_threads ?_) free _ _
    exact unpoison_threads _ _ _

/-! ### Residency summaries (R199, R200) -/

theorem putRes_ctxs (s : State) (c : CtxId) (x : Ctx) (ca sh v : Nat) : (putRes s c x ca sh v).ctxs = s.ctxs := by
  unfold putRes
  dsimp only
  split
  · split
    · rfl
    · exact extWrite_ctxs _ _ _ _
  · rfl

theorem putRes_holds {p : Place} {t : Thread} (h : Holds p t s) (free : t.unread) (c : CtxId) (x : Ctx) (ca sh v : Nat) :
    Holds p t (putRes s c x ca sh v) := by
  unfold putRes
  dsimp only
  split
  · split
    · exact h
    · exact extWrite_holds h free _ _ _
  · exact h

theorem noteResidence_ctxs (s : State) (c : CtxId) : (noteResidence s c).ctxs = s.ctxs := by
  unfold noteResidence
  split
  · rfl
  · next x _ =>
    extract_lets root z
    have words : z.ctxs = s.ctxs := foldl_ctxs (fun s e => putRes_ctxs s c x _ _ _) _ _
    split
    · exact words
    · exact (foldl_ctxs (fun s e => putRes_ctxs s c x _ _ _) _ _).trans words

theorem foldl_holds {α : Type} {p : Place} {t : Thread} {f : State → α → State} (hf : ∀ s a, Holds p t s → Holds p t (f s a))
    (l : List α) :
    ∀ {s : State}, Holds p t s → Holds p t (l.foldl f s) := by
  induction l with
  | nil => exact fun h => h
  | cons a l ih => exact fun h => ih (hf _ a h)

theorem noteResidence_holds {p : Place} {t : Thread} (h : Holds p t s) (free : t.unread) (c : CtxId) : Holds p t
    (noteResidence s c) := by
  unfold noteResidence
  split
  · exact h
  · next x _ =>
    extract_lets root z
    have words : Holds p t z := foldl_holds (fun s e hs => putRes_holds hs free c x _ _ _) _ h
    split
    · exact words
    · exact foldl_holds (fun s e hs => putRes_holds hs free c x _ _ _) _ words

end Sys2Proof.Machine

/-! ### A page comes into HBM, or leaves it (R135, R201, R204) -/

namespace Sys2Proof.Machine
variable {s s' : State} {c : CtxId} {x : Ctx}

theorem memReads_getElem? (m : List Host.Cell) {n j : Nat} (h : j < n) (a : Nat) : (memReads m a n)[j]? = some (memRead m (a + j))
    := by
  induction n generalizing a j with
  | zero => cases h
  | succ n ih =>
    cases j with
    | zero => rfl
    | succ j =>
      rw [memReads, List.getElem?_cons_succ, ih (Nat.lt_of_succ_lt_succ h), Nat.add_right_comm, Nat.add_assoc]

/-- Where two pages change places, the second holds the bytes of the first. -/
theorem swapPages_bytes (wf : Memory.wf s.mem = true) (a b : Nat) {j : Nat} (h : j < 4096) :
    memRead (swapPages s a b).mem (b + j) = memRead s.mem (a + j) := by
  unfold swapPages
  split
  · next e => rw [e]
  · dsimp only
    rw [memRead_writes_inside _ (memWrites_wf _ wf _) b j (by rwa [length_memReads]), memReads_getElem? _ h, Option.getD_some]

/-- A context keeps the number of its pages and its requests where two pages change places. -/
theorem swapPages_ctx (hx : s.ctx c = some x) (a b : Nat) : ∃ y, (swapPages s a b).ctx c = some y ∧ y.hbm.length = x.hbm.length
    ∧ y.requests = x.requests := by
  unfold swapPages
  split
  · exact ⟨x, hx, rfl, rfl⟩
  · refine ⟨x.swap a b, ?_, List.length_map _, rfl⟩
    have swapped : mget (s.ctxs.map (fun e => (e.1, e.2.swap a b))) c = (s.ctx c).map (fun y => y.swap a b) :=
      mget_map (fun _ y => Ctx.swap a b y) s.ctxs c
    rw [State.ctx, swapped, hx]
    rfl

/-- The thread where two pages have changed places. -/
def Thread.swap (a b : Nat) (t : Thread) : Thread :=
  { t with region := { t.region with items := t.region.items.map (Item.swap a b)
                                     reads := t.region.reads.map (fun l => swapAddr a b (64 * l) / 64) } }

theorem Thread.swap_unread {t : Thread} (free : t.unread) (a b : Nat) : (t.swap a b).unread := by
  rcases free with fixed | none
  · exact .inl fixed
  · exact .inr (by simp [Thread.swap, none])

/-- A thread that reads nothing stands where it was, and goes on where it was, where two pages change places. -/
theorem swapPages_holds {p : Place} {t : Thread} (h : Holds p t s) (free : t.unread) (a b : Nat) :
    ∃ u, Holds p u (swapPages s a b) ∧ u.unread ∧ u.ctx = t.ctx ∧ u.wait = t.wait ∧ u.pc = t.pc ∧ u.i = t.i := by
  by_cases e : a = b
  · rw [swapPages, if_pos e]
    exact ⟨t, h, free, rfl, rfl, rfl, rfl⟩
  · obtain ⟨ht, hs⟩ := h
    have threads : (swapPages s a b).threads = s.threads.map (fun e => (e.1, e.2.swap a b)) := by
      rw [swapPages, if_neg e]
      rfl
    refine ⟨t.swap a b, ⟨?_, ?_⟩, Thread.swap_unread free a b, rfl, rfl, rfl, rfl⟩
    · rw [State.thread, threads, mget_map (fun _ => Thread.swap a b), show mget s.threads p = some t from ht, Option.map_some]
    · rw [threads, List.map_map]
      exact hs

/-- A thread where a page has come: it goes on if it waited for it (R204). -/
def wokenBy (s : State) (c : CtxId) (page : Nat) (p : Place) (t : Thread) : Thread :=
  if t.wait = .page c.peer page ∧ member s (t.ctxId p) c.peer = some c then { t with wait := .none } else t

/-- What waited for a page goes on (R204). -/
theorem wakePage_thread {p : Place} {t : Thread} {page : Nat} (ht : s.thread p = some t) (own : t.ctxId p = c)
    (waits : t.wait = .page c.peer page) :
    ∃ u, (wakePage s c page).thread p = some u ∧ u.wait = .none ∧ u.pc = t.pc ∧ u.i = t.i := by
  refine ⟨{ t with wait := .none }, ?_, rfl, rfl, rfl⟩
  unfold wakePage
  extract_lets z
  have threads : z.threads = s.threads := State.threads_updCtx _ _ _
  have woken : z.threads.map (fun (e : Place × Thread) =>
      if e.2.wait = .page c.peer page ∧ member z (e.2.ctxId e.1) c.peer = some c then (e.1, { e.2 with wait := .none }) else e) =
      z.threads.map (fun e => (e.1, wokenBy z c page e.1 e.2)) := List.map_congr_left fun e _ => by
    unfold wokenBy
    split <;> rfl
  have here : wokenBy z c page p t = { t with wait := .none } := by
    rw [wokenBy, if_pos ⟨waits, by rw [own, member, if_pos rfl]⟩]
  rw [State.thread, woken, mget_map (wokenBy z c page), threads, show mget s.threads p = some t from ht, Option.map_some, here]

/-- The pages and the requests of a context are as they were where its page is noted and its waiters go on. -/
theorem wakePage_ctx {y : Ctx} {page : Nat} (hy : s.ctx c = some y) :
    ∃ z, (wakePage (noteResidence s c) c page).ctx c = some z ∧ z.hbm = y.hbm ∧ z.requests = y.requests := by
  have noted : (noteResidence s c).ctx c = some y := (State.ctx_congr (noteResidence_ctxs s c) c).trans hy
  refine ⟨{ y with asked := y.asked.filter (fun n => n != page) }, ?_, rfl, rfl⟩
  unfold wakePage
  rw [State.updCtx_some noted]
  exact State.ctx_setCtx _ _ _

end Sys2Proof.Machine

/-! ### The events of pages (R158, R204) -/

namespace Sys2Proof.Machine
variable {s s' : State} {c : CtxId} {x v : Ctx} {page place : Nat} {g : Page}

/-- The state where a page has taken its place in HBM. -/
def broughtIn (s : State) (c : CtxId) (x : Ctx) (page : Nat) (g : Page) (place : Nat) : State :=
  (swapPages s g.sa place).updCtx c (fun y => { y.putPage page ⟨place, .hbm, s.now⟩ with cap := max y.cap (x.resident + 1) })

theorem bringPage_gain (gain : gainPlace s c x = some (s, place)) :
    bringPage s c x page g = wakePage (noteResidence (broughtIn s c x page g place) c) c page := by
  simp only [bringPage, gain, broughtIn]

theorem broughtIn_ctx (hv : s.ctx c = some v) (listed : page < v.hbm.length) :
    ∃ y, (broughtIn s c x page g place).ctx c = some y ∧ y.hbm[page]? = some ⟨place, .hbm, s.now⟩ ∧ y.requests = v.requests := by
  obtain ⟨y, hy, length, requests⟩ := swapPages_ctx hv g.sa place
  refine ⟨{ y.putPage page ⟨place, .hbm, s.now⟩ with cap := max y.cap (x.resident + 1) }, ?_, ?_, requests⟩
  · rw [broughtIn, State.updCtx_some hy, State.ctx_setCtx]
  · exact List.getElem?_set_self (length ▸ listed)

theorem broughtIn_bytes (wf : Memory.wf s.mem = true) {j : Nat} (h : j < 4096) :
    memRead (broughtIn s c x page g place).mem (place + j) = memRead s.mem (g.sa + j) := by
  rw [broughtIn, State.mem_updCtx]
  exact swapPages_bytes wf g.sa place h

/-- A page that is brought in is resident in its place, and the requests of its context stand. -/
theorem broughtIn_wakes_ctx (hv : s.ctx c = some v) (listed : page < v.hbm.length) :
    ∃ y, (wakePage (noteResidence (broughtIn s c x page g place) c) c page).ctx c = some y
      ∧ y.hbm[page]? = some ⟨place, .hbm, s.now⟩ ∧ y.requests = v.requests := by
  obtain ⟨y, hy, resident, requests⟩ := broughtIn_ctx (x := x) (g := g) (place := place) hv listed
  obtain ⟨z, hz, pages, kept⟩ := wakePage_ctx (page := page) hy
  exact ⟨z, hz, pages ▸ resident, kept.trans requests⟩

/-- What waited for it goes on where it was. -/
theorem broughtIn_wakes_thread {p : Place} {t : Thread} (slots : (s.threads.map (·.1)).Nodup) (ht : s.thread p = some t)
    (own : t.ctxId p = c) (waits : t.wait = .page c.peer page) (free : t.unread) :
    ∃ u, (wakePage (noteResidence (broughtIn s c x page g place) c) c page).thread p = some u ∧ u.wait = .none ∧ u.pc = t.pc
      ∧ u.i = t.i := by
  obtain ⟨u, held, free', ctx, wait, pc, regs⟩ := swapPages_holds ⟨ht, slots⟩ free g.sa place
  have brought : Holds p u (broughtIn s c x page g place) := held.of_threads (State.threads_updCtx _ _ _)
  obtain ⟨w, hw, ready, pc', regs'⟩ := wakePage_thread (page := page) (noteResidence_holds brought free' c).1
    (by rw [Thread.ctxId, ctx]; exact own) (wait.trans waits)
  exact ⟨w, hw, ready, pc'.trans pc, regs'.trans regs⟩

/-- A page that leaves HBM goes to its place (R135). -/
theorem evictPage_ctx (hx : s.ctx c = some x) (oldest : x.oldest x.hbm.length = some page) (hg : x.hbm[page]? = some g) :
    let place := ((x.freeTier2 s).bind (fun j => x.tier2[j]?)).getD (outPlace s c.peer)
    ∃ z y, evictPage s c true = some z ∧ z.ctx c = some y ∧ y.hbm[page]? = some ⟨place, residenceOf place, g.used⟩ := by
  intro place
  obtain ⟨y, hy, length, -⟩ := swapPages_ctx hx g.sa place
  have listed : page < y.hbm.length := by
    rw [length]
    exact (List.getElem?_eq_some_iff.mp hg).1
  have noted (f : Ctx → Ctx) : (noteResidence ((swapPages s g.sa place).updCtx c f) c).ctx c = some (f y) := by
    rw [State.ctx_congr (noteResidence_ctxs _ c) c, State.updCtx_some hy, State.ctx_setCtx]
  simp only [evictPage, hx, oldest, hg, Option.bind_some, Option.map_some, Bool.true_or, if_true]
  exact ⟨_, _, rfl, noted _, List.getElem?_set_self listed⟩

/-- The bytes of a response, filled up to a page. -/
def pageBytes (bs : List Byte) : List Byte := bs.take 4096 ++ List.replicate (4096 - bs.length) 0

theorem pageBytes_length (bs : List Byte) : (pageBytes bs).length = 4096 := by
  simp only [pageBytes, List.length_append, List.length_take, List.length_replicate]
  omega

theorem pageBytes_getElem? (bs : List Byte) {j : Nat} (h : j < 4096) : (pageBytes bs)[j]?.getD 0 = bs[j]?.getD 0 := by
  rw [pageBytes]
  by_cases hj : j < bs.length
  · rw [List.getElem?_append_left (by simp only [List.length_take]; omega), List.getElem?_take_of_lt h]
  · rw [List.getElem?_append_right (by simp only [List.length_take]; omega), List.getElem?_eq_none (Nat.not_lt.mp hj),
      List.getElem?_replicate]
    split <;> rfl

end Sys2Proof.Machine

/-! ## Threads that move (R145, R146, R195 to R197, R369) -/

namespace Sys2Proof.Machine
variable {s s' : State} {p : Place} {t : Thread} {m : Mig}

/-- The threads and the moves are as they were. -/
def MovesSame (s s' : State) : Prop := s'.threads = s.threads ∧ s'.migs = s.migs

theorem MovesSame.trans {s s' s'' : State} (h : MovesSame s s') (h' : MovesSame s' s'') : MovesSame s s'' :=
  ⟨h'.1.trans h.1, h'.2.trans h.2⟩

theorem sendTo_movesSame (s : State) (p : Place) (c : CtxId) (uid : Nat) (body : Body) (peer dist : Nat) (limited : Bool)
    (slack : Nat) : MovesSame s (sendTo s p c uid body peer dist limited slack) := by
  have queue (z : State) (k : Packet) (peer dist : Nat) : MovesSame z (atQueue z k peer dist).1 := by
    unfold atQueue
    dsimp only [State.fresh]
    split <;> exact ⟨rfl, rfl⟩
  have plane (own : Prop) [Decidable own] (n dist : Nat) : MovesSame s
      (if own then (s.fresh.2, n) else nextPlane s.fresh.2 p.peer dist none : State × Nat).1 := by
    split <;> exact ⟨rfl, rfl⟩
  exact (plane _ _ _).trans ((queue _ _ _ _).trans ⟨rfl, rfl⟩)

/-- A thread that is sent away leaves packets only. -/
theorem sendThread_movesSame (c : CtxId) (uid mid : Nat) (dst : Place) (parts : List Nat) (slack : Nat) :
    ∀ s, MovesSame s (sendThread s p c uid mid dst parts slack) := by
  unfold sendThread
  induction parts with
  | nil => exact fun _ => ⟨rfl, rfl⟩
  | cons n parts ih => exact fun s => (sendTo_movesSame _ _ _ _ _ _ _ _ _).trans (ih _)

theorem freeSlot_thread (s : State) (p : Place) : (s.freeSlot p).thread p = none := mget_mdel_same s.threads p

/-- A thread that departs leaves its slot (R195). -/
theorem leaveSlot_thread (s : State) (p : Place) (m : Mig) (q : List Pend) : (leaveSlot s p m q).thread p = none := by
  unfold leaveSlot
  dsimp only
  split
  · next h => exact h
  · rw [State.thread, (sendThread_movesSame _ _ _ _ _ _ _).1]
    exact freeSlot_thread _ p

/-- A migration departs once what it waits for is there (R195). -/
theorem depart_leaves {s₂ s₃ : State}
    (ready : ∀ q ∈ t.pend, (q.id = m.id ∧ (q.left = 0 ∨ m.early = true)) ∨ (q.id ≠ m.id ∧ q.value.isSome = true))
    (frames : framesWritable s p t = true) (pins : pinOut s p t = false)
    (commits : tryCommit (s.setThread p { t with pend := t.pend.filter (fun q => q.id != m.id) }) p
      { t with pend := t.pend.filter (fun q => q.id != m.id) } false 0 t.pc = some s₂)
    (flushed : flushFrames s₂ p = .ok s₃) :
    depart s p t m = leaveSlot s₃ p m (t.pend.filter (fun q => q.id == m.id)) := by
  have mine : (t.pend.filter (fun q => q.id == m.id)).any (fun q => q.left != 0) = true → m.early = true := fun h => by
    obtain ⟨q, hq, hleft⟩ := List.any_eq_true.mp h
    obtain ⟨hq, hid⟩ := List.mem_filter.mp hq
    rcases ready q hq with ⟨_, done | early⟩ | ⟨other, _⟩
    · simp [done] at hleft
    · exact early
    · exact absurd (beq_iff_eq.mp hid) other
  have others : (t.pend.filter (fun q => q.id != m.id)).all (fun q => q.value.isSome) = true :=
    List.all_eq_true.mpr fun q hq => by
      obtain ⟨hq, hid⟩ := List.mem_filter.mp hq
      rcases ready q hq with ⟨own, _⟩ | ⟨_, value⟩
      · simp [own] at hid
      · exact value
  have goes : (pinOut s p t || ((t.pend.filter (fun q => q.id == m.id)).any (fun q => q.left != 0) && !m.early)) = false := by
    rw [pins, Bool.false_or]
    cases early : m.early with
    | true => exact Bool.and_false _
    | false =>
      rw [Bool.not_false, Bool.and_true, Bool.eq_false_iff]
      exact fun h => by simp [mine h] at early
  simp only [depart, goes, others, frames, commits, flushed, Bool.not_true, Bool.false_eq_true, if_false]

/-! ### Arrival -/

/-- A thread that lands takes its slot at the place where it goes. -/
theorem takeSlot_thread (s : State) (c : CtxId) (m : Mig) : ∃ u, (takeSlot s c m).thread m.dst = some u ∧ u.pc = m.thread.pc
    ∧ u.i = m.thread.i ∧ u.f = m.thread.f ∧ u.wdep = m.thread.wdep ∧ u.apCore = m.dst.core ∧ u.ctx = c.id ∧ u.uid = m.thread.uid :=
  ⟨_, State.thread_setThread _ _ _, rfl, rfl, rfl, rfl, rfl, rfl, rfl⟩

/-- A migration without an access arrives in its slot with its registers, and its region opens there (R196, R197). -/
theorem land_opens (s : State) (c : CtxId) (first : m.landed = false) : ∃ u, (land s c m none).thread m.dst = some u
    ∧ u.pc = m.thread.pc ∧ u.i = m.thread.i ∧ u.f = m.thread.f ∧ u.wdep = m.thread.wdep ∧ u.apCore = m.dst.core ∧ u.ctx = c.id
    ∧ u.region.rstart = m.thread.pc ∧ u.region.items = [] ∧ u.region.explicit = false := by
  obtain ⟨u, hu, pc, i, f, wdep, apCore, ctx, uid⟩ := takeSlot_thread s c m
  let z : State := { takeSlot s c m with migs := (takeSlot s c m).migs.filter (fun n => n.id != m.id) }
  have hz : z.thread m.dst = some u := hu
  obtain ⟨streams, rts, opened⟩ := openRegion_opens hz false 0 m.thread.pc
  have region := State.thread_setThread z m.dst { u with region := u.newRegion streams false rts m.thread.pc }
  rw [← opened] at region
  obtain ⟨w, hw, events, records, rfl⟩ := drainStore_thread c m.thread.uid 300 region uid
  have landed : land s c m none = drainStore (openRegion z m.dst false 0 m.thread.pc) c m.thread.uid 300 := by
    unfold land
    dsimp only
    rw [if_neg (Bool.eq_false_iff.mp first)]
    rfl
  rw [landed]
  exact ⟨_, hw, pc, i, f, wdep, apCore, ctx, rfl, rfl, rfl⟩

/-! ### Displacement (R145, R369) -/

/-- A displaced thread is out of its slot, and its move is noted. -/
theorem displace_leaves (h : displace s p t = some s') :
    s'.thread p = none ∧ ∃ n ∈ s'.migs, n.displaced = true ∧ n.src = p ∧ n.access = none := by
  unfold displace at h
  split at h
  · cases h
  · split at h
    · dsimp only at h
      split at h
      · cases h
      · obtain rfl := Option.some.inj h
        refine ⟨?_, ?_⟩
        · rw [State.thread, (sendThread_movesSame _ _ _ _ _ _ _).1]
          exact freeSlot_thread _ p
        · rw [(sendThread_movesSame _ _ _ _ _ _ _).2]
          exact ⟨_, List.mem_append_right _ (List.mem_singleton_self _), rfl, rfl, rfl⟩
    · cases h

end Sys2Proof.Machine

/-! ## Pages that arrive and leave, and threads that move (R135, R145, R146, R195 to R197, R204) -/

namespace Sys2Proof
open Machine

/-- Settles O44: pages by `broughtIn_wakes_ctx`, `broughtIn_wakes_thread` and `evictPage_ctx`, moves by `depart_leaves`,
`land_opens` and `displace_leaves`. -/
theorem pagesAndMoves : Obligations.PagesAndMoves := by
  unfold Obligations.PagesAndMoves
  refine ⟨fun s c x page g hx hg wf => ⟨fun place tier2 gain => ?_, fun fn gen bs s₁ place now own host asked start gain => ?_,
    fun fn gen bs old room => ?_, fun above oldest => ?_⟩,
    fun s m => ⟨fun p t s₂ s₃ ht found ready frames pins commits flushed => ?_, fun c found away come first member whole => ?_,
    fun c va n conv ds s₁ vs found away come member access allowed made => ?_,
    fun peer island p t rest s' hot due order goes => ?_, fun peer island last stays => ?_, fun found away come => ?_⟩⟩
  · have listed : page < x.hbm.length := (List.getElem?_eq_some_iff.mp hg).1
    obtain ⟨y, hy, resident, -⟩ := broughtIn_wakes_ctx (x := x) (g := g) (place := place) hx listed
    refine ⟨_, broughtIn s c x page g place, y, ?_, rfl, hy, resident, fun j hj => broughtIn_bytes wf hj,
      fun p t slots ht peer ctx waits free => broughtIn_wakes_thread slots ht ?_ waits free⟩
    · simp only [Does, exec, execPageArrival, hx, hg, tier2, if_true, bringPage_gain gain]
    · rw [Thread.ctxId, peer, ctx]
  · have listed : page < x.hbm.length := (List.getElem?_eq_some_iff.mp hg).1
    have hv : s₁.ctx c = some { x with requests := x.requests.filter (fun r => r.1 != page) } := by
      rw [start]
      exact State.ctx_setCtx _ _ _
    have time : s₁.now = s.now := by rw [start]; rfl
    have memory : s₁.mem = memWrites s.mem g.sa (pageBytes bs) := by rw [start]; rfl
    obtain ⟨y, hy, resident, requests⟩ := broughtIn_wakes_ctx (x := x) (g := g) (place := place) hv listed
    refine ⟨_, broughtIn s₁ c x page g place, y, ?_, rfl, hy, time ▸ resident, requests, fun j hj => ?_⟩
    · rw [← bringPage_gain gain, start]
      simp only [Does, exec, execPageResponse, hx, hg, host, own, asked, now, ne_eq, not_true_eq_false, if_false, and_self, if_true]
    · rw [broughtIn_bytes (by rw [memory]; exact memWrites_wf _ wf _) hj, memory,
        memRead_writes_inside _ wf g.sa j (by rwa [pageBytes_length]), pageBytes_getElem? bs hj]
  · simp only [Does, exec, execPageResponse, if_pos old, if_neg room]
  · obtain ⟨z, y, out, hy, place⟩ := evictPage_ctx hx oldest hg
    refine ⟨z.updCtx c (fun y => { y with cap := x.cap }), { y with cap := x.cap }, ?_, ?_, place⟩
    · simp only [Does, exec, execPageMoveComplete, hx, above, oldest, out, and_self, if_true]
    · rw [State.updCtx_some hy, State.ctx_setCtx]
  · refine ⟨leaveSlot s₃ p m (t.pend.filter (fun q => q.id == m.id)), ?_, leaveSlot_thread _ _ _ _⟩
    simp only [Does, exec, execMigrationDepart, ht, found, depart_leaves ready frames pins commits flushed]
  · obtain ⟨u, hu, landed⟩ := land_opens (uncarry s m.id) c first
    refine ⟨_, u, ?_, hu, landed⟩
    simp only [Does, exec, execMigrationArrival, found, arriving, away, come, member, whole, Bool.not_true, Bool.false_eq_true,
      if_false]
  · simp only [Does, exec, execMigrationArrival, found, arriving, away, come, member, access, allowed, made, Bool.not_true,
      Bool.false_eq_true, if_false]
  · have free : tenMicros ((s.dev peer).island island).shedAt s.now = true := by
      rcases due with none | ⟨last, at_, gap⟩
      · rw [none]
        rfl
      · rw [at_]
        exact decide_eq_true gap
    obtain ⟨gone, moved⟩ := displace_leaves goes
    refine ⟨s'.setDev peer ((s'.dev peer).shed island s.now), ?_, gone, rfl, ?_, moved⟩
    · simp only [Does, exec, execThermalDisplacement, hot, free, Bool.and_self, if_true, order, List.findSome?_cons, goes,
        Option.getD_some]
    · simp [Device.shed, Device.setIsland, Device.island, mgetD]
  · have quiet : (((s.dev peer).island island).hot && tenMicros ((s.dev peer).island island).shedAt s.now) = false := by
      rcases stays with cold | ⟨at_, soon⟩
      · rw [cold, Bool.false_and]
      · rw [at_, tenMicros, Option.all_some, decide_eq_false (Nat.not_le.mpr soon), Bool.and_false]
    simp only [Does, exec, execThermalDisplacement, quiet, Bool.false_eq_true, if_false]
  · obtain ⟨u, hu, events, records, rfl⟩ := placeThread_thread (freeArrival
      { uncarry s m.id with migs := (uncarry s m.id).migs.filter (fun n => n.id != m.id) } m.dst m.id) m.dst m.thread
    refine ⟨_, _, ?_, hu, rfl, rfl, rfl, rfl, rfl, rfl⟩
    simp only [Does, exec, execDisplacementArrival, found, come, Bool.not_true, Bool.false_eq_true, if_false]

end Sys2Proof

/-! ## The doorway of a function, read and written (R152, R154) -/

namespace Sys2Proof.Machine
variable {s : State} {peer fn : Nat} {d : Door}

@[simp] theorem State.door_setDoor (s : State) (peer fn : Nat) (d : Door) : (s.setDoor peer fn d).door peer fn = d := by
  simp [State.door, State.setDoor, mgetD]

theorem State.door_setDoor_other (s : State) (peer : Nat) {fn n : Nat} (d : Door) (h : n ≠ fn) :
    (s.setDoor peer fn d).door peer n = s.door peer n := by
  simp [State.door, State.setDoor, mgetD, h]

/-- Where no event is held there is none to write (R152). -/
theorem flushEntries_none_held (h : (s.door peer fn).heldEvents = []) : ∀ n, flushEntries s peer fn n = s
  | 0 => rfl
  | n + 1 => by rw [flushEntries, h]

theorem flushEntries_setDoor (h : d.heldEvents = []) (n : Nat) :
    flushEntries (s.setDoor peer fn d) peer fn n = s.setDoor peer fn d :=
  flushEntries_none_held (by rw [State.door_setDoor, h]) n

/-- A ring register whose write is applied, where no event waits for room. -/
theorem ringRegisterWrite_applied {reg : Nat} {v : Word} (held : d.heldEvents = [])
    (h : (s.door peer fn).ringWrite reg v = some d) : Does (.ringRegisterWrite peer fn reg v) s (s.setDoor peer fn d) := by
  simp only [Does, exec, execRingRegisterWrite, h, flushEntries_setDoor held]

/-- A ring register whose write is ignored sets RING. -/
theorem ringRegisterWrite_ignored {reg : Nat} {v : Word} (h : (s.door peer fn).ringWrite reg v = none) :
    Does (.ringRegisterWrite peer fn reg v) s (s.setDoor peer fn { s.door peer fn with ringErr := true }) := by
  simp only [Does, exec, execRingRegisterWrite, h, ringError]

/-- A doorway register that is the function's own, where no event waits for room. -/
theorem registerWrite_door {reg : Nat} {v : Word} (held : d.heldEvents = [])
    (h : registerWrite s peer fn reg v = s.setDoor peer fn d) : Does (.registerWrite peer fn reg v) s (s.setDoor peer fn d) := by
  simp only [Does, exec, execRegisterWrite, h, flushEntries_setDoor held]

/-- ERHEAD is written, where no event waits for room (R152). -/
theorem erheadWrite_does (held : (s.door peer fn).heldEvents = []) (v : Word) :
    Does (.erheadWrite peer fn v) s (s.setDoor peer fn { s.door peer fn with erhead := v.setWidth 32 }) := by
  simp only [Does, exec, execErheadWrite, flushEntries_setDoor, held, BitVec.truncate_eq_setWidth]

/-- OHOLD takes a value in its range, and no other (R154). -/
theorem registerWrite_ohold {v : Word} (held : (s.door peer 0).heldEvents = []) : Does (.registerWrite peer 0 0x080 v) s
    (if 1 ≤ v.toNat ∧ v.toNat ≤ 3600000 then s.setDev peer { s.dev peer with ohold := v } else s) := by
  have writes : registerWrite s peer 0 0x080 v =
      if 1 ≤ v.toNat ∧ v.toNat ≤ 3600000 then s.setDev peer { s.dev peer with ohold := v } else s := by
    simp only [registerWrite, true_and]
  refine congrArg Host.Outcome.next ((congrArg (flushEntries · peer 0 257) writes).trans (flushEntries_none_held ?_ 257))
  split
  · rw [State.door, State.dev_setDev]
    exact held
  · exact held

/-- A number's two halves are the whole of it. -/
theorem append_halves (n : BitVec 128) : BitVec.ofNat 64 (n.toNat / 2 ^ 64) ++ BitVec.ofNat 64 n.toNat = n := by
  apply BitVec.eq_of_toNat_eq
  have low : n.toNat % 2 ^ 64 < 2 ^ 64 := Nat.mod_lt _ (by decide)
  rw [BitVec.toNat_append, BitVec.toNat_ofNat, BitVec.toNat_ofNat, ← Nat.shiftLeft_add_eq_or_of_lt low, Nat.shiftLeft_eq]
  omega

/-- Writing 1 to NONCEREQ draws a nonce (R154). -/
theorem noncereq_draws (s : State) (peer : Nat) : ∃ s', Does (.noncereq peer 1) s s' ∧ (s'.dev peer).noncereq = 1
    ∧ (s'.dev peer).nonce = some ((s.dev peer).nonceCount, s.now) ∧ (s'.dev peer).nonceCount = (s.dev peer).nonceCount + 1
    ∧ (s'.dev peer).nonce1 ++ (s'.dev peer).nonce0 = Config.nonce peer (s.dev peer).nonceCount := by
  refine ⟨(drawNonce (s.setDev peer { s.dev peer with noncereq := 1 }) peer).1, rfl, ?_⟩
  simp only [drawNonce, State.dev_setDev, State.setDev_now, append_halves, and_self]

end Sys2Proof.Machine

/-! ## Functions go down and come up (R156, R157) -/

namespace Sys2Proof.Machine
variable {s : State} {peer fn : Nat}

/-- No context is attached to one of these functions (R156). -/
def Unattached (s : State) (peer : Nat) (fns : List Nat) : Prop :=
  ∀ e ∈ s.ctxs, e.1.peer = peer → e.2.state ≠ .orphaned → e.2.doorFn ∉ fns

/-- The virtual functions of a device are those from 1 to 64 (R152). -/
theorem mem_virtualFunctions {n : Nat} (virtual : 1 ≤ n) (last : n ≤ 64) : n ∈ (List.range 64).map (· + 1) :=
  List.mem_map.mpr ⟨n - 1, List.mem_range.mpr (by omega), by omega⟩

/-- Nobody is orphaned by a function to which nothing is attached. -/
theorem Unattached.attached_nil {fns : List Nat} (h : Unattached s peer fns) (hfn : fn ∈ fns) :
    s.ctxs.filter (fun e => e.1.peer == peer && e.2.doorFn == fn && e.2.state != .orphaned) = [] := by
  refine List.filter_eq_nil_iff.mpr fun e he attached => ?_
  simp only [Bool.and_eq_true, beq_iff_eq, bne_iff_ne] at attached
  obtain ⟨⟨here, door⟩, lives⟩ := attached
  exact h e he here lives (door ▸ hfn)

theorem State.setDev_setDev (s : State) (n : Nat) (d d' : Device) : (s.setDev n d).setDev n d' = s.setDev n d' := by
  simp [State.setDev, mset_mset]

/-- A function without contexts and presentations that goes down is disabled, and no more. -/
theorem functionDown_unattached {fns : List Nat} (h : Unattached s peer fns) (hfn : fn ∈ fns) (idle : (s.dev peer).press = []) :
    functionDown s peer fn = s.setDoor peer fn { s.door peer fn with enabled := false } := by
  have press : ((s.setDoor peer fn { s.door peer fn with enabled := false }).dev peer).press = [] :=
    ((setDoor_onlyDoors _ _ _ _).field (·.press)).trans idle
  simp only [functionDown, h.attached_nil hfn, press, List.map_nil, List.isEmpty_nil, if_true, List.filter_nil, List.foldl_nil]
  have kept (dv : Device) (h : dv.press = []) : { dv with press := [] } = dv := by rw [← h]
  rw [kept _ press, State.setDoor, State.dev_setDev, State.setDev_setDev]

/-- Functions without contexts and presentations go down, one after the other. -/
theorem foldl_functionDown_unattached : ∀ (fns : List Nat) (s : State), Unattached s peer fns → (s.dev peer).press = [] →
    let s' := fns.foldl (functionDown · peer ·) s
    (∀ n, (s'.door peer n).enabled = ((s.door peer n).enabled && !fns.contains n)) ∧ s'.ctxs = s.ctxs ∧ s'.mem = s.mem
  | [], s, _, _ => by simp
  | fn :: fns, s, h, idle => by
    rw [List.foldl_cons, functionDown_unattached h List.mem_cons_self idle]
    have rest : Unattached (s.setDoor peer fn { s.door peer fn with enabled := false }) peer fns :=
      fun e he here lives door => h e he here lives (List.mem_cons_of_mem _ door)
    obtain ⟨doors, ctxs, mem⟩ := foldl_functionDown_unattached fns _ rest
      (((setDoor_onlyDoors _ _ _ _).field (·.press)).trans idle)
    refine ⟨fun n => (doors n).trans ?_, ctxs, mem⟩
    by_cases hn : n = fn
    · subst hn
      simp
    · rw [State.door_setDoor_other _ _ _ hn]
      simp [hn]

/-- A function is enabled, now. -/
def enableDoor (s : State) (peer fn : Nat) : State := s.setDoor peer fn { s.door peer fn with enabled := true, enabledAt := s.now }

/-- The orphans of a device that may still come back under a token (R157). -/
def orphansOf (s : State) (peer : Nat) (token : Word) : List (CtxId × Ctx) :=
  s.ctxs.filter (fun e => e.1.peer == peer && e.2.state == .orphaned && !e.2.ending && e.2.token != 0 && e.2.token == token
    && !holdLapsed s e.1 e.2)

theorem orphansOf_nil (h : ∀ e ∈ s.ctxs, e.1.peer = peer → e.2.state ≠ .orphaned) (token : Word) :
    orphansOf s peer token = [] := by
  refine List.filter_eq_nil_iff.mpr fun e he may => ?_
  simp only [Bool.and_eq_true, beq_iff_eq] at may
  obtain ⟨⟨⟨⟨⟨here, orphaned⟩, -⟩, -⟩, -⟩, -⟩ := may
  exact h e he here orphaned

theorem orphansOf_singleton {c : CtxId} {x : Ctx} {token : Word} (only : s.ctxs = [(c, x)]) (here : c.peer = peer)
    (orphaned : x.state = .orphaned) (stays : x.ending = false) (given : token ≠ 0) (owns : x.token = token)
    (inTime : holdLapsed s c x = false) : orphansOf s peer token = [(c, x)] := by
  simpa [orphansOf, only, here, orphaned, stays, owns, inTime] using given

/-- VF_ENABLE, where no event waits for room: the function is enabled, and each orphan whose token it wins reattaches to it. -/
theorem vfEnable_does (virtual : 1 ≤ fn) (last : fn ≤ 64) (held : (s.door peer fn).heldEvents = []) :
    Does (.vfEnable peer fn) s ((orphansOf (enableDoor s peer fn) peer (s.door peer fn).atoken).foldl
      (fun z e => if tokenWinner (z.dev peer) (s.door peer fn).atoken e.2.orphanedAt = some fn then reattach z e.1 fn else z)
      (enableDoor s peer fn)) := by
  have isVirtual : ¬ (fn = 0 ∨ 64 < fn) := by omega
  simp only [Does, exec, execVfEnable, if_neg isVirtual, flushEntries_setDoor, held, orphansOf, enableDoor]

/-- A context that reattaches without a written image is LIVE on its new function (R157). -/
theorem reattach_live {c : CtxId} {x : Ctx} (hx : s.ctx c = some x) (fn : Nat) (unwritten : x.whole = none) :
    ∃ y, (reattach s c fn).ctx c = some y ∧ y.state = .live ∧ y.doorFn = fn := by
  have loads (z : State) : pagesLoad z (x.whole.getD []) = true := by rw [unwritten]; rfl
  simp only [reattach, hx, loads, Bool.not_true, Bool.false_eq_true, if_false]
  generalize hv : ({ x with doorFn := fn, requests := _ } : Ctx) = v
  have attached : v.doorFn = fn := by rw [← hv]
  have image : v.whole = x.whole := by rw [← hv]
  have posted := (State.ctx_congr (postEvent_ctxs (s.setCtx c v) c.peer fn 0x0113 c.id 0 0 x.serial 0) c).trans
    (State.ctx_setCtx s c v)
  obtain ⟨y, hy, same⟩ := goLive_ctx posted (image ▸ loads _) c _ (State.ctx_setCtx _ _ _)
  refine ⟨y, hy, same.field (·.state), (same.field (·.doorFn)).trans (Eq.trans ?_ attached)⟩
  unfold Ctx.lives Ctx.takeBack
  split <;> rfl

end Sys2Proof.Machine

/-! ## The doorway's registers and the functions that go down and come up (R152, R154 to R157) -/

namespace Sys2Proof
open Machine

/-- Settles O49: the rings' registers by `ringRegisterWrite_applied` and `ringRegisterWrite_ignored`, the functions by
`foldl_functionDown_unattached`, `vfEnable_does` and `reattach_live`. -/
theorem doorSteps : Obligations.DoorSteps := by
  unfold Obligations.DoorSteps
  intro s peer fn v held d sets
  refine ⟨fun empty => ⟨?_, fun legal => ?_, fun illegal => ?_⟩, fun busy => ⟨?_, ?_⟩, fun empty => ?_, fun empty => ?_,
    registerWrite_door held rfl, registerWrite_door held rfl, registerWrite_door held rfl, ?_, fun one => ?_,
    registerWrite_door held rfl, fun physical => ?_, fun unattached idle => ⟨fun n virtual last => ?_, ?_⟩,
    fun virtual last => ⟨fun alone => ?_, fun c x hx here token wins inTime orphaned stays owns only =>
      ⟨?_, reattach_live (s := enableDoor s peer fn) hx fn⟩⟩⟩
  · exact ringRegisterWrite_applied held (by simp [Door.ringWrite, empty, d])
  · exact ringRegisterWrite_applied held (by simp [Door.ringWrite, empty, legal, d])
  · exact ringRegisterWrite_ignored (by simp [Door.ringWrite, illegal])
  · exact ringRegisterWrite_ignored (by simp [Door.ringWrite, busy, d])
  · exact ringRegisterWrite_ignored (by simp [Door.ringWrite, busy, d])
  · exact ringRegisterWrite_applied held (by simp [Door.ringWrite, empty, d])
  · exact ringRegisterWrite_applied held (by simp [Door.ringWrite, empty, d])
  · exact erheadWrite_does held v
  · subst one
    exact noncereq_draws s peer
  · subst physical
    exact registerWrite_ohold held
  · have listed := mem_virtualFunctions virtual last
    refine ⟨s.setDoor peer n { s.door peer n with enabled := false }, ?_, ?_⟩
    · exact congrArg Host.Outcome.next ((if_pos ⟨virtual, last⟩).trans (functionDown_unattached unattached listed idle))
    · rw [State.door_setDoor]
      exact ⟨rfl, rfl, rfl, rfl⟩
  · obtain ⟨doors, ctxs, mem⟩ := foldl_functionDown_unattached _ s unattached idle
    refine ⟨_, congrArg Host.Outcome.next List.foldl_map.symm, fun n virtual last => (doors n).trans ?_, (doors 0).trans ?_, ctxs,
      mem⟩
    · rw [List.contains_iff_mem.mpr (mem_virtualFunctions virtual last), Bool.not_true, Bool.and_false]
    · simp
  · have comes := vfEnable_does virtual last held
    rw [orphansOf_nil (s := enableDoor s peer fn) alone] at comes
    exact comes
  · have comes := vfEnable_does virtual last held
    rw [orphansOf_singleton (s := enableDoor s peer fn) only here orphaned stays token owns inTime, List.foldl_cons,
      List.foldl_nil] at comes
    exact Eq.trans comes (congrArg Host.Outcome.next (if_pos wins))

end Sys2Proof

/-! ## The forms of R160: what they read at their issue, and what they do behind their commit (R160, R161) -/

namespace Sys2Proof

open Machine

section FormsOfR160

variable {i : Instr} {word : Word} {uses : List Dst} {d a b : Reg} {la : BitVec 4} {body : Place → Thread → Core → State → Res}
  {s : State} {t : Thread}

/-- The token step changes the threads, and of the contexts the tokens and marks (R62). -/
theorem MadeIn.bare {s₁ : State} {t₁ : Thread} (hm : MadeIn s t d s₁ t₁) : s₁.bare = s.bare := by
  rcases hm.cases with rfl | rfl
  · rfl
  · exact giveToken_bare s s.turn false

/-- A form that gives its result at its issue, one on which the token step has no bearing. -/
theorem gives_bare {v : Word} (h : CanGive s t [ri a, ri b] d) (hu : uses ⊆ [ri a, ri b])
    (hi : exec i s = issue word (uses ++ [ri d]) (isShared d) body s)
    (hb : ∀ s₁ r, s₁.bare = s.bare → body s.turn { t with region := r } (coreNow s) s₁
      = .done (pendNow s₁ s.turn [ri d] la.toNat false [v])) : Gives i s t d la.toNat id v := by
  refine gives_of_body (h.mono hu) hi ⟨_, hb s t.region rfl⟩ fun t₁ hm => ?_
  have same := hm.bare
  obtain ⟨r, rfl⟩ := hm.region h.1.here
  exact hb _ r same

/-- The address in register `a` passes the checks that a form makes of it at its issue. -/
abbrev CheckedAt (s : State) (t : Thread) (a : Reg) (align need : Nat) (z : State) (u : Thread) : Prop :=
  checkVa z s.turn u (readI (coreNow s) t a) align need = none

/-- The commit succeeds, and a form acts on the state and the thread behind it. -/
def CommitsTo (s : State) (p : Place) (t : Thread) (z : State) (u : Thread) : Prop := ∀ act, commitThen s p t act = act z u

theorem commitsTo_of_tryCommit {p : Place} {z : State} {u : Thread} (hc : tryCommit s p t false 0 (t.pc + 4) = some z)
    (hu : z.thread p = some u) : CommitsTo s p t z u := fun act => by
  simp only [commitThen, hc, hu]

/-- A form of R161, from what its body does in each state in which its checks and its commit succeed. -/
theorem actsBehind_of_form {pre : State → Thread → Prop} {act : State → Thread → Thread → State → Prop}
    (h : CanGive s t [ri a, ri b] d) (hu : uses ⊆ [ri a, ri b])
    (hi : exec i s = issue word (uses ++ [ri d]) (isShared d) body s)
    (hb : ∀ s₁ r z u w, pre s₁ { t with region := r } → CommitsTo s₁ s.turn { t with region := r } z u →
      act z { t with region := r } u w → body s.turn { t with region := r } (coreNow s) s₁ = .done w) :
    ActsBehind i s t d pre act := by
  refine actsBehind_of_body (h.mono hu) hi fun s₁ t₁ z u w hm hpre hc hz hact => ?_
  obtain ⟨r, rfl⟩ := hm.region h.1.here
  exact hb s₁ r z u w hpre (commitsTo_of_tryCommit hc hz) hact

/-- An instruction that ends its issue without retiring, at the issue and with the token where its destination is shared. -/
theorem issue_gone {s₁ w : State} {t₁ : Thread} (h : CanGive s t uses d) (hs : s₁ = pinFor s t (ri d))
    (ht : s₁.thread s.turn = some t₁) (h₀ : ∃ w₀, body s.turn t (coreNow s) s = .gone w₀)
    (h₁ : body s.turn t₁ (coreNow s) s₁ = .gone w) :
    issue word (uses ++ [ri d]) (isShared d) body s = .next { w with stalled := false } := by
  obtain ⟨hc, hw⟩ := h
  obtain ⟨w₀, h₀⟩ := h₀
  subst hs
  cases hd : isShared d
  · have hq : pinFor s t (ri d) = s := by simp [pinFor, ri, hd]
    rw [hq] at ht h₁
    obtain rfl : t = t₁ := Option.some.inj (hc.here.symm.trans ht)
    rw [issue_next hc, h₁]
    rfl
  · rw [issue_pinned hc]
    unfold issuePinned
    rw [show s.core (coreOf s.turn) = coreNow s from rfl, h₀]
    by_cases hp : t.region.pinned = true
    · have hq : pinFor s t (ri d) = s := by simp [pinFor, hp]
      rw [hq] at ht h₁
      obtain rfl : t = t₁ := Option.some.inj (hc.here.symm.trans ht)
      obtain rfl : w₀ = w := Res.gone.inj (h₀.symm.trans h₁)
      simp only [hp, if_true]
      rfl
    · have hq : pinFor s t (ri d) = giveToken s s.turn false := by simp [pinFor, hp, ri, hd]
      rw [hq] at ht h₁
      have hcore : (giveToken s s.turn false).core (coreOf s.turn) = coreNow s := giveToken_core s s.turn false _
      simp only [hp, (hw hd).resolve_left hp, ht, hcore, h₁, if_true, if_false, Bool.false_eq_true]
      rfl

end FormsOfR160

/-! ### The forms that read at their issue (R172, R174, R180) -/

theorem dtimeValue_bare (s : State) (peer : Nat) (bound : Word) : dtimeValue s.bare peer bound = dtimeValue s peer bound := rfl

theorem selfItem_bare (v : Device) (x : Ctx) (n : Nat) : selfItem v x.bare n = selfItem v x n := rfl

theorem childItem_bare (x : Ctx) (ch : Child) (y : Option Ctx) (n : Nat) :
    childItem x.bare ch (y.map Ctx.bare) n = childItem x ch y n := by
  cases y <;> rfl

theorem wqryValue_bare (s : State) (c : CtxId) (serial item : Word) : wqryValue s.bare c serial item = wqryValue s c serial item := by
  unfold wqryValue
  simp only [ctx_bare]
  cases s.ctx c with
  | none => rfl
  | some x =>
    have presented (ch : Child) : ch.presented.bind (fun id => (s.ctx ⟨c.peer, id⟩).map Ctx.bare)
        = (ch.presented.bind (fun id => s.ctx ⟨c.peer, id⟩)).map Ctx.bare := by
      cases ch.presented <;> rfl
    simp only [Option.map_some, selfItem_bare, childItem_bare, presented]
    rfl

section ReadsAtIssue

variable {s : State} {t : Thread} {d a b : Reg} {la : BitVec 4}

theorem dtime_gives (h : CanGive s t [ri a, ri b] d) :
    Gives (.dtime d a la) s t d la.toNat id (dtimeValue s s.turn.peer (readI (coreNow s) t a)) := by
  refine gives_bare (uses := [ri a]) h (by simp) rfl fun s₁ r same => ?_
  rw [← dtimeValue_bare s, ← same, dtimeValue_bare s₁]
  rfl

theorem wqry_gives (h : CanGive s t [ri a, ri b] d) : Gives (.wqry d a b la) s t d la.toNat id
    (wqryValue s (t.ctxId s.turn) (readI (coreNow s) t a) (readI (coreNow s) t b)) := by
  refine gives_bare (uses := [ri a, ri b]) h (by simp) rfl fun s₁ r same => ?_
  rw [← wqryValue_bare s, ← same, wqryValue_bare s₁]
  rfl

theorem rlimq_gives {x : Ctx} (h : CanGive s t [ri a, ri b] d) (hx : s.ctx (t.ctxId s.turn) = some x) :
    Gives (.rlimq d a la) s t d la.toNat id (rlimValue x s.now (coreDist s.turn.core) (readI (coreNow s) t a)) := by
  refine gives_bare (uses := [ri a]) h (by simp) rfl fun s₁ r same => ?_
  have hy : (s₁.ctx (t.ctxId s.turn)).map Ctx.bare = some x.bare := by rw [← ctx_bare, same, ctx_bare, hx]; rfl
  obtain ⟨y, hy, hxy⟩ := Option.map_eq_some_iff.mp hy
  have value : rlimValue y = rlimValue x := (congrArg rlimValue hxy : rlimValue y.bare = rlimValue x.bare)
  have now : s₁.now = s.now := (congrArg State.now same : s₁.bare.now = s.bare.now)
  have hy' : s₁.ctx (({ t with region := r } : Thread).ctxId s.turn) = some y := hy
  simp only [hy', value, now, readI_region]

/-- An item that the region takes is buffered (R213). -/
theorem buffered_takes {item : Item} (ht : s.thread s.turn = some t) (h : Takes s t item) :
    buffered s s.turn item = .done (s.setThread s.turn (t.adds item)) := by
  unfold buffered buffer
  rw [ht]
  dsimp only
  rw [if_neg (by simp [h.shared]), if_pos h.line]
  rfl

theorem evpost_runs (h : CanGive s t [ri a, ri b] d) :
    let item : Item := .post (.evpost (readI (coreNow s) t a) (readI (coreNow s) t b)) (s.slack s.turn t)
    Takes s t item → Runs (.evpost a b) s (s.setThread s.turn (t.adds item)) := by
  intro item takes
  have plain : CanIssue s t [ri a, ri b] :=
    ⟨h.1.here, h.1.plain, fun ho => h.1.owns (by rw [List.any_append, ho, Bool.true_or])⟩
  refine (issue_next plain).trans ?_
  rw [show buffered s s.turn item = _ from buffered_takes h.1.here takes]
  rfl

end ReadsAtIssue

/-! ### The forms that write a record (R161, R173, R175 to R178, R303) -/

theorem writeThen_ok {orig z z' : State} {p : Place} {u : Thread} {va : Word} {bs : List Byte}
    (h : putBytes z (u.ctxId p) u.apCore u.locks va bs = .ok z') (d : Dst) (la : Nat) (v : State → Word) :
    writeThen orig z p u va bs d la v = .done (pendNow z' p [d] la false [v z']) := by
  simp only [writeThen, h]

section Records

variable {s : State} {t : Thread} {d a b : Reg} {la : BitVec 4}

/-- A record is written behind the commit, at the address in register `a`, and the result is pending. -/
def RecordPut (s : State) (t : Thread) (d a : Reg) (la : BitVec 4) (z : State) (u : Thread) (bs : List Byte) (v : State → Word)
    (w : State) : Prop :=
  ∃ z', putBytes z (u.ctxId s.turn) u.apCore u.locks (readI (coreNow s) t a) bs = .ok z'
    ∧ w = pendNow z' s.turn [ri d] la.toNat false [v z']

theorem RecordPut.writes {z w : State} {u : Thread} {bs : List Byte} {v : State → Word}
    (h : RecordPut s t d a la z u bs v w) (orig : State) :
    writeThen orig z s.turn u (readI (coreNow s) t a) bs (ri d) la.toNat v = .done w := by
  obtain ⟨z', hput, rfl⟩ := h
  exact writeThen_ok hput _ _ _

theorem tnonce_actsBehind (h : CanGive s t [ri a, ri b] d) :
    ActsBehind (.tnonce d a la) s t d (CheckedAt s t a 16 needW) (fun z _ u w =>
      RecordPut s t d a la (drawNonce z s.turn.peer).1 u (drawNonce z s.turn.peer).2 (fun _ => 0) w) := by
  refine actsBehind_of_form (uses := [ri a]) h (by simp) rfl fun s₁ r z u w hva acts put => ?_
  simp only [readI_region, hva, acts _]
  exact put.writes _

theorem caprd_actsBehind (h : CanGive s t [ri a, ri b] d) :
    let y := readI (coreNow s) t b
    ActsBehind (.caprd d a b la) s t d (CheckedAt s t a (if wbit y 63 then 64 else 32) needW) (fun z _ u w =>
      (capRecord z s.turn.peer y = none ∧ w = pendNow z s.turn [ri d] la.toNat false [BitVec.allOnes 64])
      ∨ ∃ n bs, capRecord z s.turn.peer y = some (n, bs)
        ∧ RecordPut s t d a la z u bs (fun z' => (z'.dev s.turn.peer).capGen.setWidth 64) w) := by
  refine actsBehind_of_form (uses := [ri a, ri b]) h (by simp) rfl fun s₁ r z u w hva acts => ?_
  dsimp only
  rw [readI_region _ t r a, readI_region _ t r b, hva]
  rintro (⟨nothing, rfl⟩ | ⟨n, bs, entry, put⟩)
  · simp only [acts _, nothing]
  · simp only [acts _, entry, BitVec.ofNat_toNat]
    exact put.writes _

theorem evrd_actsBehind (h : CanGive s t [ri a, ri b] d) :
    ActsBehind (.evrd d a la) s t d (CheckedAt s t a 16 needW) (fun z _ u w =>
      (takeRecord z s.turn u = none ∧ w = pendNow z s.turn [ri d] la.toNat false [BitVec.allOnes 64])
      ∨ ∃ r z', takeRecord z s.turn u = some (r, z') ∧ RecordPut s t d a la z' u r.bytes (fun q => recordsLeft q s.turn) w) := by
  refine actsBehind_of_form (uses := [ri a]) h (by simp) rfl fun s₁ r z u w hva acts => ?_
  rintro (⟨nothing, rfl⟩ | ⟨rec, z', taken, put⟩)
  · simp only [readI_region, hva, acts _, nothing]
  · simp only [readI_region, hva, acts _, taken]
    exact put.writes _

theorem evwait_actsBehind (h : CanGive s t [ri a, ri b] d) :
    let y := readI (coreNow s) t b
    ActsBehind (.evwait d a b la) s t d (CheckedAt s t a 16 needW) (fun z _ u w => eventCodeOk y = true
      ∧ ∃ n bs z', pickEvent z s.turn u y.toNat = some (n, bs, z')
        ∧ RecordPut s t d a la z' u bs (fun _ => BitVec.ofNat 64 n) w) := by
  refine actsBehind_of_form (uses := [ri a, ri b]) h (by simp) rfl ?_
  rintro s₁ r z u w hva acts ⟨code, n, bs, z', picked, put⟩
  simp only [readI_region, hva, acts _, code, picked, Bool.not_true, Bool.false_eq_true, if_false]
  exact put.writes _

theorem evwait_waits {s₁ z₀ z : State} {t₁ u₀ u : Thread} (h : CanGive s t [ri a, ri b] d) (hs : s₁ = pinFor s t (ri d))
    (ht : s₁.thread s.turn = some t₁) (hva₀ : CheckedAt s t a 16 needW s t) (hva : CheckedAt s t a 16 needW s₁ t₁)
    (hc₀ : tryCommit s s.turn t false 0 (t.pc + 4) = some z₀) (hu₀ : z₀.thread s.turn = some u₀)
    (noEvent₀ : pickEvent z₀ s.turn u₀ (readI (coreNow s) t b).toNat = none)
    (hc : tryCommit s₁ s.turn t₁ false 0 (t.pc + 4) = some z) (hu : z.thread s.turn = some u)
    (noEvent : pickEvent z s.turn u (readI (coreNow s) t b).toNat = none) (code : eventCodeOk (readI (coreNow s) t b) = true) :
    exec (.evwait d a b la) s = .next { eventWait z s.turn (readI (coreNow s) t a) (readI (coreNow s) t b).toNat (ri d) la.toNat with
      stalled := false } := by
  obtain ⟨r, rfl⟩ := MadeIn.region ⟨.inr hs, ht⟩ h.1.here
  have acts₀ := commitsTo_of_tryCommit hc₀ hu₀
  have acts := commitsTo_of_tryCommit hc hu
  refine issue_gone (uses := [ri a, ri b]) h hs ht ⟨eventWait z₀ s.turn (readI (coreNow s) t a)
    (readI (coreNow s) t b).toNat (ri d) la.toNat, ?_⟩ ?_
  · simp only [hva₀, acts₀ _, code, noEvent₀, Bool.not_true, Bool.false_eq_true, if_false]
  · simp only [readI_region, hva, acts _, code, noEvent, Bool.not_true, Bool.false_eq_true, if_false]

theorem ckpt_actsBehind (h : CanGive s t [ri a, ri b] d) :
    ActsBehind (.ckpt d a b la) s t d (CheckedAt s t a 4096 needW) (fun z _ u w =>
      (ckptImage z s.turn u d).length ≤ (readI (coreNow s) t b).toNat
      ∧ lookSpan z (u.ctxId s.turn) u.apCore u.locks needW ((ckptImage z s.turn u d).length / 16 + 3) (readI (coreNow s) t a)
          (ckptImage z s.turn u d).length = none
      ∧ RecordPut s t d a la z u (ckptImage z s.turn u d) (fun _ => BitVec.ofNat 64 (ckptImage z s.turn u d).length) w) := by
  refine actsBehind_of_form (uses := [ri a, ri b]) h (by simp) rfl ?_
  rintro s₁ r z u w hva acts ⟨fits, span, put⟩
  simp only [readI_region, hva, acts _, Nat.not_lt.mpr fits, span, if_false]
  exact put.writes _

end Records

/-- Settles O36: the forms that read by `gives_bare`, EVPOST by `buffered_takes`, those that write a record by
`actsBehind_of_form`, and an EVWAIT that waits by `issue_gone`. -/
theorem readsAndRecords : Obligations.ReadsAndRecords := by
  unfold Obligations.ReadsAndRecords
  refine ⟨fun d a b la s t x h hx => ⟨fun known => ?_, fun unknown => ?_, wqry_gives h, rlimq_gives h hx, evpost_runs h⟩,
    fun d a b la s t h => ⟨tnonce_actsBehind h, caprd_actsBehind h, evrd_actsBehind h, evwait_actsBehind h,
      fun s₁ t₁ z₀ u₀ z u => evwait_waits h, ckpt_actsBehind h⟩⟩
  · rw [← (if_pos known : dtimeValue s s.turn.peer (readI (coreNow s) t a) = _)]
    exact dtime_gives h
  · rw [← (if_neg unknown : dtimeValue s s.turn.peer (readI (coreNow s) t a) = _)]
    exact dtime_gives h

end Sys2Proof

/-! ## The warrant forms (R161, R164 to R171), and O37 -/

namespace Sys2Proof

open Machine

section Warrants

variable {s : State} {t : Thread} {d a b : Reg} {la : BitVec 4}

/-- The result of a form, pending in the state that it has come to. -/
def GivesIn (s : State) (d : Reg) (la : BitVec 4) (z : State) (v : Word) (w : State) : Prop :=
  w = pendNow z s.turn [ri d] la.toNat false [v]

/-! ### PRESENT and WACCEPT (R164, R166) -/

/-- PRESENT of a record without an image acts as its record's presentation does. -/
theorem present_actsBehind {act : State → Thread → Thread → State → Prop} (h : CanGive s t [ri a, ri b] d)
    (himage : readI (coreNow s) t b = 0)
    (hact : ∀ orig z t₁ u w, act z t₁ u w → presentAct orig s.turn (ri d) la.toNat (readI (coreNow s) t a) 0 z u = .done w) :
    ActsBehind (.present d a b la) s t d (CheckedAt s t a 64 needR) act := by
  refine actsBehind_of_form (uses := [ri a, ri b]) h (by simp) rfl fun s₁ r z u w hva acts hw => ?_
  simp only [readI_region, himage, hva, if_true, Option.or_none, acts _]
  exact hact _ _ _ _ _ hw

/-- The presentation of a record without an image gives the context that it builds, or the status that refuses it. -/
theorem presentAct_answers {orig z z' : State} {p : Place} {u : Thread} {va : Word} {r : List Byte}
    (hr : grabRecord z p u va = .ok r) (d : Dst) (la : Nat) :
    (∀ id, recKind r = some .slip → presentRecord z p.peer none r [] 0 none 0 (z.slack p u) = .built id z' →
      presentAct orig p d la va 0 z u = .done (pendNow z' p [d] la false [withBit63 id]))
    ∧ (∀ st, recKind r ≠ some .warrant → presentRecord z p.peer none r [] 0 none 0 (z.slack p u) = .refused st z' →
      presentAct orig p d la va 0 z u = .done (pendNow (countRefusal z' p.peer st) p [d] la false [statusWord st])) := by
  refine ⟨fun id hk hp => ?_, fun st hk hp => ?_⟩
  · simp only [presentAct, hr, hk, hp, answerForm]
    rfl
  · have hkind : (recKind r == some .warrant) = false := beq_false_of_ne hk
    simp only [presentAct, hr, hkind, hp, answerForm]
    rfl

theorem waccept_actsBehind (h : CanGive s t [ri a, ri b] d) :
    ActsBehind (.waccept d a b la) s t d (CheckedAt s t a 64 needR) (fun z _ u w => ∃ r x id z',
      grabAt z s.turn u (readI (coreNow s) t a) 64 = .ok r ∧ recKind r = some .slip ∧ z.ctx (u.ctxId s.turn) = some x
      ∧ presentRecord z s.turn.peer none r [] 0 (some (x.doorFn, x.token)) (readI (coreNow s) t b) (z.slack s.turn u) = .built id z'
      ∧ GivesIn s d la z' (withBit63 id) w) := by
  refine actsBehind_of_form (uses := [ri a, ri b]) h (by simp) rfl ?_
  rintro s₁ r z u w hva acts ⟨bs, x, id, z', hr, hk, hx, hp, rfl⟩
  simp only [readI_region, hva, acts _, acceptAct, hr, hk, hx, Option.map_some, hp, answerForm, ne_eq, not_true_eq_false,
    if_false]

/-! ### WSPLIT and WDELEG (R167, R168) -/

theorem wsplit_actsBehind (h : CanGive s t [ri a, ri b] d) :
    let y := readI (coreNow s) t b
    ActsBehind (.wsplit d a b la) s t d (CheckedAt s t a 8 needR) (fun z _ u w => ∃ r x bl cv m,
      grabAt z s.turn u (readI (coreNow s) t a) 128 = .ok r ∧ z.ctx (u.ctxId s.turn) = some x
      ∧ splitCheck z (u.ctxId s.turn) x y (some r) = .ok (bl, cv, m)
      ∧ GivesIn s d la (splitOff z (u.ctxId s.turn) x u.uid y bl cv m).2
        (BitVec.ofNat 64 (splitOff z (u.ctxId s.turn) x u.uid y bl cv m).1) w) := by
  refine actsBehind_of_form (uses := [ri a, ri b]) h (by simp) rfl ?_
  rintro s₁ r z u w hva acts ⟨bs, x, bl, cv, m, hr, hx, hs, rfl⟩
  simp only [readI_region, hva, acts _, splitAct, hr, hx, hs]

theorem wdeleg_actsBehind (h : CanGive s t [ri a, ri b] d) :
    ActsBehind (.wdeleg d a b la) s t d (CheckedAt s t a 64 needW) (fun z _ u w => ∃ x ch z',
      z.ctx (u.ctxId s.turn) = some x
      ∧ x.children.find? (fun c => c.serial == (readI (coreNow s) t b).toNat && c.presented.isNone) = some ch
      ∧ putBytes z (u.ctxId s.turn) u.apCore u.locks (readI (coreNow s) t a) (slipBytes z s.turn.peer ch.serial x.serial) = .ok z'
      ∧ GivesIn s d la
        (postSlip z' (u.ctxId s.turn) x ch (((slipBytes z s.turn.peer ch.serial x.serial).drop 32).take 16)) 0 w) := by
  refine actsBehind_of_form (uses := [ri a, ri b]) h (by simp) rfl ?_
  rintro s₁ r z u w hva acts ⟨x, ch, z', hx, hch, hput, rfl⟩
  have hput' : putBytes z (u.ctxId s.turn) u.apCore u.locks (readI (coreNow s) t a)
      (slipBytes z (u.ctxId s.turn).peer ch.serial x.serial) = .ok z' := hput
  simp only [readI_region, hva, acts _, delegAct, hx, hch, hput']
  rfl

/-! ### WSURR and WAMEND (R169 to R171) -/

theorem wsurr_actsBehind (h : CanGive s t [ri a, ri b] d) (hva : readI (coreNow s) t a ≠ 0) :
    ActsBehind (.wsurr d a b la) s t d (CheckedAt s t a 8 needR) (fun z _ u w => ∃ r x bl,
      grabAt z s.turn u (readI (coreNow s) t a) 128 = .ok r ∧ z.ctx (u.ctxId s.turn) = some x ∧ surrenderCheck x r = .ok bl
      ∧ GivesIn s d la (shrink z (u.ctxId s.turn) bl) (statusWord 0) w) := by
  refine actsBehind_of_form (uses := [ri a, ri b]) h (by simp) rfl ?_
  rintro s₁ r z u w hcheck acts ⟨bs, x, bl, hr, hx, hs, rfl⟩
  simp only [readI_region, hva, if_false, hcheck, acts _, partAct, hr, hx, hs]

theorem wsurr_ends {s₁ z₀ z : State} {t₁ u₀ u : Thread} (h : CanGive s t [ri a, ri b] d) (hs : s₁ = pinFor s t (ri d))
    (ht : s₁.thread s.turn = some t₁) (hva : readI (coreNow s) t a = 0)
    (hc₀ : tryCommit s s.turn t false 0 (t.pc + 4) = some z₀) (hu₀ : z₀.thread s.turn = some u₀)
    (hc : tryCommit s₁ s.turn t₁ false 0 (t.pc + 4) = some z) (hu : z.thread s.turn = some u) :
    exec (.wsurr d a b la) s = .next { stopNow (retireThread z s.turn) (u.ctxId s.turn) 0 (readI (coreNow s) t b) with
      stalled := false } := by
  obtain ⟨r, rfl⟩ := MadeIn.region ⟨.inr hs, ht⟩ h.1.here
  have acts₀ := commitsTo_of_tryCommit hc₀ hu₀
  have acts := commitsTo_of_tryCommit hc hu
  refine issue_gone (uses := [ri a, ri b]) h hs ht ⟨stopNow (retireThread z₀ s.turn) (u₀.ctxId s.turn) 0
    (readI (coreNow s) t b), ?_⟩ ?_
  · simp only [hva, if_true, acts₀ _, surrenderAct]
  · simp only [readI_region, hva, if_true, acts _, surrenderAct]

theorem wamend_actsBehind (h : CanGive s t [ri a, ri b] d) (himage : readI (coreNow s) t b = 0) :
    ActsBehind (.wamend d a b la) s t d (CheckedAt s t a 64 needR) (fun z _ u w => ∃ r x z',
      grabAt z s.turn u (readI (coreNow s) t a) 640 = .ok r ∧ z.ctx (u.ctxId s.turn) = some x
      ∧ amend z (u.ctxId s.turn) x r none = .ok z' ∧ GivesIn s d la z' (statusWord 0) w) := by
  refine actsBehind_of_form (uses := [ri a, ri b]) h (by simp) rfl ?_
  rintro s₁ r z u w hva acts ⟨bs, x, z', hr, hx, ha, rfl⟩
  simp only [readI_region, himage, hva, if_true, Option.or_none, acts _, amendAct, hr, hx, ha]

end Warrants

/-- Settles O37: every form by `actsBehind_of_form`, and the surrender of the whole context by `issue_gone`. -/
theorem warrantForms : Obligations.WarrantForms := by
  unfold Obligations.WarrantForms
  intro d a b la s t h
  refine ⟨fun himage => present_actsBehind h himage ?_, fun himage => present_actsBehind h himage ?_, waccept_actsBehind h,
    wsplit_actsBehind h, wdeleg_actsBehind h, wsurr_actsBehind h,
    fun s₁ t₁ z₀ u₀ z u hs ht hva hc₀ hu₀ hc hu => wsurr_ends h hs ht hva hc₀ hu₀ hc hu, wamend_actsBehind h⟩
  · rintro orig z t₁ u w ⟨r, id, z', hr, hk, hp, rfl⟩
    exact (presentAct_answers hr _ _).1 id hk hp
  · rintro orig z t₁ u w ⟨r, st, z', hr, hk, hp, rfl⟩
    exact (presentAct_answers hr _ _).2 st hk hp

end Sys2Proof

/-! ## Queued commands (R220, R225, R268, R274, R277, R278) -/

namespace Sys2Proof.Machine

variable {s : State} {q : Cmd}

/-! ### A command starts and is read (R225, R268) -/

theorem commandStart_copy {a b : Word} {len : Nat} (hq : s.findCmd q.cid = some q) (copy : q.work = .cpy a b len) (engine : q.queue < 4)
    (starts : mayStart s q = true) :
    Does (.commandStart q.cid) s (s.setCmd { q with started := true, startedAt := s.now, since := s.now }) := by
  show Host.Outcome.next _ = .next _
  simp only [hq, starts, if_true, cmdStart, Nat.ne_of_lt engine, show q.queue ≠ 5 by omega, if_false, engineStart, copy, Work.layout]

/-- A copy moves its next bytes: up to a 32-byte boundary of either end, as its budget and the step's operand let it. -/
theorem copyStep_moves {dst src : Word} {row n : Nat} {bs : List Byte} :
    let m := min (min row q.budget) (min (32 - src.toNat % 32) (32 - dst.toNat % 32))
    let k := if n = 0 then m else min m n
    cmdGet s q src k 1 = .ok bs → copyStep s q dst src row n = s.setCmd { (q.took src k).spend k s.now with
      prog := q.prog + k, writes := q.writes ++ [⟨dst, bs, none⟩] } := by
  intro m k got
  show engineTake s q (cmdGet s q src k 1) _ = _
  rw [got]
  rfl

theorem commandRead_copy {a b : Word} {len n : Nat} {bs : List Byte} (hq : s.findCmd q.cid = some q) (copy : q.work = .cpy a b len)
    (engine : q.queue < 4) (started : q.started = true) (runs : q.ended = none) (left : q.prog < len) (budget : q.budget ≠ 0) :
    let src := b + BitVec.ofNat 64 q.prog
    let dst := a + BitVec.ofNat 64 q.prog
    let m := min (min (len - q.prog) q.budget) (min (32 - src.toNat % 32) (32 - dst.toNat % 32))
    let k := if n = 0 then m else min m n
    cmdGet s q src k 1 = .ok bs →
    Does (.commandRead q.cid n) s (s.setCmd { (q.took src k).spend k s.now with
      prog := q.prog + k, writes := q.writes ++ [⟨dst, bs, none⟩] }) := by
  intro src dst m k got
  have more : engineLeft q = true := by simp [engineLeft, Cmd.listed, engineTotal, copy, left]
  show Host.Outcome.next _ = .next _
  simp only [hq, started, runs, Option.isNone_none, Bool.and_self, if_true, cmdRead, Nat.ne_of_lt engine, show q.queue ≠ 5 by omega,
    if_false, budget, more, ne_eq, not_false_eq_true, decide_true, engineRead, copy]
  exact congrArg Host.Outcome.next (copyStep_moves got)

/-! ### Writes (R220, R225) -/

theorem extWriteBy_mem (owner : Bool) (s : State) (skip : Option Nat) (sa : Nat) (data : List Byte) :
    (extWriteBy owner s skip sa data).mem = memWrites s.mem sa data := by
  unfold extWriteBy
  split
  next empty => rw [List.isEmpty_iff.mp empty]; rfl
  next =>
    refine (abortReaders_mem _ _ _).trans ?_
    cases owner
    · rfl
    · exact unpoison_mem _ _ _

section Writes

variable {w : CmdWrite} {n : Nat} {l : Loc}

theorem externalWrite_command (hq : s.findCmd q.cid = some q) (started : q.started = true) (may : mayWrite s q n = true)
    (opened : writesOpen q = true) : Does (.externalWrite (.command q.cid n)) s (cmdWrite s q n) := by
  show Host.Outcome.next _ = .next _
  simp only [hq, started, opened, may, Bool.and_self, if_true]

/-- A write leaves the command's list when it is performed or sent; its bytes are counted when it is performed. -/
theorem cmdWrite_erases (hw : q.writes[n]? = some w) :
    (∀ s', cmdPut s q w = .ok s' → cmdWrite s q n
      = s'.setCmd { q with writes := q.writes.eraseIdx n, count := q.count + w.data.length })
    ∧ (∀ s', cmdPut s q w = .sent s' → cmdWrite s q n = s'.setCmd { q with writes := q.writes.eraseIdx n }) := by
  constructor <;> intro s' put <;> simp only [cmdWrite, hw, put]

/-- A write to the own district is performed, or waits in CQ while a fixed region holds it (R220, R230); another is sent. -/
theorem cmdPut_puts (hl : writePlace s q w = .ok l) :
    (∀ sa, q.own l = some sa → blocked s none (linesOf sa w.data.length) = false → cmdPut s q w = .ok (extWrite s none sa w.data))
    ∧ (∀ sa, q.own l = some sa → blocked s none (linesOf sa w.data.length) = true → cmdPut s q w = .sent
        (keepPacket (cmdPacket s q w.va l.ca (.cwrite q.cid w.data)).1 (cmdPacket s q w.va l.ca (.cwrite q.cid w.data)).2))
    ∧ (q.own l = none → cmdPut s q w = .sent (cmdSend s q w.va l.ca (.cwrite q.cid w.data))) := by
  refine ⟨fun sa own free => ?_, fun sa own held => ?_, fun away => ?_⟩
  · simp only [cmdPut, hl, own, free, Bool.false_eq_true, if_false]
  · simp only [cmdPut, hl, own, held, if_true]
  · simp only [cmdPut, hl, away]

end Writes

/-- The abort of the one thread there is (R215). -/
theorem abortReaders_only {p : Place} {t : Thread} {lines : List Nat} (only : s.threads = [(p, t)]) (free : t.region.fixed = false)
    (reads : ∃ n ∈ lines, n ∈ t.region.reads) : (abortReaders s none lines).thread p = some (t.restart true) := by
  have here : s.thread p = some t := by simp [State.thread, only, mget]
  have read : ∃ n ∈ t.region.reads, n ∈ lines := reads.imp fun n hn => hn.symm
  have readers : s.threads.filter (fun e => some e.2.uid != none && !e.2.region.fixed
      && e.2.region.reads.any (fun l => lines.contains l)) = [(p, t)] := by
    simpa [only, free] using read
  rw [abortReaders, readers]
  show (abortPlace s p true).thread p = _
  rw [abortPlace, here]
  exact State.thread_setThread _ _ _

theorem hostWrite_performs {pa : Nat} {bs : List Byte} (memory : saKind pa < 4) (inside : pa + bs.length < 2 ^ 64)
    (free : blocked s none (linesOf pa bs.length) = false) (slice : sliceFree s pa = true) :
    hostWrite s pa bs = extWriteBy false s none pa bs := by
  have legal : ¬(pa < 2 ^ 64 ∧ (4 ≤ saKind pa ∨ 2 ^ 64 < pa + bs.length)) := by omega
  simp only [hostWrite, legal, if_false, free, slice, Bool.not_true, Bool.and_false, Bool.or_self, Bool.false_eq_true]

theorem extWriteBy_restarts {p : Place} {t : Thread} {pa : Nat} {bs : List Byte} (only : s.threads = [(p, t)])
    (free : t.region.fixed = false) (reads : ∃ n ∈ linesOf pa bs.length, n ∈ t.region.reads) (written : bs ≠ []) :
    (extWriteBy false s none pa bs).thread p = some (t.restart true) := by
  rw [extWriteBy, if_neg (by simpa using written)]
  exact abortReaders_only (s := s.writes pa bs) only free reads

/-! ### Layout records, and events that enter the store (R177, R227) -/

theorem lpCopy_does {c : CtxId} {x : Ctx} {pa : Nat} (hx : s.ctx c = some x) (aligned : pa % 32 = 0)
    (sound : poisonHit s pa 256 = false) :
    Does (.lpCopy c pa) s (s.setCtx c { x with lp := mset x.lp pa (readSa s pa 256) }) := by
  have sound' : poisonHit s pa lpLength = false := sound
  show Host.Outcome.next _ = .next _
  simp only [aligned, sound', decide_true, Bool.not_false, Bool.and_self, if_true, State.updCtx_some hx]
  rfl

theorem Ctx.admitHeld_one {x : Ctx} {h : Stored} (held : x.held = [h]) (room : x.generals < 256) :
    x.admitHeld = { x with held := [], store := x.store ++ [{ h with reserved := false }] } := by
  have entry : ({ x with held := [] } : Ctx).entryFor h = some false := if_pos room
  simp only [Ctx.admitHeld, held, List.foldl_cons, List.foldl_nil, entry]

theorem entered_nil {c : CtxId} (settled : ∀ k ∈ s.cores, ∀ d ∈ k.2.cmds, d.refused = false) : entered s c = [] := by
  refine List.filter_eq_nil_iff.mpr fun d hd => ?_
  obtain ⟨k, hk, hd⟩ := List.mem_flatMap.mp hd
  simp [settled k hk d hd]

theorem eventStoreEntry_does {c : CtxId} {x : Ctx} {h : Stored} (hx : s.ctx c = some x) (held : x.held = [h])
    (room : x.generals < 256) (general : h.uid = none) (generals : ∀ e ∈ x.store, e.uid = none)
    (settled : ∀ k ∈ s.cores, ∀ d ∈ k.2.cmds, d.refused = false) :
    Does (.eventStoreEntry c) s (s.setCtx c { x with held := [], store := x.store ++ [{ h with reserved := false }] }) := by
  have unaddressed : (x.store ++ [{ h with reserved := false }]).filterMap (fun e : Stored => e.uid) = [] := by
    refine List.filterMap_eq_nil_iff.mpr fun e he => ?_
    rcases List.mem_append.mp he with he | he
    · exact generals e he
    · rw [List.mem_singleton.mp he, general]
  show Host.Outcome.next (enterHeld s c) = .next _
  have admitted := Ctx.admitHeld_one held room
  simp only [enterHeld, hx, admitted, unaddressed, List.eraseDups_nil, List.foldl_nil]
  rw [entered_nil (s := s.setCtx c _) settled]
  rfl

/-! ### A command's record goes to its thread (R268, R278) -/

/-- What waits for room when held items have entered the store waited before. -/
theorem Ctx.admitHeld_held (x : Ctx) : x.admitHeld.held ⊆ x.held := by
  unfold Ctx.admitHeld
  refine List.foldlRecOn (motive := fun y : Ctx => y.held ⊆ x.held) x.held _ (List.nil_subset _) fun y hy e he => ?_
  split
  · exact hy
  · exact List.append_subset.mpr ⟨hy, List.cons_subset.mpr ⟨he, List.nil_subset _⟩⟩

theorem storeItem_late_held {c : CtxId} {x : Ctx} (hx : s.ctx c = some x) (uid : Option Nat) (item : Event ⊕ Rec) :
    ∃ y, (storeItem s c uid item .late).ctx c = some y ∧ y.held ⊆ x.held := by
  unfold storeItem
  rw [hx]
  dsimp only
  split
  · exact ⟨_, State.ctx_setCtx _ _ _, x.admitHeld_held⟩
  · split <;> exact ⟨_, State.ctx_setCtx _ _ _, x.admitHeld_held⟩

theorem recordHeld_mono {s' : State} {x y : Ctx} (hx : s.ctx q.ctx = some x) (hy : s'.ctx q.ctx = some y) (hh : y.held ⊆ x.held)
    (unheld : recordHeld s q = false) : recordHeld s' q = false := by
  simp only [recordHeld, hx, hy] at unheld ⊢
  exact List.any_eq_false.mpr fun e he => List.any_eq_false.mp unheld e (hh he)

/-- The note of a slot's records makes no record wait for room. -/
theorem noteRecords_recordHeld (unheld : recordHeld s q = false) (p : Place) : recordHeld (noteRecords s q.ctx p) q = false := by
  unfold noteRecords
  split
  next t x _ hx =>
    dsimp only
    split
    · exact unheld
    · split
      · exact unheld
      · obtain ⟨y, hy, hh⟩ := storeItem_late_held hx (some t.uid)
          (.inl { code := evCompletion, ctx := t.ctx, exit := 0, seq := s.nextId })
        exact recordHeld_mono hx hy hh unheld
  · exact unheld

/-- A record is delivered to a thread of the context that has room for it, while none waits in the store. -/
theorem deliver_takes {c : CtxId} {x : Ctx} {uid : Nat} {p : Place} {t t' : Thread} {item : Event ⊕ Rec} (hx : s.ctx c = some x)
    (empty : x.store = []) (hf : s.findThread uid = some (p, t)) (ht : s.thread p = some t) (hc : t.ctxId p = c)
    (takes : t.take (stamp s.nextId item) = some t') (k : StoreClass) :
    deliver s c uid item k = noteRecords (s.fresh.2.setThread p t') c p := by
  have goes : destination s.fresh.2 c uid k = some (c, some p) := by
    have hf' : s.fresh.2.findThread uid = some (p, t) := hf
    simp only [destination, hf', hc, if_true]
  have hx' : s.fresh.2.ctx c = some x := hx
  have ht' : s.fresh.2.thread p = some t := ht
  have takes' : t.take (stamp s.fresh.1 item) = some t' := takes
  simp only [deliver, goes, hx', empty, Option.any_some, List.any_nil, Bool.false_eq_true, if_false, ht', Option.bind_some, takes']

theorem commandComplete_posts {p : Place} {t t' : Thread} {x : Ctx} (hq : s.findCmd q.cid = some q) (engine : q.queue < 4)
    (plain : q.ct = 0) (fresh : q.refused = false) (done : cmdDone s q = true) (sound : q.ended.getD 0 = 0)
    (unheld : recordHeld s q = false) (hx : s.ctx q.ctx = some x) (empty : x.store = [])
    (hf : s.findThread q.uid = some (p, t)) (ht : s.thread p = some t) (hc : t.ctxId p = q.ctx)
    (takes : t.take (.inr ⟨q.tag, 0, q.moved, s.nextId⟩) = some t') :
    Does (.commandComplete q.cid) s (removeCmd (noteRecords (s.fresh.2.setThread p t') q.ctx p) q) := by
  have posted := deliver_takes (item := .inr ⟨q.tag, 0, q.moved, 0⟩) hx empty hf ht hc takes (.record (some q.cid))
  have after : recordHeld (noteRecords (s.fresh.2.setThread p t') q.ctx p) q = false :=
    noteRecords_recordHeld (s := s.fresh.2.setThread p t') unheld p
  show Host.Outcome.next _ = .next _
  simp only [hq, fresh, done, cmdComplete, engine, finishEngine, plain, sound, ne_eq, not_true_eq_false, false_and, if_true, if_false,
    Bool.false_eq_true, posted, afterPost, after]

theorem commandComplete_unit (hq : s.findCmd q.cid = some q) (unit : 4 ≤ q.queue) (fresh : q.refused = false)
    (done : cmdDone s q = true) (sound : q.ended.getD 0 = 0) : Does (.commandComplete q.cid) s (removeCmd s q) := by
  show Host.Outcome.next _ = .next _
  simp only [hq, fresh, done, cmdComplete, Nat.not_lt.mpr unit, sound, if_true, if_false, Bool.false_eq_true]

/-! ### An engine takes a command (R277) -/

/-- A choice by two numbers in order falls on a least element. -/
theorem foldl_least {α : Type} (f g : α → Nat) (l : List α) (b : α) :
    let r := l.foldl (fun b q => if f q < f b ∨ f q = f b ∧ g q < g b then q else b) b
    r ∈ b :: l ∧ ∀ e ∈ b :: l, f r < f e ∨ f r = f e ∧ g r ≤ g e := by
  induction l generalizing b with
  | nil => simp
  | cons a l ih =>
    simp only [List.foldl_cons, List.mem_cons, forall_eq_or_imp] at ih ⊢
    by_cases less : f a < f b ∨ f a = f b ∧ g a < g b
    · rw [if_pos less]
      obtain ⟨mem, first, rest⟩ := ih a
      exact ⟨.inr mem, by omega, first, rest⟩
    · rw [if_neg less]
      obtain ⟨mem, first, rest⟩ := ih b
      exact ⟨mem.imp_right .inr, first, by omega, rest⟩

theorem engineSelect_takes {peer dist qtr kind : Nat} :
    let all := (quarterCmds s peer dist qtr).filter (fun d => d.work.engine == some kind)
    (all.filter Cmd.served).length < engineCount kind → all.filter Cmd.offers ≠ [] →
    ∃ d ∈ all.filter Cmd.offers, (∀ e ∈ all.filter Cmd.offers, d.slack - d.fallen s.now < e.slack - e.fallen s.now
          ∨ (d.slack - d.fallen s.now = e.slack - e.fallen s.now ∧ d.startedAt ≤ e.startedAt))
      ∧ Does (.engineSelect peer dist qtr kind) s (s.setCmd { d with budget := 65536, lost := d.fallen s.now }) := by
  intro all free waits
  obtain ⟨q0, rest, offers⟩ := List.exists_cons_of_ne_nil waits
  obtain ⟨mem, least⟩ := foldl_least (fun d : Cmd => d.slack - d.fallen s.now) (fun d => d.startedAt) rest q0
  rw [← offers] at mem least
  refine ⟨_, mem, least, ?_⟩
  refine congrArg Host.Outcome.next ((if_neg (Nat.not_le_of_lt free)).trans ?_)
  rw [offers]
  rfl

/-! ### A waiting command enters its queue (R274) -/

/-- A waiting command may enter: there is room for it, and none before it waits for one of its queues (`Core.enter`). -/
def Core.mayEnter (k : Core) (c : Cmd) : Bool :=
  !c.entered && (match c.work with
    | .mrel .. => true
    | .fence _ => true
    | _ => decide (k.inQueue c.queue < queueCap c.queue))
  && !(k.cmds.takeWhile (fun d => d.cid != c.cid)).any (fun d => !d.entered && d.enters.any (fun j => c.enters.contains j))

/-- Of a core's waiting commands the first that may enter stands in its queue; where none may, nothing changes. -/
theorem Core.enter_succ (k : Core) (now n : Nat) :
    (k.cmds.find? k.mayEnter = none → k.enter now (n + 1) = k)
    ∧ (∀ q, k.cmds.find? k.mayEnter = some q → q.work.isRelease = false → (∀ m, q.work ≠ .fence m) →
      k.enter now (n + 1) = (k.stand q now).enter now n) := by
  rw [Core.enter]
  split
  · next no => exact ⟨fun _ => rfl, fun q found => absurd (no.symm.trans found) (by simp)⟩
  · next d found =>
    refine ⟨fun no => absurd (found.symm.trans no) (by simp), fun q found' command unfenced => ?_⟩
    obtain rfl : q = d := Option.some.inj (found'.symm.trans found)
    split
    · next release => simp [Work.isRelease, release] at command
    · next m fence => exact absurd fence (unfenced m)
    · rfl

theorem Core.enter_none {k : Core} (no : k.cmds.find? k.mayEnter = none) (now : Nat) : ∀ n, k.enter now n = k
  | 0 => rfl
  | n + 1 => (k.enter_succ now n).1 no

theorem Core.mayEnter_of_room {k : Core} {pre : List Cmd} (cmds : k.cmds = pre ++ [q])
    (before : ∀ d ∈ pre, d.entered = true ∧ d.cid ≠ q.cid) (waits : q.entered = false)
    (room : k.inQueue q.queue < queueCap q.queue) : k.mayEnter q = true := by
  have first : k.cmds.takeWhile (fun d => d.cid != q.cid) = pre := by
    rw [cmds, List.takeWhile_append_of_pos fun d hd => bne_iff_ne.mpr (before d hd).2]
    simp
  have passes : pre.any (fun d => !d.entered && d.enters.any (fun j => q.enters.contains j)) = false :=
    List.any_eq_false.mpr fun d hd => by simp [(before d hd).1]
  unfold Core.mayEnter
  rw [first, passes, waits]
  split <;> simp [room]

/-- Of a list the last element alone is changed, as the one that a test holds of. -/
theorem map_if_last {α : Type} {p : α → Prop} [DecidablePred p] (f : α → α) {pre : List α} {a : α} (before : ∀ d ∈ pre, ¬p d)
    (last : p a) : (pre ++ [a]).map (fun d => if p d then f d else d) = pre ++ [f a] := by
  have same : pre.map (fun d => if p d then f d else d) = pre.map id := List.map_congr_left fun d hd => if_neg (before d hd)
  rw [List.map_append, same, List.map_id, List.map_singleton, if_pos last]

theorem Core.stand_last {k : Core} {pre : List Cmd} (cmds : k.cmds = pre ++ [q]) (before : ∀ d ∈ pre, d.cid ≠ q.cid) (now : Nat) :
    (k.stand q now).cmds = pre ++ [{ q with entered := true, since := now, waits := q.waits ++ k.waitsFor q.queue }] := by
  rw [Core.stand, cmds]
  exact map_if_last (p := fun d : Cmd => d.cid = q.cid) _ before rfl

/-- The last command of a core's list enters its queue, where all before it have entered theirs. -/
theorem Core.enter_last {k : Core} {pre : List Cmd} (cmds : k.cmds = pre ++ [q])
    (before : ∀ d ∈ pre, d.entered = true ∧ d.cid ≠ q.cid) (waits : q.entered = false) (command : q.work.isRelease = false)
    (unfenced : ∀ m, q.work ≠ .fence m) (room : k.inQueue q.queue < queueCap q.queue) (now n : Nat) :
    (k.enter now (n + 1)).cmds
      = pre ++ [{ q with entered := true, since := now, waits := q.waits ++ k.waitsFor q.queue }] := by
  have passed (k' : Core) (d : Cmd) (hd : d.entered = true) : ¬k'.mayEnter d = true := by
    show ¬(!d.entered && _ && _) = true
    rw [hd]
    exact Bool.false_ne_true
  have found : k.cmds.find? k.mayEnter = some q := by
    rw [cmds, List.find?_append, List.find?_eq_none.mpr fun d hd => passed k d (before d hd).1]
    have may := Core.mayEnter_of_room cmds before waits room
    simp [may]
  have stood := Core.stand_last cmds (fun d hd => (before d hd).2) now
  rw [(k.enter_succ now n).2 q found command unfenced, Core.enter_none ?_]
  · exact stood
  · refine List.find?_eq_none.mpr fun d hd => passed _ d ?_
    rw [stood] at hd
    rcases List.mem_append.mp hd with hd | hd
    · exact (before d hd).1
    · rw [List.mem_singleton.mp hd]

end Sys2Proof.Machine

namespace Sys2Proof

open Machine

/-- Settles O41: a copy from its start to its completion, the choice of an engine by `foldl_least`, the entry of a waiting command
by `Core.enter_last`; host writes, layout records and held events by `extWriteBy_restarts`, `lpCopy_does`, `eventStoreEntry_does`. -/
theorem commandSteps : Obligations.CommandSteps := by
  unfold Obligations.CommandSteps
  refine ⟨fun s q hq => ⟨fun a b len => commandStart_copy hq, fun a b len n bs => commandRead_copy hq,
      fun n w l started hw may opened hl => ?_, fun p t t' x => commandComplete_posts hq, commandComplete_unit hq,
      fun peer dist qtr kind => engineSelect_takes, fun c pre cmds before waits command unfenced room => ?_⟩,
    fun s c x pa hx => ⟨fun bs memory inside free slice => ?_, lpCopy_does hx, fun h => eventStoreEntry_does hx⟩⟩
  · have does := externalWrite_command hq started may opened
    obtain ⟨performed, sent⟩ := cmdWrite_erases hw
    obtain ⟨puts, holds, sends⟩ := cmdPut_puts hl
    refine ⟨fun sa own free => ?_, fun sa own held => ?_, fun away => ?_⟩
    · rw [performed _ (puts sa own free)] at does
      exact ⟨_, does, extWriteBy_mem _ _ _ _ _, rfl⟩
    · rwa [sent _ (holds sa own held)] at does
    · rwa [sent _ (sends away)] at does
  · refine ⟨_, rfl, ?_⟩
    rw [State.updCore, State.core_setCore]
    exact Core.enter_last cmds before waits command unfenced room s.now 15
  · exact ⟨_, congrArg Host.Outcome.next (hostWrite_performs memory inside free slice), rfl, extWriteBy_mem _ _ _ _ _,
      fun p t only unfixed reads written => extWriteBy_restarts only unfixed reads written⟩

end Sys2Proof
